-- ==== Sys2Proof/Word.lean ====
section
/-!
DEFINITION. The word types of the T9 and their plainest arithmetic (R3, R4).
-/

namespace Sys2Proof

/-- A byte (R4). -/
abbrev Byte := BitVec 8
/-- A halfword (R4). -/
abbrev Half := BitVec 16
/-- A 32-bit word (R4). -/
abbrev W32 := BitVec 32
/-- A doubleword: the width of a scalar register, an address and a CSR (R4, R61). -/
abbrev Word := BitVec 64
/-- A vector register, a message of a channel (R4, R76). -/
abbrev V512 := BitVec 512
/-- A mask register (R197). -/
abbrev Mask := BitVec 128
/-- A 4-bit register field (R96). -/
abbrev XReg := BitVec 4
/-- An operand specifier byte (R102). -/
abbrev Spec := BitVec 8

/-- Sparse data by key: at most one entry for a key is read, an absent key reads as the default its reader names. -/
abbrev Tbl (α : Type) := List (Nat × α)

end Sys2Proof
end

