-- ==== Sys2Proof/Syntax.lean ====
section
/-!
DEFINITION. The instructions, packets and unit events of the T9: one constructor per row of the opcode table.
Native rows carry the fields of their encoding (R95 to R101), agent rows those of R319, packets the header and body of
R371 and R373, events the unit they act on and whatever the outside world decides.
-/

namespace Sys2Proof

/-- The fields of a V64 word (R97), the major and funct6 apart. -/
structure V64 where
  d : Spec
  a : Spec
  b : Spec
  c : Spec
  fmtA : BitVec 3
  fmtB : BitVec 3
  sgnB : Bool
  sgnA : Bool
  sat : Bool
  rnd : BitVec 2
  mask : BitVec 3
  etype : BitVec 4
  deriving DecidableEq, Repr

/-- The fields of a VI word (R98): imm16 stands in place of operands b and c. -/
structure VI where
  d : Spec
  a : Spec
  imm : BitVec 16
  fmtA : BitVec 3
  fmtB : BitVec 3
  sgnB : Bool
  sgnA : Bool
  sat : Bool
  rnd : BitVec 2
  mask : BitVec 3
  etype : BitVec 4
  deriving DecidableEq, Repr

/-- The fields of an M64 word (R99). -/
structure M64 where
  ow : Bool
  ksteps : BitVec 7
  fmtB : BitVec 3
  fmtA : BitVec 3
  etypeB : BitVec 4
  etypeA : BitVec 4
  sgnB : Bool
  sgnA : Bool
  semiring : BitVec 3
  tileB : BitVec 3
  tileA : BitVec 3
  acc : BitVec 2
  deriving DecidableEq, Repr

/-- What a packet's header gives its execution (R371). -/
structure Hdr where
  len : Nat
  report : Bool
  cont : Bool
  tag : Word
  deriving DecidableEq, Repr

/-- An engine whose access is suspended (R393): a copy channel of a core, or the reconstruction unit of a stage. -/
inductive EngineRef where
  | copy (core : Nat) (ch : BitVec 2)
  | recon (launch : Nat) (stage : Nat)
  deriving DecidableEq, Repr

/-- A unit of a checkpoint round (R418). -/
inductive UnitRef where
  | core (core : Nat)
  | queue (qsb : Nat)
  | machine
  deriving DecidableEq, Repr

/-- An input of a unit of a checkpoint round (R418): the front-end link, or a channel from another core. -/
inductive InputRef where
  | frontEnd
  | channel (launch : Nat) (chan : Nat) (sender : Nat)
  deriving DecidableEq, Repr

/-- A host or remote access to device memory (R142). -/
inductive ExtAccess where
  | read (pa : Nat) (n : Nat)
  | write (pa : Nat) (data : List Byte)
  | add (pa : Nat) (value : Word)
  | cas (pa : Nat) (expected : Word) (value : Word)
  deriving DecidableEq, Repr

/-- One constructor per row of the opcode table. -/
inductive Instr where
  -- m0 (R119, R120, R121)
  | add (d a b : XReg)
  | sub (d a b : XReg)
  | mul (d a b : XReg)
  | mulh (d a b : XReg)
  | mulhn (d a b : XReg)
  | div (d a b : XReg)
  | divn (d a b : XReg)
  | rem (d a b : XReg)
  | remn (d a b : XReg)
  | and (d a b : XReg)
  | or (d a b : XReg)
  | xor (d a b : XReg)
  | andn (d a b : XReg)
  | shl (d a b : XReg)
  | shr (d a b : XReg)
  | sar (d a b : XReg)
  | min (d a b : XReg)
  | max (d a b : XReg)
  | minn (d a b : XReg)
  | maxn (d a b : XReg)
  | slt (d a b : XReg)
  | sltn (d a b : XReg)
  | clz (d a : XReg)
  | ctz (d a : XReg)
  | popc (d a : XReg)
  | sext (d a : XReg) (w : BitVec 3)
  | zext (d a : XReg) (w : BitVec 3)
  -- m1 to m9 (R122)
  | addi (d a : XReg) (imm : BitVec 17)
  | andi (d a : XReg) (imm : BitVec 17)
  | ori (d a : XReg) (imm : BitVec 17)
  | xori (d a : XReg) (imm : BitVec 17)
  | shli (d a : XReg) (sh : BitVec 6)
  | shri (d a : XReg) (sh : BitVec 6)
  | sari (d a : XReg) (sh : BitVec 6)
  | slti (d a : XReg) (imm : BitVec 17)
  | lih (d a : XReg) (imm : BitVec 17)
  -- p16, p17 (R123)
  | lil (d : XReg) (lit : W32)
  | addl (d a : XReg) (lit : W32)
  -- m10 (R124 to R130); dbl is bit 29
  | fadd (d a b : XReg) (dbl : Bool)
  | fsub (d a b : XReg) (dbl : Bool)
  | fmul (d a b : XReg) (dbl : Bool)
  | fdiv (d a b : XReg) (dbl : Bool)
  | fsqrt (d a : XReg) (dbl : Bool)
  | fma (d a b c : XReg) (dbl : Bool)
  | fmin (d a b : XReg) (dbl : Bool)
  | fmax (d a b : XReg) (dbl : Bool)
  | feq (d a b : XReg) (dbl : Bool)
  | flt (d a b : XReg) (dbl : Bool)
  | fle (d a b : XReg) (dbl : Bool)
  | funord (d a b : XReg) (dbl : Bool)
  | fcvt (d a : XReg) (rsel xc : BitVec 4) (sel : BitVec 2) (dbl : Bool)
  | fclass (d a : XReg) (dbl : Bool)
  -- m11 to m14 (R131)
  | ld (t a : XReg) (off : BitVec 11) (sx : Bool) (size : BitVec 2)
  | st (t a : XReg) (off : BitVec 11) (size : BitVec 2)
  | lda (t a : XReg) (off : BitVec 11) (scope : BitVec 3) (sx : Bool) (size : BitVec 2)
  | stl (t a : XReg) (off : BitVec 11) (scope : BitVec 3) (size : BitVec 2)
  -- m15, m16, m17 (R138, R140, R144)
  | amoadd (d a b : XReg) (scope : BitVec 3) (size : BitVec 4)
  | amoswap (d a b : XReg) (scope : BitVec 3) (size : BitVec 4)
  | amoand (d a b : XReg) (scope : BitVec 3) (size : BitVec 4)
  | amoor (d a b : XReg) (scope : BitVec 3) (size : BitVec 4)
  | amoxor (d a b : XReg) (scope : BitVec 3) (size : BitVec 4)
  | amomin (d a b : XReg) (scope : BitVec 3) (size : BitVec 4)
  | amomax (d a b : XReg) (scope : BitVec 3) (size : BitVec 4)
  | amominn (d a b : XReg) (scope : BitVec 3) (size : BitVec 4)
  | amomaxn (d a b : XReg) (scope : BitVec 3) (size : BitVec 4)
  | cas (d a b : XReg) (scope : BitVec 3) (size : BitVec 2)
  | fence (kind : BitVec 2) (scope : BitVec 3)
  -- m18 to m22 (R151, R152)
  | br (a b : XReg) (cond : BitVec 3) (off : BitVec 14)
  | j (off : BitVec 21)
  | jal (d : XReg) (off : BitVec 21)
  | jr (a : XReg) (imm : BitVec 17)
  | jalr (d a : XReg) (imm : BitVec 17)
  -- m23 to m31 (R153 to R165)
  | spawn (d a : XReg)
  | spawnr (d a : XReg)
  | depset (d a b : XReg) (c : BitVec 8)
  | deprd (d : XReg) (c : BitVec 8)
  | depdec (a : XReg) (scope : BitVec 3) (n : BitVec 10)
  | rcall (d a b : XReg)
  | rreply (a b : XReg)
  | migrate (a : XReg) (imm : BitVec 17)
  -- m32 to m35 (R167, R171)
  | arrive (d : XReg) (scope : BitVec 3) (id : BitVec 10)
  | waitb (a : XReg) (scope : BitVec 3) (id : BitVec 10)
  | barcfg (b : XReg) (scope : BitVec 3) (id : BitVec 10)
  | waitw (d a b : XReg) (scope : BitVec 3) (cond : BitVec 3) (dbl : Bool)
  -- m36 to m42 (R172, R174)
  | csrr (d : XReg) (csr : BitVec 12)
  | csrw (d a : XReg) (csr : BitVec 12)
  | csrs (d a : XReg) (csr : BitVec 12)
  | csrc (d a : XReg) (csr : BitVec 12)
  | trap (n : BitVec 16)
  | brk (n : BitVec 16)
  -- m43 to m49 and n8 (R240 to R250)
  | tld (t : BitVec 3) (a : XReg) (off : BitVec 11)
  | tst (t : BitVec 3) (a : XReg) (off : BitVec 11)
  | tzero (t : BitVec 3)
  | azero (n : BitVec 2) (sr : BitVec 3) (int : Bool)
  | mma (f : M64)
  | mdrain (acc : BitVec 2) (row0 : BitVec 5) (n : BitVec 4) (d : Spec)
  | mdrainG (acc : BitVec 2) (row0 : BitVec 5) (n : BitVec 4) (d : Spec) (a : XReg)
  | mdrains (acc : BitVec 2) (row0 : BitVec 5) (n : BitVec 4) (d : Spec) (a : XReg)
  | mslot (half : Bool) (a : XReg)
  -- m50 to m60
  | cpy (d a : XReg) (nb : Bool)
  | cpwait (d b : XReg) (ch : BitVec 2)
  | cvpt (d : XReg)
  | cvdone (a : XReg)
  | cvstat (d : XReg) (sel : BitVec 3)
  | vxset (a : XReg) (imm : BitVec 16)
  | hset (h a : XReg) (imm : BitVec 16)
  | vxadd (a : XReg) (imm : BitVec 17)
  | chstat (d : XReg) (k : BitVec 4)
  | chclose (k : BitVec 4)
  | psend (a b : XReg)
  | precv (d a : XReg)
  -- n0 (R217)
  | vadd (f : V64)
  | vsub (f : V64)
  | vmul (f : V64)
  | vfma (f : V64)
  | vfms (f : V64)
  | vdiv (f : V64)
  | vmin (f : V64)
  | vmax (f : V64)
  | vabs (f : V64)
  | vneg (f : V64)
  | vand (f : V64)
  | vor (f : V64)
  | vxor (f : V64)
  | vandn (f : V64)
  | vshl (f : V64)
  | vshr (f : V64)
  | vsar (f : V64)
  | vcmp (f : V64)
  | vsel (f : V64)
  | vclamp (f : V64)
  -- n1, n2, n3 (R221 to R227)
  | vcvt (f : V64)
  | vscale (f : V64)
  | vdot (f : V64)
  | vred (f : V64)
  | vargmax (f : V64)
  | vgumbel (f : V64)
  | vmov (f : V64)
  | vbcast (f : V64)
  | vextr (f : V64)
  | vins (f : V64)
  | vperm (f : V64)
  | vslide (f : V64)
  | vcomp (f : V64)
  -- n4 (R228)
  | vexp2 (f : V64)
  | vlog2 (f : V64)
  | vrcp (f : V64)
  | vrsqrt (f : V64)
  | vsqrt (f : V64)
  | vsin (f : V64)
  | vcos (f : V64)
  | vtanh (f : V64)
  | vsigm (f : V64)
  -- n5 (R230, R231)
  | vld (f : V64)
  | vst (f : V64)
  | vlds (f : V64)
  | vsts (f : V64)
  | vgather (f : V64)
  | vscatter (f : V64)
  -- n6 (R233)
  | mop (f : V64)
  | mpop (f : V64)
  | mfirst (f : V64)
  | mset (f : V64)
  -- n7 (R215)
  | vaddVi (f : VI)
  | vsubVi (f : VI)
  | vmulVi (f : VI)
  | vdivVi (f : VI)
  | vminVi (f : VI)
  | vmaxVi (f : VI)
  | vandVi (f : VI)
  | vorVi (f : VI)
  | vxorVi (f : VI)
  | vandnVi (f : VI)
  | vshlVi (f : VI)
  | vshrVi (f : VI)
  | vsarVi (f : VI)
  -- p0 to p3 (R100)
  | vaddLit (f : V64) (lit : W32)
  | vsubLit (f : V64) (lit : W32)
  | vmulLit (f : V64) (lit : W32)
  | vfmaLit (f : V64) (lit : W32)
  | vfmsLit (f : V64) (lit : W32)
  | vdivLit (f : V64) (lit : W32)
  | vminLit (f : V64) (lit : W32)
  | vmaxLit (f : V64) (lit : W32)
  | vabsLit (f : V64) (lit : W32)
  | vnegLit (f : V64) (lit : W32)
  | vandLit (f : V64) (lit : W32)
  | vorLit (f : V64) (lit : W32)
  | vxorLit (f : V64) (lit : W32)
  | vandnLit (f : V64) (lit : W32)
  | vshlLit (f : V64) (lit : W32)
  | vshrLit (f : V64) (lit : W32)
  | vsarLit (f : V64) (lit : W32)
  | vcmpLit (f : V64) (lit : W32)
  | vselLit (f : V64) (lit : W32)
  | vclampLit (f : V64) (lit : W32)
  | vcvtLit (f : V64) (lit : W32)
  | vscaleLit (f : V64) (lit : W32)
  | vdotLit (f : V64) (lit : W32)
  | vredLit (f : V64) (lit : W32)
  | vargmaxLit (f : V64) (lit : W32)
  | vgumbelLit (f : V64) (lit : W32)
  | vmovLit (f : V64) (lit : W32)
  | vextrLit (f : V64) (lit : W32)
  | vpermLit (f : V64) (lit : W32)
  | vslideLit (f : V64) (lit : W32)
  | vcompLit (f : V64) (lit : W32)
  -- agent instructions (R319, R323, R326, R333)
  | cnew (cd : BitVec 4) (imm : W32)
  | cfork (cd cs : BitVec 4)
  | cdrop (cd : BitVec 4)
  | ctrim (cd : BitVec 4) (gs : BitVec 3)
  | clen (gd : BitVec 3) (cs : BitVec 4)
  | ctok (gd : BitVec 3) (cs : BitVec 4) (gs : BitVec 3)
  | cappt (cd : BitVec 4) (gs : BitVec 3)
  | cinfo (gd : BitVec 3) (cs : BitVec 4) (sel : BitVec 3)
  | csets (cd : BitVec 4) (gs sel : BitVec 3)
  | csetx (cd : BitVec 4) (gs sel : BitVec 3)
  | cbind (cd : BitVec 4) (imm : W32)
  | cappend (cd : BitVec 4) (gs : BitVec 3) (imm : W32)
  | cgen (cd : BitVec 4) (gd gs : BitVec 3)
  | cscore (gd : BitVec 3) (cs : BitVec 4) (gs : BitVec 3) (imm : W32)
  | cchoose (cd : BitVec 4) (gd gs : BitVec 3) (imm : W32)
  | gli (gd : BitVec 3) (imm : W32)
  | glih (gd : BitVec 3) (imm : W32)
  | gadd (gd : BitVec 3) (i : Bool) (gs : BitVec 3) (imm : W32)
  | gsub (gd : BitVec 3) (i : Bool) (gs : BitVec 3) (imm : W32)
  | gmul (gd : BitVec 3) (i : Bool) (gs : BitVec 3) (imm : W32)
  | gcmp (gd : BitVec 3) (i : Bool) (gs : BitVec 3) (imm : W32) (cond : BitVec 3)
  | gld (gd gs : BitVec 3) (w : Bool) (imm : W32)
  | gst (gd gs : BitVec 3) (w : Bool) (imm : W32)
  | gb (sense : Bool) (imm : W32)
  | gj (imm : W32)
  | gcall (imm : W32)
  | gsig (gd gs : BitVec 3) (imm : W32)
  | gwait (gd gs : BitVec 3) (cond : BitVec 3) (imm : W32)
  | gpri (imm : W32)
  | ghalt (gs : BitVec 3)
  -- encodings that are not instructions (R94, R115, R321)
  | unassignedEncoding (cause : BitVec 8) (tval : Word)
  | fetchFault (cause : BitVec 8) (va : Word)
  | agentIllegal (cause : BitVec 8) (tval : Word) (under : BitVec 8)
  -- events of the compute machine
  | linkCrcRetry (corrected : Option Nat)
  | memoryReply (strand : Nat)
  | pageWalk (core : Nat) (va : Word) (evict : Nat)
  | vectorBeat (core : Nat)
  | matrixOpStart (core : Nat) (array : Bool)
  | arrayFree (core : Nat)
  | matrixOpComplete (core : Nat) (slot : Nat)
  | searchRetry (strand : Nat)
  | heldTaskEnter (core : Nat)
  | depDecrementArrive (k : Nat)
  | migrationArrive (k : Nat)
  | callArrive (k : Nat)
  | replyArrive (k : Nat)
  | barrierPhaseComplete (ctx : Nat) (bar : Nat)
  | stageComplete (launch : Nat) (stage : Nat)
  | groupRestart (launch : Nat) (stage : Nat)
  | launchRestart (launch : Nat)
  | parameterBlockRead (core : Nat) (ch : BitVec 2)
  | copyJobStart (core : Nat) (ch : BitVec 2)
  | copyTransfer (core : Nat) (ch : BitVec 2)
  | gatherRowsArrive (core : Nat) (ch : BitVec 2) (owner : Nat)
  | copyJobComplete (core : Nat) (ch : BitVec 2)
  | engineFaultRetry (e : EngineRef)
  | engineFaultExpiry (e : EngineRef)
  | batchGrant (launch : Nat) (stage : Nat)
  | blockReconstruct (launch : Nat) (stage : Nat)
  | waitwRecheck (strand : Nat)
  -- events of the context machine
  | gwaitRecheck (agent : Nat)
  | stepPlan (part : Nat)
  | stepComplete (part : Nat) (idle stall : Nat)
  | stepFault (part : Nat) (fault : Option (BitVec 8))
  | blockMove (entry : Nat) (place : BitVec 2)
  | agentSwapIn (agent : Nat) (out : Nat)
  -- front end: mapping and packets (R363 to R382)
  | sliceExpiry (thread : Nat)
  | queueWake (qid : Nat)
  | packetRefetch (thread : Nat)
  | queueTorn (thread : Nat)
  | nop (h : Hdr)
  | launch (h : Hdr) (desc sigaddr sigval : Word)
  | waits (h : Hdr) (addr value : Word) (cond : Byte) (timeout : Word)
  | waitsRecheck (thread : Nat)
  | waitsTimeout (qsb : Nat)
  | signal (h : Hdr) (addr value : Word) (op : Byte)
  | cond (h : Hdr) (addr value : Word) (cond : Byte) (target : Word)
  | rearm (h : Hdr) (base size target : Word)
  | copyh (h : Hdr) (src dst bytes sigaddr : Word)
  | copyhComplete (k : Nat)
  | ring (h : Hdr) (ringid vector : Half) (entries : W32) (base headaddr : Word) (thresh : W32) (timeout : Word)
  | tstamp (h : Hdr) (addr : Word)
  | fencePacket (h : Hdr)
  | agentCreate (h : Hdr) (ceil : Byte) (record entry image : Word)
  | agentSuspend (h : Hdr) (ceil : Byte) (record entry image : Word)
  | agentResume (h : Hdr) (ceil : Byte) (record entry image : Word)
  | agentRemove (h : Hdr) (ceil : Byte) (record entry image : Word)
  | agentExport (h : Hdr) (ceil : Byte) (record entry image : Word)
  | agentImport (h : Hdr) (ceil : Byte) (record entry image : Word)
  | ctxnew (h : Hdr) (arg0 arg1 arg2 : Word)
  | ctxfree (h : Hdr) (arg0 arg1 arg2 : Word)
  | inval (h : Hdr) (arg0 arg1 arg2 : Word)
  | invalComplete (k : Nat)
  | qctlModel (h : Hdr) (arg0 arg1 arg2 : Word)
  | qctlMask (h : Hdr) (arg0 arg1 arg2 : Word)
  | qctlFreq (h : Hdr) (arg0 arg1 arg2 : Word)
  | partition (h : Hdr) (arg0 arg1 arg2 : Word)
  | roleset (h : Hdr) (towers mode : Byte) (maps : W32) (deadline evac : Word)
  | drainDeadline (tower : BitVec 2)
  | roleFlush (tower : BitVec 2)
  | roleEnumerate (tower : BitVec 2)
  | roleRun (tower : BitVec 2)
  | ringRecordWrite (ring : Nat)
  | ringInterruptTimeout (ring : Nat)
  -- clocks, power, bring-up, checkpoints, registers
  | stepInstant (deck : BitVec 4)
  | powerLimit (draw : Nat)
  | thermalTrip (tower : BitVec 2)
  | thermalPowerGate (tower : BitVec 2)
  | ckptStart (part : BitVec 2)
  | markerArrive (part : BitVec 2) (u : UnitRef) (i : InputRef)
  | unitEdge (part : BitVec 2) (u : UnitRef)
  | ckptRelease (part : BitVec 2)
  | ckptRestore (part : BitVec 2)
  | attestRequest (pa : Word)
  | perfReading (value : Word)
  | perfClear (n : BitVec 3)
  | debugRegisterWrite (off : Nat) (value : Word)
  | registerWrite (off : Nat) (value : Word)
  -- packets that are not packets, and accesses from outside
  | badPacket (h : Hdr) (code : Byte)
  | hostCoherentAccess (x : ExtAccess)
  | remoteMemoryOperation (x : ExtAccess)
  -- instructions, packets and events without a field
  | region
  | tend
  | eret
  | covctlReset
  | gret
  | gyield
  | queueWalk
  | periodicReread
  | powerOn
  | dramTrained
  | attestDone
  | perfReadingDone
  deriving DecidableEq, Repr

/-- A command packet as the fetcher reads it (R371, R373): the packets among the instructions, under their own type. -/
inductive Packet where
  | nop (h : Hdr)
  | launch (h : Hdr) (desc sigaddr sigval : Word)
  | waits (h : Hdr) (addr value : Word) (cond : Byte) (timeout : Word)
  | signal (h : Hdr) (addr value : Word) (op : Byte)
  | cond (h : Hdr) (addr value : Word) (cond : Byte) (target : Word)
  | rearm (h : Hdr) (base size target : Word)
  | copyh (h : Hdr) (src dst bytes sigaddr : Word)
  | ring (h : Hdr) (ringid vector : Half) (entries : W32) (base headaddr : Word) (thresh : W32) (timeout : Word)
  | tstamp (h : Hdr) (addr : Word)
  | fencePacket (h : Hdr)
  | agentCreate (h : Hdr) (ceil : Byte) (record entry image : Word)
  | agentSuspend (h : Hdr) (ceil : Byte) (record entry image : Word)
  | agentResume (h : Hdr) (ceil : Byte) (record entry image : Word)
  | agentRemove (h : Hdr) (ceil : Byte) (record entry image : Word)
  | agentExport (h : Hdr) (ceil : Byte) (record entry image : Word)
  | agentImport (h : Hdr) (ceil : Byte) (record entry image : Word)
  | ctxnew (h : Hdr) (arg0 arg1 arg2 : Word)
  | ctxfree (h : Hdr) (arg0 arg1 arg2 : Word)
  | inval (h : Hdr) (arg0 arg1 arg2 : Word)
  | qctlModel (h : Hdr) (arg0 arg1 arg2 : Word)
  | qctlMask (h : Hdr) (arg0 arg1 arg2 : Word)
  | qctlFreq (h : Hdr) (arg0 arg1 arg2 : Word)
  | partition (h : Hdr) (arg0 arg1 arg2 : Word)
  | roleset (h : Hdr) (towers mode : Byte) (maps : W32) (deadline evac : Word)
  | badPacket (h : Hdr) (code : Byte)
  deriving DecidableEq, Repr

end Sys2Proof
end

