-- ==== Sys2Proof/Machine/Checks.lean ====
section
/-!
DEFINITION. Cause codes (R384, R385) and the checks of R116 that need no state beyond the FMT registers: the selector
fields (order 3) on the instruction's bits, the reserved fields and values (order 6) on the instruction.
-/

namespace Sys2Proof.Machine

/-! ## Cause codes: 32 times the class plus the detail (R384, R385) -/

def Cause.illegalOp : Byte := 0
def Cause.reservedField : Byte := 1
def Cause.featureAbsent : Byte := 2
def Cause.notTranslated : Byte := 3
def Cause.privileged : Byte := 4
def Cause.vregRange : Byte := 32
def Cause.specReserved : Byte := 33
def Cause.modeConflict : Byte := 34
def Cause.shapeMismatch : Byte := 35
def Cause.tileConfig : Byte := 36
def Cause.specTier : Byte := 37
def Cause.shapeInvalid : Byte := 38
def Cause.fmtInvalid : Byte := 64
def Cause.tempInvalid : Byte := 65
def Cause.misaligned : Byte := 96
def Cause.bounds : Byte := 97
def Cause.noSuchCore : Byte := 98
def Cause.paAbsent : Byte := 99
def Cause.addrRange : Byte := 100
def Cause.dataPoison : Byte := 101
def Cause.pageAbsent : Byte := 128
def Cause.ptMalformed : Byte := 129
def Cause.privDenied : Byte := 130
def Cause.writeDenied : Byte := 131
def Cause.execDenied : Byte := 132
def Cause.mmRace : Byte := 160
def Cause.covPending : Byte := 161
def Cause.covFault : Byte := 162
def Cause.covBound : Byte := 163
def Cause.cpyFault : Byte := 192
def Cause.depUnderflow : Byte := 193
def Cause.chanClosed : Byte := 194
def Cause.taskqFull : Byte := 195
def Cause.taskInvalid : Byte := 197
def Cause.depCount : Byte := 198
def Cause.depArmed : Byte := 199
def Cause.stageFull : Byte := 200
def Cause.chanOverrun : Byte := 201
def Cause.rcallLost : Byte := 202
def Cause.barConfig : Byte := 203
def Cause.barOverrun : Byte := 204
def Cause.chanDir : Byte := 205
def Cause.cpyInvalid : Byte := 206
def Cause.covBatch : Byte := 207
def Cause.agentIllegal : Byte := 208
def Cause.agentAddr : Byte := 209
def Cause.ctxEmpty : Byte := 210
def Cause.ctxRange : Byte := 211
def Cause.modelAbsent : Byte := 212
def Cause.agentStack : Byte := 213
def Cause.ctxExhausted : Byte := 214
def Cause.modelFault : Byte := 215
def Cause.breakpoint : Byte := 224
def Cause.watchpoint : Byte := 225
def Cause.trapInstr : Byte := 226
def Cause.preemptNotice : Byte := 227
def Cause.debugDenied : Byte := 228
def Cause.doubleTrap : Byte := 229

/-- Bits `lo + n - 1 : lo` of an instruction's bits. -/
def fld (w lo n : Nat) : Nat := w / 2 ^ lo % 2 ^ n

/-! ## The vector instructions, their three forms brought together -/

/-- The operations of majors n0 to n6 (R111). -/
inductive VOp where
  | vadd | vsub | vmul | vfma | vfms | vdiv | vmin | vmax | vabs | vneg | vand | vor | vxor | vandn | vshl | vshr | vsar
  | vcmp | vsel | vclamp
  | vcvt | vscale | vdot
  | vred | vargmax | vgumbel
  | vmov | vbcast | vextr | vins | vperm | vslide | vcomp
  | vexp2 | vlog2 | vrcp | vrsqrt | vsqrt | vsin | vcos | vtanh | vsigm
  | vld | vst | vlds | vsts | vgather | vscatter
  | mop | mpop | mfirst | mset
  deriving DecidableEq, Repr

/-- What stands for operand b, or for the literal operand. -/
inductive VForm where
  | v64
  | vi (imm : Half)
  | lit (l : W32)
  deriving DecidableEq, Repr

/-- A vector instruction: operation, fields and form. A VI form has no b or c operand (R98): both read 0xFE here. -/
structure VIns where
  op : VOp
  f : V64
  form : VForm
  deriving DecidableEq, Repr

/-- The fields of a VI word as V64 fields. -/
def viAsV64 (f : VI) : V64 :=
  { d := f.d, a := f.a, b := 0xFE, c := 0xFE, fmtA := f.fmtA, fmtB := f.fmtB, sgnB := f.sgnB, sgnA := f.sgnA
    sat := f.sat, rnd := f.rnd, mask := f.mask, etype := f.etype }

/-- A V64 instruction. -/
def VIns.of (op : VOp) (f : V64) : VIns := { op := op, f := f, form := .v64 }
/-- A VI instruction. -/
def VIns.ofVi (op : VOp) (f : VI) : VIns := { op := op, f := viAsV64 f, form := .vi f.imm }
/-- A literal form. -/
def VIns.ofLit (op : VOp) (f : V64) (l : W32) : VIns := { op := op, f := f, form := .lit l }

/-- Its length in bytes. -/
def VIns.len (v : VIns) : Nat := match v.form with | .lit _ => 12 | _ => 8

/-- Integer element types (R105). -/
def isInt (e : Nat) : Bool := e ≤ 4
/-- Standard floating types (R105). -/
def isFloat (e : Nat) : Bool := 5 ≤ e && e ≤ 8

/-- Container width of an element type; a narrow format has the container that its FMT register gives (R105, R180). -/
def containerOf (cw : BitVec 3 → Option Nat) (e : Nat) (fmt : BitVec 3) : Option Nat :=
  if e = 0 then some 4 else if e = 1 then some 8 else if e = 2 then some 16 else if e = 3 then some 32
  else if e = 4 then some 64 else if e = 5 then some 16 else if e = 6 then some 16 else if e = 7 then some 32
  else if e = 8 then some 64 else if e = 9 then cw fmt else if e = 10 then some 1 else none

/-- The operations whose fmtB names a format outside VCVT: those of n0, which R219 holds to one container width, and those with an
operand b in the format's own sense (R217 to R231). -/
def VOp.readsB : VOp → Bool
  | .vcvt | .vred | .vargmax | .vmov | .vbcast | .vextr | .vins | .vcomp
  | .vexp2 | .vlog2 | .vrcp | .vrsqrt | .vsqrt | .vsin | .vcos | .vtanh | .vsigm
  | .vld | .vst | .vlds | .vsts | .mop | .mpop | .mfirst | .mset => false
  | _ => true

/-- Whether an instruction rounds, for its element types: R97 lists the floating and nf forms of all of n0 but VCMP. -/
def VIns.rounds (v : VIns) : Bool :=
  let e := v.f.etype.toNat
  let fl := isFloat e || e = 9
  match v.op with
  | .vadd | .vsub | .vmul | .vfma | .vfms | .vdiv | .vmin | .vmax | .vabs | .vneg | .vand | .vor | .vxor | .vandn | .vsel
  | .vclamp => fl
  | .vscale | .vgumbel => true
  | .vdot | .vred => fl
  | .vexp2 | .vlog2 | .vrcp | .vrsqrt | .vsqrt | .vsin | .vcos | .vtanh | .vsigm => true
  | .vcvt => fl || isFloat (v.f.c.toNat % 16) || v.f.c.toNat % 16 = 9
  | _ => false

/-- Whether sat = 1 has a meaning (R97, R217, R221, R223): the bitwise operations and VSEL form no result that could saturate. -/
def VIns.satOk (v : VIns) : Bool :=
  let e := v.f.etype.toNat
  match v.op with
  | .vcmp => false
  | .vadd | .vsub | .vmul | .vfma | .vfms | .vdiv | .vmin | .vmax | .vabs | .vneg
  | .vshl | .vshr | .vsar | .vclamp => isInt e || e = 9
  | .vcvt => let d := v.f.c.toNat % 16; isInt d || d = 9
  | .vdot => isInt e
  | _ => false

/-- The element types an operation accepts (R217, R221 to R228). -/
def VIns.typeOk (v : VIns) : Bool :=
  let e := v.f.etype.toNat
  let arith := isInt e || isFloat e || e = 9
  match v.op with
  | .vadd | .vsub | .vmul | .vfma | .vfms | .vdiv | .vmin | .vmax | .vabs | .vneg | .vcmp | .vclamp => arith
  | .vand | .vor | .vxor | .vandn | .vsel => e ≤ 10
  | .vshl | .vshr | .vsar => isInt e
  | .vcvt => arith && v.f.c.toNat % 16 ≠ 10
  | .vscale | .vgumbel => e = 7
  | .vdot => e = 0 || e = 1 || e = 2 || e = 5 || e = 6 || e = 9
  | .vred => if v.f.c.toNat ≤ 2 then isInt e || isFloat e else isInt e || e = 10
  | .vargmax | .vexp2 | .vlog2 | .vrcp | .vrsqrt | .vsqrt | .vsin | .vcos | .vtanh | .vsigm => 5 ≤ e && e ≤ 7
  | .mop | .mpop | .mfirst | .mset => e = 0
  | _ => e ≤ 10

/-- A byte that names a scalar register (R227, R230). -/
def selOk (b : Spec) : Bool := b.toNat < 16

/-- A shaped specifier (R102). -/
def isShaped (b : Spec) : Bool := 0x90 ≤ b.toNat && b.toNat ≤ 0x9F

/-- The operand bytes of an operation that its description reads as selectors or not at all (R217 to R233). -/
def VIns.bytesOk (cw : BitVec 3 → Option Nat) (v : VIns) : Bool :=
  let f := v.f
  let lanes := match containerOf cw f.etype.toNat f.fmtA with | some w => 512 / w | none => 512
  let noB := f.b = 0xFE
  let noC := f.c = 0xFE
  match v.op with
  | .vfma | .vfms | .vclamp | .vcmp | .vsel => true
  | .vabs | .vneg => noB && noC
  | .vcvt =>
    let dst := f.c.toNat % 16
    let p := f.c.toNat / 16
    let ok := match containerOf cw f.etype.toNat f.fmtA, containerOf cw dst f.fmtB with
      | some ws, some wd => p < max (wd / ws) (ws / wd)
      | _, _ => true
    noB && ok && !(p ≠ 0 && (isShaped f.d || isShaped f.a))
  | .vscale | .vdot => true
  | .vred => noB && f.c.toNat ≤ 5
  | .vargmax => noB && selOk f.c
  | .vmov | .vcomp => noB && noC
  | .vbcast => noB && noC && selOk f.a
  | .vextr => noB && selOk f.d && f.c.toNat < lanes && f.mask = 0
  | .vins => noB && selOk f.a && f.c.toNat < lanes && f.mask = 0
  | .vslide => f.c.toNat ≤ lanes
  | .vexp2 | .vlog2 | .vrcp | .vrsqrt | .vsqrt | .vsin | .vcos | .vtanh | .vsigm => noB && noC
  | .vld => noC && selOk f.a
  | .vst => noC && selOk f.d
  | .vlds => noC && selOk f.a && selOk f.b
  | .vsts => noC && selOk f.d && selOk f.b
  | .vgather => noC && selOk f.a
  | .vscatter => noC && selOk f.d
  | .mop => f.c.toNat ≤ 4 && (f.c.toNat ≠ 4 || noB)
  | .mpop | .mfirst => noB && noC && selOk f.d
  | .mset => f.a = 0xFE && ((f.c.toNat = 0 && f.b.toNat ≤ 128) || (f.c.toNat = 1 && selOk f.b))
  | _ => noC

/-- Types with 4-bit containers, and the type bit, are not accepted by the element-wise memory forms (R230). -/
def VIns.memTypeOk (cw : BitVec 3 → Option Nat) (v : VIns) : Bool :=
  match v.op with
  | .vlds | .vsts | .vgather | .vscatter =>
    match containerOf cw v.f.etype.toNat v.f.fmtA with | some w => 8 ≤ w | none => true
  | _ => true

/-- Order 6 for a vector instruction: a reserved field or a value that its description reserves (R97, R103). VGUMBEL accepts
either sgnB: R226 reads its b "whatever sgnB holds", R97 in general wants 0 (DEDUCED, log 58). -/
def VIns.reserved (cw : BitVec 3 → Option Nat) (v : VIns) : Bool :=
  let f := v.f
  let e := f.etype.toNat
  let dst := if v.op = .vcvt then f.c.toNat % 16 else e
  !( (e = 9 || f.fmtA = 0) && (dst = 9 || f.fmtB = 0)
    && (isInt e || !f.sgnA) && (isInt dst || !f.sgnB || v.op = .vgumbel)
    && (f.rnd = 0 || v.rounds) && (f.rnd ≠ 3 || (v.op = .vcvt && dst = 9))
    && (!f.sat || v.satOk)
    && v.typeOk && v.bytesOk cw && v.memTypeOk cw
    && (match v.op with
        | .mop | .mpop | .mfirst | .mset => f.mask = 0 && !f.sgnA && !f.sgnB
        | _ => true) )

/-- The vector instruction that an instruction is. -/
def vinsOf : Instr → Option VIns
  | .vadd f => some (.of .vadd f) | .vsub f => some (.of .vsub f) | .vmul f => some (.of .vmul f)
  | .vfma f => some (.of .vfma f) | .vfms f => some (.of .vfms f) | .vdiv f => some (.of .vdiv f)
  | .vmin f => some (.of .vmin f) | .vmax f => some (.of .vmax f) | .vabs f => some (.of .vabs f)
  | .vneg f => some (.of .vneg f) | .vand f => some (.of .vand f) | .vor f => some (.of .vor f)
  | .vxor f => some (.of .vxor f) | .vandn f => some (.of .vandn f) | .vshl f => some (.of .vshl f)
  | .vshr f => some (.of .vshr f) | .vsar f => some (.of .vsar f) | .vcmp f => some (.of .vcmp f)
  | .vsel f => some (.of .vsel f) | .vclamp f => some (.of .vclamp f) | .vcvt f => some (.of .vcvt f)
  | .vscale f => some (.of .vscale f) | .vdot f => some (.of .vdot f) | .vred f => some (.of .vred f)
  | .vargmax f => some (.of .vargmax f) | .vgumbel f => some (.of .vgumbel f) | .vmov f => some (.of .vmov f)
  | .vbcast f => some (.of .vbcast f) | .vextr f => some (.of .vextr f) | .vins f => some (.of .vins f)
  | .vperm f => some (.of .vperm f) | .vslide f => some (.of .vslide f) | .vcomp f => some (.of .vcomp f)
  | .vexp2 f => some (.of .vexp2 f) | .vlog2 f => some (.of .vlog2 f) | .vrcp f => some (.of .vrcp f)
  | .vrsqrt f => some (.of .vrsqrt f) | .vsqrt f => some (.of .vsqrt f) | .vsin f => some (.of .vsin f)
  | .vcos f => some (.of .vcos f) | .vtanh f => some (.of .vtanh f) | .vsigm f => some (.of .vsigm f)
  | .vld f => some (.of .vld f) | .vst f => some (.of .vst f) | .vlds f => some (.of .vlds f)
  | .vsts f => some (.of .vsts f) | .vgather f => some (.of .vgather f) | .vscatter f => some (.of .vscatter f)
  | .mop f => some (.of .mop f) | .mpop f => some (.of .mpop f) | .mfirst f => some (.of .mfirst f)
  | .mset f => some (.of .mset f)
  | .vaddVi f => some (.ofVi .vadd f) | .vsubVi f => some (.ofVi .vsub f) | .vmulVi f => some (.ofVi .vmul f)
  | .vdivVi f => some (.ofVi .vdiv f) | .vminVi f => some (.ofVi .vmin f) | .vmaxVi f => some (.ofVi .vmax f)
  | .vandVi f => some (.ofVi .vand f) | .vorVi f => some (.ofVi .vor f) | .vxorVi f => some (.ofVi .vxor f)
  | .vandnVi f => some (.ofVi .vandn f) | .vshlVi f => some (.ofVi .vshl f) | .vshrVi f => some (.ofVi .vshr f)
  | .vsarVi f => some (.ofVi .vsar f)
  | .vaddLit f l => some (.ofLit .vadd f l) | .vsubLit f l => some (.ofLit .vsub f l)
  | .vmulLit f l => some (.ofLit .vmul f l) | .vfmaLit f l => some (.ofLit .vfma f l)
  | .vfmsLit f l => some (.ofLit .vfms f l) | .vdivLit f l => some (.ofLit .vdiv f l)
  | .vminLit f l => some (.ofLit .vmin f l) | .vmaxLit f l => some (.ofLit .vmax f l)
  | .vabsLit f l => some (.ofLit .vabs f l) | .vnegLit f l => some (.ofLit .vneg f l)
  | .vandLit f l => some (.ofLit .vand f l) | .vorLit f l => some (.ofLit .vor f l)
  | .vxorLit f l => some (.ofLit .vxor f l) | .vandnLit f l => some (.ofLit .vandn f l)
  | .vshlLit f l => some (.ofLit .vshl f l) | .vshrLit f l => some (.ofLit .vshr f l)
  | .vsarLit f l => some (.ofLit .vsar f l) | .vcmpLit f l => some (.ofLit .vcmp f l)
  | .vselLit f l => some (.ofLit .vsel f l) | .vclampLit f l => some (.ofLit .vclamp f l)
  | .vcvtLit f l => some (.ofLit .vcvt f l) | .vscaleLit f l => some (.ofLit .vscale f l)
  | .vdotLit f l => some (.ofLit .vdot f l) | .vredLit f l => some (.ofLit .vred f l)
  | .vargmaxLit f l => some (.ofLit .vargmax f l) | .vgumbelLit f l => some (.ofLit .vgumbel f l)
  | .vmovLit f l => some (.ofLit .vmov f l) | .vextrLit f l => some (.ofLit .vextr f l)
  | .vpermLit f l => some (.ofLit .vperm f l) | .vslideLit f l => some (.ofLit .vslide f l)
  | .vcompLit f l => some (.ofLit .vcomp f l)
  | _ => none

/-! ## Order 6 for the other instructions -/

/-- Scopes a barrier has (R167). -/
def barrierScopeOk (scope : BitVec 3) : Bool := 2 ≤ scope.toNat && scope.toNat ≤ 5
/-- Barriers per unit of a scope (R166). -/
def barrierCount (scope : BitVec 3) : Nat := if scope = 2 then 8 else 16

/-- Order 6 for MMA (R243). -/
def mmaReserved (f : M64) : Bool :=
  let a := f.etypeA.toNat
  let b := f.etypeB.toNat
  let ok (e : Nat) : Bool := e ≤ 2 || e = 5 || e = 6 || e = 9
  let int (e : Nat) : Bool := e ≤ 2
  !( ok a && ok b && (int a || !f.sgnA) && (int b || !f.sgnB) && (a = 9 || f.fmtA = 0) && (b = 9 || f.fmtB = 0)
    && int a == int b && (f.semiring ≠ 4 || int a) )

/-- A field value that an instruction's own description reserves, beyond the fields that are zero in every word the
decoder accepts (R119, R129 to R250, R281, R296, R309). -/
def reserved (cw : BitVec 3 → Option Nat) (i : Instr) : Bool :=
  match i with
  | .sext _ _ w | .zext _ _ w => 3 ≤ w.toNat
  | .fcvt _ _ rsel xc sel _ => 3 ≤ rsel.toNat || (xc = 1 && sel ≠ 0)
  | .ld _ _ _ sx size => sx && size = 3
  | .lda _ _ _ scope sx size => scope = 0 || (sx && size = 3)
  | .stl _ _ _ scope _ => scope = 0
  | .amoadd _ _ _ scope size | .amoswap _ _ _ scope size | .amoand _ _ _ scope size | .amoor _ _ _ scope size
  | .amoxor _ _ _ scope size | .amomin _ _ _ scope size | .amomax _ _ _ scope size | .amominn _ _ _ scope size
  | .amomaxn _ _ _ scope size => scope = 0 || (size ≠ 2 && size ≠ 3)
  | .cas _ _ _ scope size => scope = 0 || size.toNat < 2
  | .fence _ scope => scope = 0
  | .depdec _ scope n => scope = 0 || n = 0
  | .arrive _ scope id | .waitb _ scope id | .barcfg _ scope id =>
    !(barrierScopeOk scope) || barrierCount scope ≤ id.toNat
  | .waitw _ _ _ scope _ _ => scope = 0
  | .azero _ sr int => sr = 4 && !int
  | .mma f => mmaReserved f
  | .mdrain _ row0 n _ | .mdrainG _ row0 n _ _ | .mdrains _ row0 n _ _ => 32 < row0.toNat + n.toNat + 1
  | .cpy _ a _ => a ≠ 4 && a ≠ 8 && a ≠ 12
  | .cvpt d => d ≠ 4 && d ≠ 8 && d ≠ 12
  | .cvstat _ sel => sel = 7
  | i => match vinsOf i with | some v => v.reserved cw | none => false

/-! ## Order 3: selector fields, from bit 0 upward -/

/-- CSR numbers that R113 assigns. -/
def csrAssigned (n : Nat) : Bool :=
  n = 1 || n = 2 || n = 3 || (0x10 ≤ n && n ≤ 0x20) || (0x30 ≤ n && n ≤ 0x33) || (0x40 ≤ n && n ≤ 0x43)
  || (0x50 ≤ n && n ≤ 0x53) || n = 0x58 || (0x60 ≤ n && n ≤ 0x63) || (0x70 ≤ n && n ≤ 0x72)
  || n = 0x74 || n = 0x75 || n = 0x78

/-- The first failing check of a list of conditions. -/
def firstOf : List (Bool × Byte) → Option Byte
  | [] => none
  | (b, c) :: r => if b then some c else firstOf r

/-- Selector checks of a V64 word of major n, a VI word, or a literal form (R97, R105, R111, R220, R221). In n6 etype is a
reserved field and no selector, also where it holds 11 to 15 (R233 beside R115; DEDUCED, log 58). -/
def selectorV (n w : Nat) : Option Byte :=
  let fn := fld w 7 6
  let e := fld w 13 4
  let c := fld w 56 8
  let assigned := if n = 0 then fn < 20 else if n = 1 then fn < 3 else if n = 2 then fn < 3 else if n = 3 then fn < 7
    else if n = 4 then fn < 9 else if n = 5 then fn < 6 else if n = 6 then fn < 4
    else fn < 17 && fn ≠ 3 && fn ≠ 4 && fn ≠ 8 && fn ≠ 9
  firstOf
    [ (!assigned, Cause.illegalOp), (n ≠ 6 && 11 ≤ e, Cause.featureAbsent),
      (n = 0 && fn = 17 && (8 ≤ c || (6 ≤ c && (isInt e || e = 10))), Cause.illegalOp),
      (n = 1 && fn = 0 && 11 ≤ c % 16, Cause.featureAbsent) ]

/-- The major's bits 6:0 (R92). -/
def majorBits (w : Nat) : Nat := w % 128

/-- Order 3 of R116 on the instruction's bits 63:0. Code 7 in the scope field of a form whose scope is reserved-zero is a nonzero
reserved field, except in LD and ST, of which R131 says otherwise (DEDUCED, log 58). -/
def selector (w : Nat) : Option Byte :=
  let mb := majorBits w
  let scope := fld w 19 3
  if mb = 0x00 then firstOf [(27 ≤ fld w 19 6, Cause.illegalOp)]
  else if mb = 0x14 then firstOf [(11 ≤ fld w 19 6, Cause.illegalOp), (fld w 19 6 = 9 && 2 ≤ fld w 25 4, Cause.illegalOp)]
  else if mb = 0x15 ∨ mb = 0x18 ∨ mb = 0x19 ∨ mb = 0x1C then firstOf [(fld w 18 3 = 7, Cause.illegalOp)]
  else if mb = 0x1D then firstOf [(9 ≤ fld w 19 6, Cause.illegalOp), (fld w 29 3 = 7, Cause.illegalOp)]
  else if mb = 0x20 ∨ mb = 0x21 ∨ mb = 0x38 ∨ mb = 0x40 ∨ mb = 0x41 ∨ mb = 0x44 then
    firstOf [(scope = 7, Cause.illegalOp)]
  else if mb = 0x45 then firstOf [(scope = 7, Cause.illegalOp), (6 ≤ fld w 22 3, Cause.illegalOp)]
  else if mb = 0x24 then firstOf [(6 ≤ fld w 15 3, Cause.illegalOp)]
  else if mb = 0x48 ∨ mb = 0x49 ∨ mb = 0x4C ∨ mb = 0x4D then firstOf [(!csrAssigned (fld w 15 12), Cause.illegalOp)]
  else if mb = 0x5C then firstOf [(5 ≤ fld w 15 3, Cause.featureAbsent)]
  else if mb = 0x22 then
    firstOf [(5 ≤ fld w 15 3, Cause.featureAbsent), (11 ≤ fld w 20 4, Cause.featureAbsent), (11 ≤ fld w 24 4, Cause.featureAbsent)]
  else if mb % 4 = 2 ∧ mb / 4 < 8 then selectorV (mb / 4) w
  else if mb % 4 = 3 ∧ mb / 4 < 4 then selectorV (mb / 4) w
  else none

/-- Order 2 of R116: the majors that R109, R111 and R112 leave unassigned or hold for later versions. -/
def majorDefect (w : Nat) : Option Byte :=
  let k := majorBits w / 4
  if w % 4 = 2 then firstOf [(16 ≤ k, Cause.illegalOp), (9 ≤ k, Cause.featureAbsent)]
  else if w % 4 = 3 then firstOf [(18 ≤ k, Cause.illegalOp), (4 ≤ k && k ≤ 15, Cause.featureAbsent)]
  else firstOf [(majorBits w = 0x79 || majorBits w = 0x7C || majorBits w = 0x7D, Cause.illegalOp)]

end Sys2Proof.Machine
end

