-- ==== Sys2Proof/Decode.lean ====
section
/-!
DEFINITION. Decoding: native instructions of one, two or three words (R92 to R101, R109 to R112), agent instructions
(R319 to R333), command packets (R371, R373, R377, R379). Words are natural numbers whose bit 0 is the least significant
bit of the first word (R3). A pattern that is not an instruction is rejected with its cause and TVAL (R115, R116). The
encoders below write the same tables.
-/

namespace Sys2Proof

open Sys2Proof.Machine (fld firstOf selector majorDefect Cause.notTranslated Cause.reservedField Cause.specReserved
  selOk VIns VIns.reserved)

/-- Bit `lo` of an instruction's bits. -/
def bit (w lo : Nat) : Bool := w / 2 ^ lo % 2 == 1
/-- Bits `lo + n - 1 : lo` as a bit vector. -/
def bv (w lo n : Nat) : BitVec n := .ofNat n (w / 2 ^ lo)
/-- A 4-bit register field (R96). -/
def reg (w lo : Nat) : XReg := .ofNat 4 (w / 2 ^ lo)

/-! ## The 32-bit instructions, major by major (R95, R109, R110, the formats of each description) -/

/-- Major m0, bits 6:0 = 0x00. -/
def decodeM0 (w : Nat) : Option Instr :=
  if fld w 19 13 = 0 then some (.add (reg w 7) (reg w 11) (reg w 15)) else
  if fld w 19 13 = 1 then some (.sub (reg w 7) (reg w 11) (reg w 15)) else
  if fld w 19 13 = 2 then some (.mul (reg w 7) (reg w 11) (reg w 15)) else
  if fld w 19 13 = 3 then some (.mulh (reg w 7) (reg w 11) (reg w 15)) else
  if fld w 19 13 = 4 then some (.mulhn (reg w 7) (reg w 11) (reg w 15)) else
  if fld w 19 13 = 5 then some (.div (reg w 7) (reg w 11) (reg w 15)) else
  if fld w 19 13 = 6 then some (.divn (reg w 7) (reg w 11) (reg w 15)) else
  if fld w 19 13 = 7 then some (.rem (reg w 7) (reg w 11) (reg w 15)) else
  if fld w 19 13 = 8 then some (.remn (reg w 7) (reg w 11) (reg w 15)) else
  if fld w 19 13 = 9 then some (.and (reg w 7) (reg w 11) (reg w 15)) else
  if fld w 19 13 = 10 then some (.or (reg w 7) (reg w 11) (reg w 15)) else
  if fld w 19 13 = 11 then some (.xor (reg w 7) (reg w 11) (reg w 15)) else
  if fld w 19 13 = 12 then some (.andn (reg w 7) (reg w 11) (reg w 15)) else
  if fld w 19 13 = 13 then some (.shl (reg w 7) (reg w 11) (reg w 15)) else
  if fld w 19 13 = 14 then some (.shr (reg w 7) (reg w 11) (reg w 15)) else
  if fld w 19 13 = 15 then some (.sar (reg w 7) (reg w 11) (reg w 15)) else
  if fld w 19 13 = 16 then some (.min (reg w 7) (reg w 11) (reg w 15)) else
  if fld w 19 13 = 17 then some (.max (reg w 7) (reg w 11) (reg w 15)) else
  if fld w 19 13 = 18 then some (.minn (reg w 7) (reg w 11) (reg w 15)) else
  if fld w 19 13 = 19 then some (.maxn (reg w 7) (reg w 11) (reg w 15)) else
  if fld w 19 13 = 20 then some (.slt (reg w 7) (reg w 11) (reg w 15)) else
  if fld w 19 13 = 21 then some (.sltn (reg w 7) (reg w 11) (reg w 15)) else
  if fld w 15 17 = 352 then some (.clz (reg w 7) (reg w 11)) else
  if fld w 15 17 = 368 then some (.ctz (reg w 7) (reg w 11)) else
  if fld w 15 17 = 384 then some (.popc (reg w 7) (reg w 11)) else
  if fld w 15 14 = 400 then some (.sext (reg w 7) (reg w 11) (bv w 29 3)) else
  if fld w 15 14 = 416 then some (.zext (reg w 7) (reg w 11) (bv w 29 3)) else
  none

/-- Major m1, bits 6:0 = 0x01. -/
def decodeM1 (w : Nat) : Option Instr :=
  some (.addi (reg w 7) (reg w 11) (bv w 15 17))

/-- Major m2, bits 6:0 = 0x04. -/
def decodeM2 (w : Nat) : Option Instr :=
  some (.andi (reg w 7) (reg w 11) (bv w 15 17))

/-- Major m3, bits 6:0 = 0x05. -/
def decodeM3 (w : Nat) : Option Instr :=
  some (.ori (reg w 7) (reg w 11) (bv w 15 17))

/-- Major m4, bits 6:0 = 0x08. -/
def decodeM4 (w : Nat) : Option Instr :=
  some (.xori (reg w 7) (reg w 11) (bv w 15 17))

/-- Major m5, bits 6:0 = 0x09. -/
def decodeM5 (w : Nat) : Option Instr :=
  if fld w 21 11 = 0 then some (.shli (reg w 7) (reg w 11) (bv w 15 6)) else
  none

/-- Major m6, bits 6:0 = 0x0C. -/
def decodeM6 (w : Nat) : Option Instr :=
  if fld w 21 11 = 0 then some (.shri (reg w 7) (reg w 11) (bv w 15 6)) else
  none

/-- Major m7, bits 6:0 = 0x0D. -/
def decodeM7 (w : Nat) : Option Instr :=
  if fld w 21 11 = 0 then some (.sari (reg w 7) (reg w 11) (bv w 15 6)) else
  none

/-- Major m8, bits 6:0 = 0x10. -/
def decodeM8 (w : Nat) : Option Instr :=
  some (.slti (reg w 7) (reg w 11) (bv w 15 17))

/-- Major m9, bits 6:0 = 0x11. -/
def decodeM9 (w : Nat) : Option Instr :=
  some (.lih (reg w 7) (reg w 11) (bv w 15 17))

/-- Major m10, bits 6:0 = 0x14. -/
def decodeM10 (w : Nat) : Option Instr :=
  if fld w 19 10 = 0 ∧ fld w 30 2 = 0 then some (.fadd (reg w 7) (reg w 11) (reg w 15) (bit w 29)) else
  if fld w 19 10 = 1 ∧ fld w 30 2 = 0 then some (.fsub (reg w 7) (reg w 11) (reg w 15) (bit w 29)) else
  if fld w 19 10 = 2 ∧ fld w 30 2 = 0 then some (.fmul (reg w 7) (reg w 11) (reg w 15) (bit w 29)) else
  if fld w 19 10 = 3 ∧ fld w 30 2 = 0 then some (.fdiv (reg w 7) (reg w 11) (reg w 15) (bit w 29)) else
  if fld w 15 14 = 64 ∧ fld w 30 2 = 0 then some (.fsqrt (reg w 7) (reg w 11) (bit w 29)) else
  if fld w 19 6 = 5 ∧ fld w 30 2 = 0 then some (.fma (reg w 7) (reg w 11) (reg w 15) (reg w 25) (bit w 29)) else
  if fld w 19 10 = 6 ∧ fld w 30 2 = 0 then some (.fmin (reg w 7) (reg w 11) (reg w 15) (bit w 29)) else
  if fld w 19 10 = 7 ∧ fld w 30 2 = 0 then some (.fmax (reg w 7) (reg w 11) (reg w 15) (bit w 29)) else
  if fld w 19 10 = 8 ∧ fld w 30 2 = 0 then some (.feq (reg w 7) (reg w 11) (reg w 15) (bit w 29)) else
  if fld w 19 10 = 8 ∧ fld w 30 2 = 1 then some (.flt (reg w 7) (reg w 11) (reg w 15) (bit w 29)) else
  if fld w 19 10 = 8 ∧ fld w 30 2 = 2 then some (.fle (reg w 7) (reg w 11) (reg w 15) (bit w 29)) else
  if fld w 19 10 = 8 ∧ fld w 30 2 = 3 then some (.funord (reg w 7) (reg w 11) (reg w 15) (bit w 29)) else
  if fld w 19 6 = 9 then some (.fcvt (reg w 7) (reg w 11) (reg w 15) (reg w 25) (bv w 30 2) (bit w 29)) else
  if fld w 15 14 = 160 ∧ fld w 30 2 = 0 then some (.fclass (reg w 7) (reg w 11) (bit w 29)) else
  none

/-- Major m11, bits 6:0 = 0x15. -/
def decodeM11 (w : Nat) : Option Instr :=
  if fld w 18 3 = 0 then some (.ld (reg w 7) (reg w 11) (bv w 21 11) (bit w 17) (bv w 15 2)) else
  none

/-- Major m12, bits 6:0 = 0x18. -/
def decodeM12 (w : Nat) : Option Instr :=
  if fld w 17 4 = 0 then some (.st (reg w 7) (reg w 11) (bv w 21 11) (bv w 15 2)) else
  none

/-- Major m13, bits 6:0 = 0x19. -/
def decodeM13 (w : Nat) : Option Instr :=
  some (.lda (reg w 7) (reg w 11) (bv w 21 11) (bv w 18 3) (bit w 17) (bv w 15 2))

/-- Major m14, bits 6:0 = 0x1C. -/
def decodeM14 (w : Nat) : Option Instr :=
  if fld w 17 1 = 0 then some (.stl (reg w 7) (reg w 11) (bv w 21 11) (bv w 18 3) (bv w 15 2)) else
  none

/-- Major m15, bits 6:0 = 0x1D. -/
def decodeM15 (w : Nat) : Option Instr :=
  if fld w 19 6 = 0 then some (.amoadd (reg w 7) (reg w 11) (reg w 15) (bv w 29 3) (reg w 25)) else
  if fld w 19 6 = 1 then some (.amoswap (reg w 7) (reg w 11) (reg w 15) (bv w 29 3) (reg w 25)) else
  if fld w 19 6 = 2 then some (.amoand (reg w 7) (reg w 11) (reg w 15) (bv w 29 3) (reg w 25)) else
  if fld w 19 6 = 3 then some (.amoor (reg w 7) (reg w 11) (reg w 15) (bv w 29 3) (reg w 25)) else
  if fld w 19 6 = 4 then some (.amoxor (reg w 7) (reg w 11) (reg w 15) (bv w 29 3) (reg w 25)) else
  if fld w 19 6 = 5 then some (.amomin (reg w 7) (reg w 11) (reg w 15) (bv w 29 3) (reg w 25)) else
  if fld w 19 6 = 6 then some (.amomax (reg w 7) (reg w 11) (reg w 15) (bv w 29 3) (reg w 25)) else
  if fld w 19 6 = 7 then some (.amominn (reg w 7) (reg w 11) (reg w 15) (bv w 29 3) (reg w 25)) else
  if fld w 19 6 = 8 then some (.amomaxn (reg w 7) (reg w 11) (reg w 15) (bv w 29 3) (reg w 25)) else
  none

/-- Major m16, bits 6:0 = 0x20. -/
def decodeM16 (w : Nat) : Option Instr :=
  if fld w 24 8 = 0 then some (.cas (reg w 7) (reg w 11) (reg w 15) (bv w 19 3) (bv w 22 2)) else
  none

/-- Major m17, bits 6:0 = 0x21. -/
def decodeM17 (w : Nat) : Option Instr :=
  if fld w 7 12 = 0 ∧ fld w 24 8 = 0 then some (.fence (bv w 22 2) (bv w 19 3)) else
  none

/-- Major m18, bits 6:0 = 0x24. -/
def decodeM18 (w : Nat) : Option Instr :=
  some (.br (reg w 7) (reg w 11) (bv w 15 3) (bv w 18 14))

/-- Major m19, bits 6:0 = 0x25. -/
def decodeM19 (w : Nat) : Option Instr :=
  if fld w 7 4 = 0 then some (.j (bv w 11 21)) else
  none

/-- Major m20, bits 6:0 = 0x28. -/
def decodeM20 (w : Nat) : Option Instr :=
  some (.jal (reg w 7) (bv w 11 21))

/-- Major m21, bits 6:0 = 0x29. -/
def decodeM21 (w : Nat) : Option Instr :=
  if fld w 7 4 = 0 then some (.jr (reg w 11) (bv w 15 17)) else
  none

/-- Major m22, bits 6:0 = 0x2C. -/
def decodeM22 (w : Nat) : Option Instr :=
  some (.jalr (reg w 7) (reg w 11) (bv w 15 17))

/-- Major m23, bits 6:0 = 0x2D. -/
def decodeM23 (w : Nat) : Option Instr :=
  if fld w 7 25 = 0 then some .region else
  none

/-- Major m24, bits 6:0 = 0x30. -/
def decodeM24 (w : Nat) : Option Instr :=
  if fld w 7 25 = 0 then some .tend else
  none

/-- Major m25, bits 6:0 = 0x31. -/
def decodeM25 (w : Nat) : Option Instr :=
  if fld w 15 17 = 0 then some (.spawn (reg w 7) (reg w 11)) else
  none

/-- Major m26, bits 6:0 = 0x34. -/
def decodeM26 (w : Nat) : Option Instr :=
  if fld w 15 17 = 0 then some (.spawnr (reg w 7) (reg w 11)) else
  none

/-- Major m27, bits 6:0 = 0x35. -/
def decodeM27 (w : Nat) : Option Instr :=
  if fld w 19 3 = 0 ∧ fld w 30 2 = 0 then some (.depset (reg w 7) (reg w 11) (reg w 15) (bv w 22 8)) else
  if fld w 11 11 = 0 ∧ fld w 30 2 = 1 then some (.deprd (reg w 7) (bv w 22 8)) else
  none

/-- Major m28, bits 6:0 = 0x38. -/
def decodeM28 (w : Nat) : Option Instr :=
  if fld w 7 4 = 0 ∧ fld w 15 4 = 0 then some (.depdec (reg w 11) (bv w 19 3) (bv w 22 10)) else
  none

/-- Major m29, bits 6:0 = 0x39. -/
def decodeM29 (w : Nat) : Option Instr :=
  if fld w 19 13 = 0 then some (.rcall (reg w 7) (reg w 11) (reg w 15)) else
  none

/-- Major m30, bits 6:0 = 0x3C. -/
def decodeM30 (w : Nat) : Option Instr :=
  if fld w 7 4 = 0 ∧ fld w 19 13 = 0 then some (.rreply (reg w 11) (reg w 15)) else
  none

/-- Major m31, bits 6:0 = 0x3D. -/
def decodeM31 (w : Nat) : Option Instr :=
  if fld w 7 4 = 0 then some (.migrate (reg w 11) (bv w 15 17)) else
  none

/-- Major m32, bits 6:0 = 0x40. -/
def decodeM32 (w : Nat) : Option Instr :=
  if fld w 11 8 = 0 then some (.arrive (reg w 7) (bv w 19 3) (bv w 22 10)) else
  none

/-- Major m33, bits 6:0 = 0x41. -/
def decodeM33 (w : Nat) : Option Instr :=
  if fld w 7 4 = 0 ∧ fld w 15 4 = 0 then some (.waitb (reg w 11) (bv w 19 3) (bv w 22 10)) else
  none

/-- Major m34, bits 6:0 = 0x44. -/
def decodeM34 (w : Nat) : Option Instr :=
  if fld w 7 8 = 0 then some (.barcfg (reg w 15) (bv w 19 3) (bv w 22 10)) else
  none

/-- Major m35, bits 6:0 = 0x45. -/
def decodeM35 (w : Nat) : Option Instr :=
  if fld w 26 6 = 0 then some (.waitw (reg w 7) (reg w 11) (reg w 15) (bv w 19 3) (bv w 22 3) (bit w 25)) else
  none

/-- Major m36, bits 6:0 = 0x48. -/
def decodeM36 (w : Nat) : Option Instr :=
  if fld w 11 4 = 0 ∧ fld w 27 5 = 0 then some (.csrr (reg w 7) (bv w 15 12)) else
  none

/-- Major m37, bits 6:0 = 0x49. -/
def decodeM37 (w : Nat) : Option Instr :=
  if fld w 27 5 = 0 then some (.csrw (reg w 7) (reg w 11) (bv w 15 12)) else
  none

/-- Major m38, bits 6:0 = 0x4C. -/
def decodeM38 (w : Nat) : Option Instr :=
  if fld w 27 5 = 0 then some (.csrs (reg w 7) (reg w 11) (bv w 15 12)) else
  none

/-- Major m39, bits 6:0 = 0x4D. -/
def decodeM39 (w : Nat) : Option Instr :=
  if fld w 27 5 = 0 then some (.csrc (reg w 7) (reg w 11) (bv w 15 12)) else
  none

/-- Major m40, bits 6:0 = 0x50. -/
def decodeM40 (w : Nat) : Option Instr :=
  if fld w 7 8 = 0 ∧ fld w 31 1 = 0 then some (.trap (bv w 15 16)) else
  none

/-- Major m41, bits 6:0 = 0x51. -/
def decodeM41 (w : Nat) : Option Instr :=
  if fld w 7 25 = 0 then some .eret else
  none

/-- Major m42, bits 6:0 = 0x54. -/
def decodeM42 (w : Nat) : Option Instr :=
  if fld w 7 8 = 0 ∧ fld w 31 1 = 0 then some (.brk (bv w 15 16)) else
  none

/-- Major m43, bits 6:0 = 0x55. -/
def decodeM43 (w : Nat) : Option Instr :=
  if fld w 10 1 = 0 ∧ fld w 15 6 = 0 then some (.tld (bv w 7 3) (reg w 11) (bv w 21 11)) else
  none

/-- Major m44, bits 6:0 = 0x58. -/
def decodeM44 (w : Nat) : Option Instr :=
  if fld w 10 1 = 0 ∧ fld w 15 6 = 0 then some (.tst (bv w 7 3) (reg w 11) (bv w 21 11)) else
  none

/-- Major m45, bits 6:0 = 0x59. -/
def decodeM45 (w : Nat) : Option Instr :=
  if fld w 10 22 = 0 then some (.tzero (bv w 7 3)) else
  none

/-- Major m46, bits 6:0 = 0x5C. -/
def decodeM46 (w : Nat) : Option Instr :=
  if fld w 9 6 = 0 ∧ fld w 19 13 = 0 then some (.azero (bv w 7 2) (bv w 15 3) (bit w 18)) else
  none

/-- Major m47, bits 6:0 = 0x5D. -/
def decodeM47 (w : Nat) : Option Instr :=
  if fld w 11 4 = 0 ∧ fld w 30 2 = 0 then some (.mdrain (bv w 23 2) (bv w 25 5) (reg w 7) (bv w 15 8)) else
  if fld w 30 2 = 1 then some (.mdrainG (bv w 23 2) (bv w 25 5) (reg w 7) (bv w 15 8) (reg w 11)) else
  none

/-- Major m48, bits 6:0 = 0x60. -/
def decodeM48 (w : Nat) : Option Instr :=
  if fld w 30 2 = 0 then some (.mdrains (bv w 23 2) (bv w 25 5) (reg w 7) (bv w 15 8) (reg w 11)) else
  none

/-- Major m49, bits 6:0 = 0x61. -/
def decodeM49 (w : Nat) : Option Instr :=
  if fld w 7 4 = 0 ∧ fld w 16 16 = 0 then some (.mslot (bit w 15) (reg w 11)) else
  none

/-- Major m50, bits 6:0 = 0x64. -/
def decodeM50 (w : Nat) : Option Instr :=
  if fld w 15 14 = 0 ∧ fld w 30 2 = 0 then some (.cpy (reg w 7) (reg w 11) (bit w 29)) else
  none

/-- Major m51, bits 6:0 = 0x65. -/
def decodeM51 (w : Nat) : Option Instr :=
  if fld w 11 4 = 0 ∧ fld w 19 3 = 0 ∧ fld w 24 8 = 0 then some (.cpwait (reg w 7) (reg w 15) (bv w 22 2)) else
  none

/-- Major m52, bits 6:0 = 0x68. -/
def decodeM52 (w : Nat) : Option Instr :=
  if fld w 11 21 = 0 then some (.cvpt (reg w 7)) else
  none

/-- Major m53, bits 6:0 = 0x69. -/
def decodeM53 (w : Nat) : Option Instr :=
  if fld w 7 4 = 0 ∧ fld w 15 17 = 0 then some (.cvdone (reg w 11)) else
  none

/-- Major m54, bits 6:0 = 0x6C. -/
def decodeM54 (w : Nat) : Option Instr :=
  if fld w 11 4 = 0 ∧ fld w 18 14 = 0 then some (.cvstat (reg w 7) (bv w 15 3)) else
  none

/-- Major m55, bits 6:0 = 0x6D. -/
def decodeM55 (w : Nat) : Option Instr :=
  if fld w 7 4 = 0 ∧ fld w 31 1 = 0 then some (.vxset (reg w 11) (bv w 15 16)) else
  if fld w 31 1 = 1 then some (.hset (reg w 7) (reg w 11) (bv w 15 16)) else
  none

/-- Major m56, bits 6:0 = 0x70. -/
def decodeM56 (w : Nat) : Option Instr :=
  if fld w 7 4 = 0 then some (.vxadd (reg w 11) (bv w 15 17)) else
  none

/-- Major m57, bits 6:0 = 0x71. -/
def decodeM57 (w : Nat) : Option Instr :=
  if fld w 15 17 = 0 then some (.chstat (reg w 7) (reg w 11)) else
  none

/-- Major m58, bits 6:0 = 0x74. -/
def decodeM58 (w : Nat) : Option Instr :=
  if fld w 7 4 = 0 ∧ fld w 15 17 = 0 then some (.chclose (reg w 11)) else
  none

/-- Major m59, bits 6:0 = 0x75. -/
def decodeM59 (w : Nat) : Option Instr :=
  if fld w 7 4 = 0 ∧ fld w 19 13 = 0 then some (.psend (reg w 11) (reg w 15)) else
  none

/-- Major m60, bits 6:0 = 0x78. -/
def decodeM60 (w : Nat) : Option Instr :=
  if fld w 15 17 = 0 then some (.precv (reg w 7) (reg w 11)) else
  none

/-- The 32-bit instruction of a word whose fixed bits it matches. -/
def decode32 (w : Nat) : Option Instr :=
  match w % 128 with
  | 0x0 => decodeM0 w
  | 0x1 => decodeM1 w
  | 0x4 => decodeM2 w
  | 0x5 => decodeM3 w
  | 0x8 => decodeM4 w
  | 0x9 => decodeM5 w
  | 0xc => decodeM6 w
  | 0xd => decodeM7 w
  | 0x10 => decodeM8 w
  | 0x11 => decodeM9 w
  | 0x14 => decodeM10 w
  | 0x15 => decodeM11 w
  | 0x18 => decodeM12 w
  | 0x19 => decodeM13 w
  | 0x1c => decodeM14 w
  | 0x1d => decodeM15 w
  | 0x20 => decodeM16 w
  | 0x21 => decodeM17 w
  | 0x24 => decodeM18 w
  | 0x25 => decodeM19 w
  | 0x28 => decodeM20 w
  | 0x29 => decodeM21 w
  | 0x2c => decodeM22 w
  | 0x2d => decodeM23 w
  | 0x30 => decodeM24 w
  | 0x31 => decodeM25 w
  | 0x34 => decodeM26 w
  | 0x35 => decodeM27 w
  | 0x38 => decodeM28 w
  | 0x39 => decodeM29 w
  | 0x3c => decodeM30 w
  | 0x3d => decodeM31 w
  | 0x40 => decodeM32 w
  | 0x41 => decodeM33 w
  | 0x44 => decodeM34 w
  | 0x45 => decodeM35 w
  | 0x48 => decodeM36 w
  | 0x49 => decodeM37 w
  | 0x4c => decodeM38 w
  | 0x4d => decodeM39 w
  | 0x50 => decodeM40 w
  | 0x51 => decodeM41 w
  | 0x54 => decodeM42 w
  | 0x55 => decodeM43 w
  | 0x58 => decodeM44 w
  | 0x59 => decodeM45 w
  | 0x5c => decodeM46 w
  | 0x5d => decodeM47 w
  | 0x60 => decodeM48 w
  | 0x61 => decodeM49 w
  | 0x64 => decodeM50 w
  | 0x65 => decodeM51 w
  | 0x68 => decodeM52 w
  | 0x69 => decodeM53 w
  | 0x6c => decodeM54 w
  | 0x6d => decodeM55 w
  | 0x70 => decodeM56 w
  | 0x71 => decodeM57 w
  | 0x74 => decodeM58 w
  | 0x75 => decodeM59 w
  | 0x78 => decodeM60 w
  | _ => none

/-- The fields of a V64 word (R97). -/
def v64Of (w : Nat) : V64 :=
  { d := bv w 32 8, a := bv w 40 8, b := bv w 48 8, c := bv w 56 8, fmtA := bv w 28 3, fmtB := bv w 25 3
    sgnB := bit w 24, sgnA := bit w 23, sat := bit w 22, rnd := bv w 20 2, mask := bv w 17 3, etype := bv w 13 4 }

/-- The fields of a VI word (R98). -/
def viOf (w : Nat) : VI :=
  { d := bv w 32 8, a := bv w 40 8, imm := bv w 48 16, fmtA := bv w 28 3, fmtB := bv w 25 3
    sgnB := bit w 24, sgnA := bit w 23, sat := bit w 22, rnd := bv w 20 2, mask := bv w 17 3, etype := bv w 13 4 }

/-- The fields of an M64 word (R99). -/
def m64Of (w : Nat) : M64 :=
  { ow := bit w 41, ksteps := bv w 34 7, fmtB := bv w 31 3, fmtA := bv w 28 3, etypeB := bv w 24 4, etypeA := bv w 20 4
    sgnB := bit w 19, sgnA := bit w 18, semiring := bv w 15 3, tileB := bv w 12 3, tileA := bv w 9 3, acc := bv w 7 2 }

/-- Majors n0 to n6 by funct6 (R111). -/
def decodeV (n fn : Nat) (f : V64) : Option Instr :=
  match n with
  | 0 => match fn with
    | 0 => some (.vadd f)
    | 1 => some (.vsub f)
    | 2 => some (.vmul f)
    | 3 => some (.vfma f)
    | 4 => some (.vfms f)
    | 5 => some (.vdiv f)
    | 6 => some (.vmin f)
    | 7 => some (.vmax f)
    | 8 => some (.vabs f)
    | 9 => some (.vneg f)
    | 10 => some (.vand f)
    | 11 => some (.vor f)
    | 12 => some (.vxor f)
    | 13 => some (.vandn f)
    | 14 => some (.vshl f)
    | 15 => some (.vshr f)
    | 16 => some (.vsar f)
    | 17 => some (.vcmp f)
    | 18 => some (.vsel f)
    | 19 => some (.vclamp f)
    | _ => none
  | 1 => match fn with
    | 0 => some (.vcvt f)
    | 1 => some (.vscale f)
    | 2 => some (.vdot f)
    | _ => none
  | 2 => match fn with
    | 0 => some (.vred f)
    | 1 => some (.vargmax f)
    | 2 => some (.vgumbel f)
    | _ => none
  | 3 => match fn with
    | 0 => some (.vmov f)
    | 1 => some (.vbcast f)
    | 2 => some (.vextr f)
    | 3 => some (.vins f)
    | 4 => some (.vperm f)
    | 5 => some (.vslide f)
    | 6 => some (.vcomp f)
    | _ => none
  | 4 => match fn with
    | 0 => some (.vexp2 f)
    | 1 => some (.vlog2 f)
    | 2 => some (.vrcp f)
    | 3 => some (.vrsqrt f)
    | 4 => some (.vsqrt f)
    | 5 => some (.vsin f)
    | 6 => some (.vcos f)
    | 7 => some (.vtanh f)
    | 8 => some (.vsigm f)
    | _ => none
  | 5 => match fn with
    | 0 => some (.vld f)
    | 1 => some (.vst f)
    | 2 => some (.vlds f)
    | 3 => some (.vsts f)
    | 4 => some (.vgather f)
    | 5 => some (.vscatter f)
    | _ => none
  | 6 => match fn with
    | 0 => some (.mop f)
    | 1 => some (.mpop f)
    | 2 => some (.mfirst f)
    | 3 => some (.mset f)
    | _ => none
  | _ => none

/-- Major n7 by funct6 (R98, R111). -/
def decodeVi (fn : Nat) (f : VI) : Option Instr :=
  match fn with
  | 0 => some (.vaddVi f)
  | 1 => some (.vsubVi f)
  | 2 => some (.vmulVi f)
  | 5 => some (.vdivVi f)
  | 6 => some (.vminVi f)
  | 7 => some (.vmaxVi f)
  | 10 => some (.vandVi f)
  | 11 => some (.vorVi f)
  | 12 => some (.vxorVi f)
  | 13 => some (.vandnVi f)
  | 14 => some (.vshlVi f)
  | 15 => some (.vshrVi f)
  | 16 => some (.vsarVi f)
  | _ => none

/-- The literal forms p0 to p3 by funct6 (R100, R112). -/
def decodeLit (p fn : Nat) (f : V64) (l : W32) : Option Instr :=
  match p with
  | 0 => match fn with
    | 0 => some (.vaddLit f l)
    | 1 => some (.vsubLit f l)
    | 2 => some (.vmulLit f l)
    | 3 => some (.vfmaLit f l)
    | 4 => some (.vfmsLit f l)
    | 5 => some (.vdivLit f l)
    | 6 => some (.vminLit f l)
    | 7 => some (.vmaxLit f l)
    | 8 => some (.vabsLit f l)
    | 9 => some (.vnegLit f l)
    | 10 => some (.vandLit f l)
    | 11 => some (.vorLit f l)
    | 12 => some (.vxorLit f l)
    | 13 => some (.vandnLit f l)
    | 14 => some (.vshlLit f l)
    | 15 => some (.vshrLit f l)
    | 16 => some (.vsarLit f l)
    | 17 => some (.vcmpLit f l)
    | 18 => some (.vselLit f l)
    | 19 => some (.vclampLit f l)
    | _ => none
  | 1 => match fn with
    | 0 => some (.vcvtLit f l)
    | 1 => some (.vscaleLit f l)
    | 2 => some (.vdotLit f l)
    | _ => none
  | 2 => match fn with
    | 0 => some (.vredLit f l)
    | 1 => some (.vargmaxLit f l)
    | 2 => some (.vgumbelLit f l)
    | _ => none
  | 3 => match fn with
    | 0 => some (.vmovLit f l)
    | 2 => some (.vextrLit f l)
    | 4 => some (.vpermLit f l)
    | 5 => some (.vslideLit f l)
    | 6 => some (.vcompLit f l)
    | _ => none
  | _ => none

/-- A 64-bit instruction: V64 and VI with bit 31 zero, M64 with bits 63:42 zero. -/
def decode64 (w : Nat) : Option Instr :=
  let n := w / 4 % 32
  if n < 7 then (if bit w 31 then none else decodeV n (fld w 7 6) (v64Of w))
  else if n = 7 then (if bit w 31 then none else decodeVi (fld w 7 6) (viOf w))
  else if n = 8 then (if fld w 42 22 = 0 then some (.mma (m64Of w)) else none)
  else none

/-- A 96-bit instruction: a literal form, LIL or ADDL (R100, R101). -/
def decode96 (w : Nat) : Option Instr :=
  let p := w / 4 % 32
  if p < 4 then (if bit w 31 then none else decodeLit p (fld w 7 6) (v64Of w) (bv w 64 32))
  else if p = 16 then (if fld w 11 53 = 0 then some (.lil (reg w 7) (bv w 64 32)) else none)
  else if p = 17 then (if fld w 15 49 = 0 then some (.addl (reg w 7) (reg w 11) (bv w 64 32)) else none)
  else none

/-- Why a word is not an instruction: cause and TVAL (R116). -/
structure Defect where
  cause : Byte
  tval : Word
  deriving DecidableEq, Repr

/-- Length in bytes, from the first word (R92). -/
def lengthOf (w : Nat) : Nat := if w % 4 = 2 then 8 else if w % 4 = 3 then 12 else 4

/-- "Instruction bits 63:0" (R116). -/
def instrBits (w : Nat) : Word := .ofNat 64 (if lengthOf w = 4 then w % 2 ^ 32 else w)

/-- The literal form of VBCAST or VINS, which has no source specifier: a count of zero (R100, R116) unless a field that
it reserves comes first, under the container widths that the core's FMT registers give. -/
def literalDefect (fmt : BitVec 3 → Option Nat) (w : Nat) : Option Defect :=
  let op (x : Machine.VOp) : Option Defect :=
    if bit w 31 || (VIns.ofLit x (v64Of w) 0).reserved fmt then none
    else some { cause := Cause.specReserved, tval := 2 ^ 42 }
  if w % 128 = 0x0F then (if fld w 7 6 = 1 then op .vbcast else if fld w 7 6 = 3 then op .vins else none) else none

/-- The defect of a word pattern that is not an instruction, in the order of R116. -/
def defectOf (fmt : BitVec 3 → Option Nat) (w : Nat) : Defect :=
  match majorDefect w with
  | some c => { cause := c, tval := instrBits w }
  | none =>
    match selector (w % 2 ^ 64) with
    | some c => { cause := c, tval := instrBits w }
    | none =>
      if w % 128 = 0x75 ∨ w % 128 = 0x78 then { cause := Cause.notTranslated, tval := instrBits w }
      else (literalDefect fmt w).getD { cause := Cause.reservedField, tval := instrBits w }

/-- A native instruction's form by its length. -/
def decodeForm (w : Nat) : Option Instr :=
  if w % 4 = 2 then decode64 w else if w % 4 = 3 then decode96 w else decode32 w

/-- A native instruction from its bits, or the defect with every nf container of 8 bits (R92, R115); a strand's core has
widths of its own. -/
def decode (w : Nat) : Except Defect Instr :=
  match decodeForm w with
  | some i => .ok i
  | none => .error (defectOf (fun _ => some 8) w)

/-- The instruction that the decoder reads from table bits (the bits above nbits are zero). -/
def decodeTableWord (nbits w : Nat) : Option Instr :=
  match decode (w % 2 ^ nbits) with
  | .ok i => some i
  | .error _ => none

/-! ## Agent instructions -/

/-- An agent instruction from its 64-bit word; none where a field it does not read is not zero, or the opcode is
unassigned (R319 to R321, R323, R326, R333). -/
def decodeAgent (w : Nat) : Option Instr :=
  match w % 256 with
  | 1 => if fld w 12 20 = 0 then some (.cnew (bv w 8 4) (bv w 32 32)) else none
  | 2 => if fld w 16 48 = 0 then some (.cfork (bv w 8 4) (bv w 12 4)) else none
  | 3 => if fld w 12 52 = 0 then some (.cdrop (bv w 8 4)) else none
  | 4 => if fld w 12 7 = 0 ∧ fld w 22 42 = 0 then some (.ctrim (bv w 8 4) (bv w 19 3)) else none
  | 5 => if fld w 8 4 = 0 ∧ fld w 19 45 = 0 then some (.clen (bv w 16 3) (bv w 12 4)) else none
  | 6 => if fld w 8 4 = 0 ∧ fld w 22 42 = 0 then some (.ctok (bv w 16 3) (bv w 12 4) (bv w 19 3)) else none
  | 7 => if fld w 12 7 = 0 ∧ fld w 22 10 = 0 then some (.cappend (bv w 8 4) (bv w 19 3) (bv w 32 32)) else none
  | 8 => if fld w 12 7 = 0 ∧ fld w 22 42 = 0 then some (.cappt (bv w 8 4) (bv w 19 3)) else none
  | 9 => if fld w 12 4 = 0 ∧ fld w 22 42 = 0 then some (.cgen (bv w 8 4) (bv w 16 3) (bv w 19 3)) else none
  | 10 => if fld w 8 4 = 0 ∧ fld w 22 10 = 0 then some (.cscore (bv w 16 3) (bv w 12 4) (bv w 19 3) (bv w 32 32)) else none
  | 11 => if fld w 12 4 = 0 ∧ fld w 22 10 = 0 then some (.cchoose (bv w 8 4) (bv w 16 3) (bv w 19 3) (bv w 32 32)) else none
  | 12 => if fld w 8 4 = 0 ∧ fld w 19 3 = 0 ∧ fld w 25 39 = 0 then some (.cinfo (bv w 16 3) (bv w 12 4) (bv w 22 3)) else none
  | 13 => if fld w 12 7 = 0 ∧ fld w 25 39 = 0 then some (.csets (bv w 8 4) (bv w 19 3) (bv w 22 3)) else none
  | 14 => if fld w 12 7 = 0 ∧ fld w 25 39 = 0 then some (.csetx (bv w 8 4) (bv w 19 3) (bv w 22 3)) else none
  | 15 => if fld w 12 20 = 0 then some (.cbind (bv w 8 4) (bv w 32 32)) else none
  | 16 => if fld w 8 8 = 0 ∧ fld w 19 3 = 0 ∧ fld w 23 9 = 0 then
      (if bit w 22 then some (.glih (bv w 16 3) (bv w 32 32)) else some (.gli (bv w 16 3) (bv w 32 32))) else none
  | 17 => if fld w 8 8 = 0 ∧ fld w 23 9 = 0 ∧ (fld w 22 1 = 0 → fld w 32 32 = 0) ∧ (fld w 22 1 = 1 → fld w 19 3 = 0) then some (.gadd (bv w 16 3) (bit w 22) (bv w 19 3) (bv w 32 32)) else none
  | 18 => if fld w 8 8 = 0 ∧ fld w 23 9 = 0 ∧ (fld w 22 1 = 0 → fld w 32 32 = 0) ∧ (fld w 22 1 = 1 → fld w 19 3 = 0) then some (.gsub (bv w 16 3) (bit w 22) (bv w 19 3) (bv w 32 32)) else none
  | 19 => if fld w 8 8 = 0 ∧ fld w 23 9 = 0 ∧ (fld w 22 1 = 0 → fld w 32 32 = 0) ∧ (fld w 22 1 = 1 → fld w 19 3 = 0) then some (.gmul (bv w 16 3) (bit w 22) (bv w 19 3) (bv w 32 32)) else none
  | 20 => if fld w 8 8 = 0 ∧ fld w 26 6 = 0 ∧ (fld w 22 1 = 0 → fld w 32 32 = 0) ∧ (fld w 22 1 = 1 → fld w 19 3 = 0) then some (.gcmp (bv w 16 3) (bit w 22) (bv w 19 3) (bv w 32 32) (bv w 23 3)) else none
  | 21 => if fld w 8 8 = 0 ∧ fld w 23 9 = 0 then some (.gld (bv w 16 3) (bv w 19 3) (bit w 22) (bv w 32 32)) else none
  | 22 => if fld w 8 8 = 0 ∧ fld w 23 9 = 0 then some (.gst (bv w 16 3) (bv w 19 3) (bit w 22) (bv w 32 32)) else none
  | 23 => if fld w 8 14 = 0 ∧ fld w 23 9 = 0 then some (.gb (bit w 22) (bv w 32 32)) else none
  | 24 => if fld w 8 24 = 0 then some (.gj (bv w 32 32)) else none
  | 25 => if fld w 8 24 = 0 then some (.gcall (bv w 32 32)) else none
  | 26 => if fld w 8 56 = 0 then some .gret else none
  | 27 => if fld w 8 8 = 0 ∧ fld w 22 10 = 0 then some (.gsig (bv w 16 3) (bv w 19 3) (bv w 32 32)) else none
  | 28 => if fld w 8 8 = 0 ∧ fld w 22 1 = 0 ∧ fld w 26 6 = 0 then some (.gwait (bv w 16 3) (bv w 19 3) (bv w 23 3) (bv w 32 32)) else none
  | 29 => if fld w 8 56 = 0 then some .gyield else none
  | 30 => if fld w 8 24 = 0 then some (.gpri (bv w 32 32)) else none
  | 31 => if fld w 8 11 = 0 ∧ fld w 22 42 = 0 then some (.ghalt (bv w 19 3)) else none
  | _ => none

/-! ## Packets -/

/-- The header's part that the execution needs (R371). -/
def hdrOf (w : Nat) : Hdr := { len := fld w 16 16, report := bit w 48, cont := bit w 49, tag := bv w 64 64 }

/-- A packet from its bits: one of the table's packets, or a bad packet with its type (R371, R373, R377, R379). -/
def decodePacket (w : Nat) : Packet :=
  let h := hdrOf w
  let ty : Byte := bv w 8 8
  if fld w 50 14 ≠ 0 then .badPacket h ty
  else match ty.toNat with
    | 0 => .nop h
    | 1 => if h.len = 48 ∧ fld w 320 64 = 0 then .launch h (bv w 128 64) (bv w 192 64) (bv w 256 64) else .badPacket h ty
    | 2 => if h.len = 48 ∧ fld w 264 56 = 0 then .waits h (bv w 128 64) (bv w 192 64) (bv w 256 8) (bv w 320 64) else .badPacket h ty
    | 3 => if h.len = 48 ∧ fld w 264 120 = 0 then .signal h (bv w 128 64) (bv w 192 64) (bv w 256 8) else .badPacket h ty
    | 4 => if h.len = 48 ∧ fld w 264 56 = 0 then .cond h (bv w 128 64) (bv w 192 64) (bv w 256 8) (bv w 320 64) else .badPacket h ty
    | 5 => if h.len = 48 ∧ fld w 320 64 = 0 then .rearm h (bv w 128 64) (bv w 192 64) (bv w 256 64) else .badPacket h ty
    | 6 => if h.len = 48 then .copyh h (bv w 128 64) (bv w 192 64) (bv w 256 64) (bv w 320 64) else .badPacket h ty
    | 7 => if h.len = 64 ∧ fld w 352 32 = 0 ∧ fld w 448 64 = 0 then .ring h (bv w 128 16) (bv w 144 16) (bv w 160 32) (bv w 192 64) (bv w 256 64) (bv w 320 32) (bv w 384 64) else .badPacket h ty
    | 8 => if h.len = 32 ∧ fld w 192 64 = 0 then .tstamp h (bv w 128 64) else .badPacket h ty
    | 9 => if h.len = 16 then .fencePacket h else .badPacket h ty
    | 10 => if h.len = 48 ∧ fld w 144 48 = 0 then
      match fld w 128 8 with
      | 0 => .agentCreate h (bv w 136 8) (bv w 192 64) (bv w 256 64) (bv w 320 64)
      | 1 => .agentSuspend h (bv w 136 8) (bv w 192 64) (bv w 256 64) (bv w 320 64)
      | 2 => .agentResume h (bv w 136 8) (bv w 192 64) (bv w 256 64) (bv w 320 64)
      | 3 => .agentRemove h (bv w 136 8) (bv w 192 64) (bv w 256 64) (bv w 320 64)
      | 4 => .agentExport h (bv w 136 8) (bv w 192 64) (bv w 256 64) (bv w 320 64)
      | 5 => .agentImport h (bv w 136 8) (bv w 192 64) (bv w 256 64) (bv w 320 64)
      | _ => .badPacket h ty
      else .badPacket h ty
    | 11 => if h.len = 48 ∧ fld w 136 56 = 0 then
      match fld w 128 8 with
      | 0 => .ctxnew h (bv w 192 64) (bv w 256 64) (bv w 320 64)
      | 1 => .ctxfree h (bv w 192 64) (bv w 256 64) (bv w 320 64)
      | 2 => .inval h (bv w 192 64) (bv w 256 64) (bv w 320 64)
      | 3 => .qctlModel h (bv w 192 64) (bv w 256 64) (bv w 320 64)
      | 4 => .qctlMask h (bv w 192 64) (bv w 256 64) (bv w 320 64)
      | 5 => .qctlFreq h (bv w 192 64) (bv w 256 64) (bv w 320 64)
      | 6 => .partition h (bv w 192 64) (bv w 256 64) (bv w 320 64)
      | _ => .badPacket h ty
      else .badPacket h ty
    | 12 => if h.len = 48 ∧ fld w 144 16 = 0 ∧ fld w 320 64 = 0 then .roleset h (bv w 128 8) (bv w 136 8) (bv w 160 32) (bv w 192 64) (bv w 256 64) else .badPacket h ty
    | _ => .badPacket h ty

/-! ## Encoders -/

/-- A field placed at bit `lo`. -/
def put {n : Nat} (b : BitVec n) (lo : Nat) : Nat := b.toNat * 2 ^ lo
/-- A one-bit field placed at bit `lo`. -/
def putB (b : Bool) (lo : Nat) : Nat := b.toNat * 2 ^ lo

/-- A V64 word of a major and a funct6 (R97). -/
def encV (mb fn : Nat) (f : V64) : Nat :=
  mb + fn * 2 ^ 7 + put f.etype 13 + put f.mask 17 + put f.rnd 20 + putB f.sat 22
    + putB f.sgnA 23 + putB f.sgnB 24 + put f.fmtB 25 + put f.fmtA 28
    + put f.d 32 + put f.a 40 + put f.b 48 + put f.c 56

/-- A VI word of a funct6 (R98). -/
def encVI (fn : Nat) (f : VI) : Nat :=
  30 + fn * 2 ^ 7 + put f.etype 13 + put f.mask 17 + put f.rnd 20 + putB f.sat 22
    + putB f.sgnA 23 + putB f.sgnB 24 + put f.fmtB 25 + put f.fmtA 28
    + put f.d 32 + put f.a 40 + put f.imm 48

/-- An M64 word (R99). -/
def encM (f : M64) : Nat :=
  34 + put f.acc 7 + put f.tileA 9 + put f.tileB 12 + put f.semiring 15
    + putB f.sgnA 18 + putB f.sgnB 19 + put f.etypeA 20 + put f.etypeB 24
    + put f.fmtA 28 + put f.fmtB 31 + put f.ksteps 34 + putB f.ow 41

/-- The bits of a 32-bit instruction. -/
def encode32 : Instr → Option Nat
  | .add d a b => some (put d 7 + put a 11 + put b 15)
  | .sub d a b => some (0x80000 + put d 7 + put a 11 + put b 15)
  | .mul d a b => some (0x100000 + put d 7 + put a 11 + put b 15)
  | .mulh d a b => some (0x180000 + put d 7 + put a 11 + put b 15)
  | .mulhn d a b => some (0x200000 + put d 7 + put a 11 + put b 15)
  | .div d a b => some (0x280000 + put d 7 + put a 11 + put b 15)
  | .divn d a b => some (0x300000 + put d 7 + put a 11 + put b 15)
  | .rem d a b => some (0x380000 + put d 7 + put a 11 + put b 15)
  | .remn d a b => some (0x400000 + put d 7 + put a 11 + put b 15)
  | .and d a b => some (0x480000 + put d 7 + put a 11 + put b 15)
  | .or d a b => some (0x500000 + put d 7 + put a 11 + put b 15)
  | .xor d a b => some (0x580000 + put d 7 + put a 11 + put b 15)
  | .andn d a b => some (0x600000 + put d 7 + put a 11 + put b 15)
  | .shl d a b => some (0x680000 + put d 7 + put a 11 + put b 15)
  | .shr d a b => some (0x700000 + put d 7 + put a 11 + put b 15)
  | .sar d a b => some (0x780000 + put d 7 + put a 11 + put b 15)
  | .min d a b => some (0x800000 + put d 7 + put a 11 + put b 15)
  | .max d a b => some (0x880000 + put d 7 + put a 11 + put b 15)
  | .minn d a b => some (0x900000 + put d 7 + put a 11 + put b 15)
  | .maxn d a b => some (0x980000 + put d 7 + put a 11 + put b 15)
  | .slt d a b => some (0xa00000 + put d 7 + put a 11 + put b 15)
  | .sltn d a b => some (0xa80000 + put d 7 + put a 11 + put b 15)
  | .clz d a => some (0xb00000 + put d 7 + put a 11)
  | .ctz d a => some (0xb80000 + put d 7 + put a 11)
  | .popc d a => some (0xc00000 + put d 7 + put a 11)
  | .sext d a w => some (0xc80000 + put d 7 + put a 11 + put w 29)
  | .zext d a w => some (0xd00000 + put d 7 + put a 11 + put w 29)
  | .addi d a imm => some (0x1 + put d 7 + put a 11 + put imm 15)
  | .andi d a imm => some (0x4 + put d 7 + put a 11 + put imm 15)
  | .ori d a imm => some (0x5 + put d 7 + put a 11 + put imm 15)
  | .xori d a imm => some (0x8 + put d 7 + put a 11 + put imm 15)
  | .shli d a sh => some (0x9 + put d 7 + put a 11 + put sh 15)
  | .shri d a sh => some (0xc + put d 7 + put a 11 + put sh 15)
  | .sari d a sh => some (0xd + put d 7 + put a 11 + put sh 15)
  | .slti d a imm => some (0x10 + put d 7 + put a 11 + put imm 15)
  | .lih d a imm => some (0x11 + put d 7 + put a 11 + put imm 15)
  | .fadd d a b dbl => some (0x14 + put d 7 + put a 11 + put b 15 + putB dbl 29)
  | .fsub d a b dbl => some (0x80014 + put d 7 + put a 11 + put b 15 + putB dbl 29)
  | .fmul d a b dbl => some (0x100014 + put d 7 + put a 11 + put b 15 + putB dbl 29)
  | .fdiv d a b dbl => some (0x180014 + put d 7 + put a 11 + put b 15 + putB dbl 29)
  | .fsqrt d a dbl => some (0x200014 + put d 7 + put a 11 + putB dbl 29)
  | .fma d a b c dbl => some (0x280014 + put d 7 + put a 11 + put b 15 + put c 25 + putB dbl 29)
  | .fmin d a b dbl => some (0x300014 + put d 7 + put a 11 + put b 15 + putB dbl 29)
  | .fmax d a b dbl => some (0x380014 + put d 7 + put a 11 + put b 15 + putB dbl 29)
  | .feq d a b dbl => some (0x400014 + put d 7 + put a 11 + put b 15 + putB dbl 29)
  | .flt d a b dbl => some (0x40400014 + put d 7 + put a 11 + put b 15 + putB dbl 29)
  | .fle d a b dbl => some (0x80400014 + put d 7 + put a 11 + put b 15 + putB dbl 29)
  | .funord d a b dbl => some (0xc0400014 + put d 7 + put a 11 + put b 15 + putB dbl 29)
  | .fcvt d a rsel xc sel dbl => some (0x480014 + put d 7 + put a 11 + put rsel 15 + put xc 25 + put sel 30 + putB dbl 29)
  | .fclass d a dbl => some (0x500014 + put d 7 + put a 11 + putB dbl 29)
  | .ld t a off sx size => some (0x15 + put t 7 + put a 11 + put off 21 + putB sx 17 + put size 15)
  | .st t a off size => some (0x18 + put t 7 + put a 11 + put off 21 + put size 15)
  | .lda t a off scope sx size => some (0x19 + put t 7 + put a 11 + put off 21 + put scope 18 + putB sx 17 + put size 15)
  | .stl t a off scope size => some (0x1c + put t 7 + put a 11 + put off 21 + put scope 18 + put size 15)
  | .amoadd d a b scope size => some (0x1d + put d 7 + put a 11 + put b 15 + put scope 29 + put size 25)
  | .amoswap d a b scope size => some (0x8001d + put d 7 + put a 11 + put b 15 + put scope 29 + put size 25)
  | .amoand d a b scope size => some (0x10001d + put d 7 + put a 11 + put b 15 + put scope 29 + put size 25)
  | .amoor d a b scope size => some (0x18001d + put d 7 + put a 11 + put b 15 + put scope 29 + put size 25)
  | .amoxor d a b scope size => some (0x20001d + put d 7 + put a 11 + put b 15 + put scope 29 + put size 25)
  | .amomin d a b scope size => some (0x28001d + put d 7 + put a 11 + put b 15 + put scope 29 + put size 25)
  | .amomax d a b scope size => some (0x30001d + put d 7 + put a 11 + put b 15 + put scope 29 + put size 25)
  | .amominn d a b scope size => some (0x38001d + put d 7 + put a 11 + put b 15 + put scope 29 + put size 25)
  | .amomaxn d a b scope size => some (0x40001d + put d 7 + put a 11 + put b 15 + put scope 29 + put size 25)
  | .cas d a b scope size => some (0x20 + put d 7 + put a 11 + put b 15 + put scope 19 + put size 22)
  | .fence kind scope => some (0x21 + put kind 22 + put scope 19)
  | .br a b cond off => some (0x24 + put a 7 + put b 11 + put cond 15 + put off 18)
  | .j off => some (0x25 + put off 11)
  | .jal d off => some (0x28 + put d 7 + put off 11)
  | .jr a imm => some (0x29 + put a 11 + put imm 15)
  | .jalr d a imm => some (0x2c + put d 7 + put a 11 + put imm 15)
  | .region => some (0x2d)
  | .tend => some (0x30)
  | .spawn d a => some (0x31 + put d 7 + put a 11)
  | .spawnr d a => some (0x34 + put d 7 + put a 11)
  | .depset d a b c => some (0x35 + put d 7 + put a 11 + put b 15 + put c 22)
  | .deprd d c => some (0x40000035 + put d 7 + put c 22)
  | .depdec a scope n => some (0x38 + put a 11 + put scope 19 + put n 22)
  | .rcall d a b => some (0x39 + put d 7 + put a 11 + put b 15)
  | .rreply a b => some (0x3c + put a 11 + put b 15)
  | .migrate a imm => some (0x3d + put a 11 + put imm 15)
  | .arrive d scope id => some (0x40 + put d 7 + put scope 19 + put id 22)
  | .waitb a scope id => some (0x41 + put a 11 + put scope 19 + put id 22)
  | .barcfg b scope id => some (0x44 + put b 15 + put scope 19 + put id 22)
  | .waitw d a b scope cond dbl => some (0x45 + put d 7 + put a 11 + put b 15 + put scope 19 + put cond 22 + putB dbl 25)
  | .csrr d csr => some (0x48 + put d 7 + put csr 15)
  | .csrw d a csr => some (0x49 + put d 7 + put a 11 + put csr 15)
  | .csrs d a csr => some (0x4c + put d 7 + put a 11 + put csr 15)
  | .csrc d a csr => some (0x4d + put d 7 + put a 11 + put csr 15)
  | .trap n => some (0x50 + put n 15)
  | .eret => some (0x51)
  | .brk n => some (0x54 + put n 15)
  | .tld t a off => some (0x55 + put t 7 + put a 11 + put off 21)
  | .tst t a off => some (0x58 + put t 7 + put a 11 + put off 21)
  | .tzero t => some (0x59 + put t 7)
  | .azero n sr int => some (0x5c + put n 7 + put sr 15 + putB int 18)
  | .mdrain acc row0 n d => some (0x5d + put acc 23 + put row0 25 + put n 7 + put d 15)
  | .mdrainG acc row0 n d a => some (0x4000005d + put acc 23 + put row0 25 + put n 7 + put d 15 + put a 11)
  | .mdrains acc row0 n d a => some (0x60 + put acc 23 + put row0 25 + put n 7 + put d 15 + put a 11)
  | .mslot half a => some (0x61 + putB half 15 + put a 11)
  | .cpy d a nb => some (0x64 + put d 7 + put a 11 + putB nb 29)
  | .cpwait d b ch => some (0x65 + put d 7 + put b 15 + put ch 22)
  | .cvpt d => some (0x68 + put d 7)
  | .cvdone a => some (0x69 + put a 11)
  | .cvstat d sel => some (0x6c + put d 7 + put sel 15)
  | .vxset a imm => some (0x6d + put a 11 + put imm 15)
  | .hset h a imm => some (0x8000006d + put h 7 + put a 11 + put imm 15)
  | .vxadd a imm => some (0x70 + put a 11 + put imm 15)
  | .chstat d k => some (0x71 + put d 7 + put k 11)
  | .chclose k => some (0x74 + put k 11)
  | .psend a b => some (0x75 + put a 11 + put b 15)
  | .precv d a => some (0x78 + put d 7 + put a 11)
  | _ => none

/-- The bits of a 64-bit instruction. -/
def encode64 : Instr → Option Nat
  | .vadd f => some (encV 2 0 f)
  | .vsub f => some (encV 2 1 f)
  | .vmul f => some (encV 2 2 f)
  | .vfma f => some (encV 2 3 f)
  | .vfms f => some (encV 2 4 f)
  | .vdiv f => some (encV 2 5 f)
  | .vmin f => some (encV 2 6 f)
  | .vmax f => some (encV 2 7 f)
  | .vabs f => some (encV 2 8 f)
  | .vneg f => some (encV 2 9 f)
  | .vand f => some (encV 2 10 f)
  | .vor f => some (encV 2 11 f)
  | .vxor f => some (encV 2 12 f)
  | .vandn f => some (encV 2 13 f)
  | .vshl f => some (encV 2 14 f)
  | .vshr f => some (encV 2 15 f)
  | .vsar f => some (encV 2 16 f)
  | .vcmp f => some (encV 2 17 f)
  | .vsel f => some (encV 2 18 f)
  | .vclamp f => some (encV 2 19 f)
  | .vcvt f => some (encV 6 0 f)
  | .vscale f => some (encV 6 1 f)
  | .vdot f => some (encV 6 2 f)
  | .vred f => some (encV 10 0 f)
  | .vargmax f => some (encV 10 1 f)
  | .vgumbel f => some (encV 10 2 f)
  | .vmov f => some (encV 14 0 f)
  | .vbcast f => some (encV 14 1 f)
  | .vextr f => some (encV 14 2 f)
  | .vins f => some (encV 14 3 f)
  | .vperm f => some (encV 14 4 f)
  | .vslide f => some (encV 14 5 f)
  | .vcomp f => some (encV 14 6 f)
  | .vexp2 f => some (encV 18 0 f)
  | .vlog2 f => some (encV 18 1 f)
  | .vrcp f => some (encV 18 2 f)
  | .vrsqrt f => some (encV 18 3 f)
  | .vsqrt f => some (encV 18 4 f)
  | .vsin f => some (encV 18 5 f)
  | .vcos f => some (encV 18 6 f)
  | .vtanh f => some (encV 18 7 f)
  | .vsigm f => some (encV 18 8 f)
  | .vld f => some (encV 22 0 f)
  | .vst f => some (encV 22 1 f)
  | .vlds f => some (encV 22 2 f)
  | .vsts f => some (encV 22 3 f)
  | .vgather f => some (encV 22 4 f)
  | .vscatter f => some (encV 22 5 f)
  | .mop f => some (encV 26 0 f)
  | .mpop f => some (encV 26 1 f)
  | .mfirst f => some (encV 26 2 f)
  | .mset f => some (encV 26 3 f)
  | .vaddVi f => some (encVI 0 f)
  | .vsubVi f => some (encVI 1 f)
  | .vmulVi f => some (encVI 2 f)
  | .vdivVi f => some (encVI 5 f)
  | .vminVi f => some (encVI 6 f)
  | .vmaxVi f => some (encVI 7 f)
  | .vandVi f => some (encVI 10 f)
  | .vorVi f => some (encVI 11 f)
  | .vxorVi f => some (encVI 12 f)
  | .vandnVi f => some (encVI 13 f)
  | .vshlVi f => some (encVI 14 f)
  | .vshrVi f => some (encVI 15 f)
  | .vsarVi f => some (encVI 16 f)
  | .mma f => some (encM f)
  | _ => none

/-- The bits of a 96-bit instruction. -/
def encode96 : Instr → Option Nat
  | .vaddLit f l => some (encV 3 0 f + put l 64)
  | .vsubLit f l => some (encV 3 1 f + put l 64)
  | .vmulLit f l => some (encV 3 2 f + put l 64)
  | .vfmaLit f l => some (encV 3 3 f + put l 64)
  | .vfmsLit f l => some (encV 3 4 f + put l 64)
  | .vdivLit f l => some (encV 3 5 f + put l 64)
  | .vminLit f l => some (encV 3 6 f + put l 64)
  | .vmaxLit f l => some (encV 3 7 f + put l 64)
  | .vabsLit f l => some (encV 3 8 f + put l 64)
  | .vnegLit f l => some (encV 3 9 f + put l 64)
  | .vandLit f l => some (encV 3 10 f + put l 64)
  | .vorLit f l => some (encV 3 11 f + put l 64)
  | .vxorLit f l => some (encV 3 12 f + put l 64)
  | .vandnLit f l => some (encV 3 13 f + put l 64)
  | .vshlLit f l => some (encV 3 14 f + put l 64)
  | .vshrLit f l => some (encV 3 15 f + put l 64)
  | .vsarLit f l => some (encV 3 16 f + put l 64)
  | .vcmpLit f l => some (encV 3 17 f + put l 64)
  | .vselLit f l => some (encV 3 18 f + put l 64)
  | .vclampLit f l => some (encV 3 19 f + put l 64)
  | .vcvtLit f l => some (encV 7 0 f + put l 64)
  | .vscaleLit f l => some (encV 7 1 f + put l 64)
  | .vdotLit f l => some (encV 7 2 f + put l 64)
  | .vredLit f l => some (encV 11 0 f + put l 64)
  | .vargmaxLit f l => some (encV 11 1 f + put l 64)
  | .vgumbelLit f l => some (encV 11 2 f + put l 64)
  | .vmovLit f l => some (encV 15 0 f + put l 64)
  | .vextrLit f l => some (encV 15 2 f + put l 64)
  | .vpermLit f l => some (encV 15 4 f + put l 64)
  | .vslideLit f l => some (encV 15 5 f + put l 64)
  | .vcompLit f l => some (encV 15 6 f + put l 64)
  | .lil d lit => some (67 + put d 7 + put lit 64)
  | .addl d a lit => some (71 + put d 7 + put a 11 + put lit 64)
  | _ => none

/-- The bits of a native instruction: none for agent instructions, packets and events. -/
def encode (i : Instr) : Option Nat := (encode32 i).or ((encode64 i).or (encode96 i))

/-- The word of an agent instruction (R319). -/
def encodeAgent : Instr → Option Nat
  | .cnew cd imm => some (1 + put cd 8 + put imm 32)
  | .cfork cd cs => some (2 + put cd 8 + put cs 12)
  | .cdrop cd => some (3 + put cd 8)
  | .ctrim cd gs => some (4 + put cd 8 + put gs 19)
  | .clen gd cs => some (5 + put gd 16 + put cs 12)
  | .ctok gd cs gs => some (6 + put gd 16 + put cs 12 + put gs 19)
  | .cappend cd gs imm => some (7 + put cd 8 + put gs 19 + put imm 32)
  | .cappt cd gs => some (8 + put cd 8 + put gs 19)
  | .cgen cd gd gs => some (9 + put cd 8 + put gd 16 + put gs 19)
  | .cscore gd cs gs imm => some (10 + put gd 16 + put cs 12 + put gs 19 + put imm 32)
  | .cchoose cd gd gs imm => some (11 + put cd 8 + put gd 16 + put gs 19 + put imm 32)
  | .cinfo gd cs sel => some (12 + put gd 16 + put cs 12 + put sel 22)
  | .csets cd gs sel => some (13 + put cd 8 + put gs 19 + put sel 22)
  | .csetx cd gs sel => some (14 + put cd 8 + put gs 19 + put sel 22)
  | .cbind cd imm => some (15 + put cd 8 + put imm 32)
  | .gli gd imm => some (16 + put gd 16 + put imm 32)
  | .glih gd imm => some (16 + put gd 16 + 2 ^ 22 + put imm 32)
  | .gadd gd i gs imm => some (17 + put gd 16 + putB i 22 + put gs 19 + put imm 32)
  | .gsub gd i gs imm => some (18 + put gd 16 + putB i 22 + put gs 19 + put imm 32)
  | .gmul gd i gs imm => some (19 + put gd 16 + putB i 22 + put gs 19 + put imm 32)
  | .gcmp gd i gs imm cond => some (20 + put gd 16 + putB i 22 + put gs 19 + put imm 32 + put cond 23)
  | .gld gd gs w imm => some (21 + put gd 16 + put gs 19 + putB w 22 + put imm 32)
  | .gst gd gs w imm => some (22 + put gd 16 + put gs 19 + putB w 22 + put imm 32)
  | .gb sense imm => some (23 + putB sense 22 + put imm 32)
  | .gj imm => some (24 + put imm 32)
  | .gcall imm => some (25 + put imm 32)
  | .gret => some (26)
  | .gsig gd gs imm => some (27 + put gd 16 + put gs 19 + put imm 32)
  | .gwait gd gs cond imm => some (28 + put gd 16 + put gs 19 + put cond 23 + put imm 32)
  | .gyield => some (29)
  | .gpri imm => some (30 + put imm 32)
  | .ghalt gs => some (31 + put gs 19)
  | _ => none

/-- The header of a packet without MARK and CHECK (R371). -/
def packetHead (ty : Nat) (h : Hdr) : Nat :=
  ty * 2 ^ 8 + h.len * 2 ^ 16 + putB h.report 48 + putB h.cont 49 + put h.tag 64

/-- The bytes of a packet as one number, MARK and CHECK zero (R371, R373). -/
def encodePacket : Packet → Option Nat
  | .nop h => some (packetHead 0 h)
  | .launch h desc sigaddr sigval => some (packetHead 1 h + put desc 128 + put sigaddr 192 + put sigval 256)
  | .waits h addr value cond timeout => some (packetHead 2 h + put addr 128 + put value 192 + put cond 256 + put timeout 320)
  | .signal h addr value op => some (packetHead 3 h + put addr 128 + put value 192 + put op 256)
  | .cond h addr value cond target => some (packetHead 4 h + put addr 128 + put value 192 + put cond 256 + put target 320)
  | .rearm h base size target => some (packetHead 5 h + put base 128 + put size 192 + put target 256)
  | .copyh h src dst bytes sigaddr => some (packetHead 6 h + put src 128 + put dst 192 + put bytes 256 + put sigaddr 320)
  | .ring h ringid vector entries base headaddr thresh timeout => some (packetHead 7 h + put ringid 128 + put vector 144 + put entries 160 + put base 192 + put headaddr 256 + put thresh 320 + put timeout 384)
  | .tstamp h addr => some (packetHead 8 h + put addr 128)
  | .fencePacket h => some (packetHead 9 h)
  | .agentCreate h ceil record entry image => some (packetHead 10 h + 0 * 2 ^ 128 + put ceil 136 + put record 192 + put entry 256 + put image 320)
  | .agentSuspend h ceil record entry image => some (packetHead 10 h + 1 * 2 ^ 128 + put ceil 136 + put record 192 + put entry 256 + put image 320)
  | .agentResume h ceil record entry image => some (packetHead 10 h + 2 * 2 ^ 128 + put ceil 136 + put record 192 + put entry 256 + put image 320)
  | .agentRemove h ceil record entry image => some (packetHead 10 h + 3 * 2 ^ 128 + put ceil 136 + put record 192 + put entry 256 + put image 320)
  | .agentExport h ceil record entry image => some (packetHead 10 h + 4 * 2 ^ 128 + put ceil 136 + put record 192 + put entry 256 + put image 320)
  | .agentImport h ceil record entry image => some (packetHead 10 h + 5 * 2 ^ 128 + put ceil 136 + put record 192 + put entry 256 + put image 320)
  | .ctxnew h arg0 arg1 arg2 => some (packetHead 11 h + 0 * 2 ^ 128 + put arg0 192 + put arg1 256 + put arg2 320)
  | .ctxfree h arg0 arg1 arg2 => some (packetHead 11 h + 1 * 2 ^ 128 + put arg0 192 + put arg1 256 + put arg2 320)
  | .inval h arg0 arg1 arg2 => some (packetHead 11 h + 2 * 2 ^ 128 + put arg0 192 + put arg1 256 + put arg2 320)
  | .qctlModel h arg0 arg1 arg2 => some (packetHead 11 h + 3 * 2 ^ 128 + put arg0 192 + put arg1 256 + put arg2 320)
  | .qctlMask h arg0 arg1 arg2 => some (packetHead 11 h + 4 * 2 ^ 128 + put arg0 192 + put arg1 256 + put arg2 320)
  | .qctlFreq h arg0 arg1 arg2 => some (packetHead 11 h + 5 * 2 ^ 128 + put arg0 192 + put arg1 256 + put arg2 320)
  | .partition h arg0 arg1 arg2 => some (packetHead 11 h + 6 * 2 ^ 128 + put arg0 192 + put arg1 256 + put arg2 320)
  | .roleset h towers mode maps deadline evac => some (packetHead 12 h + put towers 128 + put mode 136 + put maps 160 + put deadline 192 + put evac 256)
  | _ => none

end Sys2Proof
end

