-- ==== Sys2Proof/Config.lean ====
section
/-!
DEFINITION. What an implementation fixes, and the free values: constants without a body, so that a statement about them
holds whatever they are. The log entry of each is named in its docstring.
-/

namespace Sys2Proof.Config

/-- The pick among the values that a bound of the spec allows: applied to the function's number and its operand (R228,
R348: one device returns the same bits for the same operand every time). Log 7. -/
opaque pick : Nat → Nat → Nat

/-- The logit of a token at a position of a model of class other than 0 (R318): applied to the counter of steps, the
model id, the number of tokens before the position and the token, as a binary32 pattern. Log 8. -/
opaque logit : Nat → Nat → Nat → Nat → W32

/-- The logit of a token that an early-exit head gives (R356), applied as `logit` is. Log 8. -/
opaque headLogit : Nat → Nat → Nat → Nat → W32

/-- Whether the configuration record lists a role map for a tower (R18, R22): applied to the tower and the map. Log 9. -/
opaque mapListed : Nat → Nat → Bool
/-- The initial role map of a tower in the configuration record (R29). Log 9. -/
opaque initialMap : Nat → Nat
/-- The initial frequency of a deck in the configuration record, in units of 0.1 GHz (R29). Log 9. -/
opaque initialFreq : Nat → Nat
/-- FEID, from the configuration record and the firmware (R383). Log 9. -/
opaque feid : Word
/-- RLBASE, PWBASE and PWLIMIT as the configuration record names them (R383). Log 9. -/
opaque fwReg : Nat → Word
/-- The module identity of the configuration record (R405). Log 9. -/
opaque identity : Word
/-- The SHA-256 of the configuration record (R405). Log 9. -/
opaque recordHash : BitVec 256
/-- The ECDSA signature of a report (R405), applied to the counter of free values and the report's first 64 bytes. Log 9. -/
opaque signature : Nat → V512 → V512

/-- The entry of a bad CONT group that an access translates through (R259): applied to the counter of free values;
0 is the entry's own page, k + 1 the group through entry k. Log 10. -/
opaque badGroup : Nat → Nat

/-- Where the front end places a logical core (R73 leaves the choice): the index among the free aligned physical
clusters, applied to the counter of free values. Log 11. -/
opaque place : Nat → Nat

/-- The TVAL of a cause for which no rule gives a value: applied to the counter of free values. Log 14. -/
opaque openTval : Nat → Word

/-- What VPERM and VSLIDE find in the elements of a shaped source past its last (R227 reads the whole of a and b, and no rule
gives those a value): applied to the counter of free values and to the position and the lane. Log 74. -/
opaque openLane : Nat → Nat → Nat

/-- How many KV blocks with a reference the memory of the module holds (R322 gives no number). Log 18. -/
opaque kvBlocks : Nat

/-- The size and the bytes of a checkpoint image, whose layout belongs to the firmware (R419): applied to the counter of
free values. Log 19. -/
opaque imageSize : Nat → Nat
opaque imageBytes : Nat → Nat

end Sys2Proof.Config
end

