-- ==== Sys2Proof/Machine/State.lean ====
section
/-!
DEFINITION. The state of a T9 module as plain data, the reasons a step can stop, and the state after power-on.

Keys. A logical core of a context is `ctx * 2048 + y * 64 + x`; a strand is `core * 16 + slot`; a physical core is
`deck * 128 + y * 16 + x` with deck `4 * tower + deck`; a stage is `launch * 16 + stage`.
Locations. A physical byte outside region 0 has its 52-bit address as location, a region-0 byte the location of its
pinned view (R256), and offset o of a logical core's scratchpad the location `2^56 + core * 2^21 + o`.
-/

namespace Sys2Proof.Machine

/-- Why the machine stops. -/
inductive Fault where
  /-- Raised by `step` when the agenda names an agent or a thread that does not exist. Safe: the model stops where no
  unit of the hardware could act. -/
  | noSuchUnit
  deriving DecidableEq, Repr

/-- Why an instruction has no meaning. -/
inductive Refusal where
  /-- Raised by an arm of `exec` whose instruction has no meaning yet, by its mnemonic. Safe: the model stops. -/
  | notModelled (mnemonic : String)
  deriving DecidableEq, Repr

/-- Whose turn it is. The order of turns is the model's input: every order of it is a run of the machine. -/
inductive Turn where
  /-- A strand issues, or an idle one sleeps. -/
  | strand (k : Nat)
  /-- An agent issues. -/
  | agent (id : Nat)
  /-- A front-end thread fetches a packet and starts it. -/
  | thread (t : Nat)
  /-- A unit takes a step of its own, or the outside world acts. -/
  | event (i : Instr)
  /-- Reference ticks pass. -/
  | time (n : Nat)
  /-- The front end's choices for the turns that follow: the queues that a walk puts off (R370), or the cores of a step's launch,
  and those of its check stages (R330, R356). -/
  | choose (picks checks : List Nat)
  deriving DecidableEq, Repr

/-! ## Compute machine -/

/-- A task in a queue, in flight or held (R69, R81, R82). -/
structure Task where
  entry : Word
  xs : Vector Word 16
  id : BitVec 48
  /-- The FPC a migration carries (R81). -/
  fpc : Option Word
  /-- REFT when the task entered the queue (R406). -/
  enq : Nat
  deriving DecidableEq, Repr

/-- A dependence counter (R156). -/
inductive Ctr where
  | free
  | reserved (slot : Nat)
  | armed (value : Nat) (home : Nat) (t : Task)
  deriving DecidableEq, Repr

/-- A staged operation of a region (R84). -/
inductive Staged where
  | send (k : Nat) (msg : V512)
  | recv (k : Nat)
  | endMark (k : Nat)
  | arm (c : Nat) (value : Nat) (home : Nat) (t : Task)
  | dec (core : Nat) (c : Nat) (amount : Nat)
  | enqueue (home : Nat) (t : Task)
  | cvdone (block : Nat)
  | copy (w0 w1 w2 w3 : Word)
  deriving DecidableEq, Repr

/-- A shape record as an instruction captured it (R205). -/
structure Shape where
  off : Nat
  base : Nat
  ty : Nat
  fsel : Nat
  rdonly : Bool
  rank : Nat
  ext : List Nat
  str : List Int
  deriving DecidableEq, Repr

/-- A vector operation in progress and what it captured at issue (R187, R205, R208). -/
structure VecRun where
  instr : Instr
  beat : Nat
  beats : Nat
  fpc : Word
  fmtA : Word
  fmtB : Word
  key : Word
  pos : Word
  /-- The shapes of operands d, a, b, c. -/
  shapes : List (Option Shape)
  /-- The running value of a reduction over beats, or VARGMAX's state. -/
  acc : V512
  deriving DecidableEq, Repr

/-- What an outstanding reply writes when it arrives (R67, R137). -/
structure Reply where
  len : Nat
  xw : List (XReg × Word)
  /-- A vector destination specifier and its value, which the last-result file takes too. -/
  vw : Option (Spec × V512)
  /-- The decks whose boundary the access crosses (R415). -/
  decks : List Nat
  deriving DecidableEq, Repr

/-- Why a strand is out of rotation (R67, R149). -/
inductive Wait where
  | none
  | reply (r : Reply)
  | vec (v : VecRun)
  | mx
  /-- Waiting for the walker's answer to a CVPT of xd. -/
  | batch (d : XReg)
  /-- Waiting for a phase of a barrier of its context. -/
  | waitb (bar : Nat) (w : Half)
  /-- Waiting for a value in memory, a copy count, with the instruction that waits. -/
  | waitw (i : Instr)
  | cpwait (i : Instr)
  /-- Waiting for the reply to a call, with its continuation identifier (R82). -/
  | rcall (cont : Word)
  /-- Held at its pc until what holds it is gone: an access to memory, or another cause of R67 and R149. -/
  | held (memory : Bool)
  /-- Held with a store or an atomic that has issued: a discard leaves it to complete (R88, R137, R143). -/
  | store (i : Instr)
  deriving DecidableEq, Repr

/-- The architectural state of a strand slot (R61, R113, R386, R387). -/
structure Strand where
  pc : Word
  x : Vector Word 16
  l0 : V512
  l1 : V512
  q : Vector V512 8
  m : Vector Mask 8
  vx : Half
  vxw : Half
  fpc : Word
  taskid : BitVec 48
  rgn : Word
  tActive : Bool
  tCode : Byte
  tpc : Word
  tval : Word
  tvec : Word
  /-- Slot below the count c (R62). -/
  active : Bool
  idle : Bool
  wait : Wait
  staged : List Staged
  /-- Call sequence number (R164) and the outstanding call (R82). -/
  seq : BitVec 13
  call : Option (BitVec 13)
  /-- Arrive and wait epochs for the four check scopes (R270). -/
  epochs : Vector (Half × Half) 4
  /-- Batch held (R296): block number. -/
  batch : Option Nat
  /-- Endpoints this strand has closed (R212). -/
  closed : List Nat
  /-- The next issue is not matched against breakpoints (R390). -/
  exempt : Bool
  /-- Time stamps of the running task, and when the strand became idle (R406). -/
  taskE : Nat
  taskD : Nat
  idleAt : Nat
  /-- When the group of the strand was discarded (R406). -/
  stopAt : Nat
  deriving DecidableEq, Repr

/-- The empty strand of a slot that no launch has used. -/
def Strand.empty : Strand :=
  { pc := 0, x := Vector.replicate 16 0, l0 := 0, l1 := 0, q := Vector.replicate 8 0, m := Vector.replicate 8 0
    vx := 0, vxw := 0, fpc := 0, taskid := 0, rgn := 0, tActive := false, tCode := 0, tpc := 0, tval := 0, tvec := 0
    active := false, idle := true, wait := .none, staged := [], seq := 0, call := none
    epochs := Vector.replicate 4 (0, 0), batch := none, closed := [], exempt := false, taskE := 0, taskD := 0, idleAt := 0
    stopAt := 0 }

/-- A suspended engine access (R393): cause, virtual address, REFT of the record. -/
structure Susp where
  cause : Byte
  va : Word
  since : Nat
  lastTry : Nat
  /-- Delivery offset of the access (R278). -/
  off : Nat
  /-- An INVAL for the context has completed since the last try. -/
  due : Bool
  deriving DecidableEq, Repr

/-- A committed copy job (R274, R278). -/
structure Job where
  launch : Nat
  stage : Nat
  slot : Nat
  w0 : Word
  w1 : Word
  w2 : Word
  w3 : Word
  started : Bool
  /-- The parameter block, once read (R276), and the index list, once read. -/
  block : Option V512
  idx : List Nat
  /-- Bytes delivered in delivery order (R278), and rows of a gather delivered out of order. -/
  done : Nat
  rows : List Nat
  flags : Byte
  susp : Option Susp
  deriving DecidableEq, Repr

/-- A matrix operation, pending or running, with what it captured at issue (R237). -/
structure MxOp where
  slot : Nat
  array : Bool
  instr : Instr
  tcfg : Vector Word 8
  fmts : Vector Word 8
  mcfg : Word
  key : Word
  pos : Word
  temp : Word
  fpc : Word
  xa : Word
  /-- Locations of the 32-byte sectors of each row of a transfer. -/
  rows : List (List Nat)
  /-- Ranges that a transfer touches, and the decks whose boundary it crosses (R275, R415). -/
  span : List (Nat × Nat)
  decks : List Nat
  shape : Option Shape
  running : Bool
  /-- A transfer that runs with a row held at a boundary, its effect still to come (R239). -/
  crossing : Bool
  /-- An MMA that runs on after it has freed the array (R239). -/
  freed : Bool
  flags : Byte
  deriving DecidableEq, Repr

/-- A rectangle of bits of a tile: 32 rows of 128 bytes (R234). -/
abbrev Tile := Vector (BitVec 1024) 32

/-- An accumulator: 32 rows of 32 words, and its tag: float or int with a semiring, or unset (R234). -/
structure Acc where
  rows : Vector (BitVec 1024) 32
  tag : Option (Bool × Nat)
  deriving DecidableEq, Repr

/-- An endpoint as the launch bound it (R75, R77). -/
structure Endpoint where
  send : Bool
  deriving DecidableEq, Repr

/-- A message at its receiver, or the end marker behind it (R76, R212). -/
structure Msg where
  sender : Nat
  ks : Nat
  msg : V512
  /-- The slot whose uncommitted region has taken it. -/
  taken : Option Nat
  deriving DecidableEq, Repr

/-- A logical core of a context: everything its strands share (R61, R113). -/
structure Core where
  launch : Option Nat
  stage : Nat
  /-- Whether the launch holds the core: bound and not completed. -/
  bound : Bool
  mode : Nat
  count : Nat
  sampling : Bool
  tcfg : Vector Word 8
  fmt : Vector Word 8
  mcfg : Word
  smpkey : Word
  smppos : Word
  smptemp : Word
  lrb : Word
  lre : Word
  covctl : Word
  cpwp : Vector Word 4
  h : Vector (BitVec 21) 16
  tiles : Vector Tile 8
  accs : Vector Acc 4
  slots : Vector (BitVec 4) 32
  /-- Main vector file by physical register (R62). -/
  vf : Tbl V512
  /-- Task queue, held tasks, dependence counters, count of new ids (R69, R70, R156, R158). -/
  queue : List Task
  held : List Task
  ctrs : Tbl Ctr
  ids : Nat
  ends : Tbl Endpoint
  /-- Channel slots arriving at the core: size of the reserve below the save slots (R87). -/
  chanSlots : Nat
  jobs : List Job
  /-- Matrix operations: pending ones in issue order and running ones in start order (R237). -/
  mx : List MxOp
  /-- Rotation pointers of the tile port, the array and the vector pipe (R68, R238). -/
  rotTile : Nat
  rotArray : Nat
  rotPipe : Nat
  /-- The slots that issued in the core's last seven issues, the last first: the rotation pointer stands at the first (R66). -/
  issues : List Nat
  /-- The slots whose last instruction was a store, a FENCE other than acq, or one that R149 keeps out of rotation until it is
  accepted or answered: that nothing shows before the slot issues again (R67, R135, R145, R149, R272). -/
  accepting : List Nat
  deriving DecidableEq, Repr

/-- A core of a context that no launch has used. Every rotation pointer stands at slot 0, so that slot 1 comes first: no rule
says where a rotation begins (log 67). -/
def Core.empty : Core :=
  { launch := none, stage := 0, bound := false, mode := 0, count := 0, sampling := false
    tcfg := Vector.replicate 8 0, fmt := Vector.replicate 8 0, mcfg := 0, smpkey := 0, smppos := 0, smptemp := 0
    lrb := 0, lre := 0, covctl := 0, cpwp := Vector.replicate 4 0, h := Vector.replicate 16 0
    tiles := Vector.replicate 8 (Vector.replicate 32 0)
    accs := Vector.replicate 4 { rows := Vector.replicate 32 0, tag := none }
    slots := Vector.replicate 32 0, vf := [], queue := [], held := [], ctrs := [], ids := 1, ends := [], chanSlots := 0
    jobs := [], mx := [], rotTile := 0, rotArray := 0, rotPipe := 0, issues := []
    accepting := [] }

/-- A barrier: participant count, phase, and the arriving groups of phases p and p + 1 (R166, R90). -/
structure Barrier where
  n : Half
  p : Half
  cur : List Nat
  nxt : List Nat
  deriving DecidableEq, Repr

/-- A coverage controller (R294). -/
structure Ctl where
  inuse : Bool
  level : Nat
  streak : Nat
  phase : Nat
  launches : W32
  errsum : Word
  errmax : W32
  count : Nat
  lastmean : Word
  computed : Nat
  audited : Nat
  recon : Nat
  deriving DecidableEq, Repr

/-- A controller at context creation (R294). -/
def Ctl.empty : Ctl :=
  { inuse := false, level := 0, streak := 0, phase := 0, launches := 0, errsum := 0, errmax := 0, count := 0
    lastmean := 0, computed := 0, audited := 0, recon := 0 }

/-- A compute context (R73, R166, R294, R377, R401). -/
structure Ctx where
  root : Nat
  wlog : Nat
  hlog : Nat
  part : Nat
  priv : Bool
  debug : Bool
  /-- Core table: logical `y * 64 + x` to physical core (R73). -/
  place : Tbl Nat
  bars : Tbl Barrier
  ctls : Tbl Ctl
  /-- Debug registers by offset in region 8 (R401). -/
  dbg : Tbl Word
  deriving DecidableEq, Repr

/-- The channel links of a launch: one per sending core (R75). -/
structure Link where
  launch : Nat
  chan : Nat
  sender : Nat
  ks : Nat
  receiver : Nat
  kr : Nat
  slots : Nat
  closed : Bool
  deriving DecidableEq, Repr

/-- A stage of a pipeline descriptor (R376). -/
structure StageDesc where
  entry : Word
  a0 : Word
  a1 : Word
  a2 : Word
  a3 : Word
  x : Nat
  y : Nat
  w : Nat
  h : Nat
  mode : Nat
  count : Nat
  spaddr : Word
  splen : Nat
  cov : Option (BitVec 128)
  deriving DecidableEq, Repr

/-- A channel of a pipeline descriptor (R376). -/
structure ChanDesc where
  from_ : Nat
  ks : Nat
  dest : Nat
  kr : Nat
  slots : Nat
  deriving DecidableEq, Repr

/-- Where a stage of a launch stands. -/
inductive StageSt where
  | running
  /-- Bound, its release still to come (R77, R415). -/
  | held
  /-- Discarded, to be restarted (R88, R89). -/
  | discarded
  | complete
  /-- Ended by a fault, never restarted (R311, R391). -/
  | ended
  deriving DecidableEq, Repr

/-- A core of a pre-empted launch in the context save area (R88, R396): the core, its strands, its messages, its
scratchpad with its poison marks (R265). -/
structure SavedCore where
  core : Core
  strands : Tbl Strand
  inbox : Tbl (List Msg)
  pad : List Host.Cell
  marks : List Nat
  deriving DecidableEq, Repr

/-- A launch that has started (R77, R376). -/
structure Launch where
  ctx : Nat
  qsb : Nat
  prio : Nat
  pkt : Word
  hdr : Hdr
  sigaddr : Word
  sigval : Word
  fpc : Word
  sampling : Bool
  stages : List StageDesc
  chans : List ChanDesc
  sts : List StageSt
  unconsumed : Nat
  discarded : Nat
  /-- Pre-empted for placement and not yet restarted; pre-empted at least once (R396). -/
  preempted : Bool
  everPreempted : Bool
  /-- The cores of a launch whose place another launch has taken, by core. -/
  saved : Tbl SavedCore
  fault : Option Byte
  covBound : Bool
  covFault : Option Word
  /-- The queue whose LAUNCH took the cores, and the address of that packet (R396). -/
  displacer : Option (Nat × Nat)
  /-- Its packet has completed. Offset behind the records of its dump, where one was written (R391, R398). -/
  ended : Bool
  dump : Option Nat
  deriving DecidableEq, Repr

/-- The state of a running coverage stage (R289 to R308). -/
structure Cov where
  ctx : Nat
  ctl : Nat
  record : V512
  block : BitVec 128
  minLevel : Nat
  maxLevel : Nat
  seed : W32
  next : Nat
  returned : List Nat
  /-- Claimed and done blocks with the level and phase they captured. -/
  claimed : List (Nat × Nat × Nat)
  done : List (Nat × Nat × Nat)
  reconstructed : List (Nat × Nat × Nat)
  /-- Strands waiting for the walker, oldest first. -/
  requests : List Nat
  /-- Reconstructed bytes that become visible at completion (R307): location and byte. -/
  values : List (Nat × Byte)
  bound : Bool
  susp : Option Susp
  deriving DecidableEq, Repr

/-- Reader field of a race tag (R270). -/
inductive Reader where
  | none
  | one (strand : Nat) (epoch : Half)
  | many (strands : List Nat) (epoch : Half)
  deriving DecidableEq, Repr

/-- Race tag of a sector (R270): the writer's strand, epoch and atomic flag, the reader, and the check scope of the page
when the tag was last written. -/
structure Tag where
  writer : Option (Nat × Half × Bool)
  reader : Reader
  scope : Nat
  /-- The model's own: the number that the next context had when the tag was written; a context made since finds it empty. -/
  born : Nat
  deriving DecidableEq, Repr

/-- A held translation (R262): context, page base and size, the leaf entry and the physical base. -/
structure TlbEntry where
  ctx : Nat
  base : Nat
  size : Nat
  leaf : Word
  pa : Nat
  deriving DecidableEq, Repr

/-- A decrement in flight (R157, R279): the core it left, the counter, the amount and the group that sent it. -/
structure Decr where
  /-- Its number among all that was sent, by which a boundary knows it (R415). -/
  id : Nat
  src : Nat
  core : Nat
  c : Nat
  amount : Nat
  launch : Nat
  stage : Nat
  deriving DecidableEq, Repr

/-- A call in flight on the fabric (R82): the cores it leaves and reaches, and the group it belongs to. -/
structure Flight where
  id : Nat
  src : Nat
  core : Nat
  task : Task
  launch : Nat
  stage : Nat
  deriving DecidableEq, Repr

/-- A reply in flight (R83): the core it left, continuation identifier and payload, the context of the caller. -/
structure RReply where
  id : Nat
  src : Nat
  ctx : Nat
  cont : Word
  payload : Word
  launch : Nat
  stage : Nat
  deriving DecidableEq, Repr

/-- A store or an atomic that had issued and was held when its group was discarded (R137, R143): its number among all that was
sent, its strand, and the strand and its core as they were. -/
structure Late where
  id : Nat
  strand : Nat
  saved : Strand
  core : Core
  instr : Instr
  deriving DecidableEq, Repr

/-! ## Context machine -/

/-- Progress of a long instruction (R332). -/
structure Progress where
  done : Nat
  total : Nat
  cand : Nat
  psum : W32
  best : Nat
  bscore : W32
  addr : Word
  /-- The model's own: the ids of the present string that have been scored, as they were read (R334, R336). The record holds
  none of them; after a resumption they are read again. -/
  scored : List Nat
  deriving DecidableEq, Repr

/-- PROGRESS of an agent that is not LONG. -/
def Progress.zero : Progress := { done := 0, total := 0, cand := 0, psum := 0, best := 0, bscore := 0, addr := 0, scored := [] }

/-- An agent (R312 to R314, R332). -/
structure Agent where
  home : Nat
  record : Word
  qsb : Nat
  pc : Word
  g : Vector Word 8
  ctxs : Vector Nat 16
  flag : Bool
  prio : Nat
  weight : Nat
  ceil : Nat
  stack : List Word
  st : BitVec 3
  cause : Byte
  tval : Word
  prog : Progress
  deficit : Nat
  resident : Bool
  suspendReq : Bool
  /-- Captured stop-string set and held tokens with their position values (R352, R353). -/
  stops : List (List Nat)
  held : List (Nat × Word)
  /-- The instruction in progress: the long one, or the GWAIT it waits in. -/
  cur : Option Instr
  deriving DecidableEq, Repr

/-- A token context (R315, R329), with its draft state (R355, R358). -/
structure TokCtx where
  model : Nat
  toks : List Nat
  /-- Positions at the tail whose KV is not computed. -/
  pending : Nat
  /-- Pantry entries of the full computed blocks, and the private last block of computed positions. -/
  blocks : List Nat
  last : Option Nat
  key : Word
  temp : W32
  endtok : W32
  mask : W32
  stops : Word
  hold : Bool
  pos : Word
  ring : Nat
  depmin : Nat
  depmax : Nat
  spec : Nat
  thresh : W32
  depth : Nat
  /-- Guesses of the Jacobi window; accepted and drafted counts of the last early-exit steps; steps of fall-back left. -/
  window : Option (List Nat)
  history : List (Nat × Nat)
  jacobi : Nat
  deriving DecidableEq, Repr

/-- A KV block: a pantry entry where it is full, else a private last block (R316, R317). Its place is 0 DRAM, 1 deck
store, 2 cellar tier. -/
structure Block where
  part : Nat
  model : Nat
  parent : Option Nat
  toks : List Nat
  refs : Nat
  place : BitVec 2
  used : Nat
  deriving DecidableEq, Repr

/-- A registered model (R318, R377). -/
structure Model where
  ctx : Nat
  cls : Nat
  log2 : Bool
  v : Nat
  addr : Word
  exit : Nat
  layers : Nat
  deriving DecidableEq, Repr

/-- Positions planned for one agent in a step (R330): the agent, how many, the ids and the mask it read when planned, the
drafts, and the fault it will take at the step's boundary: cause, TVAL, underlying cause. -/
structure Plan where
  agent : Nat
  count : Nat
  ids : List Nat
  drafts : List Nat
  jac : Bool
  mask : Option Nat
  fault : Option (Byte × Word × Nat)
  deriving DecidableEq, Repr

/-- A step in flight (R330, R337), with the logical cores that its launch holds (R363). -/
structure Step where
  plans : List Plan
  retry : Bool
  cores : List Nat
  deriving DecidableEq, Repr

/-- The planner of a partition (R343, R358). -/
structure Planner where
  ring : List Nat
  /-- A visit that has not ended continues in the next step, without a new quantum. -/
  visiting : Bool
  flight : Option Step
  /-- A step that must be planned again as it was, because its launch faulted once (R337). -/
  replan : Option Step
  larder : List ((Nat × Nat × Nat) × List Nat)
  deriving DecidableEq, Repr

/-- A planner with nothing to plan. -/
def Planner.empty : Planner := { ring := [], visiting := false, flight := none, replan := none, larder := [] }

/-! ## Front end -/

/-- A front-end thread and the queue mapped to it (R363, R367, R368, R372). -/
structure Thread where
  qsb : Option Nat
  prio : Nat
  mapped : Nat
  /-- Since when no valid packet was found, packets since a WAITS. -/
  idleSince : Option Nat
  packets : Nat
  /-- When its slice began. -/
  slice : Nat
  unmap : Bool
  latched : Bool
  deriving DecidableEq, Repr

/-- A thread that serves no queue. -/
def Thread.empty : Thread :=
  { qsb := none, prio := 0, mapped := 0, idleSince := none, packets := 0, slice := 0, unmap := false, latched := false }

/-- What an incomplete asynchronous packet waits for (R374). -/
inductive AsyncKind where
  | launch (id : Nat)
  | copyh (src dst bytes sigaddr : Word)
  | inval (ctx : Nat) (va : Word) (bytes : Word)
  /-- Decks of a FREQ whose target is neither reached nor replaced; true for a request that waits for a relock (R416). -/
  | freq (decks : List (Nat × Bool))
  /-- Towers still changing, and the page address of an evacuation that failed. -/
  | roleset (towers : List Nat) (fault : Option Word)
  | agent (id : Nat) (exportTo : Option Word)
  deriving DecidableEq, Repr

/-- An incomplete asynchronous packet. -/
structure Async where
  id : Nat
  qsb : Nat
  pkt : Word
  hdr : Hdr
  kind : AsyncKind
  deriving DecidableEq, Repr

/-- A host ring (R381, R382). -/
structure Ring where
  ctx : Nat
  entries : Nat
  base : Word
  headaddr : Word
  vector : Nat
  thresh : Nat
  timeout : Nat
  written : Nat
  waiting : List (BitVec 256)
  unsignalled : Nat
  oldest : Nat
  deriving DecidableEq, Repr

/-! ## Module -/

/-- A role change under way on a tower (R22 to R26). -/
structure Change where
  cmask : BitVec 4
  release : Bool
  deadline : Nat
  evac : Word
  /-- The ROLESET's asynchronous packet; none for the change of bring-up (R29). -/
  async : Option Nat
  expired : Bool
  deriving DecidableEq, Repr

/-- State of a tower (R20, R23). -/
inductive TowerSt where
  | run
  | drain
  | flush
  | enumerate
  deriving DecidableEq, Repr

/-- A tower (R19, R20, R31). -/
structure Tower where
  st : TowerSt
  cmask : BitVec 4
  part : BitVec 2
  change : Option Change
  trip : Option Nat
  gated : Bool
  deriving DecidableEq, Repr

/-- A deck (R21, R411 to R416). -/
structure Deck where
  cyc : Word
  /-- Tenths of a cycle accumulated since the last whole one. -/
  frac : Nat
  clklog : Word
  cur : Byte
  target : Byte
  ceil : Byte
  relock : Bool
  relockEnd : Nat
  waiting : Option Byte
  /-- A request held while the deck's tower is not in RUN (R27). -/
  pending : Option Byte
  deriving DecidableEq, Repr

/-- A checkpoint round of a partition (R417 to R419): the units that have not taken their edge, each with the inputs whose
marker has come, and the units frozen. -/
structure Round where
  active : Bool
  frozen : Bool
  refused : Bool
  /-- Units have still to take their edges: FROZEN may already be 1 then, from a RESTORE before the round. -/
  pending : Bool
  count : W32
  waiting : List (UnitRef × List InputRef)
  edged : List UnitRef
  deriving DecidableEq, Repr

/-- No round. -/
def Round.empty : Round := { active := false, frozen := false, refused := false, pending := false, count := 0, waiting := [], edged := [] }

/-- The contents of an image (R419), as RESTORE reads them back. -/
structure Image where
  ctxs : Tbl Ctx
  cores : Tbl Core
  strands : Tbl Strand
  pads : List Host.Cell
  marks : List Nat
  launches : Tbl Launch
  links : List Link
  inbox : Tbl (List Msg)
  covs : Tbl Cov
  decrs : List Decr
  calls : List Flight
  replies : List RReply
  /-- Resets of controllers in flight; packets that halt a queue behind its WAITS, and that a ninth one waits for (R374, R380). -/
  covResets : List (Nat × Nat)
  halts : Tbl Nat
  behind : Tbl Nat
  agents : Tbl Agent
  toks : Tbl TokCtx
  asyncs : List Async
  /-- The decks and targets of each FREQ packet. -/
  freqs : Tbl (List (Nat × Byte))
  /-- The queues: QSB, run list, the fields of the QSB. -/
  queues : List (Nat × Nat × Nat)
  deriving DecidableEq, Repr

/-- The state of a module. -/
structure State where
  /-- REFT (R409). -/
  reft : Word
  /-- Memory by location, in canonical form. -/
  mem : List Host.Cell
  /-- Poisoned locations, and locations with a single-bit error that the next read corrects (R265). -/
  poison : List Nat
  soft : List Nat
  /-- DRAM trained (R29); bring-up still under way (R29); the decks whose requested initial step has still to reach its target,
  true for a request that waits for a relock; none before the steps are requested (R29). -/
  trained : Bool
  bringup : Bool
  initial : Option (List (Nat × Bool))
  towers : Vector Tower 4
  decks : Vector Deck 16
  /-- Ranges of region 7 the host maps (R255): offset and length. -/
  hostmap : List (Nat × Nat)
  /-- Race tags by sector (R270). -/
  tags : Tbl Tag
  /-- Translations held by the TLB of a physical core, and of deck d under key 2048 + d (R262). -/
  tlbs : Tbl (List TlbEntry)
  ctxs : Tbl Ctx
  cores : Tbl Core
  strands : Tbl Strand
  launches : Tbl Launch
  links : List Link
  /-- Messages at an endpoint, by `core * 16 + k`. -/
  inbox : Tbl (List Msg)
  covs : Tbl Cov
  covResets : List (Nat × Nat)
  decrs : List Decr
  calls : List Flight
  replies : List RReply
  stale : Nat
  /-- Stores and atomics that outlive the discard of their group (R137, R143). -/
  lates : List Late
  /-- How many decrements, calls, replies and such stores have been sent. -/
  sent : Nat
  /-- Senders whose traffic a relock holds, in the order in which it was held, with the decks whose boundary it crosses
  (R415). -/
  crossing : List (Nat × List Nat)
  agents : Tbl Agent
  toks : Tbl TokCtx
  pantry : Tbl Block
  /-- Models by `part * 4096 + id`, masks by `part * 64 + number`. -/
  models : Tbl Model
  masks : Tbl (Nat × Word)
  planners : Tbl Planner
  threads : Tbl Thread
  asyncs : List Async
  /-- Agents without a slot in the order in which they became ready for one (R344). -/
  slotQueue : List Nat
  /-- Queues that the front end is moving within a list, with priority and the STATE they had (R366, R367); ticks of the wakes
  that made unmapped queues eligible (R370); packets that halt a queue once its WAITS has completed (R380). -/
  moves : List (Nat × Nat × Nat)
  wakes : Tbl Nat
  halts : Tbl Nat
  /-- The packets that the ninth asynchronous packets of queues wait for, mapped or not (R374). -/
  behind : Tbl Nat
  /-- When the packet at RPTR of a queue first mismatched, and that RPTR, mapped or not (R372). -/
  torn : Tbl (Nat × Nat)
  /-- Host rings by `owner * 1024 + id`, owner 0 for the queues with CTX = 0. -/
  rings : Tbl Ring
  /-- Records that wait because 64 already wait for their ring (R381): ring key and record. -/
  reports : List (Nat × BitVec 256)
  /-- Interrupts sent (R382) and thermal events reported (R31). -/
  interrupts : List Nat
  thermal : List Nat
  /-- Device registers of region 8 by offset (R383, R397, R401, R405, R407, R417). -/
  regs : Tbl Word
  walkgen : Word
  reread : Nat
  rounds : Tbl Round
  /-- Images written, by size and bytes (R419, R423). -/
  images : List (Nat × Nat × Image)
  /-- Performance counters by `physical core * 8 + n` (R407); per-partition events by `part * 32 + event` (R408). -/
  perf : Tbl Nat
  perfPart : Tbl Nat
  perfBusy : Option (Nat × Nat × Nat)
  attBusy : Option Nat
  /-- The model's own counters: ids of contexts, launches, agents, handles, blocks; the counter of free values. -/
  nextId : Nat
  fresh : Nat
  /-- The model's own schedule: what acts next, and what the instructions of a strand, an agent, a packet act on. -/
  agenda : List Turn
  picks : List Nat
  checks : List Nat
  fs : Nat
  fa : Nat
  fq : Nat
  deriving DecidableEq, Repr

/-- A deck at power-on: 1.5 GHz under reduced service (R21, R29). -/
def Deck.powerOn : Deck :=
  { cyc := 0, frac := 0, clklog := 0, cur := 15, target := 15, ceil := 15, relock := false, relockEnd := 0, waiting := none, pending := none }

/-- A tower at power-on: C S S S in RUN (R29). -/
def Tower.powerOn : Tower := { st := .run, cmask := 0b0001#4, part := 0, change := none, trip := none, gated := false }

/-- The module right after power-on (R29, R409, R411): reduced service, no context, no queue mapped. -/
def State.reset : State :=
  { reft := 0, mem := [], poison := [], soft := [], trained := false, bringup := true, initial := none
    towers := Vector.replicate 4 Tower.powerOn, decks := Vector.replicate 16 Deck.powerOn
    hostmap := [], tags := [], tlbs := [], ctxs := [], cores := [], strands := [], launches := [], links := []
    inbox := [], covs := [], covResets := [], decrs := [], calls := [], replies := [], stale := 0, lates := [], sent := 0, crossing := []
    agents := [], toks := [], pantry := [], models := [], masks := [], planners := [], threads := [], asyncs := []
    slotQueue := [], moves := [], wakes := [], halts := [], behind := [], torn := []
    rings := [], reports := [], interrupts := [], thermal := [], regs := [], walkgen := 0, reread := 0, rounds := []
    images := [], perf := [], perfPart := [], perfBusy := none, attBusy := none, nextId := 1, fresh := 0
    agenda := [], picks := [], checks := [], fs := 0, fa := 0, fq := 0 }

/-- What a step answers. -/
abbrev Res := Host.Outcome State Fault Refusal

end Sys2Proof.Machine
end

