-- ==== Sys2Proof/Machine/Tables.lean ====
section
/-!
DEFINITION. Sparse tables, the one memory of bytes by location (Host.Cell lists in canonical form) and the State's
accessors. An unlisted byte reads as 0 (log 3).
-/

namespace Sys2Proof.Machine

/-! ## Tables -/

/-- The entry of a key. -/
def Tbl.look {α : Type} : Tbl α → Nat → Option α
  | [], _ => none
  | (j, v) :: r, k => if j = k then some v else Tbl.look r k

/-- The entry of a key, or a default. -/
def Tbl.get {α : Type} (t : Tbl α) (k : Nat) (d : α) : α := (Tbl.look t k).getD d

/-- The table with a key's entry replaced. -/
def Tbl.put {α : Type} : Tbl α → Nat → α → Tbl α
  | [], k, v => [(k, v)]
  | (j, w) :: r, k, v => if k < j then (k, v) :: (j, w) :: r else if j = k then (k, v) :: r else (j, w) :: Tbl.put r k v

/-- The table without a key. -/
def Tbl.del {α : Type} (t : Tbl α) (k : Nat) : Tbl α := List.filter (fun e => e.1 ≠ k) t

/-! ## Memory -/

/-- The canonical form: locations strictly rising, no entry equal to what an unlisted location reads as. -/
abbrev Memory.wf (m : List Host.Cell) : Prop := m.Pairwise (fun c d => c.1 < d.1) ∧ ∀ c ∈ m, c.2 ≠ 0

/-- One byte. -/
def Memory.read : List Host.Cell → Nat → Byte
  | [], _ => 0
  | (b, v) :: r, a => if b = a then v else Memory.read r a

/-- Insert or replace a byte that is not zero. -/
def Memory.insert : List Host.Cell → Nat → Byte → List Host.Cell
  | [], a, v => [(a, v)]
  | (b, w) :: r, a, v =>
    if a < b then (a, v) :: (b, w) :: r else if b = a then (a, v) :: r else (b, w) :: Memory.insert r a v

/-- Write one byte; a zero removes the entry. -/
def Memory.write (m : List Host.Cell) (a : Nat) (v : Byte) : List Host.Cell :=
  if v = 0 then List.filter (fun c => c.1 ≠ a) m else Memory.insert m a v

/-- n bytes from location a, the lowest first (R3). -/
def Memory.readN (m : List Host.Cell) (a : Nat) : Nat → Nat
  | 0 => 0
  | n + 1 => (Memory.read m a).toNat + 256 * Memory.readN m (a + 1) n

/-- Write the low n bytes of a value at location a, the lowest first (R3). -/
def Memory.writeN (m : List Host.Cell) (a : Nat) : Nat → Nat → List Host.Cell
  | 0, _ => m
  | n + 1, v => Memory.writeN (Memory.write m a (.ofNat 8 v)) (a + 1) n (v / 256)

/-- Write the bytes of a value whose enable holds, at location a. -/
def Memory.writeMasked (m : List Host.Cell) (a : Nat) : List Bool → Nat → List Host.Cell
  | [], _ => m
  | e :: r, v => Memory.writeMasked (if e then Memory.write m a (.ofNat 8 v) else m) (a + 1) r (v / 256)

/-! ## Keys -/

/-- Key of a logical core. -/
def coreKey (ctx x y : Nat) : Nat := ctx * 2048 + y * 64 + x
/-- The core of a strand. -/
def coreOf (strand : Nat) : Nat := strand / 16
/-- The slot of a strand. -/
def slotOf (strand : Nat) : Nat := strand % 16
/-- The context of a core. -/
def ctxOf (core : Nat) : Nat := core / 2048
/-- Logical coordinates of a core. -/
def xOf (core : Nat) : Nat := core % 64
def yOf (core : Nat) : Nat := core / 64 % 32
/-- Location of offset `off` of a core's scratchpad. -/
def padLoc (core off : Nat) : Nat := 2 ^ 56 + core * 2 ^ 21 + off

/-! ## Accessors -/

def State.strand (s : State) (k : Nat) : Strand := Tbl.get s.strands k Strand.empty
def State.setStrand (s : State) (k : Nat) (t : Strand) : State := { s with strands := Tbl.put s.strands k t }
def State.core (s : State) (k : Nat) : Core := Tbl.get s.cores k Core.empty
def State.setCore (s : State) (k : Nat) (c : Core) : State := { s with cores := Tbl.put s.cores k c }
def State.ctx (s : State) (c : Nat) : Option Ctx := Tbl.look s.ctxs c
def State.setCtx (s : State) (c : Nat) (x : Ctx) : State := { s with ctxs := Tbl.put s.ctxs c x }
def State.launch (s : State) (l : Nat) : Option Launch := Tbl.look s.launches l
def State.setLaunch (s : State) (l : Nat) (x : Launch) : State := { s with launches := Tbl.put s.launches l x }
def State.setMem (s : State) (m : List Host.Cell) : State := { s with mem := m }

/-- The strand an instruction acts on. -/
def State.cur (s : State) : Strand := s.strand s.fs
/-- The core of that strand. -/
def State.curCore (s : State) : Core := s.core (coreOf s.fs)
def State.setCur (s : State) (t : Strand) : State := s.setStrand s.fs t
def State.setCurCore (s : State) (c : Core) : State := s.setCore (coreOf s.fs) c

/-- x0 reads as zero (R117). -/
def Strand.readX (t : Strand) (r : XReg) : Word := if r = 0 then 0 else t.x[r.toNat]'(by have := r.isLt; simpa using this)
/-- A write to x0 is discarded (R117). -/
def Strand.writeX (t : Strand) (r : XReg) (v : Word) : Strand :=
  if r = 0 then t else { t with x := t.x.set r.toNat v (by have := r.isLt; simpa using this) }
def Strand.setPc (t : Strand) (pc : Word) : Strand := { t with pc := pc }

/-- A scalar register of the current strand. -/
def State.readX (s : State) (r : XReg) : Word := s.cur.readX r
def State.writeX (s : State) (r : XReg) (v : Word) : State := s.setCur (s.cur.writeX r v)
def State.pc (s : State) : Word := s.cur.pc
def State.setPc (s : State) (pc : Word) : State := s.setCur (s.cur.setPc pc)

/-- An element of a fixed register array by a number below its size, by default the first. -/
def Vector.nth {α : Type} {n : Nat} (v : Vector α (n + 1)) (i : Nat) : α :=
  if h : i < n + 1 then v[i] else v[0]
def Vector.upd {α : Type} {n : Nat} (v : Vector α n) (i : Nat) (a : α) : Vector α n := v.setIfInBounds i a

/-- Place and partition of a core: its physical core (R73). -/
def State.phys (s : State) (core : Nat) : Nat :=
  match s.ctx (ctxOf core) with
  | some c => Tbl.get c.place (core % 2048) 0
  | none => 0
/-- Deck of a physical core. -/
def deckOf (phys : Nat) : Nat := phys / 128
def State.deck (s : State) (d : Nat) : Deck := Vector.nth (n := 15) s.decks d
def State.setDeck (s : State) (d : Nat) (x : Deck) : State := { s with decks := Vector.upd s.decks d x }
def State.tower (s : State) (t : Nat) : Tower := Vector.nth (n := 3) s.towers t
def State.setTower (s : State) (t : Nat) (x : Tower) : State := { s with towers := Vector.upd s.towers t x }
/-- A device register held as a plain value. -/
def State.reg (s : State) (off : Nat) : Word := Tbl.get s.regs off 0
def State.setReg (s : State) (off : Nat) (v : Word) : State := { s with regs := Tbl.put s.regs off v }

/-- The unit of a scope that a physical core lies in: 2 cluster, 3 deck, 4 tower, others the module (R106, R166). -/
def unitOf (scope phys : Nat) : Nat :=
  if scope = 2 then deckOf phys * 32 + phys / 32 % 4 * 8 + phys / 2 % 8
  else if scope = 3 then deckOf phys
  else if scope = 4 then deckOf phys / 4
  else 0

/-- Key of a barrier within a context (R166). -/
def barKey (scope unit id : Nat) : Nat := (scope * 1024 + unit) * 16 + id
/-- A barrier at context creation. -/
def Barrier.zero : Barrier := { n := 0, p := 0, cur := [], nxt := [] }
def State.bar (s : State) (ctx key : Nat) : Barrier :=
  match s.ctx ctx with
  | some c => Tbl.get c.bars key Barrier.zero
  | none => Barrier.zero
def State.setBar (s : State) (ctx key : Nat) (b : Barrier) : State :=
  match s.ctx ctx with
  | some c => s.setCtx ctx { c with bars := Tbl.put c.bars key b }
  | none => s

/-- The decks whose boundary traffic between two physical cores crosses (R415). -/
def crossDecks (a b : Nat) : List Nat := if deckOf a = deckOf b then [] else [deckOf a, deckOf b]

/-- The senders that a boundary knows: a strand under its own number, a copy channel, a stage that the front end releases, a
decrement, a call or a reply. -/
def copySender (core ch : Nat) : Nat := 2 ^ 60 + core * 4 + ch
def stageSender (l st : Nat) : Nat := 2 ^ 63 + l * 16 + st
def itemSender (id : Nat) : Nat := 2 ^ 64 + id
/-- An agent, and the front end for a queue, whose accesses reach a core through the mesh window (R430). -/
def agentSender (id : Nat) : Nat := 2 ^ 61 + 2 * id
def queueSender (q : Nat) : Nat := 2 ^ 61 + 2 * q + 1
/-- The front end for an asynchronous packet or a launch, for a ring, for the steps of a partition. -/
def packetSender (id : Nat) : Nat := queueSender (2 ^ 57 + id)
def ringSender (key : Nat) : Nat := queueSender (2 ^ 58 + key)
def plannerSender (part : Nat) : Nat := queueSender (2 ^ 59 + part)

/-- Whether a stage waits for its release or for its restart. -/
def StageSt.waits (x : StageSt) : Bool := x = .held || x = .discarded

/-- Whether traffic that a boundary holds still exists: an item is in flight, a stage waits for its release. -/
def crossLive (s : State) (h : Nat) : Bool :=
  if 2 ^ 64 ≤ h then
    s.decrs.any (fun d => d.id + 2 ^ 64 = h) || s.calls.any (fun f => f.id + 2 ^ 64 = h) || s.replies.any (fun r => r.id + 2 ^ 64 = h)
      || s.lates.any (fun l => l.id + 2 ^ 64 = h)
  else if 2 ^ 63 ≤ h then
    (match s.launch ((h - 2 ^ 63) / 16) with
     | some la => !la.ended && la.sts[(h - 2 ^ 63) % 16]?.any StageSt.waits
     | none => false)
  else if 2 ^ 61 ≤ h && h < 2 ^ 62 then
    let n := (h - 2 ^ 61) / 2
    if h % 2 = 0 then (Tbl.look s.agents n).any (fun a => a.resident && (a.st = 0 || a.st = 2))
    else s.threads.any (fun (e : Nat × Thread) => e.2.qsb = some n)
      || s.asyncs.any (fun (a : Async) => a.id + 2 ^ 57 = n || (2 ^ 57 ≤ n && a.kind = .launch (n - 2 ^ 57)))
      || s.rings.any (fun (r : Nat × Ring) => r.1 + 2 ^ 58 = n && !r.2.waiting.isEmpty)
      || s.planners.any (fun (p : Nat × Planner) => p.1 + 2 ^ 59 = n)
  else true

/-- The boundaries that hold traffic of a sender: those of relocking decks, and those where traffic of another sender was held
earlier and has not been released (R415). -/
def heldAt (s : State) (h : Nat) (ds : List Nat) : List Nat :=
  let ahead := (s.crossing.takeWhile (fun (e : Nat × List Nat) => e.1 ≠ h)).filter (fun (e : Nat × List Nat) => crossLive s e.1)
  ds.filter (fun d => (s.deck d).relock || ahead.any (fun (e : Nat × List Nat) => e.2.contains d))

/-- A sender's traffic is held: it keeps its place in the order. -/
def noteHeld (s : State) (h : Nat) (ds : List Nat) : State :=
  if ds.isEmpty then s
  else if s.crossing.any (fun (e : Nat × List Nat) => e.1 = h) then
    { s with crossing := s.crossing.map (fun (e : Nat × List Nat) => if e.1 = h then (h, ds) else e) }
  else { s with crossing := s.crossing ++ [(h, ds)] }

/-- A sender's held traffic is released, or given up. -/
def dropHeld (s : State) (h : Nat) : State := { s with crossing := s.crossing.filter (fun (e : Nat × List Nat) => e.1 ≠ h) }
/-- A place at a boundary goes over to another sender. -/
def renameHeld (s : State) (a b : Nat) : State :=
  { s with crossing := s.crossing.map (fun (e : Nat × List Nat) => if e.1 = a then (b, e.2) else e) }

/-- A decrement, a call or a reply leaves for the fabric. -/
def State.sendDecr (s : State) (d : Decr) : State := { s with decrs := s.decrs ++ [{ d with id := s.sent }], sent := s.sent + 1 }
def State.sendCall (s : State) (f : Flight) : State := { s with calls := s.calls ++ [{ f with id := s.sent }], sent := s.sent + 1 }
def State.sendReply (s : State) (r : RReply) : State := { s with replies := s.replies ++ [{ r with id := s.sent }], sent := s.sent + 1 }

/-- Traffic between two physical cores is held while their decks differ and either relocks (R415). -/
def relockHeld (s : State) (a b : Nat) : Bool :=
  deckOf a ≠ deckOf b && ((s.deck (deckOf a)).relock || (s.deck (deckOf b)).relock)
/-- Traffic between a deck and what lies outside every deck. -/
def deckRelocks (s : State) (phys : Nat) : Bool := (s.deck (deckOf phys)).relock

/-! ## Performance counters (R407, R408) -/

/-- Count an event at a core: in every counter whose PERFSEL selects it, for a debuggable context (R404). -/
def State.count (s : State) (core ev amount : Nat) : State :=
  match s.ctx (ctxOf core) with
  | some c =>
    if c.debug then
      (List.range 8).foldl (fun (s : State) n =>
        if (s.reg (0x410 + 8 * n)).toNat % 256 = ev then
          let k := s.phys core * 8 + n
          { s with perf := Tbl.put s.perf k ((Tbl.get s.perf k 0 + amount) % 2 ^ 48) }
        else s) s
    else s
  | none => s

/-- The single-bit errors in n bytes at a location are corrected by a read and overwritten by a write; those that a read
corrects in a core's SRAM are counted there (R265, R408). Elsewhere a correction shows nowhere. -/
def correctAt (s : State) (write : Bool) (loc n : Nat) : State :=
  let hit := s.soft.filter (fun a => loc ≤ a && a < loc + n)
  if hit.isEmpty then s
  else
    let s1 := { s with soft := s.soft.filter (fun a => !(hit.contains a)) }
    if write || loc < 2 ^ 56 then s1 else s1.count ((loc - 2 ^ 56) / 2 ^ 21) 15 hit.length

/-- Count an event of the context machine for a partition (R407, R408). -/
def State.countPart (s : State) (part ev amount : Nat) : State :=
  let k := part * 32 + ev
  { s with perfPart := Tbl.put s.perfPart k ((Tbl.get s.perfPart k 0 + amount) % 2 ^ 48) }

/-! ## Roles and checkpoint rounds -/

/-- Whether a deck is in the compute role, whether a change under way changes its role, and whether groups run on it. -/
def deckCompute (s : State) (d : Nat) : Bool := (s.tower (d / 4)).cmask.getLsbD (d % 4)
def deckChanging (s : State) (d : Nat) : Bool :=
  match (s.tower (d / 4)).change with
  | some c => c.cmask.getLsbD (d % 4) != deckCompute s d
  | none => false
def deckServes (s : State) (d : Nat) : Bool := deckCompute s d && !(deckChanging s d) && !(s.tower (d / 4)).gated

/-- The decks of a partition. -/
def partDecks (s : State) (part : Nat) : List Nat := (List.range 16).filter (fun d => (s.tower (d / 4)).part.toNat = part)

def State.round (s : State) (part : Nat) : Round := Tbl.get s.rounds part Round.empty
def State.setRound (s : State) (part : Nat) (r : Round) : State := { s with rounds := Tbl.put s.rounds part r }

/-- Whether a unit has taken its edge and stays frozen (R419). -/
def edged (s : State) (part : Nat) (u : UnitRef) : Bool := (s.round part).frozen || (s.round part).edged.contains u

end Sys2Proof.Machine
end

