-- ==== Sys2Proof/Machine/Access.lean ====
section
/-!
DEFINITION. Addresses: the windows, the physical regions, the page walk, permissions, race detection, poison,
watchpoints and copy footprints, in the order of R263.
-/

namespace Sys2Proof.Machine

/-- A fault of an access: its cause and TVAL. -/
abbrev AccFault := Byte × Word

/-! ## Physical regions (R255, R256, R17) -/

/-- The location of a physical byte: region 0 is a view of regions 1 to 4 (R256). -/
def locOf (pa : Nat) : Nat :=
  if pa / 2 ^ 48 = 0 then
    let t := (fld pa 12 2 ^^^ fld pa 20 2) ^^^ (fld pa 28 2 ^^^ fld pa 36 2)
    (t + 1) * 2 ^ 48 + (fld pa 14 24 * 2 ^ 12 + fld pa 0 12)
  else pa

/-- The tower whose DRAM a physical address reaches. -/
def dramTower (pa : Nat) : Nat := locOf pa / 2 ^ 48 - 1

/-- Whether deck d of tower t serves its deck store: in the storeroom role, the tower in RUN or the role unchanged by
the change under way (R17, R27). The map is the old one until the tower is in RUN again. Log 12. -/
def deckStoreOk (s : State) (t d : Nat) : Bool :=
  let tw := s.tower t
  !(tw.cmask.getLsbD d) && (tw.st = .run || (match tw.change with | some c => !(c.cmask.getLsbD d) | none => false))

/-- The offsets of region 8 that name a register (R383, R397, R401, R405, R407, R417). -/
def regExists (off : Nat) : Bool :=
  off % 8 = 0 &&
  (off ≤ 0x28 || (0x40 ≤ off && off < 0x80) || (0x200 ≤ off && off < 0x290) || (0x300 ≤ off && off < 0x340)
   || (0x400 ≤ off && off < 0x450) || (0x500 ≤ off && off < 0x520) || (0x600 ≤ off && off < 0x680)
   || (0x100000 ≤ off && off < 0x180000))

/-- Whether a physical byte exists now (R255). -/
def paOk (s : State) (pa : Nat) : Bool :=
  let r := pa / 2 ^ 48
  let off := pa % 2 ^ 48
  if r = 0 then s.trained && off < 2 ^ 38
  else if r ≤ 4 then s.trained && off < 2 ^ 36
  else if r = 5 then off < 2 ^ 40
  else if r = 6 then off / 2 ^ 32 = 0 && deckStoreOk s (fld off 30 2) (fld off 28 2)
  else if r = 7 then s.hostmap.any (fun m => m.1 ≤ off && off < m.1 + m.2)
  else if r = 8 then regExists (off / 8 * 8)
  else false

/-! ## The page walk (R257 to R260) -/

/-- A leaf found by a walk: the entry, the physical base of the page, its virtual base and size. -/
structure Leaf where
  entry : Word
  pa : Nat
  base : Nat
  size : Nat
  deriving DecidableEq, Repr

/-- Page size of a level. -/
def levelSize (l : Nat) : Nat := 2 ^ (12 + 9 * l)

/-- Bits of an entry that must be zero (R258): 5:3 of a leaf, 63:52 and 11:2 of a table entry. -/
def leafZero (e : Nat) : Bool := fld e 3 3 = 0
def tableZero (e : Nat) : Bool := fld e 52 12 = 0 && fld e 2 10 = 0

/-- The checks of R260 on an entry taken as a leaf of a level, and that of R261 for region 8. -/
def leafCheck (l e : Nat) : Option Byte :=
  if e % 2 = 0 then some Cause.pageAbsent
  else if fld e 1 1 = 0 || !(leafZero e) || (fld e 12 40 * 2 ^ 12) % levelSize l ≠ 0 || (fld e 9 1 = 0 && fld e 48 4 = 8) then
    some Cause.ptMalformed
  else none

/-- The page of a CONT leaf at a level (R259): the group's page where the group is sound, or a page that a bad group
allows, picked by a free value: that of the access's own entry, or the whole group through another entry, to which R260 applies as to
the access's own: one that breaks it faults (DESIGN CHOICE, log 10). -/
def contLeaf (s : State) (node idx l va e : Nat) : Except Byte Leaf :=
  let sz := levelSize l
  let first := idx / 16 * 16
  let ent (k : Nat) : Nat := Memory.readN s.mem (locOf (node + 8 * (first + k))) 8
  let e0 := ent 0
  let attrs (x : Nat) : Nat := x / 2 ^ 52 * 2 ^ 12 + x % 2 ^ 12
  let pfn (x : Nat) : Nat := fld x 12 40 * 2 ^ 12
  let ok (k : Nat) : Bool := ent k % 2 = 1 && fld (ent k) 1 1 = 1 && fld (ent k) 2 1 = 1
    && attrs (ent k) = attrs e0 && pfn (ent k) = pfn e0 + k * sz
  let gbase := va / (16 * sz) * (16 * sz)
  if (List.range 16).all ok && pfn e0 % (16 * sz) = 0 then
    .ok { entry := .ofNat 64 e, pa := pfn e0, base := gbase, size := 16 * sz }
  else
    let p := Config.badGroup s.fresh % 16
    let other := ent ((idx + p) % 16)
    if p = 0 then .ok { entry := .ofNat 64 e, pa := pfn e, base := va / sz * sz, size := sz }
    else match leafCheck l other with
      | some c => .error c
      | none => .ok { entry := .ofNat 64 other, pa := pfn other, base := gbase, size := 16 * sz }

/-- The walk from a node of a level down. -/
def walkFrom (s : State) (va node : Nat) : Nat → Except Byte Leaf
  | 0 =>
    let idx := va / levelSize 0 % 512
    let e := Memory.readN s.mem (locOf (node + 8 * idx)) 8
    if !(paOk s (node + 8 * idx)) then .error Cause.paAbsent
    else match leafCheck 0 e with
      | some c => .error c
      | none =>
        if fld e 2 1 = 1 then contLeaf s node idx 0 va e
        else .ok { entry := .ofNat 64 e, pa := fld e 12 40 * 2 ^ 12, base := va / levelSize 0 * levelSize 0, size := levelSize 0 }
  | l + 1 =>
    let sz := levelSize (l + 1)
    let idx := if l = 3 then va / sz % 256 else va / sz % 512
    let e := Memory.readN s.mem (locOf (node + 8 * idx)) 8
    if !(paOk s (node + 8 * idx)) then .error Cause.paAbsent
    else if e % 2 = 0 then .error Cause.pageAbsent
    else if fld e 1 1 = 1 then
      if l = 3 || (leafCheck (l + 1) e).isSome || (l = 2 && fld e 2 1 = 1) then .error Cause.ptMalformed
      else if fld e 2 1 = 1 then contLeaf s node idx (l + 1) va e
      else .ok { entry := .ofNat 64 e, pa := fld e 12 40 * 2 ^ 12, base := va / sz * sz, size := sz }
    else if !(tableZero e) || 5 < fld e 48 4 then .error Cause.ptMalformed
    else walkFrom s va (fld e 12 40 * 2 ^ 12) l

/-- A walk of a context's tables (R257). -/
def walk (s : State) (ctx va : Nat) : Except Byte Leaf :=
  match s.ctx ctx with
  | none => .error Cause.pageAbsent
  | some c => if 5 < c.root / 2 ^ 48 then .error Cause.ptMalformed else walkFrom s va c.root 4

/-- A translation held by the TLBs of a core, its own first, then its deck's (R262). -/
def tlbHit (s : State) (phys ctx va : Nat) : Option Leaf :=
  let hit (es : List TlbEntry) : Option TlbEntry :=
    es.find? (fun e => e.ctx = ctx && e.base ≤ va && va < e.base + e.size)
  match (hit (Tbl.get s.tlbs phys [])).or (hit (Tbl.get s.tlbs (2048 + deckOf phys) [])) with
  | some e => some { entry := e.leaf, pa := e.pa, base := e.base, size := e.size }
  | none => none

/-! ## One piece of an access: bytes of one sector or less -/

/-- Who makes an access: a strand or a copy job of a core, the front end or an agent for a context, the front end by
physical address. -/
inductive Who where
  | core (core : Nat)
  | ctx (ctx : Nat)
  | phys
  deriving DecidableEq, Repr

/-- What an access does with a page (R261). -/
inductive AccKind where
  | read
  | write
  | fetch
  deriving DecidableEq, Repr

/-- Where a piece lands: its location, the leaf entry of a translated one, the physical address, the window's core. -/
structure Hit where
  loc : Nat
  leaf : Option Word
  pa : Option Nat
  win : Option Nat
  deriving DecidableEq, Repr

/-- Base of a core's reserve (R252, R87). -/
def reserveBase (c : Core) : Nat := 0x1FF800 - 64 * c.chanSlots

/-- A window access of n bytes at an offset of a core (R252). -/
def windowHit (s : State) (core off n : Nat) (acc : AccKind) : Except Byte Hit :=
  if reserveBase (s.core core) < off + n then .error Cause.bounds
  else if acc = .fetch then .error Cause.execDenied
  else .ok { loc := padLoc core off, leaf := none, pa := none, win := some core }

/-- Permissions of a leaf (R261). -/
def permFault (priv : Bool) (leaf : Word) (acc : AccKind) : Option Byte :=
  if leaf.getLsbD 9 && !priv then some Cause.privDenied
  else if acc = .write && leaf.getLsbD 10 then some Cause.writeDenied
  else if acc = .fetch && leaf.getLsbD 11 then some Cause.execDenied
  else none

/-- The leaf of a global address: a core looks in its TLBs first (R262). -/
def leafOf (s : State) (who : Who) (ctx va : Nat) : Except Byte Leaf :=
  match who with
  | .core k => (match tlbHit s (s.phys k) ctx va with | some l => .ok l | none => walk s ctx va)
  | _ => walk s ctx va

/-- The home core that a leaf records, the issuing core where it records none (R261). -/
def leafHome (s : State) (core : Nat) (l : Leaf) : Except Byte Nat :=
  let e := l.entry.toNat
  if fld e 63 1 = 0 then .ok core
  else match s.ctx (ctxOf core) with
    | some c => if 2 ^ c.wlog ≤ fld e 57 6 || 2 ^ c.hlog ≤ fld e 52 5 then .error Cause.noSuchCore
                else .ok (coreKey (ctxOf core) (fld e 57 6) (fld e 52 5))
    | none => .error Cause.noSuchCore

/-- The destination core of an address (R80), a window checked as for a 1-byte read, a global address translated without
permission, race check or access (R163). -/
def destCore (s : State) (core va : Nat) : Except Byte Nat :=
  if 2 ^ 56 ≤ va then .error Cause.addrRange
  else if va / 2 ^ 44 = 0xFFE then (windowHit s core (va % 2 ^ 44) 1 .read).map (fun _ => core)
  else if va / 2 ^ 44 = 0xFFF then
    match s.ctx (ctxOf core) with
    | some c =>
      let k := coreKey (ctxOf core) (fld va 38 6) (fld va 33 5)
      if 2 ^ c.wlog ≤ fld va 38 6 || 2 ^ c.hlog ≤ fld va 33 5 then .error Cause.noSuchCore
      else (windowHit s k (va % 2 ^ 33) 1 .read).map (fun _ => k)
    | none => .error Cause.noSuchCore
  else match leafOf s (.core core) (ctxOf core) va with
    | .error c => .error c
    | .ok l => leafHome s core l

/-- Orders 1 to 5 of R263 for n bytes that do not cross a sector. Region 8 admits only aligned doublewords (R383). -/
def translate (s : State) (who : Who) (va n : Nat) (acc : AccKind) : Except Byte Hit :=
  match who with
  | .phys =>
    if paOk s va then .ok { loc := locOf va, leaf := none, pa := some va, win := none } else .error Cause.paAbsent
  | _ =>
    let ctx := match who with | .core k => ctxOf k | .ctx c => c | .phys => 0
    if 2 ^ 56 ≤ va then .error Cause.addrRange
    else if va / 2 ^ 44 = 0xFFE then
      match who with
      | .core k => windowHit s k (va % 2 ^ 44) n acc
      | _ => .error Cause.noSuchCore
    else if va / 2 ^ 44 = 0xFFF then
      match s.ctx ctx with
      | some c =>
        if 2 ^ c.wlog ≤ fld va 38 6 || 2 ^ c.hlog ≤ fld va 33 5 then .error Cause.noSuchCore
        else windowHit s (coreKey ctx (fld va 38 6) (fld va 33 5)) (va % 2 ^ 33) n acc
      | none => .error Cause.noSuchCore
    else
      let priv := match s.ctx ctx with | some c => c.priv | none => false
      match leafOf s who ctx va with
      | .error c => .error c
      | .ok l =>
        match permFault priv l.entry acc with
        | some c => .error c
        | none =>
          let pa := l.pa + (va - l.base)
          if paOk s pa && (pa / 2 ^ 48 ≠ 8 || (n = 8 && va % 8 = 0 && acc ≠ .fetch)) then
            .ok { loc := locOf pa, leaf := some l.entry, pa := some pa, win := none }
          else .error Cause.paAbsent

/-- A hit on a checked page (R269): its check scope as a scope code, 2 to 5. -/
def Hit.checked (h : Hit) : Option Nat :=
  match h.leaf with
  | some e => if e.getLsbD 8 then some (2 + fld e.toNat 6 2) else none
  | none => none

/-! ## Race detection (R269 to R272) -/

/-- Epoch t is earlier than u. -/
def earlier (t u : Half) : Bool := 1 ≤ (u - t).toNat && (u - t).toNat ≤ 32767

/-- The identity of a strand across the module: tower, deck, core and slot (R270). -/
def State.strandId (s : State) (k : Nat) : Nat := s.phys (coreOf k) * 16 + slotOf k

/-- Epochs of a strand at a scope code (R270). -/
def Strand.epoch (t : Strand) (scope : Nat) : Half × Half := Vector.nth (n := 3) t.epochs (scope - 2)

/-- The check of R271: the new tag, or none for a conflict. -/
def raceStep (t : Tag) (me : Nat) (a c : Half) (scope : Nat) (write atomic : Bool) : Option Tag :=
  let outside (w : Nat) : Bool := unitOf scope (w / 16) ≠ unitOf scope (me / 16)
  let c1 := match t.writer with
    | some (w, e, at') => w ≠ me && (outside w || !(earlier e c)) && (write || !at') && !(atomic && at')
    | none => false
  let c2 := write && !atomic && (match t.reader with
    | .none => false
    | .one r e => r ≠ me && (outside r || !(earlier e c))
    | .many rs e => rs.any outside || !(earlier e c))
  if c1 || c2 then none
  else if write then some { t with writer := some (me, a, atomic), reader := .none, scope := scope }
  else some { t with scope := scope, reader := match t.reader with
    | .none => .one me a
    | .one r e => if earlier e c || r = me then .one me a else .many [r, me] (if earlier e a then a else e)
    | .many rs e => if earlier e c then .one me a
      else .many (if rs.contains me then rs else rs ++ [me]) (if earlier e a then a else e) }

def Tag.empty : Tag := { writer := none, reader := .none, scope := 0, born := 0 }

/-- The tag of a sector for a context: one written before the context was made is empty (R270). -/
def State.tag (s : State) (ctx sec : Nat) : Tag :=
  let t := Tbl.get s.tags sec Tag.empty
  if t.born ≤ ctx then Tag.empty else t

/-- The tag update of an access to a hit, or a race. Unchecked bytes have no race state. -/
def raceCheck (s : State) (k : Nat) (h : Hit) (write atomic : Bool) : Option State :=
  match h.checked with
  | none => some s
  | some scope =>
    let ep := (s.strand k).epoch scope
    let sec := h.loc / 32
    match raceStep (s.tag (ctxOf (coreOf k)) sec) (s.strandId k) ep.1 ep.2 scope write atomic with
    | some t => some { s with tags := Tbl.put s.tags sec { t with born := s.nextId } }
    | none => none

/-! ## Pending cells of coverage stages (R307) -/

/-- Fields of an output record (R289). -/
def covG (c : Cov) (k : Nat) : Nat := fld c.record.toNat (64 + 16 * k) 16
def covCsize (c : Cov) : Nat := fld c.record.toNat 112 8
def covStride (c : Cov) (k : Nat) : Int := (BitVec.ofNat 32 (c.record.toNat / 2 ^ (128 + 32 * k))).toInt
def covFlags (c : Cov) : Nat := fld c.record.toNat 240 8
/-- Fields of a coverage block (R290, R291). -/
def covPattern (c : Cov) : Nat := fld c.block.toNat 0 16
def covDims (c : Cov) : Nat := covPattern c % 4
def covFamily (c : Cov) : Nat := fld (covPattern c) 2 3
def covPhase (c : Cov) : Nat := fld (covPattern c) 9 4
def covAxes (c : Cov) : Nat := fld (covPattern c) 13 3
def covAudit (c : Cov) : Nat := fld c.block.toNat 40 8
/-- The lattice axes a and b of the axis map (R291). -/
def covAxisA (c : Cov) : Nat := if covAxes c = 1 ∨ covAxes c = 4 then 1 else if covAxes c = 3 ∨ covAxes c = 5 then 2 else 0
def covAxisB (c : Cov) : Nat := if covAxes c = 0 ∨ covAxes c = 5 then 1 else if covAxes c = 2 ∨ covAxes c = 4 then 2 else 0
/-- Block extent along an axis, and blocks along it (R288). -/
def covExtent (c : Cov) (k : Nat) : Nat :=
  if k = covAxisA c then (if covDims c = 1 then 64 else 8) else if 2 ≤ covDims c ∧ k = covAxisB c then 8 else 1
def covBlocks (c : Cov) (k : Nat) : Nat := covG c k / covExtent c k
def covTotal (c : Cov) : Nat := covBlocks c 0 * covBlocks c 1 * covBlocks c 2
/-- Origin of block n along an axis. -/
def covOrigin (c : Cov) (n k : Nat) : Nat :=
  let b := if k = 0 then n % covBlocks c 0 else if k = 1 then n / covBlocks c 0 % covBlocks c 1
    else n / covBlocks c 0 / covBlocks c 1
  b * covExtent c k
/-- Coordinates of point p of block n along an axis (R288). -/
def covCoord (c : Cov) (n p k : Nat) : Nat :=
  covOrigin c n k + (if k = covAxisA c then (if covDims c = 1 then p else p % 8)
    else if 2 ≤ covDims c ∧ k = covAxisB c then p / 8 else 0)
/-- Address of the cell of point p of block n (R289). -/
def covAddr (c : Cov) (n p : Nat) : Nat :=
  (((fld c.record.toNat 0 64 : Int) + covCoord c n p 0 * covStride c 0 + covCoord c n p 1 * covStride c 1
    + covCoord c n p 2 * covStride c 2) % (2 ^ 64 : Int)).toNat

/-- Whether a point belongs to the lattice at a level and an effective phase (R292). -/
def covLattice (c : Cov) (n p l ph : Nat) : Bool :=
  let ia := covCoord c n p (covAxisA c)
  let ib := if covDims c = 1 then 0 else covCoord c n p (covAxisB c)
  let fam := covFamily c
  if fam = 0 then true
  else if fam = 1 then ia % 2 ^ l = ph % 2 ^ l
  else if fam = 2 then
    let sa := 2 ^ ((l + 1) / 2)
    let sb := 2 ^ (l / 2)
    ia % sa = ph % sa && ib % sb = ph / sa % sb
  else if fam = 3 then (ia + ib) % 2 ^ l = ph % 2 ^ l
  else
    let sz := 2 ^ l
    let pb := ph / sz % sz
    let row := ((ib : Int) - pb) / sz
    ib % sz = pb && ia % sz = ((ph % sz : Int) + (sz / 2 : Nat) * (row % 2)).toNat % sz

/-- The mix function of R189. -/
def mix (c : W32) : W32 :=
  let z := c * 0x9E3779B9
  let z := z ^^^ (z >>> 16)
  let z := z * 0x85EBCA6B
  let z := z ^^^ (z >>> 13)
  let z := z * 0xC2B2AE35
  z ^^^ (z >>> 16)

/-- Whether a point is audited (R298). -/
def covAudited (c : Cov) (n p l ph : Nat) : Bool :=
  let lin := covCoord c n p 0 + covG c 0 * (covCoord c n p 1 + covG c 1 * covCoord c n p 2)
  !(covLattice c n p l ph) && covFamily c ≠ 0
    && (mix (.ofNat 32 (lin + 65536 * c.seed.toNat))).toNat % 2 ^ covAudit c = 0

/-- Whether a cell is pending: not a computed or audited cell of a block that has been handed out (R307). -/
def covPendingPoint (c : Cov) (n p : Nat) : Bool :=
  match (c.claimed ++ c.done ++ c.reconstructed).find? (fun b => b.1 = n) with
  | some (_, l, ph) => !(covLattice c n p l ph) && !(covAudited c n p l ph)
  | none => true

/-- Whether a stage, by its key, runs or is to be restarted. -/
def stageLive (s : State) (key : Nat) : Bool :=
  match s.launch (key / 16) with
  | some la => la.sts[key % 16]? = some .running || la.sts[key % 16]?.any StageSt.waits
  | none => false

/-- The location of a byte of a context's address space, as its tables stand. -/
def byteLoc (s : State) (ctx va : Nat) : Option Nat :=
  match translate s (.ctx ctx) va 1 .read with | .ok h => some h.loc | .error _ => none

/-- Whether an access of n bytes at a location meets a byte of a pending cell of a running coverage stage, through whichever
mapping. -/
def covPending (s : State) (loc n : Nat) : Bool :=
  s.covs.any (fun e =>
    let c := e.2
    stageLive s e.1 && (List.range (covTotal c)).any (fun b => (List.range 64).any (fun p =>
      covPendingPoint c b p && (List.range (covCsize c)).any (fun i =>
        match byteLoc s c.ctx ((covAddr c b p + i) % 2 ^ 64) with | some a => loc ≤ a && a < loc + n | none => false))))

/-! ## Debug watchpoints (R403) -/

/-- Whether a watchpoint or breakpoint control word is enabled for a task. -/
def dbgTask (ctl : Word) (task : BitVec 48) : Bool :=
  ctl.getLsbD 63 && (ctl.getLsbD 62 || ctl.setWidth 48 == task)

/-- The lowest address at which an access of n bytes meets an enabled watchpoint. -/
def watchHit (s : State) (k va n : Nat) (write : Bool) : Option Nat :=
  match s.ctx (ctxOf (coreOf k)) with
  | none => none
  | some c =>
    (List.range 4).foldl (fun (best : Option Nat) i =>
      let ctl := Tbl.get c.dbg (0x308 + 16 * i) 0
      let len := 2 ^ fld ctl.toNat 52 5
      let base := (Tbl.get c.dbg (0x300 + 16 * i) 0).toNat / len * len
      let mode := fld ctl.toNat 60 2
      if dbgTask ctl (s.strand k).taskid && (if write then 2 ≤ mode else mode = 1 || mode = 3)
        && base < va + n && va < base + len then
        let lo := max base va
        some (match best with | some b => min b lo | none => lo)
      else best) none

/-! ## Copy footprints (R273 to R275) -/

/-- A byte range as footprints compare it: space 0 holds the global addresses, space 1 the bytes of scratchpads by (core, offset), in
the order of the mesh window (R273). -/
structure Range where
  space : Nat
  lo : Nat
  len : Nat
  deriving DecidableEq, Repr

/-- The bytes from `va` on, n of them, that lie from a to b − 1, by how far the first lies behind va, and how many they are. -/
def clip (va n a b : Nat) : Nat × Nat := (max va a - va, min (va + n) b - max va a)

/-- The ranges that n bytes at a virtual address make, seen from a core, each with how far it lies behind the first byte: global ones,
those of the own window as bytes of the core itself, and those of the mesh window, which may run on over the cores. -/
def rangesOf (core va n : Nat) : List (Nat × Range) :=
  let own := 0xFFE * 2 ^ 44
  let g := clip va n 0 own
  let w := clip va n own (own + 2 ^ 33)
  let m := clip va n (own + 2 ^ 44) (2 ^ 64)
  [ (g.1, { space := 0, lo := va + g.1, len := g.2 }),
    (w.1, { space := 1, lo := xOf core * 2 ^ 38 + yOf core * 2 ^ 33 + (va + w.1 - own), len := w.2 }),
    (m.1, { space := 1, lo := va + m.1 - (own + 2 ^ 44), len := m.2 }) ].filter (fun p => p.2.len ≠ 0)

def rangesAt (core va n : Nat) : List Range := (rangesOf core va n).map (fun p => p.2)

def Range.meets (a b : Range) : Bool :=
  a.space = b.space && a.len ≠ 0 && b.len ≠ 0 && a.lo < b.lo + b.len && b.lo < a.lo + a.len

/-- Fields of a request (R282) and of a parameter block (R285). -/
def Job.kind (j : Job) : Nat := fld j.w0.toNat 0 3
def Job.channel (j : Job) : Nat := fld j.w0.toNat 6 2
def Job.etype (j : Job) : Nat := fld j.w0.toNat 8 4
def Job.noctr (j : Job) : Bool := j.w0.getLsbD 12
def blkRank (b : V512) : Nat := fld b.toNat 0 3
def blkEsize (b : V512) : Nat := 2 ^ fld b.toNat 4 2
def blkExt (b : V512) (k : Nat) : Nat := fld b.toNat (64 + 16 * k) 16
def blkSrc (b : V512) (k : Nat) : Int := (BitVec.ofNat 32 (b.toNat / 2 ^ (128 + 32 * k))).toInt
def blkDst (b : V512) (k : Nat) : Int := (BitVec.ofNat 32 (b.toNat / 2 ^ (256 + 32 * k))).toInt
def blkIdx (b : V512) : Nat := fld b.toNat 0 64
def blkCount (b : V512) : Nat := fld b.toNat 64 32
def blkRowb (b : V512) : Nat := fld b.toNat 96 32
def blkNrows (b : V512) : Nat := fld b.toNat 128 32

/-- Number of elements of a shaped copy. -/
def blkElems (b : V512) : Nat := (List.range (blkRank b)).foldl (fun n k => n * blkExt b k) 1

/-- Element e of a shaped copy: its offset by strides (R206 with bytes, R284). -/
def blkOffset (b : V512) (st : V512 → Nat → Int) (e : Nat) : Int :=
  ((List.range (blkRank b)).foldl (fun (a : Nat × Int) k =>
    (a.1 / max 1 (blkExt b k), a.2 + (a.1 % max 1 (blkExt b k) : Nat) * st b k)) (e, 0)).2

/-- The bounding range of a shape from its corners (R273). -/
def blkBounds (b : V512) (st : V512 → Nat → Int) (base : Nat) : Int × Nat :=
  let lo := (List.range (blkRank b)).foldl (fun (a : Int) k => a + min 0 (((blkExt b k : Int) - 1) * st b k)) 0
  let hi := (List.range (blkRank b)).foldl (fun (a : Int) k => a + max 0 (((blkExt b k : Int) - 1) * st b k)) 0
  (base + lo, (hi - lo).toNat + blkEsize b)

/-- Total bytes of a job once its block is read (R278). -/
def Job.total (j : Job) : Nat :=
  match j.kind, j.block with
  | 1, some b => blkElems b * blkEsize b
  | 2, some b => blkCount b * blkRowb b
  | 3, some b => blkCount b * blkRowb b
  | 1, none => 0
  | 2, none => 0
  | 3, none => 0
  | _, _ => j.w3.toNat

/-- Whether the job has still to read its parameter block (R274, R276). -/
def Job.blockPending (j : Job) : Bool := 1 ≤ j.kind && j.kind ≤ 3 && j.block.isNone

/-- The read and write sets of a job (R273). -/
def Job.readSet (core : Nat) (j : Job) : List Range :=
  match j.kind, j.block with
  | 0, _ => rangesAt core j.w1.toNat j.w3.toNat
  | 5, _ => rangesAt core j.w1.toNat j.w3.toNat ++ rangesAt core j.w2.toNat j.w3.toNat
  | 1, some b =>
    let r := blkBounds b blkSrc j.w1.toNat
    rangesAt core j.w3.toNat 64 ++ rangesAt core r.1.toNat r.2
  | 2, some b =>
    rangesAt core j.w3.toNat 64 ++ rangesAt core (blkIdx b) (4 * blkCount b) ++ rangesAt core j.w1.toNat (blkNrows b * blkRowb b)
  | 3, some b =>
    rangesAt core j.w3.toNat 64 ++ rangesAt core (blkIdx b) (4 * blkCount b) ++ rangesAt core j.w1.toNat (blkCount b * blkRowb b)
  | 4, _ => []
  | _, _ => rangesAt core j.w3.toNat 64

def Job.writeSet (core : Nat) (j : Job) : List Range :=
  match j.kind, j.block with
  | 1, some b =>
    let r := blkBounds b blkDst j.w2.toNat
    rangesAt core r.1.toNat r.2
  | 2, some b => rangesAt core j.w2.toNat (blkCount b * blkRowb b)
  | 3, some b => rangesAt core j.w2.toNat (blkNrows b * blkRowb b)
  | 1, none => []
  | 2, none => []
  | 3, none => []
  | _, _ => rangesAt core j.w2.toNat j.w3.toNat

/-- From delivery offset `done`, the source and destination addresses of the bytes that follow each other on both sides, and
their length, within one 32-byte sector of each (R278). -/
def Job.piece (j : Job) (done : Nat) : Nat × Nat × Nat :=
  match j.kind, j.block with
  | 1, some b =>
    let es := blkEsize b
    let e := done / es
    ((((j.w1.toNat : Int) + blkOffset b blkSrc e) % 2 ^ 64).toNat, (((j.w2.toNat : Int) + blkOffset b blkDst e) % 2 ^ 64).toNat, es)
  | 2, some b =>
    let rb := max 1 (blkRowb b)
    let r := done / rb
    let o := done % rb
    let dst := j.w2.toNat + r * rb + o
    let src := j.w1.toNat + (j.idx.getD r 0) * rb + o
    (src, dst, min (rb - o) (min (32 - dst % 32) (32 - src % 32)))
  | 3, some b =>
    let rb := max 1 (blkRowb b)
    let r := done / rb
    let o := done % rb
    let dst := j.w2.toNat + (j.idx.getD r 0) * rb + o
    let src := j.w1.toNat + r * rb + o
    (src, dst, min (rb - o) (min (32 - dst % 32) (32 - src % 32)))
  | _, _ =>
    let dst := j.w2.toNat + done
    (if j.kind = 4 then j.w1.toNat else j.w1.toNat + done, dst, min (j.w3.toNat - done) (32 - dst % 32))

/-- Whether the row or element at a delivery offset names a row outside the table (R285). -/
def badIndex (j : Job) (done : Nat) : Bool :=
  match j.block with
  | some b => (j.kind = 2 || j.kind = 3) && blkNrows b ≤ j.idx.getD (done / max 1 (blkRowb b)) 0
  | none => false

/-- One piece of a transfer: its delivery offset, source, destination and length. -/
structure CopyPiece where
  off : Nat
  src : Nat
  dst : Nat
  n : Nat
  deriving DecidableEq, Repr

/-- The row of a gather at a delivery offset, where it has arrived already. -/
def Job.arrived (j : Job) (done : Nat) : Option Nat :=
  match j.kind, j.block with
  | 2, some b => if j.rows.contains (done / max 1 (blkRowb b)) then some (max 1 (blkRowb b)) else none
  | _, _ => none

/-- The pieces that follow in delivery order as long as they lie in one sector of the destination: they are written together,
so that the sector of the transfer is single-copy atomic (R268; log 63). A row that has arrived is not copied again (R275). -/
def Job.run (j : Job) (sector : Nat) : Nat → Nat → List CopyPiece
  | 0, _ => []
  | f + 1, done =>
    let p := j.piece done
    if j.total ≤ done || badIndex j done || p.2.1 / 32 ≠ sector then []
    else match j.arrived done with
      | some rb => Job.run j sector f ((done / rb + 1) * rb)
      | none => { off := done, src := p.1, dst := p.2.1, n := p.2.2 } :: Job.run j sector f (done + p.2.2)

/-- The pieces of the next sector of a job. -/
def Job.nextRun (j : Job) (done : Nat) : List CopyPiece := j.run ((j.piece done).2.1 / 32) 32 done

/-- The delivery offset behind some pieces. -/
def runEnd (done : Nat) (ps : List CopyPiece) : Nat := ps.foldl (fun n p => max n (p.off + p.n)) done

/-- What a job writes, or reads, in units of consecutive bytes: address, length, and how many of the bytes it has written, or
read, so far. -/
def Job.units (j : Job) (write : Bool) : List (Nat × Nat × Nat) :=
  let block : Nat × Nat × Nat := (j.w3.toNat, 64, if j.block.isSome then 64 else 0)
  match j.kind, j.block with
  | 1, some b =>
    let es := blkEsize b
    (if write then [] else [block]) ++ (List.range (blkElems b)).map (fun e =>
      ((((if write then j.w2.toNat else j.w1.toNat : Nat) : Int) + blkOffset b (if write then blkDst else blkSrc) e) % 2 ^ 64 |>.toNat,
        es, j.done - e * es))
  | 2, some b =>
    let rb := blkRowb b
    let got (r : Nat) : Nat := if j.rows.contains r then rb else j.done - r * rb
    (if write then [] else [block, (blkIdx b, 4 * blkCount b, if j.started then 4 * blkCount b else 0)])
      ++ (List.range (blkCount b)).map (fun r => (if write then j.w2.toNat + r * rb else j.w1.toNat + j.idx.getD r 0 * rb, rb, got r))
  | 3, some b =>
    let rb := blkRowb b
    (if write then [] else [block, (blkIdx b, 4 * blkCount b, if j.started then 4 * blkCount b else 0)])
      ++ (List.range (blkCount b)).map (fun r => (if write then j.w2.toNat + j.idx.getD r 0 * rb else j.w1.toNat + r * rb, rb, j.done - r * rb))
  | 0, _ => [(if write then j.w2.toNat else j.w1.toNat, j.w3.toNat, j.done)]
  | 4, _ => if write then [(j.w2.toNat, j.w3.toNat, j.done)] else []
  | 5, _ => (j.w2.toNat, j.w3.toNat, j.done) :: (if write then [] else [(j.w1.toNat, j.w3.toNat, j.done)])
  | _, _ => if write then [] else [block]

/-- Whether a job has done with byte `a` of a space: it has written, or read, the byte in every unit that holds it (R275). -/
def Job.delivered (core : Nat) (j : Job) (write : Bool) (space a : Nat) : Bool :=
  let here := (j.units write).flatMap (fun u => (rangesOf core u.1 u.2.1).filterMap (fun p =>
    let r := p.2
    if r.space = space && r.lo ≤ a && a < r.lo + r.len then some (decide (a - r.lo + p.1 < u.2.2)) else none))
  !here.isEmpty && here.all (fun b => b)

/-- Whether a strand access of a core must wait for a pending job (R275). -/
def jobBlocks (core : Nat) (j : Job) (r : Range) (write : Bool) : Bool :=
  let bytes := (List.range r.len).map (fun i => r.lo + i)
  let inSet (w : Bool) (set : List Range) : Bool :=
    set.any (fun q => q.meets r) &&
    bytes.any (fun a => set.any (fun q => q.space = r.space && q.lo ≤ a && a < q.lo + q.len)
      && !(Job.delivered core j w r.space a))
  inSet true (Job.writeSet core j) || (write && inSet false (Job.readSet core j))

/-- Whether an access by a strand of a core conflicts with a footprint of the core (R275). -/
def footprintBlocks (s : State) (core va n : Nat) (write : Bool) : Bool :=
  (s.core core).jobs.any (fun j => (rangesAt core va n).any (fun r => jobBlocks core j r write))

/-! ## A whole access -/

/-- A piece of an access: address, bytes, and where it landed. -/
structure Piece where
  va : Nat
  n : Nat
  hit : Hit
  deriving DecidableEq, Repr

/-- The pieces of n bytes at va: one for each 32-byte sector (R263), with at most `fuel` sectors. -/
def sectorsOf (va n : Nat) : Nat → List (Nat × Nat)
  | 0 => []
  | fuel + 1 => if n = 0 then [] else
    let k := min n (32 - va % 32)
    (va, k) :: sectorsOf (va + k) (n - k) fuel

/-- Whether a hit is a device register. -/
def Hit.device (h : Hit) : Bool := match h.pa with | some pa => pa / 2 ^ 48 = 8 | none => false

/-- How an access is checked: whether it needs write permission, whether race detection counts it as a write (a CAS that
fails does not, R140), whether it is atomic, whether it reads, whether it may reach device registers, as only scalar loads
and stores do (R383), and the addresses within its pieces that it leaves out (the inactive lanes of a VST, R231). -/
structure AccMode where
  write : Bool
  store : Bool
  atomic : Bool
  reads : Bool
  dev : Bool
  skip : List Nat
  deriving DecidableEq, Repr

def AccMode.load (dev : Bool) : AccMode := { write := false, store := false, atomic := false, reads := true, dev := dev, skip := [] }
def AccMode.put (dev : Bool) : AccMode := { write := true, store := true, atomic := false, reads := false, dev := dev, skip := [] }
def AccMode.rmw (store : Bool) : AccMode := { write := true, store := store, atomic := true, reads := true, dev := false, skip := [] }

/-- Whether an access touches a byte of a pending cell in a piece (R307). -/
def meetsPending (s : State) (m : AccMode) (va loc n : Nat) : Bool :=
  if m.skip.isEmpty then covPending s loc n
  else (List.range n).any (fun i => !(m.skip.contains (va + i)) && covPending s (loc + i) 1)

/-- Orders 1 to 7 of R263 for one piece of a strand's access, and its tag update. -/
def checkPiece (s : State) (k : Nat) (va n : Nat) (m : AccMode) : Except AccFault (State × Piece) :=
  match translate s (.core (coreOf k)) va n (if m.write then .write else .read) with
  | .error c => .error (c, .ofNat 64 va)
  | .ok h =>
    if h.device && !m.dev then .error (Cause.paAbsent, .ofNat 64 va) else
    match raceCheck s k h m.store m.atomic with
    | none => .error (Cause.mmRace, .ofNat 64 (va / 32 * 32))
    | some s1 =>
      if h.checked.isSome && meetsPending s m va h.loc n then .error (Cause.covPending, .ofNat 64 va)
      else if m.reads && (List.range n).any (fun i => s.poison.contains (h.loc + i)) then .error (Cause.dataPoison, .ofNat 64 va)
      else .ok (s1, { va := va, n := n, hit := h })

/-- The checks of a list of pieces in order: the first that fails decides (R263). -/
def checkPieces (s : State) (k : Nat) (m : AccMode) : List (Nat × Nat) → Except AccFault (State × List Piece)
  | [] => .ok (s, [])
  | (va, n) :: r =>
    match checkPiece s k va n m with
    | .error e => .error e
    | .ok (s1, p) =>
      match checkPieces s1 k m r with
      | .error e => .error e
      | .ok (s2, ps) => .ok (s2, p :: ps)

/-- What a strand's access answers: it may go on with the pieces, must wait for a copy job, or faults. -/
inductive Access where
  | ok (s : State) (ps : List Piece)
  /-- Held by a copy footprint, or at the boundaries of some decks. -/
  | wait (ds : List Nat)
  | fault (cause : Byte) (tval : Word)

/-- The decks whose boundary an access of a core crosses (R415). -/
def hitDecks (s : State) (core : Nat) (h : Hit) : List Nat :=
  match h.win, h.pa with
  | some c, _ => crossDecks (s.phys core) (s.phys c)
  | none, some pa => deckOf (s.phys core) :: (if pa / 2 ^ 48 = 6 then [4 * fld pa 30 2 + fld pa 28 2] else [])
  | none, none => []

def piecesDecks (s : State) (core : Nat) (ps : List Piece) : List Nat := (ps.flatMap (fun p => hitDecks s core p.hit)).eraseDups

/-- The lowest address at which an access of some ranges meets an enabled watchpoint, as a read or as a write (R271, R403). -/
def lowestWatch (s : State) (k : Nat) (m : AccMode) (touched : List (Nat × Nat)) : Option Nat :=
  let hits := touched.filterMap (fun p => if m.store then watchHit s k p.1 p.2 true else none)
    ++ touched.filterMap (fun p => if m.reads then watchHit s k p.1 p.2 false else none)
  hits.foldl (fun (b : Option Nat) a => some (match b with | some c => min c a | none => a)) none

/-- The checks of a strand's access but for relocks: R263 for the pieces in order, then watchpoints (R403) and footprints
(R275) for the ranges it touches. -/
def accessIssue (s : State) (k : Nat) (m : AccMode) (ps touched : List (Nat × Nat)) : Access :=
  match checkPieces s k m ps with
  | .error (c, v) => .fault c v
  | .ok (s1, qs) =>
    match lowestWatch s k m touched with
    | some a => .fault Cause.watchpoint (.ofNat 64 a)
    | none =>
      if touched.any (fun p => footprintBlocks s (coreOf k) p.1 p.2 m.write) then .wait [] else .ok s1 qs

/-- All the checks of a strand's access: with those of its issue, the relocks that hold it (R415). -/
def accessParts (s : State) (k : Nat) (m : AccMode) (ps touched : List (Nat × Nat)) : Access :=
  match accessIssue s k m ps touched with
  | .ok s1 qs =>
    (match heldAt s k (piecesDecks s (coreOf k) qs) with
    | [] => .ok s1 qs
    | ds => .wait ds)
  | x => x

/-- All the checks of a strand's access to a list of pieces. -/
def accessPieces (s : State) (k : Nat) (m : AccMode) (ps : List (Nat × Nat)) : Access := accessParts s k m ps ps

/-- All the checks of a strand's access of n contiguous bytes. -/
def accessBytes (s : State) (k : Nat) (va n : Nat) (m : AccMode) : Access :=
  accessPieces s k m (sectorsOf va n (n + 1))

/-- Read the bytes of pieces, the first piece lowest. -/
def readPieces (m : List Host.Cell) : List Piece → Nat
  | [] => 0
  | p :: r => Memory.readN m p.hit.loc p.n + 256 ^ p.n * readPieces m r

/-- Clear the poison of whole sectors that a store covers (R265). -/
def clearPoison (poison : List Nat) (loc n : Nat) : List Nat :=
  if loc % 32 = 0 ∧ n = 32 then poison.filter (fun a => !(loc ≤ a && a < loc + 32)) else poison

/-- Write the low bytes of a value to pieces, the first piece lowest. -/
def writePieces (s : State) : List Piece → Nat → State
  | [], _ => s
  | p :: r, v =>
    writePieces { s with mem := Memory.writeN s.mem p.hit.loc p.n v, poison := clearPoison s.poison p.hit.loc p.n }
      r (v / 256 ^ p.n)

/-- Counting class of a target (R408): the pair of read event; the write event is one more. Own accesses count nothing. -/
def byteEvent (s : State) (core : Nat) (h : Hit) : Option Nat :=
  let me := s.phys core
  match h.win, h.pa with
  | some c, _ =>
    if c = core then none
    else if deckOf (s.phys c) = deckOf me then some 6
    else if deckOf (s.phys c) / 4 = deckOf me / 4 then some 8 else some 10
  | none, some pa =>
    let r := pa / 2 ^ 48
    if r ≤ 4 then (if dramTower pa = deckOf me / 4 then some 8 else some 10)
    else if r = 5 then some 12
    else if r = 6 then (if fld pa 30 2 = deckOf me / 4 then some 8 else some 10)
    else if r = 7 then some 14
    else none
  | none, none => none

/-- Single-bit errors in a piece are corrected by a read and overwritten by a write; those corrected in a core's SRAM are
counted there (R265, R408). -/
def correctSoft (s : State) (write : Bool) (p : Piece) : State := correctAt s write p.hit.loc p.n

/-- Count the bytes of an access's pieces (R408), and correct the single-bit errors in them. -/
def countPieces (s : State) (core : Nat) (write : Bool) (ps : List Piece) : State :=
  ps.foldl (fun (s : State) p =>
    let s := correctSoft s write p
    match byteEvent s core p.hit with
    | some ev => s.count core (if ev = 14 then 14 else if write then ev + 1 else ev) p.n
    | none => s) s

end Sys2Proof.Machine
end

