-- ==== Sys2Proof/Machine/Report.lean ====
section
/-!
DEFINITION. What the front end writes on its own: QSB fields (R364), host rings and interrupts (R381, R382), packet
statuses and completion records (R373, R380), signal adds.
-/

namespace Sys2Proof.Machine

/-! ## Statuses (R380) -/

def Status.ok : Nat := 0
def Status.badPacket : Nat := 1
def Status.malformed : Nat := 2
def Status.privileged : Nat := 3
def Status.busy : Nat := 4
def Status.illegalMap : Nat := 5
def Status.capacity : Nat := 6
def Status.evacFault : Nat := 7
def Status.noCompute : Nat := 8
def Status.waitTimeout : Nat := 9
def Status.addrFault : Nat := 10
def Status.groupFault : Nat := 11
def Status.queueTorn : Nat := 12
def Status.badFreq : Nat := 13
def Status.covFault : Nat := 14
def Status.noContext : Nat := 15
def Status.noAgent : Nat := 16

/-! ## Accesses of the front end and of agents -/

/-- n bytes read for a context or by physical address, sector by sector; a poisoned byte faults (R265). -/
def extRead (s : State) (who : Who) : List (Nat × Nat) → Except AccFault Nat
  | [] => .ok 0
  | (va, n) :: r =>
    match translate s who va n .read with
    | .error c => .error (c, .ofNat 64 va)
    | .ok h =>
      if h.device then .error (Cause.paAbsent, .ofNat 64 va)
      else if (List.range n).any (fun i => s.poison.contains (h.loc + i)) then .error (Cause.dataPoison, .ofNat 64 va)
      else match extRead s who r with
        | .error e => .error e
        | .ok v => .ok (Memory.readN s.mem h.loc n + 256 ^ n * v)

/-- n contiguous bytes read for a context or by physical address. -/
def feRead (s : State) (who : Who) (va n : Nat) : Except AccFault Nat := extRead s who (sectorsOf va n (n + 1))

/-- The single-bit errors in what a read for a context or by physical address has met are corrected (R265). -/
def extSeen (s : State) (who : Who) (va n : Nat) : State :=
  if s.soft.isEmpty then s
  else (sectorsOf va n (n + 1)).foldl (fun (s : State) p =>
    match translate s who p.1 p.2 .read with | .ok h => correctAt s false h.loc p.2 | .error _ => s) s

/-- The decks whose boundary an access for a context crosses: those of the cores that it reaches through the mesh window (R415, R430). -/
def extDecks (s : State) (who : Who) (p : Nat × Nat) : List Nat :=
  match who with
  | .ctx ctx =>
    (match s.ctx ctx with
     | some c => if p.2 = 0 then [] else ([p.1, p.1 + p.2 - 1].filterMap (fun a =>
         if a / 2 ^ 44 = 0xFFF && fld a 38 6 < 2 ^ c.wlog && fld a 33 5 < 2 ^ c.hlog then
           some (deckOf (s.phys (coreKey ctx (fld a 38 6) (fld a 33 5)))) else none)).eraseDups
     | none => [])
  | _ => []

/-- The boundaries that hold some accesses of a unit outside the cores. -/
def extHeld (s : State) (h : Nat) (who : Who) (l : List (Nat × Nat)) : List Nat := heldAt s h (l.flatMap (extDecks s who)).eraseDups

/-- The accesses that a unit outside the cores makes in one turn, each with its addressing: what it reads, and what else it reaches:
what it writes, and what it reads where the operation itself corrects the errors. -/
structure Touch where
  reads : List (Who × Nat × Nat)
  rest : List (Who × Nat × Nat)

def Touch.none : Touch := { reads := [], rest := [] }
def Touch.append (a b : Touch) : Touch := { reads := a.reads ++ b.reads, rest := a.rest ++ b.rest }

/-- The boundaries that hold them (R415), and the single-bit errors in what is read corrected (R265). -/
def touchDecks (s : State) (t : Touch) : List Nat := (t.reads ++ t.rest).flatMap (fun x => extDecks s x.1 x.2)
def touchHeld (s : State) (h : Nat) (t : Touch) : List Nat := heldAt s h (touchDecks s t).eraseDups
def touchSeen (s : State) (t : Touch) : State := t.reads.foldl (fun (s : State) x => extSeen s x.1 x.2.1 x.2.2) s

/-- A unit makes its accesses, or stalls, in the order in which it was held (R415). -/
def whenTouch (s : State) (h : Nat) (t : Touch) (go : State → Host.Outcome State Fault Refusal) : Host.Outcome State Fault Refusal :=
  match touchHeld s h t with
  | [] => go (touchSeen (dropHeld s h) t)
  | ds => .next (noteHeld s h ds)

/-- Such accesses go on, or the unit stalls, in the order in which it was held (R415). -/
def whenOpen (s : State) (h : Nat) (who : Who) (l : List (Nat × Nat)) (go : State → State) : State :=
  match extHeld s h who l with
  | [] => go (dropHeld s h)
  | ds => noteHeld s h ds

/-- Where n contiguous bytes of a write land, or the fault of the lowest sector that fails. -/
def extLocs (s : State) (who : Who) : List (Nat × Nat) → Except AccFault (List (Nat × Nat))
  | [] => .ok []
  | (va, n) :: r =>
    match translate s who va n .write with
    | .error c => .error (c, .ofNat 64 va)
    | .ok h =>
      if h.device then .error (Cause.paAbsent, .ofNat 64 va)
      else match extLocs s who r with
        | .error e => .error e
        | .ok l => .ok ((h.loc, n) :: l)

/-! ## Device registers as eight aligned bytes reach them (R383) -/

/-- DBGCTX and DBGSTAT. -/
def dbgCtx (s : State) : Nat := (s.reg 0x200).toNat

/-- Whether an offset is a register of a context's own debug set. -/
def isDebugSet (off : Nat) : Bool := (0x210 ≤ off && off < 0x290) || (0x300 ≤ off && off < 0x340)

/-- CKPTSTAT of a partition (R417). -/
def ckptStat (s : State) (part : Nat) : Word :=
  let r := s.round part
  (if r.active then 1#64 <<< 63 else 0) ||| (if r.frozen then 1#64 <<< 62 else 0) ||| (if r.refused then 1#64 <<< 61 else 0)
    ||| r.count.setWidth 64

/-- The value of the register at an offset; a write-only register reads as zero. -/
def devRead (s : State) (off : Nat) : Word :=
  if off = 0 then Config.feid &&& 0xFFFFFFFF
  else if off = 0x20 then s.walkgen
  else if off = 0x400 || off = 0x510 || 0x100000 ≤ off then 0
  else if isDebugSet off then (match s.ctx (dbgCtx s) with | some c => Tbl.get c.dbg off 0 | none => 0)
  else if 0x600 ≤ off && off < 0x640 then (if off % 16 = 8 then ckptStat s ((off - 0x600) / 16) else 0)
  else s.reg off

/-- The register that eight aligned bytes of an access reach on an unchecked page; none where it reaches none. -/
def deviceAt (s : State) (who : Who) (va : Nat) (acc : AccKind) : Option Nat :=
  if va % 8 ≠ 0 then none else
  match translate s who va 8 acc with
  | .ok h => if h.device && h.checked.isNone then h.pa.map (fun pa => pa % 2 ^ 48) else none
  | .error _ => none

/-- Eight aligned bytes read for a context or by physical address. -/
def feLoad (s : State) (who : Who) (va : Nat) : Except AccFault Nat :=
  match deviceAt s who va .read with
  | some off => .ok (devRead s off).toNat
  | none => feRead s who va 8

/-- Write the low bytes of a value to located pieces. -/
def writeLocs (s : State) : List (Nat × Nat) → Nat → State
  | [], _ => s
  | (loc, n) :: r, v =>
    writeLocs { correctAt s true loc n with mem := Memory.writeN s.mem loc n v, poison := clearPoison s.poison loc n } r
      (v / 256 ^ n)

/-- n contiguous bytes written for a context or by physical address. -/
def feWrite (s : State) (who : Who) (va n v : Nat) : Except AccFault State :=
  match extLocs s who (sectorsOf va n (n + 1)) with
  | .error e => .error e
  | .ok l => .ok (writeLocs s l v)

/-- Whether an address lies on a checked page. -/
def onChecked (s : State) (who : Who) (va n : Nat) : Bool :=
  match translate s who va n .read with
  | .ok h => h.checked.isSome
  | .error _ => false

/-- The addressing of a queue of a context: physical for context 0 (R364). -/
def whoOf (ctx : Nat) : Who := if ctx = 0 then .phys else .ctx ctx

/-! ## QSB fields by physical address (R364) -/

def qsbGet (s : State) (qsb off n : Nat) : Nat := Memory.readN s.mem (locOf (qsb + off)) n
def qsbPut (s : State) (qsb off n v : Nat) : State := s.setMem (Memory.writeN s.mem (locOf (qsb + off)) n v)

def qNext (s : State) (q : Nat) : Nat := qsbGet s q 0 8
def qState (s : State) (q : Nat) : Nat := qsbGet s q 8 1
def qFlags (s : State) (q : Nat) : Nat := qsbGet s q 9 1
def qQid (s : State) (q : Nat) : Nat := qsbGet s q 12 2
def qCtx (s : State) (q : Nat) : Nat := qsbGet s q 16 4
def qRepring (s : State) (q : Nat) : Nat := qsbGet s q 20 4
def qRbase (s : State) (q : Nat) : Nat := qsbGet s q 24 8
def qRsize (s : State) (q : Nat) : Nat := qsbGet s q 32 4
def qRptr (s : State) (q : Nat) : Nat := qsbGet s q 40 8

/-- PRIV is honoured only for a QSB within the window PWBASE to PWLIMIT (R364). -/
def qPriv (s : State) (q : Nat) : Bool :=
  qFlags s q % 2 = 1 && (s.reg 0x10).toNat ≤ q && q + 256 ≤ (s.reg 0x18).toNat

/-! ## Host rings (R381, R382) -/

/-- The key of a ring of an owner; 0, which no ring has, for an id that names none (R373). -/
def ringKey (ctx id : Nat) : Nat := if id < 1024 then ctx * 1024 + id else 0

/-- Whether 64 records wait for a ring, so that REPORT packets and generating contexts wait too (R381). -/
def ringFull (s : State) (key : Nat) : Bool :=
  match Tbl.look s.rings key with
  | some r => 64 ≤ r.waiting.length
  | none => false

/-- A record addressed to a ring: it waits at the ring for room, is dropped where the ring does not exist, and waits in
the front end where 64 records already wait (R381). -/
def ringPost (s : State) (key : Nat) (rec' : BitVec 256) : State :=
  if key % 1024 = 0 then s else
  match Tbl.look s.rings key with
  | none => s
  | some r =>
    if r.waiting.length < 64 then
      { s with rings := Tbl.put s.rings key { r with waiting := r.waiting ++ [rec'] } }
    else { s with reports := s.reports ++ [(key, rec')] }

/-- Byte k of a record at bits 8k up. -/
def recAt (k v : Nat) : Nat := v * 2 ^ (8 * k)

/-! ## Completion of packets (R373, R380, R381) -/

/-- The completion record, kind 4. -/
def completionRecord (status : Nat) (covBound : Bool) (tag : Word) (w2 : Nat) (w3 : Nat) : BitVec 256 :=
  .ofNat 256 (4 + recAt 4 (status % 2 ^ 16) + (if covBound then recAt 6 1 else 0) + recAt 8 tag.toNat + recAt 16 w2
    + recAt 24 w3)

/-- A status other than OK halts the queue unless CONT is set; FAULTPTR keeps the first packet that halted it. A WAITS that
has started runs to its completion first (R380). A queue in UNLINKING keeps that STATE; where the front end moves it, its kept
STATE counts in the same way, and it is halted once moved. -/
def haltQueue (s : State) (q pkt : Nat) : State :=
  let later : State := { s with halts := if (Tbl.look s.halts q).isSome then s.halts else Tbl.put s.halts q pkt }
  if qState s q = 3 then s
  else if qState s q = 2 then later
  else if qState s q = 4 then
    match s.moves.find? (fun m => m.1 = q) with
    | some m =>
      if m.2.2 = 3 then s
      else if m.2.2 = 2 then later
      else { qsbPut s q 88 8 pkt with moves := s.moves.map (fun (m : Nat × Nat × Nat) => if m.1 = q then (q, m.2.1, 3) else m) }
    | none => if (Tbl.look s.halts q).isSome then s else qsbPut later q 88 8 pkt
  else
    let s := qsbPut (qsbPut s q 8 1 3) q 88 8 pkt
    { s with threads := s.threads.map (fun t => if t.2.qsb = some q then (t.1, { t.2 with unmap := true }) else t) }

/-- A packet completes with a status: STATUS, the halt of its queue, its completion record. -/
def completePacket (s : State) (q : Nat) (pkt : Word) (h : Hdr) (status : Nat) (covBound : Bool) (w2 w3 : Nat) : State :=
  let s1 := if status = 0 then s else qsbPut s q 80 2 status
  let s2 := if status ≠ 0 && !h.cont then haltQueue s1 q pkt.toNat else s1
  if h.report then ringPost s2 (ringKey (qCtx s q) (qRepring s q)) (completionRecord status covBound h.tag w2 w3) else s2

/-- An atomic add to a signal word at system scope: aligned, on an unchecked page, or ADDR_FAULT (R373). -/
def signalAdd (s : State) (who : Who) (va : Nat) (v : Nat) : Except AccFault State :=
  if va % 8 ≠ 0 || onChecked s who va 8 then .error (Cause.misaligned, .ofNat 64 va)
  else match feRead s who va 8 with
    | .error e => .error e
    | .ok old => feWrite (extSeen s who va 8) who va 8 ((old + v) % 2 ^ 64)

end Sys2Proof.Machine
end

