-- ==== Sys2Proof/Machine/Ops.lean ====
section
/-!
DEFINITION. The named operations over strands, groups and launches: staged work and commit (R84, R85), tasks (R69 to
R72), discarding and restarting a group (R88 to R90), group faults and dumps (R391, R398 to R400), TAKING A TRAP (R388)
and returning from it (R390), and the checks that every native instruction shares (R116).
-/

namespace Sys2Proof.Machine

/-! ## Groups and their cores -/

/-- The logical cores of a stage, in ascending x + y * W (R74). -/
def stageCores (ctx : Nat) (d : StageDesc) : List Nat :=
  (List.range d.h).flatMap (fun j => (List.range d.w).map (fun i => coreKey ctx (d.x + i) (d.y + j)))

/-- The cores of a stage of a launch. -/
def State.coresOf (s : State) (l st : Nat) : List Nat :=
  match s.launch l with
  | some la => (match la.stages[st]? with | some d => stageCores la.ctx d | none => [])
  | none => []

/-- The active strands of a stage. -/
def State.strandsOf (s : State) (l st : Nat) : List Nat :=
  (s.coresOf l st).flatMap (fun c => (List.range (s.core c).count).map (fun i => c * 16 + i))

/-- Whether a core belongs to a running stage of a launch. -/
def inStage (s : State) (core l st : Nat) : Bool := (s.coresOf l st).contains core

/-- The stage a strand's core runs: launch and stage. -/
def State.groupOf (s : State) (k : Nat) : Option (Nat × Nat) :=
  match (s.core (coreOf k)).launch with
  | some l => some (l, (s.core (coreOf k)).stage)
  | none => none

/-- Whether a core runs a group (R66, R408). -/
def groupRuns (s : State) (c : Core) : Bool :=
  c.bound && (match c.launch with
    | some l => (match s.launch l with | some la => la.sts[c.stage]? = some .running | none => false)
    | none => false)

/-- Whether the strands of a core may act: its stage runs, and the core has not taken its edge (R419). -/
def coreActs (s : State) (core : Nat) : Bool :=
  groupRuns s (s.core core) &&
  (match s.ctx (ctxOf core) with | some c => !(edged s c.part (.core (s.phys core))) | none => false)

/-- Key of a stage among coverage stages, and of a group among a barrier's arrivals. -/
def stageKey (l st : Nat) : Nat := l * 16 + st

def setStageSt (s : State) (l st : Nat) (x : StageSt) : State :=
  match s.launch l with
  | some la => s.setLaunch l { la with sts := la.sts.set st x }
  | none => s

/-- Update every core, or every strand, of a list. -/
def mapCores (s : State) (f : Core → Core) : List Nat → State
  | [] => s
  | c :: r => mapCores (s.setCore c (f (s.core c))) f r

def mapStrands (s : State) (f : Strand → Strand) : List Nat → State
  | [] => s
  | k :: r => mapStrands (s.setStrand k (f (s.strand k))) f r

/-! ## The save slot (R87, R153) -/

/-- Location of a strand's save slot. -/
def saveLoc (k : Nat) : Nat := padLoc (coreOf k) (0x1FF800 + 128 * slotOf k)

/-- x1 to x15 at bytes 0 to 119, TASKID at 120 to 125, zero at 126 and 127. -/
def saveValue (t : Strand) : Nat :=
  (List.range 15).foldl (fun n i => n + (Vector.nth (n := 15) t.x (i + 1)).toNat * 2 ^ (64 * i)) 0
    + t.taskid.toNat * 2 ^ 960

def writeSave (s : State) (k : Nat) : State :=
  (correctAt s true (saveLoc k) 128).setMem (Memory.writeN s.mem (saveLoc k) 128 (saveValue (s.strand k)))

/-- x1 to x15 and TASKID from the save slot (R89). -/
def loadSave (s : State) (k : Nat) (t : Strand) : Strand :=
  let v := Memory.readN s.mem (saveLoc k) 128
  { t with x := (List.range 15).foldl (fun (x : Vector Word 16) i => Vector.upd x (i + 1) (.ofNat 64 (v / 2 ^ (64 * i)))) t.x
           taskid := .ofNat 48 (v / 2 ^ 960) }

/-! ## Task queues (R70) -/

/-- Entries of a core's queue that uncommitted regions hold reserved (R158). -/
def reservedIn (s : State) (core : Nat) : Nat :=
  s.strands.foldl (fun n e => n + (e.2.staged.filter (fun o => match o with | .enqueue h _ => h = core | _ => false)).length) 0

/-- Whether tasks are placed on a core: none is on a deck whose role changes (R23; log 57). -/
def coreTakes (s : State) (core : Nat) : Bool := !(deckChanging s (deckOf (s.phys core)))

/-- Held tasks enter a core's queue, the oldest first, as far as slots are free (R70); at most `fuel` of them. -/
def enterHeld (s : State) (core : Nat) : Nat → State
  | 0 => s
  | fuel + 1 =>
    let c := s.core core
    match c.held with
    | t :: r =>
      if coreTakes s core && c.queue.length + reservedIn s core < 64 then
        enterHeld (s.setCore core { c with queue := c.queue ++ [{ t with enq := s.reft.toNat }], held := r }) core fuel
      else s
    | [] => s

/-- A released or arriving task: it enters the queue, or is held at the core where the queue is full (R70) or takes none (R23). -/
def enqueueTask (s : State) (core : Nat) (t : Task) : State :=
  let c := s.core core
  let t := { t with enq := s.reft.toNat }
  if coreTakes s core && c.held.isEmpty && c.queue.length + reservedIn s core < 64 then s.setCore core { c with queue := c.queue ++ [t] }
  else s.setCore core { c with held := c.held ++ [t] }

/-- Whether a queue has an entry neither occupied, reserved nor promised to a held task (R158). -/
def queueRoom (s : State) (core : Nat) : Bool :=
  let c := s.core core
  c.queue.length + reservedIn s core + c.held.length < 64

/-- A strand takes a task (R72, R81): registers, RGN, save slot; the handler state ends (R390). -/
def takeTask (s : State) (k : Nat) (t : Task) : State :=
  let st := s.strand k
  let now := s.reft.toNat
  let st' := { st with pc := t.entry, rgn := t.entry, x := Vector.upd t.xs 0 0, taskid := t.id, fpc := t.fpc.getD st.fpc
                       tActive := false, idle := false, wait := .none, taskE := t.enq, taskD := now }
  let s1 := writeSave (s.setStrand k st') k
  (s1.count (coreOf k) 17 (now - st.idleAt)).count (coreOf k) 16 (now - t.enq)

/-- The cores whose queues an idle strand of a core searches, in the order of R71. -/
def searchOrder (s : State) (core : Nat) : List Nat :=
  match (s.core core).launch with
  | none => [core]
  | some l =>
    let all := (s.coresOf l (s.core core).stage).filter (fun c => c ≠ core)
    let me := s.phys core
    let cluster := all.filter (fun c => unitOf 2 (s.phys c) = unitOf 2 me)
    let deck := all.filter (fun c => unitOf 3 (s.phys c) = unitOf 3 me && unitOf 2 (s.phys c) ≠ unitOf 2 me)
    let dist (c : Nat) : Nat :=
      let p := s.phys c
      let dx := ((p % 16 : Int) - (me % 16 : Nat)).natAbs
      let dy := ((p / 16 % 8 : Int) - (me / 16 % 8 : Nat)).natAbs
      (dx + dy) * 128 + p % 128
    let far := (List.range 3200).flatMap (fun d => deck.filter (fun c => dist c = d))
    core :: (cluster ++ far)

/-- An idle strand searches the queues and takes the first task it finds (R71). -/
def searchTask (s : State) (k : Nat) : List Nat → State
  | [] => s
  | c :: r =>
    match (s.core c).queue with
    | t :: q => takeTask (s.setCore c { s.core c with queue := q }) k t
    | [] => searchTask (s.count (coreOf k) 19 1) k r

/-- An idle strand of a core that takes tasks searches for one. From DRAIN on an idle strand of a deck whose role changes takes none,
also none that its queue held before, while groups that run there run on (R23 leaves this open; DEDUCED, log 57). -/
def seekTask (s : State) (k : Nat) : State :=
  if coreTakes s (coreOf k) then searchTask s k (searchOrder s (coreOf k)) else s

/-! ## Commit (R85, R150) -/

/-- The link that an endpoint of a core sends on. -/
def linkOf (s : State) (core k : Nat) : Option Link :=
  s.links.find? (fun l => l.sender = core && l.ks = k && (s.core core).launch = some l.launch)

/-- The links that arrive at an endpoint of a core. -/
def linksTo (s : State) (core k : Nat) : List Link :=
  s.links.filter (fun l => l.receiver = core && l.kr = k && (s.core core).launch = some l.launch)

def inboxKey (core k : Nat) : Nat := core * 16 + k
def inboxOf (s : State) (core k : Nat) : List Msg := Tbl.get s.inbox (inboxKey core k) []

/-- Remove the first message that a slot's region has taken. -/
def dropTaken (slot : Nat) : List Msg → List Msg
  | [] => []
  | m :: r => if m.taken = some slot then r else m :: dropTaken slot r

/-- Points of a block that its strand computed, audited, and leaves to reconstruction. -/
def covComputed (c : Cov) (e : Nat × Nat × Nat) : List Nat := (List.range 64).filter (fun p => covLattice c e.1 p e.2.1 e.2.2)
def covAudits (c : Cov) (e : Nat × Nat × Nat) : List Nat := (List.range 64).filter (fun p => covAudited c e.1 p e.2.1 e.2.2)
def covSkipped (c : Cov) (e : Nat × Nat × Nat) : List Nat :=
  (List.range 64).filter (fun p => !(covLattice c e.1 p e.2.1 e.2.2) && !(covAudited c e.1 p e.2.1 e.2.2))

/-- Coverage points are counted at the core that made the CVDONE (R408). -/
def countPoints (core : Nat) (c : Cov) (s : State) : List (Nat × Nat × Nat) → State
  | [] => s
  | e :: r =>
    countPoints core c (((s.count core 20 (covComputed c e).length).count core 21 (covAudits c e).length).count core 22
      (covSkipped c e).length) r

/-- One staged operation takes effect. The sends of two strands of a core on one channel take the order of their commits
(log 56). -/
def commitOne (s : State) (k : Nat) (o : Staged) : State :=
  let core := coreOf k
  let c := s.core core
  match o with
  | .send e m =>
    (match linkOf s core e with
    | some l =>
      if l.closed then
        (match s.launch l.launch with | some la => s.setLaunch l.launch { la with unconsumed := la.unconsumed + 1 } | none => s)
      else
        let key := inboxKey l.receiver l.kr
        { s with inbox := Tbl.put s.inbox key (Tbl.get s.inbox key [] ++ [{ sender := core, ks := e, msg := m, taken := none }]) }
    | none => s)
  | .recv e => { s with inbox := Tbl.put s.inbox (inboxKey core e) (dropTaken (slotOf k) (inboxOf s core e)) }
  | .endMark e =>
    let s1 := { s with links := s.links.map (fun (l : Link) =>
      if l.sender = core ∧ l.ks = e ∧ c.launch = some l.launch then { l with closed := true } else l) }
    s1.setStrand k { s1.strand k with closed := (s1.strand k).closed ++ [e] }
  | .arm i v home t =>
    if v = 0 then enqueueTask (s.setCore core { c with ctrs := Tbl.put c.ctrs i .free }) home t
    else s.setCore core { c with ctrs := Tbl.put c.ctrs i (.armed v home t) }
  | .dec tc i a =>
    s.sendDecr { id := 0, src := core, core := tc, c := i, amount := a, launch := c.launch.getD 0, stage := c.stage }
  | .enqueue home t =>
    let h := s.core home
    let t := { t with enq := s.reft.toNat }
    s.setCore home (if coreTakes s home then { h with queue := h.queue ++ [t] } else { h with held := h.held ++ [t] })
  | .cvdone b =>
    let key := stageKey (c.launch.getD 0) c.stage
    let s1 := match Tbl.look s.covs key with
      | some cv =>
        let mine := cv.claimed.filter (fun (e : Nat × Nat × Nat) => e.1 = b)
        countPoints core cv { s with covs := Tbl.put s.covs key { cv with
          done := cv.done ++ mine, claimed := cv.claimed.filter (fun (e : Nat × Nat × Nat) => e.1 ≠ b) } } mine
      | none => s
    s1.setStrand k { s1.strand k with batch := none }
  | .copy w0 w1 w2 w3 =>
    s.setCore core { c with jobs := c.jobs ++ [{ launch := c.launch.getD 0, stage := c.stage, slot := slotOf k, w0 := w0, w1 := w1
                                                 w2 := w2, w3 := w3, started := false, block := none, idx := [], done := 0
                                                 rows := [], flags := 0, susp := none }] }

/-- Held tasks enter their queue ahead of a task that a SPAWN enqueues (R70). -/
def makeWay (s : State) : Staged → State
  | .enqueue home _ => enterHeld s home 64
  | _ => s

/-- The operations take effect in order; those still to come stay staged, so that their reservations hold. -/
def commitAll (s : State) (k : Nat) : List Staged → State
  | [] => s
  | o :: r =>
    let s1 := makeWay s o
    commitAll (commitOne (s1.setStrand k { s1.strand k with staged := r }) k o) k r

/-- The staged operations of a region other than copy requests, and the copy requests. -/
def Staged.isCopy : Staged → Bool
  | .copy _ _ _ _ => true
  | _ => false
def stagedCount (t : Strand) : Nat := (t.staged.filter (fun o => !o.isCopy)).length

/-- The decks whose boundary the effect of a staged operation crosses (R415). -/
def Staged.decks (s : State) (core : Nat) (o : Staged) : List Nat :=
  let me := s.phys core
  match o with
  | .send k _ => (match linkOf s core k with | some l => crossDecks me (s.phys l.receiver) | none => [])
  | .endMark k => (match linkOf s core k with | some l => crossDecks me (s.phys l.receiver) | none => [])
  | .enqueue home _ => crossDecks me (s.phys home)
  | .dec home _ _ => crossDecks me (s.phys home)
  | .arm _ n home _ => if n = 0 then crossDecks me (s.phys home) else []
  | _ => []

/-- The boundaries that hold the commit of a strand's region (R149, R415). -/
def commitDecks (s : State) (k : Nat) : List Nat :=
  heldAt s k ((s.strand k).staged.flatMap (fun o => o.decks s (coreOf k))).eraseDups

/-- A commit waits while the footprint table has no entry for its requests (R274), and while the fabric does not accept
an operation (R149, R415). -/
def commitBlocked (s : State) (k : Nat) : Bool :=
  16 < (s.core (coreOf k)).jobs.length + ((s.strand k).staged.filter Staged.isCopy).length || !(commitDecks s k).isEmpty

/-- The commit of a strand's region. -/
def commit (s : State) (k : Nat) : State := commitAll s k (s.strand k).staged

/-- REGION at address p: commit, save slot, RGN (R85, R153). -/
def regionAt (s : State) (k : Nat) (p : Word) : State :=
  let s1 := writeSave (commit s k) k
  s1.setStrand k { s1.strand k with rgn := p }

/-! ## Batches of a coverage stage (R296, R299, R310) -/

/-- A held batch whose CVDONE has not committed returns to the walker. -/
def returnBatch (s : State) (k : Nat) : State :=
  match s.groupOf k, (s.strand k).batch with
  | some (l, st), some b =>
    let s1 := match Tbl.look s.covs (stageKey l st) with
      | some cv => { s with covs := Tbl.put s.covs (stageKey l st) { cv with
          claimed := cv.claimed.filter (fun (e : Nat × Nat × Nat) => e.1 ≠ b), returned := cv.returned ++ [b]
          requests := cv.requests.filter (fun r => r ≠ k) } }
      | none => s
    s1.setStrand k { s1.strand k with batch := none }
  | some (l, st), none =>
    (match Tbl.look s.covs (stageKey l st) with
    | some cv => { s with covs := Tbl.put s.covs (stageKey l st) { cv with requests := cv.requests.filter (fun r => r ≠ k) } }
    | none => s)
  | none, _ => s

/-- The strand becomes idle (R71, R154): its task ends, and with it its run time (R406). -/
def becomeIdle (s : State) (k : Nat) : State :=
  let t := s.strand k
  let s1 := s.count (coreOf k) 18 (s.reft.toNat - t.taskD)
  s1.setStrand k { t with idle := true, wait := .none, taskid := 0, idleAt := s.reft.toNat }

/-! ## Discarding a group (R88, R90, R234, R310) -/

/-- A store or an atomic that has issued and is held goes on without its strand, in the place that it has at a boundary (R88, R137,
R143); any other place is given up. -/
def leaveLate (s : State) (k : Nat) : State :=
  match (s.strand k).wait with
  | .store i =>
    renameHeld { s with lates := s.lates ++ [{ id := s.sent, strand := k, saved := s.strand k, core := s.core (coreOf k), instr := i }]
                        sent := s.sent + 1 } k (itemSender s.sent)
  | _ => dropHeld s k

/-- What a discard takes from one strand. -/
def discardStrand (s : State) (k : Nat) : State :=
  let core := coreOf k
  let slot := slotOf k
  let s1 := returnBatch s k
  let c := s1.core core
  let s2 := s1.setCore core { c with ctrs := c.ctrs.map (fun (e : Nat × Ctr) => if e.2 = .reserved slot then (e.1, .free) else e) }
  let s3 := { s2 with inbox := s2.inbox.map (fun (e : Nat × List Msg) =>
    if e.1 / 16 = core then (e.1, e.2.map (fun (m : Msg) => if m.taken = some slot then { m with taken := none } else m)) else e) }
  let s4 := leaveLate s3 k
  s4.setStrand k { s4.strand k with staged := [], wait := .none, call := none, exempt := false, stopAt := s4.reft.toNat }

def discardStrands (s : State) : List Nat → State
  | [] => s
  | k :: r => discardStrands (discardStrand s k) r

/-- Tiles and accumulators are not kept, and matrix operations are abandoned (R234). -/
def Core.dropMatrix (c : Core) : Core :=
  { c with mx := [], tiles := Core.empty.tiles, accs := Core.empty.accs }

/-- A group's arrivals in phases that are not full are withdrawn (R90). -/
def Barrier.withdraw (g : Nat) (b : Barrier) : Barrier :=
  { b with cur := if b.cur.length < b.n.toNat then b.cur.filter (fun a => a ≠ g) else b.cur
           nxt := if b.nxt.length < b.n.toNat then b.nxt.filter (fun a => a ≠ g) else b.nxt }

def withdrawArrivals (s : State) (ctx g : Nat) : State :=
  match s.ctx ctx with
  | some c => s.setCtx ctx { c with bars := c.bars.map (fun (e : Nat × Barrier) => (e.1, Barrier.withdraw g e.2)) }
  | none => s

/-- Every strand of a stage stops at one instant (R88). -/
def stopGroup (s : State) (l st : Nat) : State :=
  match s.launch l with
  | none => s
  | some la =>
    let s1 := discardStrands s (s.strandsOf l st)
    let s2 := mapCores s1 Core.dropMatrix (s1.coresOf l st)
    withdrawArrivals s2 la.ctx (stageKey l st)

/-- The discard of a running group, to be restarted (R88). -/
def discardGroup (s : State) (l st : Nat) : State :=
  match s.launch l with
  | none => s
  | some la => if la.sts[st]? = some .running then setStageSt (stopGroup s l st) l st .discarded else s

def discardStages (s : State) (l : Nat) : List Nat → State
  | [] => s
  | st :: r => discardStages (discardGroup s l st) l r

/-- Every group of a launch, in descending stage index (R396). -/
def discardLaunch (s : State) (l : Nat) : State :=
  match s.launch l with
  | some la => discardStages s l (List.range la.stages.length).reverse
  | none => s

/-- Zero a strand's part of the main vector file (R62, R77, R89). -/
def clearAlloc (c : Core) (slot : Nat) : Core :=
  let a := 16 * 2 ^ c.mode
  { c with vf := c.vf.filter (fun (e : Nat × V512) => !(a * slot ≤ e.1 && e.1 < a * slot + a)) }

/-- The phase of barrier 0 of each check scope in a core's units (R270). -/
def epochsAt (s : State) (core : Nat) : Vector (Half × Half) 4 :=
  let p (scope : Nat) : Half × Half :=
    let b := s.bar (ctxOf core) (barKey scope (unitOf scope (s.phys core)) 0)
    (b.p, b.p)
  #v[p 2, p 3, p 4, p 5]

/-- One strand at a restart (R89, R390): registers from RGN and the save slot; an idle strand restarts idle, and takes the FPC that its
stage started with, of which R89 speaks for running strands alone (DEDUCED, log 21). -/
def restartStrand (s : State) (fpc : Word) (k : Nat) : State :=
  let t := s.strand k
  let core := coreOf k
  let s1 := s.setCore core (clearAlloc (s.core core) (slotOf k))
  let t1 := { t with l0 := 0, l1 := 0, q := Vector.replicate 8 0, m := Vector.replicate 8 0, vx := 0, vxw := 0
                     fpc := fpc, tActive := false, staged := [], wait := .none, call := none, exempt := false
                     epochs := epochsAt s core, taskD := t.taskD + (s.reft.toNat - t.stopAt)
                     idleAt := t.idleAt + (s.reft.toNat - t.stopAt) }
  if t.idle then s1.setStrand k t1
  else (correctAt s1 false (saveLoc k) 128).setStrand k { loadSave s k t1 with pc := t.rgn }

def restartStrands (s : State) (fpc : Word) : List Nat → State
  | [] => s
  | k :: r => restartStrands (restartStrand s fpc k) fpc r

/-- The restart of a discarded group (R89), or the release of a stage that was bound and held (R77). -/
def restartGroup (s : State) (l st : Nat) : State :=
  match s.launch l with
  | some la =>
    if la.sts[st]?.any StageSt.waits then setStageSt (restartStrands s la.fpc (s.strandsOf l st)) l st .running else s
  | none => s

/-! ## Dumps (R397 to R400) -/

/-- What a group fault reports. -/
structure FaultInfo where
  cause : Byte
  inner : Nat
  pc : Word
  tval : Word
  taskid : Nat
  core : Nat
  slot : Nat
  job : Word
  deriving DecidableEq, Repr

def bytesAt (l : List (Nat × Nat)) : Nat := l.foldl (fun n e => n + e.2 * 2 ^ (8 * e.1)) 0

/-- The fault record; in a withheld dump only CAUSE, X, Y, SLOT and STAGE are nonzero (R398). -/
def faultRecord (f : FaultInfo) (stage : Nat) (withheld : Bool) : Nat :=
  let place := [(24, f.cause.toNat), (28, xOf f.core), (29, yOf f.core), (30, f.slot), (31, stage)]
  if withheld then bytesAt place
  else bytesAt (place ++ [(0, f.pc.toNat), (8, f.tval.toNat), (16, f.taskid), (26, f.inner), (32, f.job.toNat)])

def strandState (t : Strand) : Nat :=
  if t.idle then 2 else match t.wait with | .none => 0 | .rcall _ => 3 | _ => 1

def strandRecord (t : Strand) (k : Nat) : Nat :=
  bytesAt ((List.range 15).map (fun i => (8 + 8 * i, (Vector.nth (n := 15) t.x (i + 1)).toNat)) ++
    [ (0, t.pc.toNat), (128, t.taskid.toNat), (136, t.rgn.toNat),
      (144, (if t.tActive then 2 ^ 63 else 0) + t.tCode.toNat), (152, t.tpc.toNat), (160, t.tval.toNat), (168, t.tvec.toNat),
      (176, t.fpc.toNat), (184, t.vx.toNat), (186, t.vxw.toNat), (188, slotOf k), (189, xOf (coreOf k)), (190, yOf (coreOf k)),
      (191, strandState t) ])

def armedCount (c : Core) : Nat := (c.ctrs.filter (fun e => match e.2 with | .armed _ _ _ => true | _ => false)).length

/-- Requests that hold a copy FIFO entry: staged ones of the core's strands and committed ones not started (R281). -/
def fifoCount (s : State) (core : Nat) : Nat :=
  ((List.range 16).foldl (fun n i => n + ((s.strand (core * 16 + i)).staged.filter Staged.isCopy).length) 0)
    + ((s.core core).jobs.filter (fun j => !j.started)).length

def coreRecord (s : State) (k : Nat) : Nat :=
  let c := s.core k
  bytesAt ((List.range 4).map (fun i => (8 + 8 * i, (Vector.nth (n := 3) c.cpwp i).toNat)) ++
    [ (0, xOf k), (1, yOf k), (2, c.queue.length % 256), (3, c.held.length % 256), (4, armedCount c % 65536), (6, fifoCount s k % 256),
      (7, c.jobs.length % 256) ])

/-- FESTAT records the fault of a dump that has no header (R397). -/
def festatFault (s : State) (part : Nat) (cause : Byte) : State :=
  let old := (s.reg 0x28).toNat
  s.setReg 0x28 (.ofNat 64 ((fld old 16 32 + 1) % 2 ^ 32 * 2 ^ 16 + cause.toNat * 2 ^ 8 + part))

/-- Write records at consecutive offsets while they fit; the first fault gives its offset. -/
def dumpRecords (s : State) (base size : Nat) : Nat → List (Nat × Nat) → State × Option Nat
  | _, [] => (s, none)
  | off, (n, v) :: r =>
    if size < off + n then (s, none)
    else match feWrite s .phys (base + off) n v with
      | .error _ => (s, some off)
      | .ok s1 => dumpRecords s1 base size (off + n) r

/-- How many of a list of records fit. -/
def recordsFit (size : Nat) : Nat → List (Nat × Nat) → Nat
  | _, [] => 0
  | off, (n, _) :: r => if size < off + n then 0 else 1 + recordsFit size (off + n) r

/-- TRUNKBASE and TRUNKSIZE of a partition (R397). -/
def trunkBase (s : State) (part : Nat) : Nat := (s.reg (0x40 + 16 * part)).toNat
def trunkSize (s : State) (part : Nat) : Nat := (s.reg (0x48 + 16 * part)).toNat

/-- The dump of a group fault, written to the trunk of its partition (R398), with the offset behind the records of a sealed
one. -/
def writeDump (s : State) (la : Launch) (l st : Nat) (f : FaultInfo) : State × Option Nat :=
  match s.ctx la.ctx with
  | none => (s, none)
  | some c =>
    let base := trunkBase s c.part
    let size := trunkSize s c.part
    if base = 0 then (s, none)
    else if size < 64 then (festatFault s c.part Cause.paAbsent, none)
    else match feRead s .phys base 8 with
      | .error e => (festatFault s c.part e.1, none)
      | .ok sealV =>
        if sealV ≠ 0 then
          match feRead s .phys (base + 40) 4 with
          | .error e => (festatFault s c.part e.1, none)
          | .ok d =>
            ((match feWrite s .phys (base + 40) 4 ((d + 1) % 2 ^ 32) with | .ok s1 => s1 | .error e => festatFault s c.part e.1), none)
        else
          let withheld := !c.debug
          let recs := (64, faultRecord f st withheld) ::
            (if withheld then [] else
              (s.strandsOf l st).map (fun k => (256, strandRecord (s.strand k) k)) ++
              (s.coresOf l st).map (fun k => (128, coreRecord s k)))
          let fit := recordsFit size 64 recs
          let omitted := recs.length - fit
          let head := bytesAt [ (8, la.ctx), (12, qQid s la.qsb), (14, (if omitted = 0 then 0 else 1) + (if withheld then 2 else 0)),
            (15, f.cause.toNat), (16, la.hdr.tag.toNat), (24, s.reft.toNat), (32, recs.length), (36, omitted) ]
          match feWrite s .phys base 8 1 with
          | .error e => (festatFault s c.part e.1, none)
          | .ok s1 =>
            match feWrite s1 .phys (base + 8) 32 (head / 2 ^ 64), feWrite s1 .phys (base + 44) 20 0 with
            | .error e, _ => (festatFault s c.part e.1, none)
            | _, .error e => (festatFault s c.part e.1, none)
            | .ok s1, .ok _ =>
              let s2 := (match feWrite s1 .phys (base + 44) 20 0 with | .ok x => x | .error _ => s1)
              match dumpRecords s2 base size 64 recs with
              | (s3, none) =>
                (match feWrite s3 .phys base 8 2 with
                | .ok s4 => (s4, some (64 + ((recs.take fit).foldl (fun n (e : Nat × Nat) => n + e.1) 0)))
                | .error _ => (s3, none))
              | (s3, some off) =>
                match feWrite s3 .phys (base + 48) 8 off with
                | .error _ => (s3, none)
                | .ok s4 => ((match feWrite s4 .phys base 8 3 with | .ok s5 => s5 | .error _ => s4), none)

/-- A front-end write that goes unnoticed where it faults. -/
def tryWrite (s : State) (pa n v : Nat) : State := match feWrite s .phys pa n v with | .ok s1 => s1 | .error _ => s
def tryRead (s : State) (pa n : Nat) : Nat := match feRead s .phys pa n with | .ok v => v | .error _ => 0

/-- A fault that a committed job or block meets after its launch's group fault: one more fault record behind those of the
dump, as long as that stands sealed. RECORDS counts it; where it, or a record before it, does not fit, OMITTED counts it too, and
where its write faults the dump is aborted (R391, R398; log 62). -/
def appendFault (s : State) (la : Launch) (l st : Nat) (f : FaultInfo) : State :=
  match s.ctx la.ctx, la.dump with
  | some c, some off =>
    let base := trunkBase s c.part
    if base = 0 || tryRead s base 8 ≠ 2 then s
    else
      let s1 := tryWrite s (base + 32) 4 ((tryRead s (base + 32) 4 + 1) % 2 ^ 32)
      if trunkSize s c.part < off + 64 || tryRead s (base + 14) 1 % 2 = 1 then
        tryWrite (tryWrite s1 (base + 36) 4 ((tryRead s (base + 36) 4 + 1) % 2 ^ 32)) (base + 14) 1 (tryRead s (base + 14) 1 ||| 1)
      else
        match feWrite s1 .phys (base + off) 64 (faultRecord f st !c.debug) with
        | .ok s2 => s2.setLaunch l { la with dump := some (off + 64) }
        | .error _ => tryWrite (tryWrite s1 (base + 48) 8 off) base 8 3
  | _, _ => s

/-! ## The end of a launch (R373, R391) -/

/-- The launch leaves its cores, and its packet completes. Nothing of it is left on the fabric. The channel slots of the
cores stay part of their reserve until the next release (log 61). -/
def endLaunch (s : State) (l : Nat) (status w3 : Nat) : State :=
  match s.launch l with
  | none => s
  | some la =>
    let cores := (List.range la.stages.length).flatMap (fun st => s.coresOf l st)
    let s1 := mapCores (s.setLaunch l { la with ended := true }) (fun c => if c.launch = some l then { c with bound := false } else c) cores
    let s2 := { s1 with asyncs := s1.asyncs.filter (fun a => a.kind ≠ .launch l), links := s1.links.filter (fun k => k.launch ≠ l)
                        decrs := s1.decrs.filter (fun (d : Decr) => d.launch ≠ l), calls := s1.calls.filter (fun (f : Flight) => f.launch ≠ l)
                        replies := s1.replies.filter (fun (r : RReply) => r.launch ≠ l) }
    completePacket s2 la.qsb la.pkt la.hdr status la.covBound (la.unconsumed * 2 ^ 32 + la.discarded) w3

/-- Idle time of strands, of each up to a time of its own (R406). -/
def countIdle (s : State) (upTo : Strand → Nat) : List Nat → State
  | [] => s
  | k :: r =>
    let t := s.strand k
    countIdle (if t.idle then s.count (coreOf k) 17 (upTo t - t.idleAt) else s) upTo r

/-- The idle time of a stage's strands up to its end: while it runs, or up to its discard (R406). -/
def endIdle (s : State) (l st : Nat) : State :=
  match (s.launch l).bind (fun la => la.sts[st]?) with
  | some .running => countIdle s (fun _ => s.reft.toNat) (s.strandsOf l st)
  | some .discarded | some .held => countIdle s (fun t => t.stopAt) (s.strandsOf l st)
  | _ => s

def endStages (s : State) (l : Nat) : List Nat → State
  | [] => s
  | st :: r => endStages (setStageSt (stopGroup (endIdle s l st) l st) l st .ended) l r

/-- Reconstructed values become visible, and leave race tags empty (R307). Where cells overlap, the values of the block that was
reconstructed last stand, over every strand's store too: R289 fixes no writer there (DESIGN CHOICE, log 42). -/
def flushValues (s : State) (c : Cov) : State :=
  let secs := (c.values.map (fun (v : Nat × Byte) => v.1 / 32)).eraseDups
  { s with mem := c.values.foldl (fun (m : List Host.Cell) v => Memory.write m v.1 v.2) s.mem
           soft := s.soft.filter (fun a => !(c.values.any (fun (v : Nat × Byte) => v.1 = a)))
           tags := s.tags.filter (fun (t : Nat × Tag) => !(secs.contains t.1)) }

/-- The blocks of a launch's coverage stages that are reconstructed stand when the launch ends (R391). -/
def flushStages (s : State) (l : Nat) : State :=
  (s.covs.filter (fun (e : Nat × Cov) => e.1 / 16 = l)).foldl (fun (s : State) e =>
    { flushValues s e.2 with covs := Tbl.put s.covs e.1 { e.2 with values := [] } }) s

/-- The strand with a trap taken: cause and TVAL, the pc at its handler (R388). -/
def Strand.trapped (t : Strand) (cause : Byte) (v : Word) : Strand :=
  { t with tActive := true, tCode := cause, tpc := t.pc, tval := v, pc := t.tvec, wait := .none }

/-- A call whose task is lost makes its caller raise RCALL_LOST with the continuation identifier; the group fault that a
caller without a handler raises by it is not the first (R83, R391). -/
def loseCall (t : Strand) : Strand :=
  match t.wait with
  | .rcall cont => if t.tActive || t.tvec = 0 then t else t.trapped Cause.rcallLost cont
  | _ => t

/-- During a round, the cores of a launch that a group fault has ended take their edges at once (R422). -/
def edgeCores (s : State) (la : Launch) (cores : List Nat) : State :=
  match s.ctx la.ctx with
  | some c =>
    let r := s.round c.part
    let hit (u : UnitRef) : Bool := cores.any (fun k => u = .core (s.phys k))
    if r.active && r.pending then
      s.setRound c.part { r with
        waiting := r.waiting.filter (fun (e : UnitRef × List InputRef) => !(hit e.1))
        edged := r.edged ++ (r.waiting.map (fun (e : UnitRef × List InputRef) => e.1)).filter hit }
    else s
  | none => s

/-- Messages left at the cores of the stages of a launch of which `which` holds; those of a launch whose cores another has taken are
in the save area. -/
def leftMessages (s : State) (l : Nat) (which : StageSt → Bool) : Nat :=
  match s.launch l with
  | none => 0
  | some la =>
    let boxes (k : Nat) : Tbl (List Msg) := match Tbl.look la.saved k with
      | some v => v.inbox
      | none => s.inbox.filter (fun (e : Nat × List Msg) => e.1 / 16 = k)
    let cores := (List.range la.stages.length).flatMap (fun st => if la.sts[st]?.any which then s.coresOf l st else [])
    cores.foldl (fun n k => (boxes k).foldl (fun n (e : Nat × List Msg) => n + e.2.length) n) 0

/-- They are counted as left unconsumed, as the completion record shows them (R78, R91). -/
def countLeft (s : State) (l : Nat) (which : StageSt → Bool) : State :=
  match s.launch l with
  | some la => s.setLaunch l { la with unconsumed := la.unconsumed + leftMessages s l which }
  | none => s

/-- A group faults: it and every other group of its launch stop for good, a dump is written, and the LAUNCH packet
completes with GROUP_FAULT. Only the first fault of a launch counts; the dump records those that its jobs meet later (R391). -/
def groupFault (s : State) (l st : Nat) (f : FaultInfo) : State :=
  match s.launch l with
  | none => s
  | some la =>
    if la.fault.isSome then (if f.cause = Cause.cpyFault then appendFault s la l st f else s)
    else if la.ended then s
    else
      let d := writeDump s la l st f
      let s1 := countLeft (d.1.setLaunch l { la with fault := some f.cause, dump := d.2 }) l (fun x => x = .complete)
      let s2 := endStages (mapStrands s1 loseCall (s1.strandsOf l st)) l (List.range la.stages.length)
      edgeCores (endLaunch (flushStages s2 l) l Status.groupFault f.cause.toNat) la
        ((List.range la.stages.length).flatMap (fun i => s.coresOf l i))

/-! ## Completion of a launch (R373) -/

/-- Whether every stage of a launch is complete or ended. -/
def allEnded (la : Launch) : Bool := la.sts.all (fun (x : StageSt) => x = .complete || x = .ended)

/-- The add at SIGADDR that the completion of a launch still owes, if any. -/
def signalTouch (s : State) (l : Nat) : Touch :=
  match s.launch l with
  | some la => if la.sigaddr = 0 || la.covFault.isSome then Touch.none
               else { reads := [], rest := [(whoOf la.ctx, la.sigaddr.toNat, 8)] }
  | none => Touch.none

/-- A launch whose stages have all ended completes (R373): COV_FAULT, or OK with the add at SIGADDR. -/
def endOfLaunch (s : State) (l : Nat) : State :=
  let s1 := countLeft s l (fun _ => true)
  match s1.launch l with
  | none => s
  | some la =>
    match la.covFault with
    | some va => endLaunch s1 l Status.covFault va.toNat
    | none =>
      let ok := if la.everPreempted then Cause.preemptNotice.toNat else 0
      if la.sigaddr = 0 then endLaunch s1 l Status.ok ok
      else match signalAdd s1 (whoOf la.ctx) la.sigaddr.toNat la.sigval.toNat with
        | .error e => endLaunch s1 l Status.addrFault e.1.toNat
        | .ok s2 => endLaunch s2 l Status.ok ok

/-- It completes, or, where a relock holds its add, does so in a later STAGE_COMPLETE (R415). -/
def completeLaunch (s : State) (l : Nat) : State :=
  match touchHeld s (packetSender l) (signalTouch s l) with
  | [] => endOfLaunch (dropHeld s (packetSender l)) l
  | ds => noteHeld s (packetSender l) ds

/-! ## Taking a trap and returning from it (R388, R390) -/

/-- What a synchronous fault of a strand reports. -/
def strandFault (s : State) (k : Nat) (cause : Byte) (inner : Nat) (tval : Word) : FaultInfo :=
  let t := s.strand k
  { cause := cause, inner := inner, pc := t.pc, tval := tval, taskid := t.taskid.toNat, core := coreOf k, slot := slotOf k, job := 0 }

/-- The group fault of a strand; a strand of no launch just stops. -/
def strandGroupFault (s : State) (k : Nat) (f : FaultInfo) : State :=
  match s.groupOf k with
  | some (l, st) => groupFault s l st f
  | none => s.setStrand k { s.strand k with active := false }

/-- TRAP ENTRY: the cause C with value v raised at the strand's pc (R388). -/
def trapAt (s : State) (k : Nat) (cause : Byte) (v : Word) : State :=
  let t := s.strand k
  if t.tActive then strandGroupFault s k (strandFault s k Cause.doubleTrap cause.toNat v)
  else if t.tvec = 0 then strandGroupFault s k (strandFault s k cause 0xFFFF v)
  else s.setStrand k (t.trapped cause v)

/-- RETURN FROM A TRAP (R174, R390). -/
def trapReturn (s : State) (k : Nat) : State :=
  let t := s.strand k
  s.setStrand k { t with tActive := false, pc := t.tpc, exempt := true }

/-! ## What every native instruction shares -/

/-- Raise a cause at the current instruction. -/
def trap (s : State) (cause : Byte) (v : Word) : Res := .next (trapAt s s.fs cause v)

/-- The instruction completes: the pc moves past its n bytes. -/
def retire (n : Nat) (s : State) : Res := .next (s.setPc (s.pc + .ofNat 64 n))

/-- The instruction is held by a memory access, and its strand is out of rotation until it issues again (R67); it has passed
its breakpoint check (R402). It takes its place at the boundaries that hold it (R415). -/
def stall (ds : List Nat) (s : State) : Res :=
  .next (noteHeld (s.setCur { s.cur with exempt := true, wait := .held true }) s.fs ds)

/-- The same with a store or an atomic, which has issued and completes whatever becomes of its strand (R88, R137, R143). -/
def stallStore (i : Instr) (ds : List Nat) (s : State) : Res :=
  .next (noteHeld (s.setCur { s.cur with exempt := true, wait := .store i }) s.fs ds)

/-- The instruction is held by something else than memory (R67, R149). -/
def hold (ds : List Nat) (s : State) : Res :=
  .next (noteHeld (s.setCur { s.cur with exempt := true, wait := .held false }) s.fs ds)

/-- The instruction is in progress: its strand waits, the pc stays on it. -/
def waitFor (w : Wait) (s : State) : Res := .next (s.setCur { s.cur with wait := w })

/-- Container width that an FMT register describes; none for an invalid description (R180, R181). -/
def fmtWidth (v : Word) : Option Nat :=
  let n := v.toNat
  let e := fld n 3 4
  let bits := fld n 7 1 + e + fld n 0 3
  if e = 0 ∨ 8 < e ∨ 8 < bits ∨ fld n 18 2 = 3 ∨ (fld n 18 2 = 0 ∧ fld n 0 3 = 0) then none
  else some (if bits ≤ 4 then 4 else 8)

def Core.fmtOf (c : Core) (n : Nat) : Word := Vector.nth (n := 7) c.fmt n

/-- Orders 3 and 6 of R116 before an instruction's own description. -/
def checked (i : Instr) (s : State) (body : Res) : Res :=
  let w := (encode i).getD 0
  match selector (w % 2 ^ 64) with
  | some c => trap s c (instrBits w)
  | none =>
    if reserved (fun n => fmtWidth (s.curCore.fmtOf n.toNat)) i then trap s Cause.reservedField (instrBits w) else body

end Sys2Proof.Machine
end

