-- ==== Sys2Proof/Machine/ScalarInt.lean ====
section
/-!
DEFINITION. The integer instructions on scalar registers: m0, m1 to m9, LIL and ADDL (R117 to R123).
-/

namespace Sys2Proof.Machine

/-- A result of a fixed-latency instruction of n bytes: written to xd, the pc moves on (R118). -/
def writeAndRetire (n : Nat) (d : XReg) (v : Word) (s : State) : Res := retire n (s.writeX d v)

/-- A result of an instruction with two register operands. -/
def regReg (f : Word → Word → Word) (d a b : XReg) (s : State) : Res :=
  writeAndRetire 4 d (f (s.readX a) (s.readX b)) s

/-- A result of an instruction with one register operand. -/
def regOnly (f : Word → Word) (d a : XReg) (s : State) : Res := writeAndRetire 4 d (f (s.readX a)) s

/-- sext(imm17, 17). -/
def simm17 (imm : BitVec 17) : Word := imm.signExtend 64

/-! ## Values (R120 to R122) -/

def mulhS (a b : Word) : Word := .ofInt 64 (a.toInt * b.toInt / 2 ^ 64)
def mulhU (a b : Word) : Word := .ofNat 64 (a.toNat * b.toNat / 2 ^ 64)
/-- Division truncates towards zero; a zero divisor gives all ones, the most negative value by −1 wraps (R121). -/
def divS (a b : Word) : Word := if b = 0 then BitVec.allOnes 64 else .ofInt 64 (Int.tdiv a.toInt b.toInt)
def divU (a b : Word) : Word := if b = 0 then BitVec.allOnes 64 else .ofNat 64 (a.toNat / b.toNat)
def remS (a b : Word) : Word := if b = 0 then a else .ofInt 64 (Int.tmod a.toInt b.toInt)
def remU (a b : Word) : Word := if b = 0 then a else .ofNat 64 (a.toNat % b.toNat)
/-- Shift amounts are bits 5:0. -/
def shAmt (b : Word) : Nat := b.toNat % 64
def minS (a b : Word) : Word := if a.toInt ≤ b.toInt then a else b
def maxS (a b : Word) : Word := if b.toInt ≤ a.toInt then a else b
def minU (a b : Word) : Word := if a.toNat ≤ b.toNat then a else b
def maxU (a b : Word) : Word := if b.toNat ≤ a.toNat then a else b
def flagWord (p : Bool) : Word := if p then 1 else 0

/-- Zero bits above the highest one bit among the low n bits; n if there is none. -/
def clzN (a : Nat) : Nat → Nat
  | 0 => 0
  | n + 1 => if a.testBit n then 0 else 1 + clzN a n
/-- Zero bits below the lowest one bit among the n bits from bit i. -/
def ctzN (a i : Nat) : Nat → Nat
  | 0 => 0
  | n + 1 => if a.testBit i then 0 else 1 + ctzN a (i + 1) n
/-- One bits among the low n bits. -/
def popN (a : Nat) : Nat → Nat
  | 0 => 0
  | n + 1 => (if a.testBit n then 1 else 0) + popN a n

/-- The width that the w field of SEXT and ZEXT names (R119). -/
def extWidth (w : BitVec 3) : Nat := 8 * 2 ^ w.toNat
def sextW (w : BitVec 3) (a : Word) : Word := (a.setWidth (extWidth w)).signExtend 64
def zextW (w : BitVec 3) (a : Word) : Word := (a.setWidth (extWidth w)).setWidth 64

/-! ## m0 -/

def execAdd (d a b : XReg) (s : State) : Res := regReg (· + ·) d a b s
def execSub (d a b : XReg) (s : State) : Res := regReg (· - ·) d a b s
def execMul (d a b : XReg) (s : State) : Res := regReg (· * ·) d a b s
def execMulh (d a b : XReg) (s : State) : Res := regReg mulhS d a b s
def execMulhn (d a b : XReg) (s : State) : Res := regReg mulhU d a b s
def execDiv (d a b : XReg) (s : State) : Res := regReg divS d a b s
def execDivn (d a b : XReg) (s : State) : Res := regReg divU d a b s
def execRem (d a b : XReg) (s : State) : Res := regReg remS d a b s
def execRemn (d a b : XReg) (s : State) : Res := regReg remU d a b s
def execAnd (d a b : XReg) (s : State) : Res := regReg (· &&& ·) d a b s
def execOr (d a b : XReg) (s : State) : Res := regReg (· ||| ·) d a b s
def execXor (d a b : XReg) (s : State) : Res := regReg (· ^^^ ·) d a b s
def execAndn (d a b : XReg) (s : State) : Res := regReg (fun x y => x &&& ~~~y) d a b s
def execShl (d a b : XReg) (s : State) : Res := regReg (fun x y => x <<< shAmt y) d a b s
def execShr (d a b : XReg) (s : State) : Res := regReg (fun x y => x >>> shAmt y) d a b s
def execSar (d a b : XReg) (s : State) : Res := regReg (fun x y => x.sshiftRight (shAmt y)) d a b s
def execMin (d a b : XReg) (s : State) : Res := regReg minS d a b s
def execMax (d a b : XReg) (s : State) : Res := regReg maxS d a b s
def execMinn (d a b : XReg) (s : State) : Res := regReg minU d a b s
def execMaxn (d a b : XReg) (s : State) : Res := regReg maxU d a b s
def execSlt (d a b : XReg) (s : State) : Res := regReg (fun x y => flagWord (x.slt y)) d a b s
def execSltn (d a b : XReg) (s : State) : Res := regReg (fun x y => flagWord (x.ult y)) d a b s
def execClz (d a : XReg) (s : State) : Res := regOnly (fun x => .ofNat 64 (clzN x.toNat 64)) d a s
def execCtz (d a : XReg) (s : State) : Res := regOnly (fun x => .ofNat 64 (ctzN x.toNat 0 64)) d a s
def execPopc (d a : XReg) (s : State) : Res := regOnly (fun x => .ofNat 64 (popN x.toNat 64)) d a s
/-- A width code of 3 to 7 raises RESERVED_FIELD (R119). -/
def execSext (d a : XReg) (w : BitVec 3) (s : State) : Res := checked (.sext d a w) s (regOnly (sextW w) d a s)
def execZext (d a : XReg) (w : BitVec 3) (s : State) : Res := checked (.zext d a w) s (regOnly (zextW w) d a s)

/-! ## m1 to m9 -/

def execAddi (d a : XReg) (imm : BitVec 17) (s : State) : Res := regOnly (· + simm17 imm) d a s
def execAndi (d a : XReg) (imm : BitVec 17) (s : State) : Res := regOnly (· &&& simm17 imm) d a s
def execOri (d a : XReg) (imm : BitVec 17) (s : State) : Res := regOnly (· ||| simm17 imm) d a s
def execXori (d a : XReg) (imm : BitVec 17) (s : State) : Res := regOnly (· ^^^ simm17 imm) d a s
def execShli (d a : XReg) (sh : BitVec 6) (s : State) : Res := regOnly (· <<< sh.toNat) d a s
def execShri (d a : XReg) (sh : BitVec 6) (s : State) : Res := regOnly (· >>> sh.toNat) d a s
def execSari (d a : XReg) (sh : BitVec 6) (s : State) : Res := regOnly (fun x => x.sshiftRight sh.toNat) d a s
def execSlti (d a : XReg) (imm : BitVec 17) (s : State) : Res := regOnly (fun x => flagWord (x.slt (simm17 imm))) d a s
/-- Replaces the upper 32 bits by a signed 17-bit quantity (R122). -/
def execLih (d a : XReg) (imm : BitVec 17) (s : State) : Res :=
  regOnly (fun x => (simm17 imm) <<< 32 + (x.setWidth 32).setWidth 64) d a s

/-! ## LIL and ADDL (R123) -/

def execLil (d : XReg) (lit : W32) (s : State) : Res := writeAndRetire 12 d (lit.signExtend 64) s
def execAddl (d a : XReg) (lit : W32) (s : State) : Res := writeAndRetire 12 d (s.readX a + lit.signExtend 64) s

end Sys2Proof.Machine
end

