-- ==== Sys2Proof/Machine/Control.lean ====
section
/-!
DEFINITION. Branches, jumps, REGION and TEND (R151 to R154).
-/

namespace Sys2Proof.Machine

/-- The conditions of R107; codes 6 and 7 are unassigned. -/
def condHolds (c : Nat) (a b : Word) : Bool :=
  if c = 0 then a == b else if c = 1 then a != b else if c = 2 then a.slt b else if c = 3 then !(a.slt b)
  else if c = 4 then a.ult b else !(a.ult b)

/-- The pc moves to a target. -/
def jumpTo (target : Word) (s : State) : Res := .next (s.setPc target)

def execBr (a b : XReg) (cond : BitVec 3) (off : BitVec 14) (s : State) : Res :=
  checked (.br a b cond off) s
    (jumpTo (if condHolds cond.toNat (s.readX a) (s.readX b) then s.pc + 4 * off.signExtend 64 else s.pc + 4) s)

def execJ (off : BitVec 21) (s : State) : Res := jumpTo (s.pc + 4 * off.signExtend 64) s
def execJal (d : XReg) (off : BitVec 21) (s : State) : Res :=
  jumpTo (s.pc + 4 * off.signExtend 64) (s.writeX d (s.pc + 4))

/-- The target of JR and JALR, from the value of xa before xd is written (R152). -/
def indirectTarget (a : XReg) (imm : BitVec 17) (s : State) : Word := s.readX a + simm17 imm

def execJr (a : XReg) (imm : BitVec 17) (s : State) : Res :=
  let t := indirectTarget a imm s
  if t.toNat % 4 ≠ 0 then trap s Cause.misaligned t else jumpTo t s
def execJalr (d a : XReg) (imm : BitVec 17) (s : State) : Res :=
  let t := indirectTarget a imm s
  if t.toNat % 4 ≠ 0 then trap s Cause.misaligned t else jumpTo t (s.writeX d (s.pc + 4))

/-- REGION (R153): commit, save slot, RGN; it waits while the commit cannot be accepted (R149). -/
def execRegion (s : State) : Res :=
  if commitBlocked s s.fs then hold (commitDecks s s.fs) s else retire 4 (regionAt s s.fs s.pc)

/-- TEND (R154): commit, then the strand is idle. A batch it still holds returns to the walker (R299). -/
def execTend (s : State) : Res :=
  if commitBlocked s s.fs then hold (commitDecks s s.fs) s else .next (becomeIdle (returnBatch (commit s s.fs) s.fs) s.fs)

end Sys2Proof.Machine
end

