-- ==== Sys2Proof/Machine/Float.lean ====
section
/-!
DEFINITION. Number formats and arithmetic: reading a pattern (R176 to R181), rounding (R188, R189), flush (R190), NaNs and
flags (R191), the exact operations and comparisons (R126 to R130), conversions (R192) and S9 scales (R184, R185).
An exact value is a rational: a sign, a numerator and a denominator.
-/

namespace Sys2Proof.Machine

/-! ## Formats -/

/-- Special-value mode of a format (R176, R179). -/
inductive FMode where
  | ieee
  | onenan
  | satfin
  deriving DecidableEq, Repr

/-- A floating format: sign bits, exponent bits, mantissa bits, bias, mode; `std` for the four standard formats. -/
structure Fmt where
  sign : Nat
  exp : Nat
  man : Nat
  bias : Int
  mode : FMode
  std : Bool
  deriving DecidableEq, Repr

def fp64 : Fmt := { sign := 1, exp := 11, man := 52, bias := 1023, mode := .ieee, std := true }
def fp32 : Fmt := { sign := 1, exp := 8, man := 23, bias := 127, mode := .ieee, std := true }
def fp16 : Fmt := { sign := 1, exp := 5, man := 10, bias := 15, mode := .ieee, std := true }
def bf16 : Fmt := { sign := 1, exp := 8, man := 7, bias := 127, mode := .ieee, std := true }

/-- The narrow format of an FMT register (R181). -/
def narrowFmt (v : Word) : Fmt :=
  let n := v.toNat
  { sign := fld n 7 1, exp := fld n 3 4, man := fld n 0 3, bias := (BitVec.ofNat 8 (n / 2 ^ 8)).toInt
    mode := if fld n 18 2 = 0 then .ieee else if fld n 18 2 = 1 then .onenan else .satfin, std := false }

/-- The format of a floating or nf element type. -/
def fmtOf (etype : Nat) (fmt : Word) : Fmt :=
  if etype = 5 then fp16 else if etype = 6 then bf16 else if etype = 7 then fp32 else if etype = 8 then fp64 else narrowFmt fmt

def Fmt.bits (f : Fmt) : Nat := f.sign + f.exp + f.man

/-! ## Values -/

/-- A datum: a finite rational with a sign of its own (so that zeros keep theirs), an infinity or a NaN. -/
inductive Val where
  | fin (neg : Bool) (num den : Nat)
  | inf (neg : Bool)
  | nan (signalling : Bool)
  deriving DecidableEq, Repr

def Val.zero (neg : Bool) : Val := .fin neg 0 1

/-- m * 2^e as a rational. -/
def scaled (neg : Bool) (m : Nat) (e : Int) : Val :=
  if 0 ≤ e then .fin neg (m * 2 ^ e.toNat) 1 else .fin neg m (2 ^ (-e).toNat)

/-- Read a pattern (R177, R179). -/
def decodeF (f : Fmt) (p : Nat) : Val :=
  let m := p % 2 ^ f.man
  let e := p / 2 ^ f.man % 2 ^ f.exp
  let neg := f.sign = 1 && p / 2 ^ (f.man + f.exp) % 2 = 1
  let top := e = 2 ^ f.exp - 1
  if top && f.mode = .ieee then
    (if m = 0 then .inf neg else .nan (f.std && m < 2 ^ (f.man - 1)))
  else if f.mode = .onenan && p % 2 ^ f.bits = 2 ^ f.bits - 1 then .nan false
  else if e = 0 then scaled neg m (1 - f.bias - f.man)
  else scaled neg (2 ^ f.man + m) (e - f.bias - f.man)

/-- Flags: NV 16, DZ 8, OF 4, UF 2, NX 1 (R186). -/
def fNV : Byte := 16
def fDZ : Byte := 8
def fOF : Byte := 4
def fUF : Byte := 2
def fNX : Byte := 1

/-- A result pattern and the flags it raises. -/
structure FRes where
  bits : Nat
  flags : Byte
  deriving DecidableEq, Repr

/-- The canonical NaN of a format; a satfin format gives +0 with NV (R191). -/
def canonNan (f : Fmt) (flags : Byte) : FRes :=
  match f.mode with
  | .ieee => { bits := (2 ^ f.exp - 1) * 2 ^ f.man + 2 ^ (f.man - 1), flags := flags }
  | .onenan => { bits := 2 ^ f.bits - 1, flags := flags }
  | .satfin => { bits := 0, flags := flags ||| fNV }

/-- The sign bit of a format at its place. -/
def signBit (f : Fmt) (neg : Bool) : Nat := if neg && f.sign = 1 then 2 ^ (f.man + f.exp) else 0

/-- The largest finite pattern of a sign, without the sign bit (R176, R179). -/
def maxFinite (f : Fmt) (neg : Bool) : Nat :=
  match f.mode with
  | .ieee => (2 ^ f.exp - 1) * 2 ^ f.man - 1
  | .onenan => if neg || f.sign = 0 then 2 ^ (f.exp + f.man) - 2 else 2 ^ (f.exp + f.man) - 1
  | .satfin => 2 ^ (f.exp + f.man) - 1

def infPattern (f : Fmt) (neg : Bool) : Nat := signBit f neg + (2 ^ f.exp - 1) * 2 ^ f.man

/-- Rounding modes: 0 RNE, 1 RTZ, 2 RUP, 3 RDN (R186), and stochastic with its draw (R189). -/
inductive RMode where
  | rne
  | rtz
  | rup
  | rdn
  | sr (draw : Nat)
  deriving DecidableEq, Repr

def rmOf (n : Nat) : RMode := if n = 0 then .rne else if n = 1 then .rtz else if n = 2 then .rup else .rdn

/-- Number of bits of n. -/
def natLen (n : Nat) : Nat := if n = 0 then 0 else Nat.log2 n + 1

/-- floor(log2(num / den)) for num > 0. -/
def ratLog (num den : Nat) : Int :=
  let g : Int := (natLen num : Int) - natLen den
  -- num / den lies in [2^(g-1), 2^(g+1))
  let ge : Bool := if 0 ≤ g then den * 2 ^ g.toNat ≤ num else den ≤ num * 2 ^ (-g).toNat
  if ge then g else g - 1

/-- The quotient and remainder of num / den in units of 2^u: num / den = (q + r / d) * 2^u with r < d. -/
def unitDiv (num den : Nat) (u : Int) : Nat × Nat × Nat :=
  let n := if 0 ≤ u then num else num * 2 ^ (-u).toNat
  let d := if 0 ≤ u then den * 2 ^ u.toNat else den
  (n / d, n % d, d)

/-- Whether the magnitude q + r / d rounds up to q + 1 (R188, R189); `odd`: at a tie RNE takes q + 1. -/
def roundsUp (mode : RMode) (neg odd : Bool) (r d : Nat) : Bool :=
  if r = 0 then false else
  match mode with
  | .rne => d < 2 * r || (d = 2 * r && odd)
  | .rtz => false
  | .rup => !neg
  | .rdn => neg
  | .sr u => if neg then !(u * d < (d - r) * 2 ^ 32) else u * d < r * 2 ^ 32

/-- At a tie RNE takes the neighbour whose least significant mantissa bit is 0 (R188). A format without mantissa bits has
none at either neighbour, and the spec names no choice: a free value (log 7). -/
def tieUp (f : Fmt) (low : Int) : Bool := if f.man = 0 then Config.pick 30 low.toNat % 2 = 1 else low % 2 = 1

/-- round_to for a nonzero finite magnitude num / den (R188): the pattern without flush, and its flags. `sat` chooses the
saturating outcome of a narrow format. -/
def roundMag (f : Fmt) (mode : RMode) (sat neg : Bool) (num den : Nat) : FRes :=
  let emin : Int := 1 - f.bias
  let lg := ratLog num den
  let e := if lg < emin then emin else lg
  let u := e - f.man
  let (q, r, d) := unitDiv num den u
  -- pattern without the sign: exponent field and mantissa run on
  let base : Int := (e - emin) * 2 ^ f.man
  let patOf (k : Nat) : Int := base + k
  let maxp : Int := maxFinite f neg
  let low := patOf q
  let past (p : Int) (exact : Bool) : Bool := maxp < p || (p = maxp && !exact)
  -- beyond the largest finite value of its sign: the exact magnitude exceeds it
  if past low (r = 0) then
    let mode' := match mode with | .sr _ => RMode.rne | m => m
    let q0 := maxp
    -- rounding at the edge: as if the exponent range went on
    let up : Bool := match mode' with
      | .rne => if low = q0 then (d < 2 * r || (d = 2 * r)) else true
      | .rup => !neg
      | .rdn => neg
      | _ => false
    -- RNE at the midpoint between the largest finite value and the next one rounds up in magnitude (R188)
    let satLike := f.mode = .satfin || (f.mode = .onenan && sat)
    if up && !satLike then
      (match f.mode with
       | .ieee => { bits := infPattern f neg, flags := fOF ||| fNX }
       | _ => { (canonNan f (fOF ||| fNX)) with flags := fOF ||| fNX })
    else { bits := signBit f neg + maxp.toNat, flags := fOF ||| fNX }
  else
    let p := if roundsUp mode neg (tieUp f low) r d then low + 1 else low
    let tiny := p < 2 ^ f.man && p ≠ 0
    let inex := r ≠ 0
    -- a result of zero is not tiny (R188)
    { bits := signBit f neg + p.toNat
      flags := (if inex then fNX else 0) ||| (if inex && tiny then fUF else 0) }

/-- Flush modes captured from FPC (R187). -/
structure Mode where
  rm : RMode
  fs : Bool
  fr : Bool
  deriving DecidableEq, Repr

def Mode.rne : Mode := { rm := .rne, fs := false, fr := false }

/-- Formats that FS and FR act on: binary32, binary16 and bfloat16 (R190). -/
def Fmt.flushes (f : Fmt) : Bool := f.std && f.exp ≠ 11

/-- A result rounded once into a format: NaN, infinities and zeros as R126, R191 and R192 give, then FR (R190). A negative
result of arithmetic in a format without a sign is +0 with NV, as R192 gives it for conversions (DEDUCED, log 58), and so is −∞ there
under sat, also in an onenan format, which has no finite number of that sign (DEDUCED, log 26). An infinite result of arithmetic in a
format without infinities is what R192's rows for conversions give, with NV, and no overflow of R188 (DEDUCED, log 26). -/
def roundTo (f : Fmt) (m : Mode) (sat : Bool) (v : Val) : FRes :=
  match v with
  | .nan _ => canonNan f 0
  | .inf neg =>
    (match f.mode with
     | .ieee => if neg && f.sign = 0 then { bits := 0, flags := fNV } else { bits := infPattern f neg, flags := 0 }
     | .onenan =>
       if !sat then canonNan f fNV
       else if neg && f.sign = 0 then { bits := 0, flags := fNV }
       else { bits := signBit f neg + maxFinite f neg, flags := fNV }
     | .satfin =>
       if neg && f.sign = 0 then { bits := 0, flags := fNV } else { bits := signBit f neg + maxFinite f neg, flags := fNV })
  | .fin neg num den =>
    if num = 0 then { bits := signBit f neg, flags := 0 }
    else if neg && f.sign = 0 then { bits := 0, flags := fNV }
    else
      let r := roundMag f m.rm sat neg num den
      let mag := r.bits - signBit f neg
      if m.fr && f.flushes && mag < 2 ^ f.man && mag ≠ 0 then { bits := signBit f neg, flags := r.flags ||| fUF ||| fNX }
      else r

/-- A source read arithmetically: flushed under FS (R190); a signalling NaN will set NV (R191). -/
def readF (f : Fmt) (m : Mode) (p : Nat) : Val :=
  let e := p / 2 ^ f.man % 2 ^ f.exp
  if m.fs && f.flushes && e = 0 then .zero (f.sign = 1 && p / 2 ^ (f.man + f.exp) % 2 = 1) else decodeF f p

def Val.isNan : Val → Bool
  | .nan _ => true
  | _ => false
def Val.isSnan : Val → Bool
  | .nan q => q
  | _ => false
def Val.neg? : Val → Bool
  | .fin n _ _ => n
  | .inf n => n
  | .nan _ => false
def Val.isZero : Val → Bool
  | .fin _ 0 _ => true
  | _ => false
def Val.negate : Val → Val
  | .fin n a b => .fin (!n) a b
  | .inf n => .inf (!n)
  | v => v

def nvIf (b : Bool) : Byte := if b then fNV else 0

/-- An exact result with the flags its operands raise. -/
structure VRes where
  val : Val
  flags : Byte
  deriving DecidableEq, Repr

/-- The sign of an exact zero sum of nonzero or opposite operands (R188). -/
def zeroSign (m : Mode) : Bool := m.rm = .rdn

/-- Exact a + b (R126, R188). -/
def addV (m : Mode) (a b : Val) : VRes :=
  let sn := nvIf (a.isSnan || b.isSnan)
  match a, b with
  | .nan _, _ => { val := .nan false, flags := sn }
  | _, .nan _ => { val := .nan false, flags := sn }
  | .inf x, .inf y => if x = y then { val := .inf x, flags := 0 } else { val := .nan false, flags := fNV }
  | .inf x, _ => { val := .inf x, flags := 0 }
  | _, .inf y => { val := .inf y, flags := 0 }
  | .fin s1 n1 d1, .fin s2 n2 d2 =>
    if n1 = 0 ∧ n2 = 0 then { val := .zero (if s1 = s2 then s1 else zeroSign m), flags := 0 }
    else
      let x : Int := (if s1 then -(n1 * d2 : Int) else (n1 * d2 : Int)) + (if s2 then -(n2 * d1 : Int) else (n2 * d1 : Int))
      if x = 0 then { val := .zero (zeroSign m), flags := 0 } else { val := .fin (decide (x < 0)) x.natAbs (d1 * d2), flags := 0 }

/-- Exact a * b (R126). -/
def mulV (a b : Val) : VRes :=
  let sn := nvIf (a.isSnan || b.isSnan)
  match a, b with
  | .nan _, .inf _ => { val := .nan false, flags := sn }
  | .nan _, _ => { val := .nan false, flags := sn }
  | _, .nan _ => { val := .nan false, flags := sn }
  | .inf x, .inf y => { val := .inf (x != y), flags := 0 }
  | .inf x, .fin y n _ => if n = 0 then { val := .nan false, flags := fNV } else { val := .inf (x != y), flags := 0 }
  | .fin x n _, .inf y => if n = 0 then { val := .nan false, flags := fNV } else { val := .inf (x != y), flags := 0 }
  | .fin x n1 d1, .fin y n2 d2 => { val := .fin (x != y) (n1 * n2) (d1 * d2), flags := 0 }

/-- Exact a / b (R126). -/
def divV (a b : Val) : VRes :=
  let sn := nvIf (a.isSnan || b.isSnan)
  match a, b with
  | .nan _, _ => { val := .nan false, flags := sn }
  | _, .nan _ => { val := .nan false, flags := sn }
  | .inf _, .inf _ => { val := .nan false, flags := fNV }
  | .inf x, .fin y _ _ => { val := .inf (x != y), flags := 0 }
  | .fin x _ _, .inf y => { val := .zero (x != y), flags := 0 }
  | .fin x n1 d1, .fin y n2 d2 =>
    if n2 = 0 then (if n1 = 0 then { val := .nan false, flags := fNV } else { val := .inf (x != y), flags := fDZ })
    else { val := .fin (x != y) (n1 * d2) (d1 * n2), flags := 0 }

/-- Exact a * b + c; 0 × ∞ sets NV even with a quiet NaN c (R126). -/
def fmaV (m : Mode) (a b c : Val) : VRes :=
  let p := mulV a b
  let r := addV m p.val c
  { val := r.val, flags := p.flags ||| r.flags }

/-- Integer square root. -/
def isqrtStep (n : Nat) : Nat → Nat → Nat
  | 0, r => r
  | k + 1, r => let t := r + 2 ^ k; isqrtStep n k (if t * t ≤ n then t else r)
def isqrt (n : Nat) : Nat := isqrtStep n (natLen n / 2 + 1) 0

/-- √ of a magnitude, rounded into a format (R126): the root is bracketed closely enough that a sticky half unit decides
every rounding as the exact root does. -/
def sqrtRes (f : Fmt) (m : Mode) (v : Val) : FRes :=
  match v with
  | .nan q => canonNan f (nvIf q)
  | .inf true => canonNan f fNV
  | .inf false => { bits := infPattern f false, flags := 0 }
  | .fin neg num den =>
    if num = 0 then { bits := signBit f neg, flags := 0 }
    else if neg then canonNan f fNV
    else
      -- √(num / den) = √(num * den) / den
      let k := 2 * (f.man + f.exp + natLen den + 40)
      let x := num * den * 2 ^ k
      let r := isqrt x
      let exact := r * r = x
      roundTo f m false (.fin false (if exact then 2 * r else 2 * r + 1) (2 * den * 2 ^ (k / 2)))

/-! ## Comparison (R127, R128) -/

/-- a < b on values that are not NaN; −0 = +0. -/
def ltV (a b : Val) : Bool :=
  match a, b with
  | .inf x, .inf y => x && !y
  | .inf x, _ => x
  | _, .inf y => !y
  | .fin s1 n1 d1, .fin s2 n2 d2 =>
    let x : Int := if s1 then -(n1 * d2 : Int) else (n1 * d2 : Int)
    let y : Int := if s2 then -(n2 * d1 : Int) else (n2 * d1 : Int)
    decide (x < y)
  | _, _ => false

def eqV (a b : Val) : Bool := !a.isNan && !b.isNan && !(ltV a b) && !(ltV b a)

/-- Order with −0 below +0 (R127). -/
def ltZ (a b : Val) : Bool := ltV a b || (eqV a b && a.isZero && a.neg? && !b.neg?)

/-- Minimum or maximum (R127): the other operand of a single NaN, the canonical NaN of two. -/
def minMaxV (mx : Bool) (a b : Val) : VRes :=
  let fl := nvIf (a.isSnan || b.isSnan)
  if a.isNan && b.isNan then { val := .nan false, flags := fl }
  else if a.isNan then { val := b, flags := fl }
  else if b.isNan then { val := a, flags := fl }
  else if mx then { val := if ltZ a b then b else a, flags := fl }
  else { val := if ltZ b a then b else a, flags := fl }

/-! ## Conversions (R129, R192) -/

/-- A value rounded to an integer under a mode, as a magnitude with exactness. -/
def toIntMag (mode : RMode) (neg : Bool) (num den : Nat) : Nat × Bool :=
  let q := num / den
  let r := num % den
  (if roundsUp mode neg (q % 2 = 1) r den then q + 1 else q, r = 0)

/-- Float to an integer type with smallest value lo and largest value hi (R129). -/
def floatToInt (mode : RMode) (lo hi : Int) (v : Val) : Int × Byte :=
  match v with
  | .nan _ => (hi, fNV)
  | .inf neg => (if neg then lo else hi, fNV)
  | .fin neg num den =>
    let (q, exact) := toIntMag mode neg num den
    let r : Int := if neg then -(q : Int) else q
    if hi < r then (hi, fNV) else if r < lo then (lo, fNV) else (r, if exact then 0 else fNX)

def intVal (i : Int) : Val := .fin (decide (i < 0)) i.natAbs 1

/-- A conversion between formats (R192). -/
def convert (src dst : Fmt) (m : Mode) (sat : Bool) (p : Nat) : FRes :=
  let v := readF src m p
  match v with
  | .nan q => canonNan dst (nvIf q)
  | v => roundTo dst m sat v

/-! ## S9 scales (R184, R185) -/

/-- The value of a scale code; none for an invalid one. -/
def s9Val (c : Nat) : Option Val :=
  let e := c / 2 % 256
  let h := c % 2
  if e = 255 then none
  else if e = 0 then (if h = 0 then some (.zero false) else some (scaled false 3 (-128)))
  else some (scaled false (2 + h) ((e : Int) - 128))

/-- x times scales, exact, with the exceptions of R185. -/
def applyScales (x : Val) (cs : List Nat) : VRes :=
  if cs.any (fun c => (s9Val c).isNone) then { val := .nan false, flags := fNV ||| nvIf x.isSnan }
  else cs.foldl (fun (r : VRes) c =>
    let p := mulV r.val ((s9Val c).getD (.zero false))
    { val := p.val, flags := r.flags ||| p.flags }) { val := x, flags := nvIf x.isSnan }

end Sys2Proof.Machine
end

