-- ==== Sys2Proof/Machine/Agents.lean ====
section
/-!
DEFINITION. Agents (R312 to R329): their records, memory accesses, faults and reports, KV blocks and the pantry, token
contexts, and the meanings of the short agent instructions.
-/

namespace Sys2Proof.Machine

/-! ## Agents and their records (R312 to R314) -/

def State.agent (s : State) (id : Nat) : Option Agent := Tbl.look s.agents id
def State.setAgent (s : State) (id : Nat) (a : Agent) : State := { s with agents := Tbl.put s.agents id a }
def State.tok (s : State) (h : Nat) : Option TokCtx := Tbl.look s.toks h
def State.setTok (s : State) (h : Nat) (t : TokCtx) : State := { s with toks := Tbl.put s.toks h t }
def State.planner (s : State) (part : Nat) : Planner := Tbl.get s.planners part Planner.empty
def State.setPlanner (s : State) (part : Nat) (p : Planner) : State := { s with planners := Tbl.put s.planners part p }

/-- The partition of an agent: that of its home context. -/
def partOf (s : State) (a : Agent) : Nat := match s.ctx a.home with | some c => c.part | none => 0
def modelOf (s : State) (part id : Nat) : Option Model := Tbl.look s.models (part * 4096 + id)

/-- Agent states (R314). -/
def stReady : BitVec 3 := 0
def stLong : BitVec 3 := 1
def stWait : BitVec 3 := 2
def stSuspended : BitVec 3 := 3
def stHalted : BitVec 3 := 4
def stFaulted : BitVec 3 := 5

def Agent.reg (a : Agent) (r : BitVec 3) : Word := Vector.nth (n := 7) a.g r.toNat
def Agent.setReg (a : Agent) (r : BitVec 3) (v : Word) : Agent := { a with g := Vector.upd a.g r.toNat v }
def Agent.handle (a : Agent) (c : BitVec 4) : Nat := Vector.nth (n := 15) a.ctxs c.toNat
def Agent.setHandle (a : Agent) (c : BitVec 4) (h : Nat) : Agent := { a with ctxs := Vector.upd a.ctxs c.toNat h }
def Agent.advance (a : Agent) : Agent := { a with pc := a.pc + 8 }

/-- STATUS (R314). -/
def agentStatus (a : Agent) : Nat :=
  a.st.toNat + (if a.flag then 2 ^ 8 else 0) + a.prio * 2 ^ 16 + a.ceil * 2 ^ 20 + a.weight * 2 ^ 24 + a.stack.length * 2 ^ 32
    + a.cause.toNat * 2 ^ 48

/-- PROGRESS (R332). -/
def progressBytes (p : Progress) : Nat :=
  p.done + p.total * 2 ^ 32 + p.cand * 2 ^ 64 + p.psum.toNat * 2 ^ 96 + p.best * 2 ^ 128 + p.bscore.toNat * 2 ^ 160
    + p.addr.toNat * 2 ^ 192

/-- The 256 bytes of an agent record (R313). -/
def agentRecord (a : Agent) : Nat :=
  bytesAt ([(0, a.pc.toNat), (8, agentStatus a), (208, progressBytes a.prog), (240, a.deficit), (248, a.tval.toNat)]
    ++ (List.range 8).map (fun (i : Nat) => (16 + 8 * i, (Vector.nth (n := 7) a.g i).toNat))
    ++ (List.range 16).map (fun (i : Nat) => (80 + 4 * i, Vector.nth (n := 15) a.ctxs i))
    ++ (List.range 8).map (fun (i : Nat) => (144 + 8 * i, (a.stack.getD i 0).toNat)))

/-- The record is written to the home context; a fault of this write is reported nowhere. -/
def writeRecord (s : State) (id : Nat) : State :=
  match s.agent id with
  | some a => (match feWrite s (.ctx a.home) a.record.toNat 256 (agentRecord a) with | .ok s1 => s1 | .error _ => s)
  | none => s

/-- The agent report record, kind 5 (R381), on the REPRING of the agent's queue. -/
def agentReport (s : State) (a : Agent) (value : Word) (under : Nat) : State :=
  ringPost s (ringKey a.home (qRepring s a.qsb))
    (.ofNat 256 (5 + recAt 2 a.st.toNat + recAt 4 a.cause.toNat + recAt 8 a.record.toNat + recAt 16 value.toNat + recAt 24 under))

/-- An agent without a slot that may issue or be planned joins those that wait for one, in the order in which they became so
(R344). -/
def awaitSlot (s : State) (id : Nat) : State :=
  match s.agent id with
  | some a =>
    if !a.resident && (a.st = stReady || a.st = stLong) && !(s.slotQueue.contains id) then { s with slotQueue := s.slotQueue ++ [id] } else s
  | none => s
def leaveSlotQueue (s : State) (id : Nat) : State := { s with slotQueue := s.slotQueue.filter (fun x => x ≠ id) }

/-- The destination, or for CSCORE the source, ctx register of a long instruction. -/
def longReg : Instr → Option (BitVec 4)
  | .cappend cd _ _ => some cd
  | .cgen cd _ _ => some cd
  | .cscore _ cs _ _ => some cs
  | .cchoose cd _ _ _ => some cd
  | _ => none

/-- The context of an agent's instruction in progress. -/
def longCtx (s : State) (a : Agent) : Option (Nat × TokCtx) :=
  match a.cur.bind longReg with
  | some c => (s.tok (a.handle c)).map (fun t => (a.handle c, t))
  | none => none

/-- The agent leaves the planner ring with DEFICIT 0 (R343), and a step that is to be planned again. -/
def leaveRing (s : State) (part id : Nat) : State :=
  let p := s.planner part
  let s1 := s.setPlanner part
    { p with ring := p.ring.filter (fun x => x ≠ id), visiting := p.visiting && p.ring.head? ≠ some id
             replan := p.replan.map (fun st => { st with plans := st.plans.filter (fun (x : Plan) => x.agent ≠ id) }) }
  match s1.agent id with
  | some a => s1.setAgent id { a with deficit := 0 }
  | none => s1

/-- Whether a step in flight has positions of an agent. -/
def inFlight (s : State) (part id : Nat) : Bool :=
  match (s.planner part).flight with
  | some f => f.plans.any (fun p => p.agent = id)
  | none => false

/-! ## KV blocks (R315 to R317) -/

/-- Blocks that cannot be evicted: those that a context includes, and those of a list, which steps read (R316, R342). -/
def blocksKept (s : State) (keep : List Nat) : Nat := (s.pantry.filter (fun e => 0 < e.2.refs || keep.contains e.1)).length

/-- A context gives up a block; a full one with no reference stays cached (R316). -/
def releaseBlock (s : State) (id : Nat) : State :=
  match Tbl.look s.pantry id with
  | none => s
  | some b =>
    if b.refs ≤ 1 && b.toks.length < 16 then { s with pantry := Tbl.del s.pantry id }
    else { s with pantry := Tbl.put s.pantry id { b with refs := b.refs - 1, used := s.reft.toNat } }

def shareBlock (s : State) (id : Nat) : State :=
  match Tbl.look s.pantry id with
  | some b => { s with pantry := Tbl.put s.pantry id { b with refs := b.refs + 1, used := s.reft.toNat } }
  | none => s

def releaseAll (s : State) : List Nat → State
  | [] => s
  | b :: r => releaseAll (releaseBlock s b) r
def shareAll (s : State) : List Nat → State
  | [] => s
  | b :: r => shareAll (shareBlock s b) r

def TokCtx.held (t : TokCtx) : List Nat := t.blocks ++ t.last.toList

/-- A new block with one reference. -/
def newBlock (s : State) (part model : Nat) (parent : Option Nat) (toks : List Nat) (place : BitVec 2) : State × Nat :=
  ({ s with pantry := Tbl.put s.pantry s.nextId { part := part, model := model, parent := parent, toks := toks, refs := 1
                                                  place := place, used := s.reft.toNat }
            nextId := s.nextId + 1 }, s.nextId)

/-- The pantry entry of a key (R316). -/
def pantryFind (s : State) (part model : Nat) (parent : Option Nat) (toks : List Nat) : Option Nat :=
  (s.pantry.find? (fun e => e.2.part = part ∧ e.2.model = model ∧ e.2.parent = parent ∧ e.2.toks = toks ∧ toks.length = 16)).map
    (fun e => e.1)

/-- Number of computed positions of a context. -/
def TokCtx.computed (t : TokCtx) : Nat := t.toks.length - t.pending

/-- The next block of a context becomes full: it adopts an existing entry, or enters the pantry (R316). -/
def completeBlock (s : State) (part : Nat) (t : TokCtx) : State × TokCtx :=
  let b := t.blocks.length
  let ids := (t.toks.drop (16 * b)).take 16
  let parent := t.blocks.getLast?
  let s1 := releaseAll s t.last.toList
  match pantryFind s part t.model parent ids with
  | some e => (shareBlock s1 e, { t with blocks := t.blocks ++ [e], last := none })
  | none =>
    let r := newBlock s1 part t.model parent ids 0
    (r.1, { t with blocks := t.blocks ++ [r.2], last := none })

def completeBlocks (s : State) (part : Nat) (t : TokCtx) : Nat → State × TokCtx
  | 0 => (s, t)
  | n + 1 => let r := completeBlock s part t; completeBlocks r.1 part r.2 n

/-- The private last block holds the computed positions past the full ones; a shared one is copied (R317). -/
def setLast (s : State) (part : Nat) (t : TokCtx) (place : BitVec 2) : State × TokCtx :=
  let ids := (t.toks.take t.computed).drop (16 * t.blocks.length)
  let place := match t.last.bind (Tbl.look s.pantry) with | some b => b.place | none => place
  let s1 := releaseAll s t.last.toList
  if ids.isEmpty then (s1, { t with last := none })
  else let r := newBlock s1 part t.model t.blocks.getLast? ids place; (r.1, { t with last := some r.2 })

/-- The KV of a context's computed positions after `pending` and `toks` have changed at the tail. -/
def computeKv (s : State) (part : Nat) (t : TokCtx) : State × TokCtx :=
  let r := completeBlocks s part t (t.computed / 16 - t.blocks.length)
  setLast r.1 part r.2 0

/-- n becomes min(n, m): pending positions go first; a full block that is cut becomes private (R317, R326). -/
def trimCtx (s : State) (part : Nat) (t : TokCtx) (m : Nat) : State × TokCtx :=
  if t.toks.length ≤ m then (s, t)
  else
    let c := min t.computed m
    let t1 := { t with toks := t.toks.take m, pending := m - c }
    if c = t.computed then (s, t1)
    else
      let keep := t.blocks.take (c / 16)
      let cut := t.blocks.drop (c / 16)
      let place := match (cut.head?).bind (Tbl.look s.pantry) with | some b => b.place | none => 0
      if cut.isEmpty then setLast s part t1 place
      else
        let s1 := releaseAll s (cut ++ t.last.toList)
        setLast s1 part { t1 with blocks := keep, last := none } place

/-- A context is dropped: its references are released. -/
def dropCtx (s : State) (h : Nat) : State :=
  match s.tok h with
  | some t => let s1 := releaseAll s t.held; { s1 with toks := Tbl.del s1.toks h }
  | none => s

def dropCtxs (s : State) : List Nat → State
  | [] => s
  | h :: r => dropCtxs (dropCtx s h) r

/-- A new empty context with the defaults of R329. -/
def TokCtx.fresh (model : Nat) : TokCtx :=
  { model := model, toks := [], pending := 0, blocks := [], last := none, key := 0, temp := 0x3F800000, endtok := 0xFFFFFFFF
    mask := 0xFFFFFFFF, stops := 0, hold := true, pos := 0, ring := 0, depmin := 1, depmax := 1, spec := 0, thresh := 0x3F000000
    depth := 1, window := none, history := [], jacobi := 0 }

/-- Limits of R315. -/
def maxTokens : Nat := 2 ^ 20
def maxContexts : Nat := 2 ^ 20

/-! ## Images (R379) -/

/-- One context of an image. -/
def ctxImage (t : TokCtx) : Nat × Nat :=
  let n := t.toks.length
  let len := 64 + (4 * n + 7) / 8 * 8
  (len, bytesAt [(0, t.model), (4, n), (8, t.key.toNat), (16, t.temp.toNat), (20, t.endtok.toNat), (24, t.mask.toNat)
               , (28, t.stops.toNat), (36, if t.hold then 1 else 0), (37, t.spec), (38, t.depmin), (39, t.depmax), (40, t.pos.toNat)
               , (48, t.ring), (52, t.thresh.toNat)]
        + t.toks.foldr (fun id r => id + 2 ^ 32 * r) 0 * 2 ^ 512)

/-- The CGEN block of an image: the stop-string set, the held tokens. -/
def cgenImage (a : Agent) : Nat :=
  let entry (l : List Nat) : Nat := l.length + 2 ^ 32 * l.foldr (fun id r => id + 2 ^ 32 * r) 0
  a.stops.length + bytesAt ((List.range a.stops.length).map (fun (i : Nat) => (4 + 68 * i, entry (a.stops.getD i []))))
    + bytesAt [(552, a.held.length)] + bytesAt ((List.range 16).map (fun (i : Nat) => (556 + 4 * i, (a.held.getD i (0, 0)).1)))

/-- An agent's image: its length and its bytes. -/
def agentImage (s : State) (a : Agent) : Nat × Nat :=
  a.ctxs.toList.foldl (fun (r : Nat × Nat) h =>
    match s.tok h with
    | some t => let c := ctxImage t; (r.1 + c.1, r.2 + c.2 * 2 ^ (8 * r.1))
    | none => r) (896, agentRecord a + cgenImage a * 2 ^ 2048)

/-- What the stop of an agent writes: its record, and the images of EXPORT packets that wait for it. -/
def recordTouch (s : State) (id : Nat) (a : Agent) : Touch :=
  { reads := [], rest := (.ctx a.home, a.record.toNat, 256) :: s.asyncs.filterMap (fun (x : Async) =>
      match x.kind with
      | .agent i (some va) => if i = id then some (.ctx a.home, va.toNat, (agentImage s a).1) else none
      | _ => none) }

/-- The agent and its contexts are gone (R379 REMOVE). -/
def removeAgent (s : State) (id : Nat) : State :=
  match s.agent id with
  | some a =>
    let s1 := leaveRing (dropCtxs s a.ctxs.toList) (partOf s a) id
    leaveSlotQueue { s1 with agents := Tbl.del s1.agents id } id
  | none => s

/-- AGENT packets that wait for this agent to stop complete; an EXPORT writes the image and removes it (R379). -/
def settleOne (s : State) (id : Nat) (x : Async) : State :=
  match x.kind with
  | .agent i dest =>
    if i ≠ id then s
    else
      let s1 := { s with asyncs := s.asyncs.filter (fun (y : Async) => y.id ≠ x.id) }
      match dest, s1.agent id with
      | some at', some a =>
        let im := agentImage s1 a
        (match feWrite s1 (.ctx a.home) at'.toNat im.1 im.2 with
         | .ok s2 => completePacket (removeAgent s2 id) x.qsb x.pkt x.hdr Status.ok false 0 0
         | .error e => completePacket s1 x.qsb x.pkt x.hdr Status.addrFault false 0 e.1.toNat)
      | none, _ => completePacket s1 x.qsb x.pkt x.hdr Status.ok false 0 0
      | some _, none => completePacket s1 x.qsb x.pkt x.hdr Status.noAgent false 0 0
  | _ => s

def settle (s : State) (id : Nat) : List Async → State
  | [] => s
  | x :: r => settle (settleOne s id x) id r

/-- The agent enters SUSPENDED, HALTED or FAULTED: it leaves the ring, its record is written. -/
def stopAgent (s : State) (id : Nat) (st : BitVec 3) : State :=
  match s.agent id with
  | some a =>
    let s1 := leaveRing (s.setAgent id { a with st := st, suspendReq := false }) (partOf s a) id
    writeRecord (leaveSlotQueue s1 id) id
  | none => s

/-- AGENT packets that wait for this agent are served. -/
def settleAgent (s : State) (id : Nat) : State := settle s id s.asyncs

/-- An agent fault (R321, R322): only STATUS and TVAL change; it is reported on the agent's queue. -/
def agentFault (s : State) (id : Nat) (cause : Byte) (tval : Word) (under : Nat) : State :=
  match s.agent id with
  | some a =>
    let s1 := stopAgent (s.setAgent id { a with cause := cause, tval := tval }) id stFaulted
    match s1.agent id with
    | some b => settleAgent (agentReport s1 b tval under) id
    | none => s1
  | none => s

/-- An agent enters SUSPENDED at a boundary (R314). -/
def suspendNow (s : State) (id : Nat) : State := settleAgent (stopAgent s id stSuspended) id

/-- A suspension takes effect at the agent's next boundary: at once unless a step holds positions of it. A GWAIT that
waits has taken no effect, and issues again on RESUME. -/
def requestSuspend (s : State) (id : Nat) : State :=
  match s.agent id with
  | some a =>
    if inFlight s (partOf s a) id then s.setAgent id { a with suspendReq := true }
    else if a.st = stReady || a.st = stLong then suspendNow s id
    else if a.st = stWait then suspendNow (s.setAgent id { a with cur := none }) id
    else settleAgent s id
  | none => s

/-! ## Agent accesses (R324) -/

/-- A fault of an agent: cause, TVAL, underlying cause. -/
abbrev AgentFault := Byte × Word × Nat

def addrFault (va under : Nat) : AgentFault := (Cause.agentAddr, .ofNat 64 va, under)

/-- The checks of an access of n bytes for a context, and where it lands. -/
def agentHit (s : State) (home va n : Nat) (acc : AccKind) : Except AgentFault Hit :=
  if va % n ≠ 0 then .error (addrFault va Cause.misaligned.toNat)
  else match translate s (.ctx home) va n acc with
    | .error c => .error (addrFault va c.toNat)
    | .ok h =>
      if h.checked.isSome then .error (addrFault va Cause.mmRace.toNat)
      else if h.device then .error (addrFault va Cause.paAbsent.toNat)
      else .ok h

/-- The bytes where an access has landed, or the fault of poisoned ones (R265). -/
def agentBytes (s : State) (h : Hit) (va n : Nat) : Except AgentFault Nat :=
  if (List.range n).any (fun i => s.poison.contains (h.loc + i)) then .error (addrFault va Cause.dataPoison.toNat)
  else .ok (Memory.readN s.mem h.loc n)

/-- An agent's load; eight bytes of a privileged context may reach a register (R383). -/
def agentRead (s : State) (home va n : Nat) : Except AgentFault Nat :=
  match if n = 8 then deviceAt s (.ctx home) va .read else none with
  | some off => .ok (devRead s off).toNat
  | none =>
    match agentHit s home va n .read with
    | .error e => .error e
    | .ok h => agentBytes s h va n

def agentWrite (s : State) (home va n v : Nat) : Except AgentFault State :=
  match agentHit s home va n .write with
  | .error e => .error e
  | .ok h => .ok { correctAt s true h.loc n with mem := Memory.writeN s.mem h.loc n v, poison := clearPoison s.poison h.loc n }

/-- The instruction word at an address of an agent's program. -/
def agentFetch (s : State) (a : Agent) (pc : Word) : Except AgentFault Nat :=
  match agentHit s a.home pc.toNat 8 .fetch with
  | .error e => .error e
  | .ok h => agentBytes s h pc.toNat 8

/-! ## What every agent instruction shares -/

/-- The instruction acts on the agent in focus. -/
def onAgent (s : State) (body : Agent → Res) : Res :=
  match s.agent s.fa with
  | some a => body a
  | none => .fault .noSuchUnit

/-- The agent in focus faults. -/
def agentTrap (s : State) (cause : Byte) (tval : Word) : Res := .next (agentFault s s.fa cause tval 0)
def agentTrapF (s : State) (f : AgentFault) : Res := .next (agentFault s s.fa f.1 f.2.1 f.2.2)

/-- AGENT_ILLEGAL for a value in a field that the instruction reads (R321). -/
def agentIllegal (i : Instr) (s : State) : Res := agentTrap s Cause.agentIllegal (.ofNat 64 ((encodeAgent i).getD 0))

/-- The instruction ends: its agent takes its new state and the next instruction is at P + 8. -/
def agentEnd (s : State) (a : Agent) : Res := .next (s.setAgent s.fa a.advance)

/-- A ctx register that must hold a context. -/
def withCtx (s : State) (a : Agent) (c : BitVec 4) (body : Nat → TokCtx → Res) : Res :=
  match s.tok (a.handle c) with
  | some t => if a.handle c = 0 then agentTrap s Cause.ctxEmpty (c.setWidth 64) else body (a.handle c) t
  | none => agentTrap s Cause.ctxEmpty (c.setWidth 64)

/-- sext(imm, 32). -/
def imm64 (imm : W32) : Word := imm.signExtend 64
/-- g[s] + S. -/
def agentEa (a : Agent) (gs : BitVec 3) (imm : W32) : Nat := (a.reg gs + imm64 imm).toNat
/-- The operand of a two-address form. -/
def agentOperand (a : Agent) (i : Bool) (gs : BitVec 3) (imm : W32) : Word := if i then imm64 imm else a.reg gs

/-! ## Scalar and control instructions (R323, R325) -/

def execGli (gd : BitVec 3) (imm : W32) (s : State) : Res := onAgent s (fun a => agentEnd s (a.setReg gd (imm64 imm)))
def execGlih (gd : BitVec 3) (imm : W32) (s : State) : Res :=
  onAgent s (fun a => agentEnd s (a.setReg gd (imm ++ (a.reg gd).setWidth 32)))
def execGadd (gd : BitVec 3) (i : Bool) (gs : BitVec 3) (imm : W32) (s : State) : Res :=
  onAgent s (fun a => agentEnd s (a.setReg gd (a.reg gd + agentOperand a i gs imm)))
def execGsub (gd : BitVec 3) (i : Bool) (gs : BitVec 3) (imm : W32) (s : State) : Res :=
  onAgent s (fun a => agentEnd s (a.setReg gd (a.reg gd - agentOperand a i gs imm)))
def execGmul (gd : BitVec 3) (i : Bool) (gs : BitVec 3) (imm : W32) (s : State) : Res :=
  onAgent s (fun a => agentEnd s (a.setReg gd (a.reg gd * agentOperand a i gs imm)))
def execGcmp (gd : BitVec 3) (i : Bool) (gs : BitVec 3) (imm : W32) (cond : BitVec 3) (s : State) : Res :=
  onAgent s (fun a =>
    if 6 ≤ cond.toNat then agentIllegal (.gcmp gd i gs imm cond) s
    else agentEnd s { a with flag := condHolds cond.toNat (a.reg gd) (agentOperand a i gs imm) })

/-- P + 8 × S. -/
def agentTarget (a : Agent) (imm : W32) : Word := a.pc + 8 * imm64 imm

def execGb (sense : Bool) (imm : W32) (s : State) : Res :=
  onAgent s (fun a => if a.flag = sense then .next (s.setAgent s.fa { a with pc := agentTarget a imm }) else agentEnd s a)
def execGj (imm : W32) (s : State) : Res := onAgent s (fun a => .next (s.setAgent s.fa { a with pc := agentTarget a imm }))
def execGcall (imm : W32) (s : State) : Res :=
  onAgent s (fun a =>
    if 8 ≤ a.stack.length then agentTrap s Cause.agentStack a.pc
    else .next (s.setAgent s.fa { a with pc := agentTarget a imm, stack := a.stack ++ [a.pc + 8] }))
def execGret (s : State) : Res :=
  onAgent s (fun a =>
    match a.stack.getLast? with
    | some r => .next (s.setAgent s.fa { a with pc := r, stack := a.stack.dropLast })
    | none => agentTrap s Cause.agentStack a.pc)

/-- GSIG: one atomic add, checked as a write and then as a read (R263, R325). -/
def execGsig (gd gs : BitVec 3) (imm : W32) (s : State) : Res :=
  onAgent s (fun a =>
    let va := agentEa a gs imm
    match agentHit s a.home va 8 .write with
    | .error f => agentTrapF s f
    | .ok h =>
      match agentBytes s h va 8 with
      | .error f => agentTrapF s f
      | .ok v => agentEnd { correctAt s false h.loc 8 with mem := Memory.writeN s.mem h.loc 8 ((v + (a.reg gd).toNat) % 2 ^ 64) } a)

def execGld (gd gs : BitVec 3) (w : Bool) (imm : W32) (s : State) : Res :=
  onAgent s (fun a =>
    match agentRead s a.home (agentEa a gs imm) (if w then 4 else 8) with
    | .error f => agentTrapF s f
    | .ok v => agentEnd (extSeen s (.ctx a.home) (agentEa a gs imm) (if w then 4 else 8)) (a.setReg gd (if w then (BitVec.ofNat 32 v).signExtend 64 else .ofNat 64 v)))

/-- One read of a GWAIT by an agent (R325): the value is written and the agent READY, or it stays in WAIT. -/
def gwaitRead (i : Instr) (gd gs : BitVec 3) (cond : BitVec 3) (imm : W32) (s : State) : Res :=
  onAgent s (fun a =>
    match agentRead s a.home (agentEa a gs imm) 8 with
    | .error f => agentTrapF s f
    | .ok v =>
      let s := extSeen s (.ctx a.home) (agentEa a gs imm) 8
      if condHolds cond.toNat (.ofNat 64 v) (a.reg gd) then
        agentEnd s ({ a with st := stReady, cur := none }.setReg gd (.ofNat 64 v))
      else .next (s.setAgent s.fa { a with st := stWait, cur := some i }))

def execGwait (gd gs : BitVec 3) (cond : BitVec 3) (imm : W32) (s : State) : Res :=
  if 6 ≤ cond.toNat then agentIllegal (.gwait gd gs cond imm) s else gwaitRead (.gwait gd gs cond imm) gd gs cond imm s

/-- The parts of a stop-string set that are read (R352). -/
def stopReads (s : State) (a : Agent) (base : Nat) : List (Nat × Nat) :=
  let word (va : Nat) : Nat := match agentRead s a.home va 4 with | .ok n => n | .error _ => 0
  (base, 4) :: (List.range (min 8 (word base))).map (fun k => (base + 4 + 68 * k, 4 + 4 * min 16 (word (base + 4 + 68 * k))))

/-- How many heads of candidates a CCHOOSE reads to see whether all are empty. -/
def headsRead (s : State) (a : Agent) : Nat → Nat → Nat
  | 0, _ => 0
  | n + 1, va => (match agentRead s a.home (va % 2 ^ 64) 4 with | .ok 0 => headsRead s a n (va + 4) | _ => 0) + 1

/-- What the issue of an agent instruction touches beyond its word: the word of a scalar form, the head of a string or of a list, the
stop strings of a context. What it reads of a string comes with the steps. -/
def issueTouch (s : State) (a : Agent) (i : Instr) : Touch :=
  let who : Who := .ctx a.home
  let ea (gs : BitVec 3) (imm : W32) (n : Nat) : List (Who × Nat × Nat) := [(who, agentEa a gs imm, n)]
  match i with
  | .gld _ gs w imm => { reads := [], rest := ea gs imm (if w then 4 else 8) }
  | .gst _ gs w imm => { reads := [], rest := ea gs imm (if w then 4 else 8) }
  | .gsig _ gs imm => { reads := [], rest := ea gs imm 8 }
  | .gwait _ gs _ imm => { reads := [], rest := ea gs imm 8 }
  | .cappend _ gs imm => { reads := ea gs imm 4, rest := [] }
  | .cscore _ _ gs imm => { reads := ea gs imm 4, rest := [] }
  | .cchoose _ _ gs imm =>
    let n := match agentRead s a.home (agentEa a gs imm) 4 with | .ok n => if 65536 < n then 0 else n | .error _ => 0
    { reads := ea gs imm (4 + 4 * headsRead s a n (agentEa a gs imm + 4)), rest := [] }
  | .cgen cd _ _ =>
    (match s.tok (a.handle cd) with
     | some t => { reads := if t.stops = 0 then [] else (stopReads s a t.stops.toNat).map (fun p => (who, p)), rest := [] }
     | none => Touch.none)
  | _ => Touch.none

/-- GWAIT_RECHECK: a waiting agent reads again, unless a round has frozen the context machine (R419). -/
def execGwaitRecheck (id : Nat) (s : State) : Res :=
  match s.agent id with
  | some a =>
    (match a.cur with
     | some (.gwait gd gs cond imm) =>
       if a.st = stWait && !(edged s (partOf s a) .machine) then
         whenTouch s (agentSender id) (issueTouch s a (.gwait gd gs cond imm)) (fun s =>
         match gwaitRead (.gwait gd gs cond imm) gd gs cond imm { s with fa := id } with
          | .next s1 => .next (awaitSlot { s1 with fa := s.fa } id)
          | r => r)
       else .next s
     | _ => .next s)
  | none => .next s

/-- GYIELD (R343). -/
def execGyield (s : State) : Res :=
  onAgent s (fun a =>
    let part := partOf s a
    let p := s.planner part
    let s1 := if p.ring.contains s.fa then
        s.setPlanner part { p with ring := p.ring.filter (fun x => x ≠ s.fa) ++ [s.fa], visiting := p.visiting && p.ring.head? ≠ some s.fa }
      else s
    agentEnd s1 { a with deficit := 0 })

def execGpri (imm : W32) (s : State) : Res :=
  onAgent s (fun a =>
    let n := imm.toNat
    if fld n 3 5 ≠ 0 ∨ fld n 16 16 ≠ 0 then agentIllegal (.gpri imm) s
    else if fld n 8 8 = 0 then agentTrap s Cause.ctxRange (imm.setWidth 64)
    else agentEnd s { a with prio := min (fld n 0 3) a.ceil, weight := fld n 8 8 })

/-- GHALT: contexts still held are dropped, g[s] is reported (R323). -/
def execGhalt (gs : BitVec 3) (s : State) : Res :=
  onAgent s (fun a =>
    let s1 := dropCtxs s a.ctxs.toList
    let s2 := stopAgent (s1.setAgent s.fa { a.advance with ctxs := Vector.replicate 16 0 }) s.fa stHalted
    match s2.agent s.fa with
    | some b => .next (settleAgent (agentReport s2 b (a.reg gs) 0) s.fa)
    | none => .next s2)

/-! ## Context instructions (R326 to R329) -/

/-- A ctx register takes a new context; what it held is dropped (R326). -/
def putCtx (s : State) (a : Agent) (c : BitVec 4) (t : TokCtx) : Res :=
  let s1 := dropCtx ((s.setTok s.nextId t)) (a.handle c)
  agentEnd { s1 with nextId := s.nextId + 1 } (a.setHandle c s.nextId)

/-- Whether a handle is free for a new context: the one that will be dropped counts as free. -/
def handleFree (s : State) (a : Agent) (c : BitVec 4) : Bool :=
  s.toks.length < maxContexts || (a.handle c ≠ 0 && (s.tok (a.handle c)).isSome)

def execCnew (cd : BitVec 4) (imm : W32) (s : State) : Res :=
  onAgent s (fun a =>
    if 4095 < imm.toNat then agentIllegal (.cnew cd imm) s
    else if (modelOf s (partOf s a) imm.toNat).isNone then agentTrap s Cause.modelAbsent (imm.setWidth 64)
    else if !(handleFree s a cd) then agentTrap s Cause.ctxExhausted 0
    else putCtx s a cd (TokCtx.fresh imm.toNat))

/-- CFORK: every block's count rises by 1; draft state is not copied. -/
def execCfork (cd cs : BitVec 4) (s : State) : Res :=
  onAgent s (fun a => withCtx s a cs (fun _ t =>
    if !(handleFree s a cd) then agentTrap s Cause.ctxExhausted 0
    else putCtx (shareAll s t.held) a cd { t with depth := t.depmin, window := none, history := [], jacobi := 0 }))

def execCdrop (cd : BitVec 4) (s : State) : Res :=
  onAgent s (fun a => withCtx s a cd (fun h _ => agentEnd (dropCtx s h) (a.setHandle cd 0)))

def execClen (gd : BitVec 3) (cs : BitVec 4) (s : State) : Res :=
  onAgent s (fun a => withCtx s a cs (fun _ t => agentEnd s (a.setReg gd (.ofNat 64 t.toks.length))))

def execCtok (gd : BitVec 3) (cs : BitVec 4) (gs : BitVec 3) (s : State) : Res :=
  onAgent s (fun a => withCtx s a cs (fun _ t =>
    match t.toks[(a.reg gs).toNat]? with
    | some v => agentEnd s (a.setReg gd (.ofNat 64 v))
    | none => agentTrap s Cause.ctxRange (a.reg gs)))

/-- V of a context's model; where the model is gone, none (R361). -/
def vocab (s : State) (a : Agent) (t : TokCtx) : Option Nat := (modelOf s (partOf s a) t.model).map (fun m => m.v)

def execCappt (cd : BitVec 4) (gs : BitVec 3) (s : State) : Res :=
  onAgent s (fun a => withCtx s a cd (fun h t =>
    match vocab s a t with
    | none => agentTrap s Cause.modelAbsent (.ofNat 64 t.model)
    | some v =>
      if v ≤ (a.reg gs).toNat || t.toks.length = maxTokens then agentTrap s Cause.ctxRange (a.reg gs)
      else agentEnd (s.setTok h { t with toks := t.toks ++ [(a.reg gs).toNat], pending := t.pending + 1 }) a))

/-! ## Token strings, and the blocks that a step reads (R316, R334, R336) -/

/-- The 4 bytes of a token string or candidate list. -/
def readId (s : State) (a : Agent) (va : Nat) : Except AgentFault Nat := agentRead s a.home va 4

/-- Token ids at consecutive addresses; an id of V or more is CTX_RANGE with the id's address (R334). -/
def readIds (s : State) (a : Agent) (v : Nat) : List Nat → Except AgentFault (List Nat)
  | [] => .ok []
  | va :: r =>
    match readId s a va with
    | .error e => .error e
    | .ok id =>
      if v ≤ id then .error (Cause.ctxRange, .ofNat 64 va, 0)
      else match readIds s a v r with
        | .error e => .error e
        | .ok l => .ok (id :: l)

/-- Addresses of k ids of a string from token `done` on. -/
def idAddrs (addr done k : Nat) : List Nat := (List.range k).map (fun i => (addr + 4 + 4 * (done + i)) % 2 ^ 64)

/-- The whole blocks of 16 of a list. -/
def chunks16 (l : List Nat) : List (List Nat) := (List.range (l.length / 16)).map (fun i => (l.drop (16 * i)).take 16)

/-- The ids of a string that have been scored: as they were read, or read again after a resumption. -/
def scoredIds (s : State) (a : Agent) (v : Nat) (p : Progress) : Except AgentFault (List Nat) :=
  if p.scored.length = p.done then .ok p.scored else readIds s a v (idAddrs p.addr.toNat 0 p.done)

/-- The pantry entries of a chain of full blocks, as far as they are there. -/
def chainBlocks (s : State) (part model : Nat) : List (List Nat) → Option Nat → List Nat
  | [], _ => []
  | ids :: r, parent =>
    match pantryFind s part model parent ids with
    | some e => e :: chainBlocks s part model r (some e)
    | none => []

/-- Address of candidate k of a list. -/
def candAddr (s : State) (a : Agent) : Nat → Nat → Except AgentFault Nat
  | 0, addr => .ok addr
  | k + 1, addr => match readId s a (addr % 2 ^ 64) with | .error e => .error e | .ok c => candAddr s a k (addr + 4 + 4 * c)

/-- The tokens of the best candidate. -/
def bestIds (s : State) (a : Agent) (v best base : Nat) : Except AgentFault (List Nat) :=
  match candAddr s a best (base + 4) with
  | .error e => .error e
  | .ok addr =>
    match readId s a (addr % 2 ^ 64) with
    | .error e => .error e
    | .ok c => readIds s a v (idAddrs addr 0 c)

/-- The runs of tokens behind a context whose KV an agent's instruction holds: those scored of its present string, and those of the
best candidate so far, which are appended with the KV computed while they were scored (R336). -/
def scoredRuns (s : State) (a : Agent) (t : TokCtx) : List (List Nat) :=
  let ok (r : Except AgentFault (List Nat)) : List (List Nat) := match r with | .ok l => [l] | .error _ => []
  match vocab s a t with
  | none => []
  | some v =>
    let now := if a.prog.done = 0 then [] else ok (scoredIds s a v a.prog)
    match a.cur with
    | some (.cscore _ _ _ _) => now
    | some (.cchoose _ _ gs imm) => now ++ (if a.prog.cand = 0 then [] else ok (bestIds s a v a.prog.best (agentEa a gs imm)))
    | _ => []

/-- The full blocks that hold such runs, behind those of the context. -/
def scoredBlocks (s : State) (a : Agent) (t : TokCtx) : List Nat :=
  (scoredRuns s a t).flatMap (fun l =>
    chainBlocks s (partOf s a) t.model (chunks16 (t.toks.drop (16 * t.blocks.length) ++ l)) t.blocks.getLast?)

/-- The blocks that are not full and hold the ends of such runs, which stand in no pantry (R316; log 18). -/
def scoredEnds (s : State) : Nat :=
  s.agents.foldl (fun (n : Nat) e => match if e.2.st = stLong then longCtx s e.2 else none with
    | some (_, t) => n + ((scoredRuns s e.2 t).filter (fun l => !l.isEmpty && (t.toks.length + l.length) % 16 ≠ 0)).length
    | none => n) 0

/-- The blocks that a step reads for an agent's instruction: those of its context, and those of the tokens scored on it. -/
def blocksRead (s : State) (id : Nat) : List Nat :=
  match s.agent id with
  | some a => (match longCtx s a with | some (_, t) => t.held ++ scoredBlocks s a t | none => [])
  | none => []

/-- Whether a plan of a step reads a block. -/
def planReads (s : State) (id : Nat) (p : Plan) : Bool := (blocksRead s p.agent).contains id

/-- The count of a block: contexts that include it, and steps in flight that read it (R316). -/
def blockCount (s : State) (id : Nat) : Nat :=
  let refs := match Tbl.look s.pantry id with | some b => b.refs | none => 0
  refs + (s.planners.filter (fun p => match p.2.flight with
    | some f => f.plans.any (planReads s id)
    | none => false)).length

def inCellar (s : State) (id : Nat) : Bool := match Tbl.look s.pantry id with | some b => b.place = 2 | none => false

/-- CINFO's value; V of a model that is gone is stated by no rule (log 14). -/
def ctxInfo (s : State) (a : Agent) (t : TokCtx) (sel : Nat) : Word :=
  let n := t.toks.length
  let blocks := (n + 15) / 16
  match sel with
  | 0 => .ofNat 64 t.model
  | 1 => .ofNat 64 blocks
  | 2 => .ofNat 64 (t.held.filter (fun b => !(inCellar s b))).length
  | 3 => .ofNat 64 (t.held.filter (fun b => 1 < blockCount s b)).length
  | 4 => .ofNat 64 t.pending
  | 5 => t.pos
  | 6 => (match vocab s a t with | some v => .ofNat 64 v | none => Config.openTval s.fresh)
  | _ => .ofNat 64 (maxTokens - n)

def execCinfo (gd : BitVec 3) (cs : BitVec 4) (sel : BitVec 3) (s : State) : Res :=
  onAgent s (fun a => withCtx s a cs (fun _ t => agentEnd s (a.setReg gd (ctxInfo s a t sel.toNat))))

/-- Every position becomes pending and the old blocks are released. -/
def execCbind (cd : BitVec 4) (imm : W32) (s : State) : Res :=
  onAgent s (fun a => withCtx s a cd (fun h t =>
    match modelOf s (partOf s a) imm.toNat with
    | none => agentTrap s Cause.modelAbsent (imm.setWidth 64)
    | some m =>
      if 4095 < imm.toNat || (match vocab s a t with | some v => v ≠ m.v | none => false) then agentTrap s Cause.modelAbsent (imm.setWidth 64)
      else agentEnd ((releaseAll s t.held).setTok h
        { t with model := imm.toNat, pending := t.toks.length, blocks := [], last := none }) a))

/-- A binary32 of at least +0 that is not a NaN, in bits 31:0 with bits 63:32 zero; −0 equals +0. -/
def posFloat (v : Word) : Bool :=
  v.toNat < 2 ^ 32 && (match decodeF fp32 v.toNat with
    | .nan _ => false
    | .inf neg => !neg
    | .fin neg n _ => !neg || n = 0)

def noneId : Nat := 0xFFFFFFFF

/-- CSETS's field write, none for a value outside its limit (R329). -/
def setSampling (t : TokCtx) (v : Option Nat) (x : Word) (sel : Nat) : Option TokCtx :=
  let n := x.toNat
  match sel with
  | 0 => some { t with key := x }
  | 1 => if posFloat x then some { t with temp := .ofNat 32 n } else none
  | 2 => if n = noneId || (match v with | some k => n < k | none => false) then some { t with endtok := .ofNat 32 n } else none
  | 3 => if n ≤ 63 || n = noneId then some { t with mask := .ofNat 32 n } else none
  | 4 => if n % 8 = 0 then some { t with stops := x } else none
  | 5 => if n ≤ 1 then some { t with hold := n = 1 } else none
  | _ => some { t with pos := x }

/-- D in a range. -/
def TokCtx.clampDepth (t : TokCtx) : TokCtx := { t with depth := max t.depmin (min t.depth t.depmax) }

/-- CSETX's field write. -/
def setExtension (t : TokCtx) (x : Word) (sel : Nat) : Option TokCtx :=
  let n := x.toNat
  match sel with
  | 0 => if n ≤ 1023 then some { t with ring := n } else none
  | 1 => if 1 ≤ n && n ≤ 8 && n ≤ t.depmax then some { t with depmin := n }.clampDepth else none
  | 2 => if 1 ≤ n && n ≤ 8 && t.depmin ≤ n then some { t with depmax := n }.clampDepth else none
  | 3 => if n ≤ 2 then some { t with spec := n } else none
  | _ =>
    if posFloat x && !(ltV (.fin false 1 1) (decodeF fp32 n)) then some { t with thresh := .ofNat 32 n } else none

def execCsets (cd : BitVec 4) (gs sel : BitVec 3) (s : State) : Res :=
  onAgent s (fun a =>
    if sel = 7 then agentIllegal (.csets cd gs sel) s
    else withCtx s a cd (fun h t =>
      match setSampling t (vocab s a t) (a.reg gs) sel.toNat with
      | some t1 => agentEnd (s.setTok h t1) a
      | none => agentTrap s Cause.ctxRange (a.reg gs)))

def execCsetx (cd : BitVec 4) (gs sel : BitVec 3) (s : State) : Res :=
  onAgent s (fun a =>
    if 5 ≤ sel.toNat then agentIllegal (.csetx cd gs sel) s
    else withCtx s a cd (fun h t =>
      match setExtension t (a.reg gs) sel.toNat with
      | some t1 => agentEnd (s.setTok h t1) a
      | none => agentTrap s Cause.ctxRange (a.reg gs)))

/-- Encodings that are not agent instructions, and fetches that fault (R321). -/
def execAgentIllegal (cause : BitVec 8) (tval : Word) (under : BitVec 8) (s : State) : Res :=
  .next (agentFault s s.fa cause tval under.toNat)

end Sys2Proof.Machine
end

