-- ==== Sys2Proof/Machine/Queue.lean ====
section
/-!
DEFINITION. Run lists, mapping, wakes and slices of queues (R363 to R370), the fetch of a packet and how it completes
(R371 to R374), and the host rings' own steps (R381, R382). Every step of the model falls on packet boundaries. A splice
within a list is one step, and so is the move of a queue that has just been mapped; the move of an unmapped queue to the head
of its list lasts from the step that unmaps it to a later one (log 64).
-/

namespace Sys2Proof.Machine

def State.thread (s : State) (t : Nat) : Thread := Tbl.get s.threads t Thread.empty
def State.setThread (s : State) (t : Nat) (x : Thread) : State := { s with threads := Tbl.put s.threads t x }

/-- The thread that serves a queue. -/
def threadOf (s : State) (q : Nat) : Option Nat :=
  (s.threads.find? (fun (e : Nat × Thread) => e.2.qsb = some q)).map (fun e => e.1)

/-- The partition whose rounds freeze a queue: that of its context. -/
def queuePart (s : State) (q : Nat) : Option Nat := (s.ctx (qCtx s q)).map (fun c => c.part)
def queueFrozen (s : State) (q : Nat) : Bool :=
  match queuePart s q with | some p => edged s p (.queue q) | none => false

/-! ## Run lists (R366) -/

/-- Queues that a module serves (R368), as a bound on a list's length. -/
def maxQueues : Nat := 65536

/-- The nodes of a list from an address on. -/
def nodesFrom (s : State) : Nat → Nat → List Nat
  | 0, _ => []
  | n + 1, a => if a = 0 then [] else a :: nodesFrom s n (qNext s a)

/-- The sentinel and the nodes of the list of a priority. -/
def sentinel (s : State) (prio : Nat) : Nat := (s.reg 8).toNat + 256 * prio
def listOf (s : State) (prio : Nat) : List Nat := nodesFrom s maxQueues (qNext s (sentinel s prio))

/-- Every queue in a list, with its priority, the highest first. -/
def allQueues (s : State) : List (Nat × Nat) :=
  [7, 6, 5, 4, 3, 2, 1, 0].flatMap (fun p => (listOf s p).map (fun q => (p, q)))

/-- The node before a node in a list, the sentinel for the first. -/
def nodeBefore (q : Nat) : Nat → List Nat → Option Nat
  | _, [] => none
  | p, a :: r => if a = q then some p else nodeBefore q a r

/-- A node moved behind the last node of its list, or ahead of the first. -/
def moveToTail (s : State) (prio q : Nat) : State :=
  let l := listOf s prio
  match nodeBefore q (sentinel s prio) l, l.getLast? with
  | some p, some last =>
    if last = q then s else qsbPut (qsbPut (qsbPut s p 0 8 (qNext s q)) last 0 8 q) q 0 8 0
  | _, _ => s

def moveToHead (s : State) (prio q : Nat) : State :=
  let l := listOf s prio
  match nodeBefore q (sentinel s prio) l, l.head? with
  | some p, some first =>
    if first = q then s else qsbPut (qsbPut (qsbPut s p 0 8 (qNext s q)) q 0 8 first) (sentinel s prio) 0 8 q
  | _, _ => s

/-! ## Packets in a ring (R371, R372) -/

/-- The ones' complement of the ones'-complement sum of the halfwords of an n-byte packet from byte 6 on. -/
def checkOf (w n : Nat) : Nat :=
  let sum := (List.range ((n - 6) / 2)).foldl (fun a i => a + fld w (48 + 16 * i) 16) 0
  0xFFFF - (if sum = 0 then 0 else (sum - 1) % 0xFFFF + 1)

/-- What a fetch at RPTR finds. -/
inductive Fetched where
  | fault (cause : Byte)
  | noMark
  | torn
  /-- A packet whose LEN reaches past the end of the ring, with its header. -/
  | overrun (head : Nat)
  | packet (bits : Nat)
  deriving DecidableEq, Repr

def lenOk (n : Nat) : Bool := 16 ≤ n && n ≤ 4096 && n % 16 = 0

/-- Whether an address lies in a queue's ring. -/
def inRing (s : State) (q p : Nat) : Bool := qRbase s q ≤ p && p < qRbase s q + qRsize s q

def fetchPacket (s : State) (q : Nat) : Fetched :=
  let who := whoOf (qCtx s q)
  let p := qRptr s q
  match feRead s who p 1 with
  | .error e => .fault e.1
  | .ok m =>
    if m ≠ 0x5A then .noMark else
    match feRead s who p 16 with
    | .error e => .fault e.1
    | .ok h =>
      let n := fld h 16 16
      if !(lenOk n) then .torn
      else if inRing s q p && qRbase s q + qRsize s q < p + n then .overrun h
      else match feRead s who p n with
        | .error e => .fault e.1
        | .ok w => if fld w 32 16 = checkOf w n then .packet w else .torn

/-- RPTR after a packet of n bytes (R371, R375). -/
def nextRptr (s : State) (q n : Nat) : Nat :=
  let p := qRptr s q
  if inRing s q p && p + n = qRbase s q + qRsize s q then qRbase s q else (p + n) % 2 ^ 64

/-- Since when the packet at RPTR has mismatched, and whether no read has matched it for the 4096 ticks that it has (R372). -/
def tornSince (s : State) (q : Nat) : Option Nat :=
  match Tbl.look s.torn q with | some e => if e.2 = qRptr s q then some e.1 else none | none => none
def tornOver (s : State) (q : Nat) : Bool := (tornSince s q).any (fun i => i + 4096 < s.reft.toNat)

/-- Incomplete asynchronous packets of a queue, the oldest first (R374). -/
def asyncsOf (s : State) (q : Nat) : List Async := s.asyncs.filter (fun a => a.qsb = q)

/-- Whether a queue may start one more asynchronous packet: a ninth waits until the oldest of the eight that it met has completed,
also where the queue is unmapped and mapped again meanwhile (R374). -/
def asyncOpen (s : State) (q : Nat) : State × Bool :=
  let l := asyncsOf s q
  match Tbl.look s.behind q with
  | some id => if l.any (fun a => a.id = id) then (s, false) else ({ s with behind := Tbl.del s.behind q }, true)
  | none =>
    match l with
    | a :: _ => if l.length < 8 then (s, true) else ({ s with behind := Tbl.put s.behind q a.id }, false)
    | [] => (s, true)

/-- The packet count of R375: packets run without reaching a WAITS or an asynchronous packet that is incomplete. -/
def countPacket (s : State) (q : Nat) (reset : Bool) : State :=
  match threadOf s q with
  | some t =>
    let x := s.thread t
    s.setThread t { x with packets := if reset || !(asyncsOf s q).isEmpty then 0 else x.packets + 1, idleSince := none }
  | none => s

/-- The front end advances past the packet at RPTR: its mark is cleared, RPTR moves. -/
def advancePast (s : State) (q target : Nat) : State :=
  let s1 := match feWrite s (whoOf (qCtx s q)) (qRptr s q) 1 0 with | .ok x => x | .error _ => s
  countPacket (qsbPut s1 q 40 8 target) q false

/-- A packet that completes at its start with OK, RPTR going to a target. -/
def finishAt (s : State) (q : Nat) (h : Hdr) (target : Nat) : State :=
  completePacket (advancePast s q target) q (.ofNat 64 (qRptr s q)) h Status.ok false 0 0
def finish (s : State) (q : Nat) (h : Hdr) : State := finishAt s q h (nextRptr s q h.len)

/-- A packet that fails at its start: RPTR stays on it, unless CONT lets the queue go on (R380). -/
def failWith (s : State) (q : Nat) (h : Hdr) (status w3 : Nat) : State :=
  let s1 := if h.cont then advancePast s q (nextRptr s q h.len) else s
  completePacket s1 q (.ofNat 64 (qRptr s q)) h status false 0 w3
def fail (s : State) (q : Nat) (h : Hdr) (status : Nat) : State := failWith s q h status 0
/-- ADDR_FAULT carries the fault cause in its completion record (R381). -/
def failAddr (s : State) (q : Nat) (h : Hdr) (e : AccFault) : State := failWith s q h Status.addrFault e.1.toNat

/-- The queue halts at RPTR with a status, no packet having been read. -/
def haltHere (s : State) (q status : Nat) : State :=
  haltQueue (qsbPut { s with torn := Tbl.del s.torn q } q 80 2 status) q (qRptr s q)

/-- An asynchronous packet starts: it is recorded, and the queue goes on. -/
def startAsync (s : State) (q : Nat) (h : Hdr) (kind : AsyncKind) : State :=
  let pkt : Word := .ofNat 64 (qRptr s q)
  let s1 := { s with asyncs := s.asyncs ++ [{ id := s.nextId, qsb := q, pkt := pkt, hdr := h, kind := kind }], nextId := s.nextId + 1 }
  advancePast s1 q (nextRptr s1 q h.len)

/-- An asynchronous packet completes. -/
def endAsync (s : State) (a : Async) (status w3 : Nat) : State :=
  completePacket { s with asyncs := s.asyncs.filter (fun (x : Async) => x.id ≠ a.id) } a.qsb a.pkt a.hdr status false 0 w3

/-! ## WAITS (R373) -/

def qWaitaddr (s : State) (q : Nat) : Nat := qsbGet s q 48 8
def qWaitend (s : State) (q : Nat) : Nat := qsbGet s q 72 8

/-- Whether the condition of a queue's pending WAITS holds. -/
def waitHolds (s : State) (q : Nat) : Except AccFault Bool :=
  match feLoad s (whoOf (qCtx s q)) (qWaitaddr s q) with
  | .error e => .error e
  | .ok v => .ok (condHolds (qsbGet s q 64 1) (.ofNat 64 v) (.ofNat 64 (qsbGet s q 56 8)))

/-- The header of the packet at RPTR. -/
def headHere (s : State) (q : Nat) : Hdr :=
  match feRead s (whoOf (qCtx s q)) (qRptr s q) 16 with
  | .ok h => hdrOf h
  | .error _ => { len := 48, report := false, cont := false, tag := 0 }

/-- A halt that waited for the completion of a WAITS takes effect; FAULTPTR names the packet that failed first (R380). -/
def settleHalt (s : State) (q : Nat) : State :=
  match Tbl.look s.halts q with
  | some pkt =>
    let s1 := { s with halts := Tbl.del s.halts q }
    if qState s1 q = 3 then qsbPut s1 q 88 8 pkt else haltQueue s1 q pkt
  | none => s

/-- A mapped queue's pending WAITS reads its word: it completes, times out, or goes on waiting. -/
def recheckWait (s : State) (q : Nat) : State :=
  if queueFrozen s q then s else
  whenOpen s (queueSender q) (whoOf (qCtx s q)) [(qWaitaddr s q, 8)] (fun s =>
  let ready := qsbPut (extSeen s (whoOf (qCtx s q)) (qWaitaddr s q) 8) q 8 1 1
  let h := headHere s q
  match waitHolds s q with
  | .error e => settleHalt (failAddr ready q h e) q
  | .ok true => settleHalt (finish ready q h) q
  | .ok false =>
    if qWaitend s q ≠ 0 && qWaitend s q ≤ s.reft.toNat then settleHalt (fail ready q h Status.waitTimeout) q
    else extSeen s (whoOf (qCtx s q)) (qWaitaddr s q) 8)

/-! ## Wakes (R369) -/

def pwake (s : State) (q : Nat) : Bool := (qFlags s q).testBit 1
/-- PWAKE is set, with the tick of the wake that sets it (R370). -/
def setPwake (s : State) (q : Nat) : State :=
  { qsbPut s q 9 1 (qFlags s q ||| 2) with wakes := if pwake s q then s.wakes else Tbl.put s.wakes q s.reft.toNat }

/-- The mark at RPTR. -/
def markHere (s : State) (q : Nat) : Bool := match feRead s (whoOf (qCtx s q)) (qRptr s q) 1 with | .ok m => m = 0x5A | .error _ => false

/-- A wake: a mapped queue's thread reads the word or the mark again; an unmapped queue gets PWAKE, a queue being unmapped a
latched one. -/
def wakeQueue (s : State) (q : Nat) : State :=
  match threadOf s q with
  | none => setPwake s q
  | some t =>
    let x := s.thread t
    if x.unmap then (setPwake s q).setThread t { x with latched := true }
    else if qState s q = 2 then recheckWait s q
    else if markHere s q then s.setThread t { x with idleSince := none } else s

def wakeAll (s : State) : List Nat → State
  | [] => s
  | q :: r => wakeAll (wakeQueue s q) r

/-- A write to the wake register of a queue id. -/
def wakeQid (s : State) (qid : Nat) : State :=
  wakeAll s (((allQueues s).filter (fun e => qQid s e.2 = qid)).map (fun e => e.2))

def execQueueWake (qid : Nat) (s : State) : Res := .next (wakeQid s qid)

/-! ## Mapping (R364, R367) -/

/-- STATE of a queue, as it was for one that the front end is moving (R366, R367). -/
def keptState (s : State) (q : Nat) : Nat :=
  match s.moves.find? (fun m => m.1 = q) with | some m => m.2.2 | none => qState s q
def moving (s : State) (q : Nat) : Bool := s.moves.any (fun m => m.1 = q)

/-- An eligible queue; an unassigned STATE is met at mapping and halts the queue there (R364). -/
def eligible (s : State) (q : Nat) : Bool :=
  let st := keptState s q
  (threadOf s q).isNone && (st = 1 || (st = 0 && pwake s q) || (st = 2 && pwake s q) || 5 ≤ st)

def powBetween (n lo hi : Nat) : Bool := (List.range (hi + 1 - lo)).any (fun i => n = 2 ^ (lo + i))

/-- The checks of a QSB at mapping. -/
def qsbOk (s : State) (q : Nat) : Bool :=
  qsbGet s q 10 2 = 0 && qsbGet s q 36 4 = 0 && qsbGet s q 65 7 = 0 && qsbGet s q 82 6 = 0 && qFlags s q / 8 = 0
    && qState s q ≤ 4 && qRbase s q % 4096 = 0 && powBetween (qRsize s q) 12 24

/-- The move of a queue ends, and its STATE is again what it was. -/
def endMove (s : State) (q : Nat) : State :=
  { (if moving s q && qState s q = 4 then qsbPut s q 8 1 (keptState s q) else s) with moves := s.moves.filter (fun m => m.1 ≠ q) }

/-- The first move under way reaches the head of its list. -/
def finishMove (s : State) : State :=
  match s.moves with
  | [] => s
  | m :: _ => endMove (moveToHead s m.2.1 m.1) m.1

/-- A free thread takes a queue, which moves to the tail of its list; or the queue halts with FAULTPTR 0. -/
def mapQueue (s : State) (t prio q : Nat) : State :=
  let s := endMove s q
  let s := { s with wakes := Tbl.del s.wakes q, halts := if qState s q = 2 then s.halts else Tbl.del s.halts q }
  if qsbOk s q then
    let s1 := qsbPut s q 9 1 (qFlags s q % 2 + 4)
    let s2 := if qState s q = 0 then qsbPut s1 q 8 1 1 else s1
    (moveToTail s2 prio q).setThread t { Thread.empty with qsb := some q, prio := prio, mapped := s.reft.toNat, slice := s.reft.toNat }
  else qsbPut (qsbPut (qsbPut s q 80 2 Status.badPacket) q 8 1 3) q 88 8 0

/-- Threads 0 to 30 serve queues (R363). -/
def freeThread (s : State) : Option Nat := (List.range 31).find? (fun t => (s.thread t).qsb.isNone)

/-- Latency tolerance of a queue in microseconds (R364). -/
def qLattol (s : State) (q : Nat) : Nat := qsbGet s q 14 2

/-- Whether the firmware may put off the service of a queue that a wake has made eligible: an IDLE or a waiting one (R367, R370). -/
def mayDefer (s : State) (q : Nat) : Bool :=
  (keptState s q = 0 || keptState s q = 2) &&
  match Tbl.look s.wakes q with | some t => s.reft.toNat < t + 1000 * qLattol s q | none => false

/-- A queue that a pass of the walker considers. -/
def walkable (s : State) (defer : List Nat) (q : Nat) : Bool := eligible s q && !(defer.contains q && mayDefer s q)

/-- A node that the front end is moving and the node behind it are one pair, of which the lower QID goes first (R367). -/
def pairNodes (s : State) : List (Nat × Nat) → List (Nat × Nat)
  | a :: b :: r =>
    if moving s a.2 && a.1 = b.1 && eligible s a.2 && eligible s b.2 && qQid s b.2 < qQid s a.2 then b :: a :: pairNodes s r
    else a :: pairNodes s (b :: r)
  | l => l

def walkQueues (s : State) (defer : List Nat) : List (Nat × Nat) → State
  | [] => s
  | (prio, q) :: r =>
    match freeThread s with
    | none => s
    | some t => walkQueues (if walkable s defer q then mapQueue s t prio q else s) defer r

/-- The mapped queue of lowest priority, and among those the one mapped longest. -/
def weakest (s : State) : Option (Nat × Thread) :=
  (s.threads.filter (fun (e : Nat × Thread) => e.2.qsb.isSome)).foldl (fun (m : Option (Nat × Thread)) e =>
    match m with
    | none => some e
    | some x => if e.2.prio < x.2.prio ∨ (e.2.prio = x.2.prio ∧ e.2.mapped < x.2.mapped) then some e else some x) none

/-- An eligible unmapped queue of a higher priority takes the place of the weakest mapped one (R368). -/
def pressQueues (s : State) (defer : List Nat) : State :=
  match (allQueues s).find? (fun e => walkable s defer e.2), weakest s with
  | some w, some (t, x) =>
    if x.prio < w.1 && (freeThread s).isNone && !(s.threads.any (fun (e : Nat × Thread) => e.2.unmap)) then
      s.setThread t { x with unmap := true }
    else s
  | _, _ => s

/-- QUEUE_WALK: one pass of the walker, which puts off the queues picked within their latency tolerance (R370). -/
def execQueueWalk (s : State) : Res :=
  let s1 := walkQueues s s.picks (pairNodes s (allQueues s))
  .next (pressQueues { s1 with walkgen := s1.walkgen + 1 } s.picks)

/-- The end of a slice: the queue is unmapped at its next packet boundary where another waits, and begins another slice else (log
64). -/
def endSlice (s : State) (t : Nat) : State :=
  let x := s.thread t
  s.setThread t { x with
    slice := s.reft.toNat, packets := 0, unmap := x.unmap || (allQueues s).any (fun e => x.prio ≤ e.1 && eligible s e.2) }

/-- SLICE_EXPIRY (R368, R375): a queue that found no packet for a slice becomes IDLE by a CAS from READY (R365); one whose slice
ends while another waits is unmapped at its next packet boundary, and otherwise begins another slice (log 64). -/
def execSliceExpiry (t : Nat) (s : State) : Res :=
  let x := s.thread t
  let now := s.reft.toNat
  match x.qsb with
  | none => .next s
  | some q =>
    let idle : Bool := match x.idleSince with | some i => decide (i + 250000 ≤ now) | none => false
    if idle && qState s q = 1 && !x.unmap then
      .next ((qsbPut s q 8 1 0).setThread t { x with unmap := true })
    else if x.slice + 250000 ≤ now || 4096 ≤ x.packets then
      .next (endSlice s t)
    else .next s

/-- An unmap completes; a queue whose wake was latched is then moved to the head of its list, in UNLINKING meanwhile (R366,
R369). -/
def unmapQueue (s : State) (t q : Nat) : State :=
  let x := s.thread t
  let s1 := (qsbPut s q 9 1 (qFlags s q &&& 3)).setThread t Thread.empty
  if x.latched && qState s1 q ≤ 3 then
    { qsbPut s1 q 8 1 4 with moves := s1.moves ++ [(q, x.prio, qState s1 q)] }
  else s1

/-- One unmapped queue in the periodic re-read (R368, R369). -/
def rereadQueue (s : State) (q : Nat) : State :=
  let who := whoOf (qCtx s q)
  if (threadOf s q).isSome || !(extHeld s (queueSender q) who [(qWaitaddr s q, 8), (qRptr s q, 1)]).isEmpty then s
  else if qState s q = 2 then (match waitHolds s q with | .ok true => setPwake s q | _ => s)
  else if qState s q = 0 then
    (match feRead s who (qRptr s q) 1 with | .ok 0x5A => setPwake s q | _ => s)
  else s

def rereadAll (s : State) : List (Nat × Nat) → State
  | [] => s
  | e :: r => rereadAll (rereadQueue s e.2) r

/-- PERIODIC_REREAD: every 250,000 reference ticks. -/
def execPeriodicReread (s : State) : Res :=
  if s.reread + 250000 ≤ s.reft.toNat then .next (rereadAll { s with reread := s.reread + 250000 } (allQueues s)) else .next s

/-! ## Steps of a mapped queue -/

/-- WAITS_RECHECK. -/
def execWaitsRecheck (t : Nat) (s : State) : Res :=
  match (s.thread t).qsb with
  | some q => .next (if qState s q = 2 && !(s.thread t).unmap then recheckWait s q else s)
  | none => .next s

/-- WAITS_TIMEOUT: the deadline wakes an unmapped queue; a mapped one decides by a last read (R373). -/
def execWaitsTimeout (q : Nat) (s : State) : Res :=
  if !((allQueues s).any (fun e => e.2 = q)) && (threadOf s q).isNone then .next s
  else if qState s q = 2 && qWaitend s q ≠ 0 && qWaitend s q ≤ s.reft.toNat then .next (wakeQueue s q) else .next s

/-- A fetch that finds a mismatch: the thread reads again until QUEUE_TORN (R372). -/
def tornAt (s : State) (q : Nat) : State :=
  match tornSince s q with
  | some _ => s
  | none => { s with torn := Tbl.put s.torn q (s.reft.toNat, qRptr s q) }

/-- QUEUE_TORN: a last read at the end of the 4096 ticks decides. -/
def execQueueTorn (t : Nat) (s : State) : Res :=
  match (s.thread t).qsb with
  | some q =>
    (match tornSince s q with
     | some i =>
       if i + 4096 ≤ s.reft.toNat && !(queueFrozen s q) && (tornOver s q || fetchPacket s q = .torn) then .next (haltHere s q Status.queueTorn)
       else .next s
     | none => .next s)
  | none => .next s

/-! ## Host rings (R381, R382) -/

/-- An interrupt of a ring. -/
def ringSignal (s : State) (key : Nat) (r : Ring) : State :=
  { s with rings := Tbl.put s.rings key { r with unsignalled := 0 }, interrupts := s.interrupts ++ [r.vector] }

/-- The first record that waits in the front end for a ring takes a place at the ring. -/
def takeReport (s : State) (key : Nat) : State :=
  match s.reports.find? (fun e => e.1 = key), Tbl.look s.rings key with
  | some e, some r =>
    { s with reports := s.reports.eraseP (fun x => x.1 = key), rings := Tbl.put s.rings key { r with waiting := r.waiting ++ [e.2] } }
  | _, _ => s

/-- A ring is deleted with every record addressed to it. -/
def dropRing (s : State) (key : Nat) : State :=
  { s with rings := Tbl.del s.rings key, reports := s.reports.filter (fun e => e.1 ≠ key) }

/-- Record k of a ring, with its phase. -/
def phased (r : Ring) (rec' : BitVec 256) : Nat := rec'.toNat + recAt 1 (1 - r.written / r.entries % 2)

/-- RING_RECORD_WRITE: the oldest waiting record, once the ring has room. -/
def execRingRecordWrite (key : Nat) (s : State) : Res :=
  match Tbl.look s.rings key with
  | none => .next s
  | some r =>
    match r.waiting with
    | [] => .next s
    | rec' :: rest =>
      .next (whenOpen s (ringSender key) (whoOf r.ctx)
        [(r.headaddr.toNat, 8), (r.base.toNat + 32 * (r.written % r.entries), 32)] (fun s =>
      let s := extSeen s (whoOf r.ctx) r.headaddr.toNat 8
      match feRead s (whoOf r.ctx) r.headaddr.toNat 8 with
      | .error _ => dropRing s key
      | .ok head =>
        if head + r.entries ≤ r.written then s else
        match feWrite s (whoOf r.ctx) (r.base.toNat + 32 * (r.written % r.entries)) 32 (phased r rec') with
        | .error _ => dropRing s key
        | .ok s1 =>
          let r1 := { r with waiting := rest, written := r.written + 1, unsignalled := r.unsignalled + 1
                             oldest := if r.unsignalled = 0 then s.reft.toNat else r.oldest }
          let s2 := takeReport { s1 with rings := Tbl.put s1.rings key r1 } key
          let r2 := (Tbl.look s2.rings key).getD r1
          if 1 ≤ r.thresh && r.thresh ≤ r1.unsignalled then ringSignal s2 key r2 else s2))

/-- RING_INTERRUPT_TIMEOUT. -/
def execRingInterruptTimeout (key : Nat) (s : State) : Res :=
  match Tbl.look s.rings key with
  | some r =>
    if 0 < r.unsignalled && r.timeout ≠ 0 && 1 ≤ r.thresh && r.oldest + r.timeout ≤ s.reft.toNat then .next (ringSignal s key r)
    else .next s
  | none => .next s

end Sys2Proof.Machine
end

