-- ==== Sys2Proof/Machine/Clock.lean ====
section
/-!
DEFINITION. Reference ticks and cycles (R409 to R411), frequency steps (R412, R413, R416), the power manager (R30) and
thermal events (R31).
-/

namespace Sys2Proof.Machine

/-! ## Frequency requests -/

/-- The requests of FREQ packets that a function keeps, changed as it says; a packet completes with its last (R416). -/
def settleFreqOne (f : Nat × Bool → Option (Nat × Bool)) (s : State) (a : Async) : State :=
  match a.kind with
  | .freq ds =>
    let rest := ds.filterMap f
    if rest = ds then s
    else if rest.isEmpty then endAsync s a Status.ok 0
    else { s with asyncs := s.asyncs.map (fun (x : Async) => if x.id = a.id then { x with kind := .freq rest } else x) }
  | _ => s

def settleFreqAll (f : Nat × Bool → Option (Nat × Bool)) (s : State) : List Async → State
  | [] => s
  | a :: r => settleFreqAll f (settleFreqOne f s a) r

/-- The initial steps that a function keeps, changed as it says; bring-up is complete with the last (R29). -/
def settleInitial (f : Nat × Bool → Option (Nat × Bool)) (s : State) : State :=
  let rest := s.initial.map (fun l => l.filterMap f)
  { s with initial := rest, bringup := s.bringup && rest ≠ some [] }

/-- A request for a deck is settled: the running one has reached its target, or the waiting one has been replaced (R416). An initial
step of bring-up that a later request replaces is settled in the same way (log 60). -/
def settleFreq (s : State) (d : Nat) (waits : Bool) : State :=
  let keep (p : Nat × Bool) : Option (Nat × Bool) := if p = (d, waits) then none else some p
  settleFreqAll keep (settleInitial keep s) s.asyncs

/-- The waiting request of a deck becomes the running one. -/
def startWaiting (s : State) (d : Nat) : State :=
  let turn (p : Nat × Bool) : Option (Nat × Bool) := if p = (d, true) then some (d, false) else some p
  settleFreqAll turn (settleInitial turn s) s.asyncs

/-- A FREQ packet waits for one more deck. -/
def addFreq (s : State) (async : Option Nat) (p : Nat × Bool) : State :=
  { s with asyncs := s.asyncs.map (fun (x : Async) =>
      match x.kind with
      | .freq ds => if async = some x.id then { x with kind := .freq (ds ++ [p]) } else x
      | _ => x) }

/-- The relock of a deck: it keeps its frequency for 1500 ticks (R412). -/
def relockTicks : Nat := 1500

def beginRelock (s : State) (d : Nat) (f : Byte) : State :=
  s.setDeck d { s.deck d with relock := true, target := f, relockEnd := s.reft.toNat + relockTicks, waiting := none }

/-- A request reaches a deck, for a FREQ packet or for none (R412, R416). -/
def requestFreq (s : State) (async : Option Nat) (d : Nat) (f : Byte) : State :=
  let x := s.deck d
  if x.relock then
    addFreq ((if x.waiting.isSome then settleFreq s d true else s).setDeck d { x with waiting := some f }) async (d, true)
  else if f = x.cur then s
  else addFreq (beginRelock s d f) async (d, false)

def requestAll (s : State) (async : Option Nat) (f : Byte) : List Nat → State
  | [] => s
  | d :: r => requestAll (requestFreq s async d f) async f r

/-- A FREQ packet whose every deck is at its target completes. -/
def closeFreq (s : State) (id : Nat) : State :=
  match s.asyncs.find? (fun (a : Async) => a.id = id && a.kind = .freq []) with
  | some a => endAsync s a Status.ok 0
  | none => s

/-- CLKLOG (R413). -/
def clklogValue (reft : Word) (f1 f2 : Byte) : Word := .ofNat 64 (reft.toNat % 2 ^ 48 * 2 ^ 16 + f2.toNat * 2 ^ 8 + f1.toNat)

/-- The initial frequency of a compute deck, between 1.2 GHz and its ceiling (R29). -/
def initialFreq (s : State) (d : Nat) : Byte := .ofNat 8 (12 + Config.initialFreq d % ((s.deck d).ceil.toNat - 11))

/-- A deck after its step instant (R411 to R413). -/
def Deck.stepped (x : Deck) (reft : Word) : Deck :=
  { x with cur := x.target, cyc := .ofNat 64 (x.cyc.toNat * x.target.toNat / x.cur.toNat), frac := 0, relock := false
           clklog := clklogValue reft x.cur x.target, waiting := none }

/-- STEP_INSTANT (R412): CUR, CYC, CLKLOG and RELOCK change together; a waiting request starts the next relock, or is reached
where it asks for CUR (R416). -/
def execStepInstant (deck : BitVec 4) (s : State) : Res :=
  let d := deck.toNat
  let x := s.deck d
  if x.relock && x.relockEnd ≤ s.reft.toNat then
    let s1 := settleFreq (s.setDeck d (x.stepped s.reft)) d false
    .next (match x.waiting with
      | some w => if w = x.target then settleFreq s1 d true else beginRelock (startWaiting s1 d) d w
      | none => s1)
  else .next s

/-! ## Power and heat (R30, R31) -/

/-- The target that a deck will have reached once every request made of it is met. -/
def Deck.goal (x : Deck) : Byte := x.pending.getD (x.waiting.getD x.target)

/-- A request of the power manager or of a thermal trip; it is held while the deck's tower is not in RUN (R27, R30, R31). -/
def plinthRequest (f : Byte) (s : State) (d : Nat) : State :=
  if (s.tower (d / 4)).st = .run then requestFreq s none d f else s.setDeck d { s.deck d with pending := some f }

/-- Once its tower is in RUN, a deck meets the request that was held for it, within its ceiling. -/
def meetPending (s : State) (d : Nat) : State :=
  let x := s.deck d
  match x.pending with
  | none => s
  | some f =>
    let s1 := s.setDeck d { x with pending := none }
    if deckCompute s d then requestFreq s1 none d (if x.ceil.toNat < f.toNat then x.ceil else f) else s1

/-- POWER_LIMIT: above 3.6 kW every compute deck of the module steps down by 0.1 GHz. -/
def execPowerLimit (draw : Nat) (s : State) : Res :=
  if 3600 < draw then
    .next ((List.range 16).foldl (fun (s : State) d =>
      if deckCompute s d && 12 < (s.deck d).goal.toNat then plinthRequest ((s.deck d).goal - 1) s d else s) s)
  else .next s

/-- The compute decks of a tower. -/
def towerCompute (s : State) (t : Nat) : List Nat := (List.range 4).filterMap (fun i => if deckCompute s (4 * t + i) then some (4 * t + i) else none)

/-- THERMAL_TRIP: a temperature rises above the trip point, which takes the tower's compute decks to 1.2 GHz and is reported. The
time that leads to the power gate runs from the last rise. -/
def execThermalTrip (tower : BitVec 2) (s : State) : Res :=
  let t := tower.toNat
  let s1 := (towerCompute s t).foldl (plinthRequest 12) s
  .next { s1.setTower t { s1.tower t with trip := some s.reft.toNat } with thermal := s1.thermal ++ [t] }

/-- The stages of launches that have a core on one of some decks. -/
def stagesOn (s : State) (decks : List Nat) : List (Nat × Nat) :=
  s.launches.flatMap (fun (e : Nat × Launch) => (List.range e.2.stages.length).filterMap (fun st =>
    if (s.coresOf e.1 st).any (fun c => decks.contains (deckOf (s.phys c))) then some (e.1, st) else none))

def discardOn (s : State) : List (Nat × Nat) → State
  | [] => s
  | g :: r => discardOn (discardGroup s g.1 g.2) r

/-! ## Time -/

/-- Ticks that may pass before the deadline of the WAITS of a mapped queue, which decides by a read at the deadline (R373). -/
def waitTicks (s : State) (x : Thread) (n : Nat) : Nat :=
  match x.qsb with
  | some q => if qState s q = 2 && !x.unmap && !(queueFrozen s q) && qWaitend s q ≠ 0 then min n (qWaitend s q - s.reft.toNat) else n
  | none => n

/-- Ticks that may pass before the last read of a packet that has mismatched (R372). -/
def tornTicks (s : State) (x : Thread) (n : Nat) : Nat :=
  match x.qsb with
  | some q => if qState s q = 1 && !x.unmap && !(queueFrozen s q) then
      (match tornSince s q with | some i => if i + 4096 < s.reft.toNat then n else min n (i + 4096 - s.reft.toNat) | none => n)
    else n
  | none => n

/-- Ticks that may pass before a step instant is due, or the end of the slice, the deadline or the last read of a mapped queue (R368,
R372, R373, R412). -/
def ticksAllowed (s : State) (n : Nat) : Nat :=
  let m := s.decks.toList.foldl (fun m (d : Deck) => if d.relock then min m (d.relockEnd - s.reft.toNat) else m) n
  s.threads.foldl (fun m (e : Nat × Thread) =>
    if e.2.qsb.isSome then tornTicks s e.2 (waitTicks s e.2 (min m (e.2.slice + 250000 - s.reft.toNat))) else m) m

/-- Whether a deck's arithmetic clock runs: that of the compute role, the new one from ENUMERATE on (R23, R411). -/
def deckClocked (s : State) (d : Nat) : Bool :=
  let x := s.tower (d / 4)
  match x.change with
  | some c => if x.st = .enumerate then c.cmask.getLsbD (d % 4) else deckCompute s d
  | none => deckCompute s d

/-- A deck's cycles in n ticks: CUR tenths of a cycle each (R411). -/
def Deck.tick (d : Deck) (n : Nat) : Deck :=
  let f := d.frac + n * d.cur.toNat
  { d with cyc := d.cyc + .ofNat 64 (f / 10), frac := f % 10 }
def Deck.cycles (d : Deck) (n : Nat) : Nat := (d.frac + n * d.cur.toNat) / 10

/-- Whether a strand is out of rotation on memory: a reply, a conflict or a boundary that holds an access, a WAITW (R67). -/
def Wait.onMemory : Wait → Bool
  | .reply _ => true
  | .held m => m
  | .store _ => true
  | .waitw _ => true
  | _ => false

/-- Events 0, 3, 4 and 5 count cycles of a core (R408). -/
def countCycles (s : State) (n : Nat) : List (Nat × Core) → State
  | [] => s
  | (k, c) :: r =>
    let cyc := (s.deck (deckOf (s.phys k))).cycles n
    let busy := c.mx.any (fun (o : MxOp) => o.array && o.running && !o.freed)
    let outs := ((List.range 16).filter (fun i => (s.strand (k * 16 + i)).wait.onMemory)).length
    countCycles (if groupRuns s c then
      ((s.count k 0 cyc).count k (if busy then 3 else 4) cyc).count k 5 (outs * cyc) else s) n r

/-- Reference ticks pass: REFT, and CYC of every compute deck; never past a step instant, the end of a slice or a
deadline that is due (R409 to R412). -/
def passTime (n : Nat) (s : State) : State :=
  let m := ticksAllowed s n
  let s1 := countCycles s m s.cores
  { s1 with reft := s1.reft + .ofNat 64 m, decks := Vector.ofFn (fun i => if deckClocked s i.val then (s.deck i.val).tick m else s.deck i.val) }

end Sys2Proof.Machine
end

