-- ==== Sys2Proof/Machine/Flags.lean ====
section
/-!
DEFINITION. FPC (R186): the modes an instruction captures at issue, the flags it ORs in (R187), the counter of the
stochastic-rounding generator (R189).
-/

namespace Sys2Proof.Machine

/-- RM, FS and FR of an FPC value. -/
def Mode.ofFpc (fpc : Word) : Mode := { rm := rmOf (fld fpc.toNat 8 2), fs := fpc.getLsbD 10, fr := fpc.getLsbD 11 }

/-- The modes an instruction captures when it issues (R187). -/
def State.mode (s : State) : Mode := Mode.ofFpc s.cur.fpc

/-- An operation ORs its flags into a strand's FPC; nothing else of FPC changes (R187). -/
def Strand.orFlags (t : Strand) (f : Byte) : Strand := { t with fpc := t.fpc ||| f.setWidth 64 }
def setFlags (s : State) (k : Nat) (f : Byte) : State := s.setStrand k ((s.strand k).orFlags f)

/-- SRSTATE of an FPC value. -/
def srState (fpc : Word) : W32 := fpc.extractLsb' 32 32
/-- The draw of result k (R189). -/
def srDraw (fpc : Word) (k : Nat) : Nat := (mix (srState fpc + .ofNat 32 k)).toNat
/-- SRSTATE after an instruction that converts n results. -/
def srAdvance (fpc : Word) (n : Nat) : Word := (srState fpc + .ofNat 32 n) ++ fpc.setWidth 32

end Sys2Proof.Machine
end

