-- ==== Sys2Proof/Machine/Operands.lean ====
section
/-!
DEFINITION. Operand specifiers (R102 to R104, R214, R230, R233) with order 7 of R116, literals and VI immediates (R100,
R215), shape records (R205 to R207) and channel endpoints at issue (R209, R210).
-/

namespace Sys2Proof.Machine

/-! ## Specifiers -/

/-- The tiers of R102. -/
inductive Tier where
  | vreg | last | qreg | shape | chan | mask | zero | lit | reserved
  deriving DecidableEq, Repr

def tierOf (b : Spec) : Tier :=
  let n := b.toNat
  if n < 0x80 then .vreg else if n < 0x82 then .last else if n < 0x88 then .reserved else if n < 0x90 then .qreg
  else if n < 0xA0 then .shape else if n < 0xB0 then .chan else if n < 0xB8 then .mask else if n < 0xC0 then .reserved
  else if n < 0xE0 then .vreg else if n < 0xFE then .reserved else if n = 0xFE then .zero else .lit

/-- An operand position that an instruction reads as a specifier: 0 d, 1 a, 2 b, 3 c, with the tiers it accepts. -/
structure OpPos where
  pos : Nat
  spec : Spec
  ok : List Tier

def dstFull : List Tier := [.vreg, .qreg, .shape, .chan, .zero]
def dstFlat : List Tier := [.vreg, .qreg, .chan, .zero]
def dstReg : List Tier := [.vreg, .qreg, .zero]
def srcFull : List Tier := [.vreg, .last, .qreg, .shape, .chan, .zero, .lit]
def srcFlat : List Tier := [.vreg, .last, .qreg, .chan, .zero, .lit]
def srcReg : List Tier := [.vreg, .last, .qreg, .zero, .lit]
def srcMem : List Tier := [.vreg, .last, .qreg, .chan, .zero]

/-- The specifiers of an instruction in the order d, a, b, c, with the tiers of R214, R222 to R227, R230 and R233. -/
def VIns.positions (v : VIns) : List OpPos :=
  let f := v.f
  let d (ok : List Tier) : OpPos := { pos := 0, spec := f.d, ok := ok }
  let a (ok : List Tier) : OpPos := { pos := 1, spec := f.a, ok := ok }
  let b (ok : List Tier) : OpPos := { pos := 2, spec := f.b, ok := ok }
  let c (ok : List Tier) : OpPos := { pos := 3, spec := f.c, ok := ok }
  let bIf : List OpPos := match v.form with | .vi _ => [] | _ => [b srcFull]
  match v.op with
  | .vfma | .vfms | .vclamp => [d dstFull, a srcFull] ++ bIf ++ [c srcFull]
  | .vsel => [d dstFull, a srcFull] ++ bIf ++ [c [.mask]]
  | .vcmp => [d [.mask, .zero], a srcFull] ++ bIf
  | .vabs | .vneg | .vcvt | .vmov | .vcomp => [d dstFull, a srcFull]
  | .vexp2 | .vlog2 | .vrcp | .vrsqrt | .vsqrt | .vsin | .vcos | .vtanh | .vsigm => [d dstFull, a srcFull]
  | .vscale | .vdot => [d dstFlat, a srcFlat, b srcFlat, c srcFlat]
  | .vgumbel => [d dstFlat, a srcFlat, b srcFlat]
  | .vred => [d dstFlat, a srcFull]
  | .vargmax => [d [.vreg, .qreg], a srcFull]
  | .vbcast => [d dstFull]
  | .vextr => [a srcReg]
  | .vins => [d dstReg]
  | .vperm | .vslide => [d dstFull, a srcFull, b srcFull]
  | .vld | .vlds => [d dstFlat]
  | .vst | .vsts => [a srcMem]
  | .vgather => [d dstFlat, b srcMem]
  | .vscatter => [a srcMem, b srcMem]
  | .mop => [d [.mask], a [.mask]] ++ (if f.c.toNat = 4 then [] else [b [.mask]])
  | .mpop | .mfirst => [a [.mask]]
  | .mset => [d [.mask]]
  | _ => [d dstFull, a srcFull] ++ bIf

/-- Vector registers per strand in a mode (R62). -/
def allocOf (mode : Nat) : Nat := 16 * 2 ^ mode

/-- The index that a direct or relative specifier names (R104). -/
def regIndex (vx : Half) (b : Spec) : Int := if b.toNat < 0x80 then b.toNat else vx.toInt + (b.toNat - 0xC0 : Nat)

/-- TVAL at order 7 (R116). -/
def specTval (lit : Bool) (pos spec : Nat) (index : Int) : Word :=
  .ofNat 64 ((if lit then 2 ^ 42 else 0) + pos * 2 ^ 40 + spec * 2 ^ 32 + (BitVec.ofInt 32 index).toNat)

/-- The check of one specifier: SPEC_RESERVED, SPEC_TIER, VREG_RANGE. -/
def specFault (mode : Nat) (vx : Half) (lits : Bool) (p : OpPos) : Option (Byte × Word) :=
  let t := tierOf p.spec
  let n := p.spec.toNat
  if t = .reserved || (t = .lit && (!lits || p.pos = 0)) then some (Cause.specReserved, specTval false p.pos n 0)
  else if !(p.ok.contains t) then some (Cause.specTier, specTval false p.pos n 0)
  else
    let i := regIndex vx p.spec
    if t = .vreg && (i < 0 || (allocOf mode : Int) ≤ i) then some (Cause.vregRange, specTval false p.pos n i) else none

/-- Order 7 of R116. -/
def VIns.specFaults (v : VIns) (mode : Nat) (vx : Half) : Option (Byte × Word) :=
  let ps := v.positions
  let lits := match v.form with | .lit _ => true | _ => false
  let hits := ps.filter (fun p => p.pos ≠ 0 && p.spec = 0xFF)
  if lits && hits.length ≠ 1 then
    some (Cause.specReserved, match hits with | _ :: p :: _ => specTval true p.pos 0xFF 0 | _ => specTval true 0 0 0)
  else ps.findSome? (specFault mode vx lits)

/-! ## Registers by specifier -/

/-- A mask register; m0 reads as all ones (R197). -/
def Strand.mask (t : Strand) (i : Nat) : Mask := if i % 8 = 0 then BitVec.allOnes 128 else Vector.nth (n := 7) t.m (i % 8)
def Strand.setMask (t : Strand) (i : Nat) (v : Mask) : Strand := if i % 8 = 0 then t else { t with m := Vector.upd t.m (i % 8) v }

/-- The physical register of an index of a strand (R62). -/
def physReg (s : State) (k i : Nat) : Nat := allocOf (s.core (coreOf k)).mode * slotOf k + i

/-- The value of a register specifier; 0 for other tiers. -/
def regRead (s : State) (k : Nat) (b : Spec) : V512 :=
  let t := s.strand k
  match tierOf b with
  | .vreg => Tbl.get (s.core (coreOf k)).vf (physReg s k (regIndex t.vx b).toNat) 0
  | .last => if b = 0x80 then t.l0 else t.l1
  | .qreg => Vector.nth (n := 7) t.q (b.toNat - 0x88)
  | _ => 0

/-- Write a register specifier. -/
def regWrite (s : State) (k : Nat) (b : Spec) (v : V512) : State :=
  let t := s.strand k
  match tierOf b with
  | .vreg =>
    let c := s.core (coreOf k)
    s.setCore (coreOf k) { c with vf := Tbl.put c.vf (physReg s k (regIndex t.vx b).toNat) v }
  | .qreg => s.setStrand k { t with q := Vector.upd t.q (b.toNat - 0x88) v }
  | .mask => s.setStrand k (t.setMask (b.toNat - 0xB0) (v.setWidth 128))
  | _ => s

/-- The last-result file takes a result image (R199). -/
def pushResult (s : State) (k : Nat) (v : V512) : State :=
  let t := s.strand k
  s.setStrand k { t with l1 := t.l0, l0 := v }

/-! ## Elements of a 512-bit value (R196) -/

def elemOf (w v i : Nat) : Nat := v / 2 ^ (w * i) % 2 ^ w
def elems (w n v : Nat) : List Nat := (List.range n).map (elemOf w v)
def packElems (w : Nat) : List Nat → Nat
  | [] => 0
  | e :: r => e % 2 ^ w + 2 ^ w * packElems w r
/-- A pattern of w bits in every element. -/
def splat (w v : Nat) : Nat := packElems w (List.replicate (512 / w) v)

/-! ## Literals and immediates (R100, R215) -/

/-- The type in which an operand is read: an element type with its format and sign, an S9 scale, a 32-bit index. -/
inductive ReadAs where
  | elem (etype w : Nat) (signed : Bool)
  | scale
  | index
  deriving DecidableEq, Repr

/-- binary32 bits widened exactly to binary64; a NaN gives the canonical NaN. -/
def widen64 (p : Nat) : Nat := (convert fp32 fp64 Mode.rne false p).bits

/-- The 512-bit value of a literal L. -/
def litValue (t : ReadAs) (l : W32) : Nat :=
  match t with
  | .scale => splat 16 (l.toNat % 512)
  | .index => splat 32 l.toNat
  | .elem e w sg =>
    if e = 4 then splat 64 (if sg then l.signExtend 64 else l.setWidth 64).toNat
    else if e = 8 then splat 64 (widen64 l.toNat)
    else if e = 10 then splat 32 l.toNat
    else splat w l.toNat

/-- The 512-bit value of imm16. -/
def immValue (e w : Nat) (sg : Bool) (imm : Half) : Nat :=
  if isInt e then splat w (if sg then imm.signExtend 64 else imm.setWidth 64).toNat
  else if e = 7 then splat 32 (imm.toNat * 2 ^ 16)
  else if e = 8 then splat 64 (widen64 (imm.toNat * 2 ^ 16))
  else splat 16 imm.toNat

/-! ## Shape records (R205 to R207) -/

/-- The fields of the 32-byte record at offset `off`, with the container width and the values of its words 0 and 1. -/
def readShape (s : State) (core off : Nat) : Shape × Nat × Nat :=
  let v := Memory.readN s.mem (padLoc core off) 32
  ({ off := off, base := fld v 0 24, ty := fld v 24 4, fsel := fld v 28 3, rdonly := fld v 35 1 = 1, rank := fld v 32 3
     ext := [fld v 64 16, fld v 80 16, fld v 96 16, fld v 112 16]
     str := (List.range 4).map (fun k => (BitVec.ofNat 32 (v / 2 ^ (128 + 32 * k))).toInt) }, fld v 0 32, fld v 32 32)

/-- R205. -/
def shapeInvalid (r : Shape × Nat × Nat) : Bool :=
  let h := r.1
  fld r.2.1 31 1 ≠ 0 || fld r.2.2 4 28 ≠ 0 || (h.ty ≠ 9 && h.fsel ≠ 0) || h.rank = 0 || 4 < h.rank
    || (h.ext.take h.rank).contains 0 || 11 ≤ h.ty

/-- Element count. -/
def Shape.count (h : Shape) : Nat := (h.ext.take h.rank).foldl (fun n e => n * e) 1

/-- Units of R206 per byte for a container width. -/
def unitsPer (w : Nat) : Nat := if w = 4 then 2 else if w = 1 then 8 else 1
/-- Container size in units. -/
def unitSize (w : Nat) : Nat := if w ≤ 4 then 1 else w / 8

/-- Address of element e in units (R206). -/
def Shape.addr (h : Shape) (w e : Nat) : Int :=
  ((List.range h.rank).foldl (fun (a : Nat × Int) k =>
    let x := max 1 (h.ext.getD k 1)
    (a.1 / x, a.2 + (a.1 % x : Nat) * h.str.getD k 0)) (e, ((h.base * unitsPer w : Nat) : Int))).2

/-- The lowest and the highest unit address of an element, from the corners. -/
def Shape.corners (h : Shape) (w : Nat) : Int × Int :=
  (List.range h.rank).foldl (fun (a : Int × Int) k =>
    let x := ((h.ext.getD k 1 : Int) - 1) * h.str.getD k 0
    (a.1 + min 0 x, a.2 + max 0 x)) (((h.base * unitsPer w : Nat) : Int), ((h.base * unitsPer w : Nat) : Int))

def Shape.misaligned (h : Shape) (w : Nat) : Bool :=
  (h.base * unitsPer w) % unitSize w ≠ 0 || (h.str.take h.rank).any (fun x => x % unitSize w ≠ 0)

/-- Whether an element lies outside offset 0 to the reserve. -/
def Shape.outside (h : Shape) (w top : Nat) : Bool :=
  let c := h.corners w
  c.1 < 0 || ((top * unitsPer w : Nat) : Int) < c.2 + unitSize w

/-- A shaped operand at issue: position, offset, the element type and fmt field it must have, container width. -/
structure ShapedOp where
  pos : Nat
  off : Nat
  etype : Nat
  fsel : Nat
  w : Nat

/-- One check of R207 applied to every shaped operand in turn. -/
def shapeCheck (ops : List ShapedOp) (bad : ShapedOp → Bool) (c : Byte) : Option (Byte × Word) :=
  match ops.find? bad with
  | some o => some (c, .ofNat 64 o.off)
  | none => none

/-- The lowest-listed access to a core's own scratchpad, of those given by offset and length, that reads a poisoned byte: it
raises DATA_POISON at its address (R263, R265). -/
def padPoison (s : State) (core : Nat) (spans : List (Nat × Nat)) : Option (Byte × Word) :=
  if s.poison.isEmpty then none
  else (spans.find? (fun p => (List.range p.2).any (fun i => s.poison.contains (padLoc core (p.1 + i))))).map
    (fun (p : Nat × Nat) => (Cause.dataPoison, .ofNat 64 (0xFFE * 2 ^ 44 + p.1)))

/-- Single-bit errors in accesses to a core's own scratchpad are corrected or overwritten (R265). -/
def padSeen (s : State) (core : Nat) (write : Bool) (spans : List (Nat × Nat)) : State :=
  if s.soft.isEmpty then s
  else spans.foldl (fun (s : State) p => correctAt s write (padLoc core p.1) p.2) s

/-- R207 for all shaped operands, with the poison that the read of a record may meet (log 34); `want` is the element count an operation asks for, by default the first shape's. -/
def shapeFaults (s : State) (core : Nat) (want : Option Nat) (ops : List ShapedOp) : Option (Byte × Word) :=
  let top := reserveBase (s.core core)
  let rec' (o : ShapedOp) : Shape × Nat × Nat := readShape s core o.off
  let cnt (o : ShapedOp) : Nat := (rec' o).1.count
  let first := want.getD (match ops with | o :: _ => cnt o | [] => 0)
  (shapeCheck ops (fun o => top < o.off + 32) Cause.bounds)
  |>.or (padPoison s core (ops.map (fun o => (o.off, 32))))
  |>.or (shapeCheck ops (fun o => shapeInvalid (rec' o)) Cause.shapeInvalid)
  |>.or (shapeCheck ops (fun o => (rec' o).1.ty ≠ o.etype || (o.etype = 9 && (rec' o).1.fsel ≠ o.fsel)) Cause.shapeMismatch)
  |>.or (shapeCheck ops (fun o => o.pos = 0 && (rec' o).1.rdonly) Cause.shapeMismatch)
  |>.or (shapeCheck ops (fun o => cnt o ≠ first) Cause.shapeMismatch)
  |>.or (shapeCheck ops (fun o => (rec' o).1.misaligned o.w) Cause.misaligned)
  |>.or (shapeCheck ops (fun o => (rec' o).1.outside o.w top) Cause.bounds)

/-- Element e of a shape (R206). -/
def shapeGet (s : State) (core : Nat) (h : Shape) (w e : Nat) : Nat :=
  let a := (h.addr w e).toNat
  if w = 4 then (Memory.read s.mem (padLoc core (a / 2))).toNat / 2 ^ (4 * (a % 2)) % 16
  else if w = 1 then (Memory.read s.mem (padLoc core (a / 8))).toNat / 2 ^ (a % 8) % 2
  else Memory.readN s.mem (padLoc core a) (w / 8)

/-- Replace bits of a byte. -/
def byteMerge (old : Byte) (lo w v : Nat) : Byte :=
  let m := BitVec.ofNat 8 ((2 ^ w - 1) * 2 ^ lo)
  (old &&& ~~~m) ||| (BitVec.ofNat 8 (v * 2 ^ lo) &&& m)

/-- Write element e of a shape. -/
def shapePut (s : State) (core : Nat) (h : Shape) (w e v : Nat) : State :=
  let a := (h.addr w e).toNat
  if w = 4 then
    let l := padLoc core (a / 2)
    s.setMem (Memory.write s.mem l (byteMerge (Memory.read s.mem l) (4 * (a % 2)) 4 v))
  else if w = 1 then
    let l := padLoc core (a / 8)
    s.setMem (Memory.write s.mem l (byteMerge (Memory.read s.mem l) (a % 8) 1 v))
  else s.setMem (Memory.writeN s.mem (padLoc core a) (w / 8) v)

/-- The offset and the bytes of element e; its own-window address, for the footprint rule (R216, R275). -/
def shapeBytes (h : Shape) (w e : Nat) : Nat × Nat := ((h.addr w e).toNat / unitsPer w, max 1 (w / 8))
def shapeSpan (h : Shape) (w e : Nat) : Nat × Nat := (0xFFE * 2 ^ 44 + (shapeBytes h w e).1, (shapeBytes h w e).2)

/-! ## Channel endpoints (R76, R209, R210) -/

/-- The staged sends of a strand on an endpoint, and its staged receives. -/
def stagedSends (t : Strand) (e : Nat) : Nat :=
  (t.staged.filter (fun o => match o with | .send j _ => j = e | _ => false)).length
def stagedRecvs (t : Strand) (e : Nat) : Nat :=
  (t.staged.filter (fun o => match o with | .recv j => j = e | _ => false)).length
/-- Whether a strand has closed an endpoint, its staged close included. -/
def hasClosed (t : Strand) (e : Nat) : Bool :=
  t.closed.contains e || t.staged.any (fun o => match o with | .endMark j => j = e | _ => false)

/-- Whether a sending endpoint of a core is closed for a strand: by itself, or by a committed marker of its core. -/
def sendClosed (s : State) (k e : Nat) : Bool :=
  hasClosed (s.strand k) e || (match linkOf s (coreOf k) e with | some l => l.closed | none => true)

/-- The destination of a drain and its rows. -/
def drainDst : Instr → Option (Spec × Nat)
  | .mdrain _ _ n d => some (d, n.toNat + 1)
  | .mdrainG _ _ n d _ => some (d, n.toNat + 1)
  | .mdrains _ _ n d _ => some (d, n.toNat + 1)
  | _ => none

/-- Messages that drains which have started and are held back will send on an endpoint (R246). -/
def drainUnits (c : Core) (e : Nat) : Nat :=
  c.mx.foldl (fun n (o : MxOp) => match drainDst o.instr with
    | some (d, r) => if o.crossing && tierOf d = .chan && d.toNat % 16 = e then n + 2 * r else n
    | none => n) 0

/-- Units of allowance left on a link (R76): a unit returns when the receiving region commits. -/
def unitsLeft (s : State) (core e : Nat) : Nat :=
  match linkOf s core e with
  | none => 0
  | some l =>
    l.slots - ((inboxOf s l.receiver l.kr).filter (fun m => m.sender = core && m.ks = e)).length
      - ((List.range 16).foldl (fun n i => n + stagedSends (s.strand (core * 16 + i)) e) 0) - drainUnits (s.core core) e

/-- The allowance that arrives at a receiving endpoint: of all the links joined to it (log 16). -/
def recvAllowance (s : State) (core e : Nat) : Nat := (linksTo s core e).foldl (fun n l => n + l.slots) 0

/-- Messages of a receiving endpoint that no uncommitted region has taken. -/
def receivable (s : State) (core e : Nat) : List Msg := (inboxOf s core e).filter (fun m => m.taken = none)
/-- Every sender has closed and no message is left (R212). -/
def recvClosed (s : State) (core e : Nat) : Bool := (linksTo s core e).all (fun l => l.closed) && (receivable s core e).isEmpty

/-- CHAN_DIR for an endpoint: unbound, or used against its direction (R209). -/
def chanDir (s : State) (core e : Nat) (send : Bool) : Bool :=
  match Tbl.look (s.core core).ends e with
  | some x => x.send ≠ send
  | none => true

/-- The endpoint checks at issue for a list of (endpoint, is destination) in the order d, a, b, c, CHAN_DIR of
every endpoint first, then CHAN_OVERRUN and CHAN_CLOSED (R209, R210), for nr receives and ns sends on each. No rule gives
their TVAL (log 14). -/
def chanFaults (s : State) (k nr ns : Nat) (es : List (Nat × Bool)) : Option (Byte × Word) :=
  let core := coreOf k
  let t := s.strand k
  match es.find? (fun e => chanDir s core e.1 e.2) with
  | some e => some (Cause.chanDir, .ofNat 64 e.1)
  | none =>
    es.findSome? (fun e =>
      if e.2 then
        (if sendClosed s k e.1 then some (Cause.chanClosed, Config.openTval s.fresh)
         else if (match linkOf s core e.1 with | some l => l.slots | none => 0) < stagedSends t e.1 + ns then
           some (Cause.chanOverrun, Config.openTval s.fresh)
         else none)
      else if recvAllowance s core e.1 < stagedRecvs t e.1 + nr then some (Cause.chanOverrun, Config.openTval s.fresh)
      else none)

/-- Take the oldest receivable message of an endpoint into a strand's region. -/
def takeMsg (slot : Nat) : List Msg → List Msg
  | [] => []
  | m :: r => if m.taken = none then { m with taken := some slot } :: r else m :: takeMsg slot r
def receive (s : State) (k e : Nat) : State :=
  let core := coreOf k
  let s1 := { s with inbox := Tbl.put s.inbox (inboxKey core e) (takeMsg (slotOf k) (inboxOf s core e)) }
  s1.setStrand k { s1.strand k with staged := (s1.strand k).staged ++ [.recv e] }
/-- Stage a send. -/
def send (s : State) (k e : Nat) (v : V512) : State :=
  s.setStrand k { s.strand k with staged := (s.strand k).staged ++ [.send e v] }

end Sys2Proof.Machine
end

