-- ==== Sys2Proof/Machine/Tasks.lean ====
section
/-!
DEFINITION. Tasks, dependence counters, migration and remote calls (R155 to R165), and the arrival of what they send
(R70, R81 to R83, R157).
-/

namespace Sys2Proof.Machine

/-! ## Memory reads of an instruction -/

/-- n bytes read at an address by the current strand (R10): a fault traps, a conflict with a copy footprint stalls
(R275), otherwise the instruction goes on with the value. -/
def readMem (s : State) (va : Word) (n : Nat) (m : AccMode) (go : State → List Piece → Nat → Res) : Res :=
  match accessBytes s s.fs va.toNat n m with
  | .fault c v => trap s c v
  | .wait ds => stall ds s
  | .ok s1 ps => go (countPieces s1 (coreOf s.fs) false ps) ps (readPieces s1.mem ps)

/-- The boundaries that hold a message of the current strand to another core (R415). -/
def sendHeld (s : State) (core : Nat) : List Nat := heldAt s s.fs (crossDecks (s.phys (coreOf s.fs)) (s.phys core))

/-! ## Descriptors (R69, R158) -/

/-- Whether a descriptor's bytes pass the checks of R158. -/
def descOk (d : Nat) : Bool := d % 4 = 0 && fld d (46 * 8 + 6) 2 = 0 && fld d (47 * 8 + 5) 3 = 0 && fld d (48 * 8) 128 = 0

/-- x1 to x4 from argument words, the other registers zero (R72). -/
def taskRegs (a0 a1 a2 a3 : Word) : Vector Word 16 := #v[0, a0, a1, a2, a3, 0, 0, 0, 0, 0, 0, 0, 0, 0, 0, 0]

/-- The task of a descriptor under an id. -/
def descTask (d : Nat) (id : BitVec 48) : Task :=
  { entry := .ofNat 64 d, id := id, fpc := none, enq := 0
    xs := taskRegs (.ofNat 64 (d / 2 ^ 64)) (.ofNat 64 (d / 2 ^ 128)) (.ofNat 64 (d / 2 ^ 192)) (.ofNat 64 (d / 2 ^ 256)) }

/-- The home core of a descriptor. -/
def descHome (ctx d : Nat) : Nat := coreKey ctx (fld d (46 * 8) 6) (fld d (47 * 8) 5)

/-- Whether a core belongs to the current strand's stage. -/
def inOwnStage (s : State) (core : Nat) : Bool :=
  match s.groupOf s.fs with | some (l, st) => inStage s core l st | none => false

/-- A descriptor's ID, or a new one (R158): the core's x, y and count; the count wraps from 2^37 − 1 to 1. -/
def takeId (s : State) (d : Nat) : BitVec 48 × State :=
  let id := fld d 320 48
  if id ≠ 0 then (.ofNat 48 id, s)
  else
    let core := coreOf s.fs
    let c := s.core core
    (.ofNat 48 (xOf core * 2 ^ 42 + yOf core * 2 ^ 37 + c.ids % 2 ^ 37),
     s.setCore core { c with ids := if c.ids + 1 < 2 ^ 37 then c.ids + 1 else 1 })

/-- Add an operation to the current strand's staged work. -/
def stage (s : State) (o : Staged) : State := s.setCur { s.cur with staged := s.cur.staged ++ [o] }

/-- SPAWN and SPAWNR (R158): `named` takes the home core from the descriptor. -/
def spawn (named : Bool) (d a : XReg) (s : State) : Res :=
  let xa := s.readX a
  if xa.toNat % 64 ≠ 0 then trap s Cause.misaligned xa else
  readMem s xa 64 (.load false) (fun s1 _ v =>
    let home := if named then descHome (ctxOf (coreOf s.fs)) v else coreOf s.fs
    if !(descOk v) then trap s Cause.taskInvalid xa
    else if named && !(inOwnStage s home) then trap s Cause.noSuchCore xa
    else if 32 ≤ stagedCount s.cur then trap s Cause.stageFull 0
    else if !(sendHeld s home).isEmpty then hold (sendHeld s home) s
    else if !(queueRoom s home) then trap s Cause.taskqFull xa
    else
      let (id, s2) := takeId s1 v
      retire 4 (stage (s2.writeX d (id.setWidth 64)) (.enqueue home (descTask v id))))

def execSpawn (d a : XReg) (s : State) : Res := spawn false d a s
/-- The destination core answers the reservation at once, unless a relock holds the request (R149, R415). -/
def execSpawnr (d a : XReg) (s : State) : Res := spawn true d a s

/-! ## Dependence counters (R155 to R162) -/

def Core.ctr (c : Core) (i : Nat) : Ctr := Tbl.get c.ctrs i .free

def execDepset (d a b : XReg) (c : BitVec 8) (s : State) : Res :=
  let xa := s.readX a
  let xb := s.readX b
  let core := coreOf s.fs
  if 0xFFFFFFFF < xb.toNat then trap s Cause.depCount xb
  else if xa.toNat % 64 ≠ 0 then trap s Cause.misaligned xa else
  readMem s xa 64 (.load false) (fun s1 _ v =>
    if !(descOk v) then trap s Cause.taskInvalid xa
    else if !(inOwnStage s (descHome (ctxOf core) v)) then trap s Cause.noSuchCore xa
    else if (s.core core).ctr c.toNat ≠ .free then trap s Cause.depArmed (c.setWidth 64)
    else if 32 ≤ stagedCount s.cur then trap s Cause.stageFull 0
    else
      let (id, s2) := takeId s1 v
      let k := s2.core core
      let s3 := s2.setCore core { k with ctrs := Tbl.put k.ctrs c.toNat (.reserved (slotOf s.fs)) }
      retire 4 (stage (s3.writeX d (id.setWidth 64)) (.arm c.toNat xb.toNat (descHome (ctxOf core) v) (descTask v id))))

/-- A counter as value and state: none is FREE. -/
def ctrStep (core i : Nat) (v : Option Nat) (o : Staged) : Option Nat :=
  match o with
  | .arm j n _ _ => if j = i then (if n = 0 then none else some n) else v
  | .dec k j a => if k = core ∧ j = i then (match v with
      | some n => if a ≤ n then (if n = a then none else some (n - a)) else v
      | none => v) else v
  | _ => v

/-- What DEPRD reads: the counter as the strand's own staged work would leave it (R160). -/
def ctrRead (s : State) (core i : Nat) : Word :=
  let own (v : Option Nat) : Word :=
    match s.cur.staged.foldl (ctrStep core i) v with
    | none => 0
    | some n => .ofNat 64 (2 * 2 ^ 32 + n)
  match (s.core core).ctr i with
  | .free => own none
  | .armed n _ _ => own (some n)
  | .reserved slot => if slot = slotOf s.fs then own none else .ofNat 64 (2 ^ 32)

def execDeprd (d : XReg) (c : BitVec 8) (s : State) : Res :=
  writeAndRetire 4 d (ctrRead s (coreOf s.fs) c.toNat) s

/-- The core of a counter reference of a strand of a core, none where the reference is invalid (R155). -/
def ctrRefCore (s : State) (core : Nat) (r : Word) : Option Nat :=
  let n := r.toNat
  if 2 ^ 20 ≤ n then none
  else if fld n 19 1 = 1 then some core
  else
    let k := coreKey (ctxOf core) (fld n 8 6) (fld n 14 5)
    match (s.core core).launch with
    | some l => (match s.launch l with
      | some la => if (List.range la.stages.length).any (fun st => inStage s k l st) then some k else none
      | none => none)
    | none => none

def execDepdec (a : XReg) (scope : BitVec 3) (n : BitVec 10) (s : State) : Res :=
  checked (.depdec a scope n) s
    (match ctrRefCore s (coreOf s.fs) (s.readX a) with
     | none => trap s Cause.noSuchCore (s.readX a)
     | some k =>
       if 32 ≤ stagedCount s.cur then trap s Cause.stageFull 0
       else retire 4 (stage s (.dec k ((s.readX a).toNat % 256) n.toNat)))

/-! ## Migration and calls (R163 to R165) -/

def execMigrate (a : XReg) (imm : BitVec 17) (s : State) : Res :=
  let ea := indirectTarget a imm s
  match destCore s (coreOf s.fs) ea.toNat with
  | .error c => trap s c ea
  | .ok dest =>
    if !(inOwnStage s dest) then trap s Cause.noSuchCore ea
    else if commitBlocked s s.fs || !(sendHeld s dest).isEmpty then hold (commitDecks s s.fs ++ sendHeld s dest) s
    else if dest = coreOf s.fs then retire 4 (regionAt s s.fs s.pc)
    else
      let t := s.cur
      let s1 := commit s s.fs
      let task : Task := { entry := t.pc + 4, xs := t.x, id := t.taskid, fpc := some t.fpc, enq := 0 }
      .next (becomeIdle (enqueueTask s1 dest task) s.fs)

/-- The continuation identifier of a call (R82). -/
def contWord (core slot : Nat) (xd : XReg) (seq : BitVec 13) : Word :=
  .ofNat 64 (xOf core * 2 ^ 26 + yOf core * 2 ^ 21 + slot * 2 ^ 17 + xd.toNat * 2 ^ 13 + seq.toNat)

def execRcall (d a b : XReg) (s : State) : Res :=
  let xa := s.readX a
  let xb := s.readX b
  let core := coreOf s.fs
  if xa.toNat % 4 ≠ 0 then trap s Cause.misaligned xa else
  match destCore s core xb.toNat with
  | .error c => trap s c xb
  | .ok dest =>
    if !(inOwnStage s dest) then trap s Cause.noSuchCore xb
    else if !(sendHeld s dest).isEmpty then hold (sendHeld s dest) s
    else
      let t := s.cur
      let seq := t.seq + 1
      let cont := contWord core (slotOf s.fs) d seq
      let task : Task := { entry := xa, id := t.taskid, fpc := none, enq := 0
                           xs := Vector.upd (taskRegs (t.readX 1) (t.readX 2) (t.readX 3) (t.readX 4)) 5 cont }
      let g := (s.groupOf s.fs).getD (0, 0)
      let s1 := s.setCur { t with seq := seq, call := some seq, wait := .rcall cont }
      .next (s1.sendCall { id := 0, src := core, core := dest, task := task, launch := g.1, stage := g.2 })

/-- The caller that a continuation identifier names, seen from a context. -/
def contCore (ctx : Nat) (w : Word) : Nat := coreKey ctx (fld w.toNat 26 6) (fld w.toNat 21 5)
def contSlot (w : Word) : Nat := fld w.toNat 17 4

def execRreply (a b : XReg) (s : State) : Res :=
  let xa := s.readX a
  let ctx := ctxOf (coreOf s.fs)
  let core := contCore ctx xa
  if 2 ^ 32 ≤ xa.toNat || !(inOwnStage s core) || (s.core core).count ≤ contSlot xa then trap s Cause.noSuchCore xa
  else if !(sendHeld s core).isEmpty then hold (sendHeld s core) s
  else
    let g := (s.groupOf s.fs).getD (0, 0)
    retire 4 (s.sendReply { id := 0, src := coreOf s.fs, ctx := ctx, cont := xa, payload := s.readX b, launch := g.1, stage := g.2 })

/-! ## Arrivals -/

/-- Element k of a list and the list without it. -/
def takeNth {α : Type} : List α → Nat → Option (α × List α)
  | [], _ => none
  | a :: r, 0 => some (a, r)
  | a :: r, k + 1 => (takeNth r k).map (fun p => (p.1, a :: p.2))

/-- An idle strand searches again (R71): after an enqueue, or after 256 cycles. -/
def execSearchRetry (k : Nat) (s : State) : Res :=
  let t := s.strand k
  if t.active && t.idle && coreActs s (coreOf k) then .next (seekTask s k) else .next s

/-- The oldest held task of a core enters the queue when a slot is free (R70). -/
def execHeldTaskEnter (core : Nat) (s : State) : Res := .next (enterHeld s core 1)

/-- Whether a core holds counters for a launch: no group holds the counters of a core whose stage has completed, while one that
COV_FAULT ended keeps its armed ones (R88, R157, R311). -/
def holdsCounters (s : State) (core l : Nat) : Bool :=
  (s.core core).launch = some l &&
  (match s.launch l with
    | some la => !la.ended && la.sts[(s.core core).stage]?.any (fun x => x ≠ .complete)
    | none => false)

/-- TVAL of DEP_UNDERFLOW (R157). -/
def underflowTval (core c a : Nat) : Word :=
  .ofNat 64 (a * 2 ^ 32 + yOf core * 2 ^ 14 + xOf core * 2 ^ 8 + c)

/-- An asynchronous fault record (R392, R400). -/
def asyncFault (cause : Byte) (inner : Nat) (tval : Word) (core : Nat) (job : Word) : FaultInfo :=
  { cause := cause, inner := inner, pc := 0, tval := tval, taskid := 0, core := core, slot := 0xFF, job := job }

/-- A task that a counter releases goes to its home: at once, or by the fabric where a boundary on the way holds it (R415), as a task
of the stage that holds the counter, which does not complete before it has come (R78). -/
def releaseTask (s : State) (d : Decr) (home : Nat) (t : Task) : State :=
  match heldAt s (itemSender s.sent) (crossDecks (s.phys d.core) (s.phys home)) with
  | [] => enqueueTask s home t
  | ds => noteHeld (s.sendCall { id := 0, src := d.core, core := home, task := t, launch := (s.core d.core).launch.getD 0,
                                     stage := (s.core d.core).stage }) (itemSender s.sent) ds

/-- A decrement is applied at its core, or underflows there, or, where no group holds the counter, at its sender (R157). -/
def applyDecr (s : State) (d : Decr) : State :=
  let c := s.core d.core
  let f := asyncFault Cause.depUnderflow 0xFFFF (underflowTval d.core d.c d.amount) d.core 0
  if !(holdsCounters s d.core d.launch) then groupFault s d.launch d.stage f
  else match c.ctr d.c with
    | .armed v home t =>
      if v < d.amount then groupFault s (c.launch.getD 0) c.stage f
      else if v = d.amount then releaseTask (s.setCore d.core { c with ctrs := Tbl.put c.ctrs d.c .free }) d home t
      else s.setCore d.core { c with ctrs := Tbl.put c.ctrs d.c (.armed (v - d.amount) home t) }
    | _ => groupFault s (c.launch.getD 0) c.stage f

/-- What is in flight between two cores arrives; or a boundary on its way holds it, in the order in which it comes there, and what
comes later waits behind it (R415). -/
def arrive (s : State) (id src dest : Nat) (go : Res) : Res :=
  match heldAt s (itemSender id) (crossDecks (s.phys src) (s.phys dest)) with
  | [] => go
  | ds => .next (noteHeld s (itemSender id) ds)

/-- Any decrement in flight may be the next to arrive. -/
def execDepDecrementArrive (k : Nat) (s : State) : Res :=
  match takeNth s.decrs k with
  | some (d, r) => arrive s d.id d.src d.core (.next (applyDecr (dropHeld { s with decrs := r } (itemSender d.id)) d))
  | none => .next s

/-- A migrated task is at its destination from its MIGRATE on (R163): in the queue, or held there for want of room, from where
it enters here when it is the oldest held one and a slot is free (R70, R81). -/
def execMigrationArrive (core : Nat) (s : State) : Res :=
  match (s.core core).held with
  | t :: _ => .next (if t.fpc.isSome then enterHeld s core 1 else s)
  | [] => .next s

/-- A call enters the callee core's queue, or is held there (R82, R164). -/
def execCallArrive (k : Nat) (s : State) : Res :=
  match takeNth s.calls k with
  | some (f, r) =>
    arrive s f.id f.src f.core (.next (enqueueTask (dropHeld { s with calls := r } (itemSender f.id)) f.core f.task))
  | none => .next s

/-- A reply reaches the caller (R83): the payload is written and the caller made ready, or the reply is stale. -/
def applyReply (s : State) (r : RReply) : State :=
  let k := contCore r.ctx r.cont * 16 + contSlot r.cont
  let t := s.strand k
  if t.call = some (.ofNat 13 r.cont.toNat) then
    s.setStrand k { (t.writeX (.ofNat 4 (r.cont.toNat / 2 ^ 13)) r.payload) with call := none, wait := .none, pc := t.pc + 4 }
  else { s with stale := s.stale + 1 }

def execReplyArrive (k : Nat) (s : State) : Res :=
  match takeNth s.replies k with
  | some (f, r) =>
    arrive s f.id f.src (contCore f.ctx f.cont) (.next (applyReply (dropHeld { s with replies := r } (itemSender f.id)) f))
  | none => .next s

end Sys2Proof.Machine
end

