-- ==== Sys2Proof/Machine/Copy.lean ====
section
/-!
DEFINITION. Copy engines (R273 to R287) and their faults (R286, R393): CPY, CPWAIT, the engine's reads, transfers and
completions, the retry and the expiry of a suspended access.
-/

namespace Sys2Proof.Machine

/-! ## CPY and CPWAIT (R280 to R283) -/

/-- Element bytes of an ETYPE. -/
def copyElem (etype : Nat) : Nat :=
  if etype = 1 then 1 else if etype = 2 ∨ etype = 5 ∨ etype = 6 then 2 else if etype = 3 ∨ etype = 7 then 4
  else if etype = 4 ∨ etype = 8 then 8 else 1

/-- Word 0 of a request: reserved bits, KIND, ETYPE (R282). -/
def copyWordBad (w : Nat) : Bool :=
  let kind := fld w 0 3
  let e := fld w 8 4
  fld w 52 12 ≠ 0 || fld w 13 19 ≠ 0 || fld w 3 3 ≠ 0 || 6 ≤ kind
    || !(if kind = 4 then 1 ≤ e && e ≤ 4 else if kind = 5 then 3 ≤ e && e ≤ 8 else e = 0)

/-- The checks of R283 in their order. -/
def copyFault (s : State) (q0 q1 q2 q3 : Word) : Option (Byte × Word) :=
  let kind := fld q0.toNat 0 3
  let flat := kind = 0 ∨ kind = 4 ∨ kind = 5
  let e := if kind = 4 ∨ kind = 5 then copyElem (fld q0.toNat 8 4) else 1
  if copyWordBad q0.toNat || (decide flat && 2 ^ 40 ≤ q3.toNat) then some (Cause.cpyInvalid, q0)
  else if !(q0.getLsbD 12) && ctrRefCore s (coreOf s.fs) (.ofNat 64 (fld q0.toNat 32 20)) = none then some (Cause.noSuchCore, q0)
  else if q3.toNat % e ≠ 0 then some (Cause.cpyInvalid, q0)
  else if (kind = 4 || kind = 5) && q2.toNat % e ≠ 0 then some (Cause.misaligned, q2)
  else if kind = 5 && q1.toNat % e ≠ 0 then some (Cause.misaligned, q1)
  else if 1 ≤ kind && kind ≤ 3 && q3.toNat % 64 ≠ 0 then some (Cause.misaligned, q3)
  else none

/-- Copy requests that strands of a core have staged. -/
def stagedCopies (s : State) (core : Nat) : Nat :=
  (List.range 16).foldl (fun n i => n + ((s.strand (core * 16 + i)).staged.filter Staged.isCopy).length) 0

/-- CPY (R283). -/
def execCpy (d a : XReg) (nb : Bool) (s : State) : Res :=
  checked (.cpy d a nb) s
    (let q0 := s.readX a
     let q1 := s.readX (a + 1)
     let q2 := s.readX (a + 2)
     let q3 := s.readX (a + 3)
     match copyFault s q0 q1 q2 q3 with
     | some (c, x) => trap s c x
     | none =>
       if 16 ≤ fifoCount s (coreOf s.fs) then
         if stagedCopies s (coreOf s.fs) = fifoCount s (coreOf s.fs) then
           (if nb then writeAndRetire 4 d 2 s else trap s Cause.stageFull 0)
         else if nb then writeAndRetire 4 d 1 s
         else hold [] s
       else writeAndRetire 4 d 0 (stage s (.copy q0 q1 q2 q3)))

/-- CPWAIT (R280): a strand whose count is not reached leaves the rotation. -/
def execCpwait (d b : XReg) (ch : BitVec 2) (s : State) : Res :=
  let n := Vector.nth (n := 3) s.curCore.cpwp ch.toNat
  if s.readX b ≤ n then writeAndRetire 4 d n s else waitFor (.cpwait (.cpwait d b ch)) s

/-! ## Jobs of a channel (R274, R278) -/

/-- The first job of a channel in commit order, with its place in the footprint table. -/
def headJob (ch : Nat) : Nat → List Job → Option (Nat × Job)
  | _, [] => none
  | i, j :: r => if j.channel = ch then some (i, j) else headJob ch (i + 1) r

def setJob (s : State) (core i : Nat) (j : Job) : State :=
  s.setCore core { s.core core with jobs := (s.core core).jobs.set i j }
def dropJob (s : State) (core i : Nat) : State :=
  s.setCore core { s.core core with jobs := (s.core core).jobs.eraseIdx i }

def meetSets (a b : List Range) : Bool := a.any (fun x => b.any (fun y => x.meets y))

/-- A new job conflicts with an earlier one of its core (R274). -/
def jobConflict (core : Nat) (new old : Job) : Bool :=
  old.blockPending || meetSets (new.readSet core) (old.writeSet core) || meetSets (new.writeSet core) (old.readSet core)
    || meetSets (new.writeSet core) (old.writeSet core)

/-- The reserved bytes and the values of a parameter block (R285). Strides of dimensions at and beyond RANK are not checked: R285 does
not say whether they must be multiples of the element size (DEDUCED, log 41). -/
def blockBad (j : Job) (b : V512) : Bool :=
  let n := b.toNat
  if j.kind = 1 then
    let r := blkRank b
    let es := blkEsize b
    fld n 3 1 ≠ 0 || fld n 6 58 ≠ 0 || fld n 384 128 ≠ 0 || r = 0 || 4 < r
      || (List.range r).any (fun k => blkExt b k = 0 || blkSrc b k % es ≠ 0 || blkDst b k % es ≠ 0)
      || j.w1.toNat % es ≠ 0 || j.w2.toNat % es ≠ 0
  else fld n 160 352 ≠ 0 || blkIdx b % 4 ≠ 0 || blkRowb b = 0 || 2 ^ 20 < blkRowb b

/-! ## Accesses of an engine -/

/-- The checks of an engine's access, sector by sector; it has no race check (R272). -/
def engPieces (s : State) (core : Nat) (acc : AccKind) : List (Nat × Nat) → Except AccFault (List Piece)
  | [] => .ok []
  | (va, n) :: r =>
    match translate s (.core core) va n acc with
    | .error c => .error (c, .ofNat 64 va)
    | .ok h =>
      if h.device then .error (Cause.paAbsent, .ofNat 64 va)
      else if acc = .read && (List.range n).any (fun i => s.poison.contains (h.loc + i)) then .error (Cause.dataPoison, .ofNat 64 va)
      else match engPieces s core acc r with
        | .error e => .error e
        | .ok ps => .ok ({ va := va, n := n, hit := h } :: ps)

/-- The race tag of a sector a copy job writes becomes empty (R270). -/
def dropTags (s : State) (ps : List Piece) : State :=
  { s with tags := s.tags.filter (fun (e : Nat × Tag) => !(ps.any (fun p => p.hit.loc / 32 = e.1))) }

/-- What a step of an engine answers: a boundary holds the transfer, with the state that notes it (R415); a fault, at a
delivery offset of the job; or the state after the transfer. -/
inductive EngOut where
  | idle (s : State)
  | fault (cause : Byte) (va : Word) (off : Nat)
  | done (s : State)

/-- A channel's access to some pieces is held, or goes on. -/
def engAccess (s : State) (core ch : Nat) (ps : List Piece) (go : State → EngOut) : EngOut :=
  match heldAt s (copySender core ch) (piecesDecks s core ps) with
  | [] => go (dropHeld s (copySender core ch))
  | ds => .idle (noteHeld s (copySender core ch) ds)

/-- The n bytes that a fill writes at its aligned destination. -/
def fillBytes (e v n : Nat) : Nat := packElems (8 * e) (List.replicate (n / e) (v % 256 ^ e))

/-- dst + src of one element of a reduce-add (R284), with flags. -/
def reduceElem (etype d x : Nat) : FRes :=
  if etype = 3 then plain0 ((d + x) % 2 ^ 32) else if etype = 4 then plain0 ((d + x) % 2 ^ 64)
  else
    let f := fmtOf etype 0
    let v := addV Mode.rne (decodeF f d) (decodeF f x)
    let r := roundTo f Mode.rne false v.val
    { r with flags := r.flags ||| v.flags }
where
  /-- A result without a flag. -/
  plain0 (n : Nat) : FRes := { bits := n, flags := 0 }

/-- The n bytes of a reduce-add. -/
def reduceBytes (etype n d x : Nat) : FRes :=
  let w := 8 * copyElem etype
  let rs := (List.range (8 * n / w)).map (fun i => reduceElem etype (elemOf w d i) (elemOf w x i))
  { bits := packElems w (rs.map (fun (r : FRes) => r.bits)), flags := rs.foldl (fun (b : Byte) r => b ||| r.flags) 0 }

/-- The core that reads a source: in a gather the row's owner, which the engine consults (R261, R284). -/
def sourceCore (s : State) (core : Nat) (j : Job) (src : Nat) : Except Byte Nat := if j.kind = 2 then destCore s core src else .ok core

/-- One piece of a job, at its delivery offset, from a source to a destination, and the flags it raises. -/
def copyPiece (s : State) (core : Nat) (j : Job) (off src dst n : Nat) : EngOut × Byte :=
  let reads : List (Nat × Nat) := if j.kind = 4 then [] else sectorsOf src n (n + 1)
  match sourceCore s core j src, engPieces s core .read reads with
  | .error c, _ => (.fault c (.ofNat 64 src) off, 0)
  | _, .error e => (.fault e.1 e.2 off, 0)
  | .ok reader, .ok rs =>
    match (if j.kind = 5 then engPieces s core .read (sectorsOf dst n (n + 1)) else .ok []), engPieces s core .write (sectorsOf dst n (n + 1)) with
    | .error e, _ => (.fault e.1 e.2 off, 0)
    | _, .error e => (.fault e.1 e.2 off, 0)
    | .ok ds, .ok ws =>
      let x := readPieces s.mem rs
      let r : FRes := if j.kind = 4 then { bits := fillBytes (copyElem j.etype) j.w1.toNat n, flags := 0 }
        else if j.kind = 5 then reduceBytes j.etype n (readPieces s.mem ds) x
        else { bits := x, flags := 0 }
      (engAccess s core j.channel (rs ++ ws) (fun s =>
        let s1 := countPieces (countPieces (countPieces s reader false rs) core false ds) core true ws
        .done (dropTags (writePieces s1 ws r.bits) ws)), r.flags)

/-- Pieces of one sector of the destination. -/
def copyPieces (s : State) (core : Nat) (j : Job) : Byte → List CopyPiece → EngOut × Byte
  | fl, [] => (.done s, fl)
  | fl, p :: r =>
    match copyPiece s core j p.off p.src p.dst p.n with
    | (.done s1, f) => copyPieces s1 core j (fl ||| f) r
    | x => x

/-- The mark of a poisoned sector goes where the pieces cover the whole sector (R265). -/
def clearCovered (s : State) (core : Nat) (ps : List CopyPiece) : State :=
  match ps with
  | [] => s
  | p :: _ =>
    let base := p.dst / 32 * 32
    if (List.range 32).all (fun i => ps.any (fun (q : CopyPiece) => q.dst ≤ base + i && base + i < q.dst + q.n)) then
      (match translate s (.core core) base 32 .write with | .ok h => { s with poison := clearPoison s.poison h.loc 32 } | .error _ => s)
    else s

/-- They are written together: where one is held or faults, none is written, and the channel takes its place at the boundary that
holds it (R268, R415; log 63). -/
def copyRun (s : State) (core : Nat) (j : Job) (ps : List CopyPiece) : EngOut × Byte :=
  match copyPieces s core j 0 ps with
  | (.idle s1, fl) =>
    let h := copySender core j.channel
    (.idle (match s1.crossing.find? (fun e => e.1 = h) with | some e => noteHeld s h e.2 | none => s), fl)
  | (.done s1, fl) => (.done (clearCovered s1 core ps), fl)
  | x => x

/-! ## The life of a job -/

/-- The engine-fault record, kind 6, to the REPRING of the launch's queue (R393). -/
def engineRecord (s : State) (l : Nat) (engine ch : Nat) (cause : Byte) (va w0 : Word) : State :=
  match s.launch l with
  | some la =>
    ringPost s (ringKey (qCtx s la.qsb) (qRepring s la.qsb))
      (.ofNat 256 (6 + recAt 2 engine + recAt 3 ch + recAt 4 cause.toNat + recAt 8 la.hdr.tag.toNat + recAt 16 va.toNat
        + recAt 24 w0.toNat))
  | none => s

/-- A job ends by a fault (R286): its entry is released, its group faults. No rule gives TVAL (log 14). -/
def failJob (s : State) (core i : Nat) (j : Job) (inner : Nat) : State :=
  groupFault (dropJob s core i) j.launch j.stage (asyncFault Cause.cpyFault inner (Config.openTval s.fresh) core j.w0)

/-- A fault met by a job at a delivery offset: a translation fault suspends it, every other ends it (R286, R393). A retry whose
access meets one again leaves the record that there is; where that access succeeds and another meets one, that is a new record. -/
def jobFault (s : State) (core i : Nat) (j : Job) (cause : Byte) (va : Word) (off : Nat) : State :=
  if cause.toNat / 32 = 4 then
    let now := s.reft.toNat
    match j.susp.filter (fun x => x.va = va) with
    | some x => setJob s core i { j with susp := some { x with cause := cause, off := off, lastTry := now, due := false } }
    | none =>
      engineRecord
        (setJob s core i { j with susp := some { cause := cause, va := va, since := now, lastTry := now, off := off, due := false } })
        j.launch 0 j.channel cause va j.w0
  else failJob s core i j cause.toNat

/-- A strand whose count is reached goes back into the rotation (R280). -/
def wakeCount (n : Word) (ch : Nat) (t : Strand) : Strand :=
  match t.wait with
  | .cpwait (.cpwait _ b c) => if c.toNat = ch ∧ t.readX b ≤ n then { t with wait := .none, exempt := true } else t
  | _ => t

/-- CPWP of a channel advances by n bytes. -/
def advanceCount (s : State) (core ch n : Nat) : State :=
  let c := s.core core
  let v := Vector.nth (n := 3) c.cpwp ch + .ofNat 64 n
  mapStrands (s.setCore core { c with cpwp := Vector.upd c.cpwp ch v }) (wakeCount v ch) ((List.range 16).map (fun i => core * 16 + i))

/-- Delivery passes over the rows of a gather that arrived before their turn. -/
def passRows (rb : Nat) (j : Job) : Nat → Job
  | 0 => j
  | k + 1 =>
    if j.done % rb = 0 ∧ j.rows.contains (j.done / rb) then
      passRows rb { j with done := j.done + rb, rows := j.rows.filter (fun r => r ≠ j.done / rb) } k
    else j

/-- The job after more bytes delivered, and its channel's count; a job that outlives its launch leaves the count of the next one
alone (R391). -/
def deliver (s : State) (core i : Nat) (j : Job) (flags : Byte) : State :=
  let rb := match j.kind, j.block with | 2, some b => blkRowb b | _, _ => 1
  let j1 : Job := if j.kind = 2 then (let p := passRows rb j j.rows.length; { p with rows := p.rows.filter (fun r => p.done ≤ r * rb) }) else j
  let old := ((s.core core).jobs[i]?.map (fun x => x.done)).getD 0
  let s1 := setJob s core i { j1 with flags := j1.flags ||| flags, susp := none }
  if (s.core core).launch = some j.launch then advanceCount s1 core j.channel (j1.done - old) else s1

/-- The parameter block is read when the request reaches the head of its channel (R276). -/
def readBlock (s : State) (core i : Nat) (j : Job) : State :=
  match engPieces s core .read (sectorsOf j.w3.toNat 64 3) with
  | .error e => jobFault s core i j e.1 e.2 0
  | .ok ps =>
    match engAccess s core j.channel ps .done with
    | .done s1 =>
      let b : V512 := .ofNat 512 (readPieces s.mem ps)
      if blockBad j b then failJob s1 core i j 0xFFFF
      else setJob (countPieces s1 core false ps) core i { j with block := some b, susp := none }
    | .idle s1 => s1
    | .fault c va off => jobFault s core i j c va off

/-- The job starts, and reads its index list (R278, R284). -/
def startJob (s : State) (core i : Nat) (j : Job) : State :=
  let n := match j.block with | some b => if j.kind = 2 ∨ j.kind = 3 then blkCount b else 0 | none => 0
  let va := match j.block with | some b => blkIdx b | none => 0
  match engPieces s core .read (sectorsOf va (4 * n) (4 * n + 1)) with
  | .error e => jobFault s core i j e.1 e.2 0
  | .ok ps =>
    match engAccess s core j.channel ps .done with
    | .done s1 =>
      setJob (countPieces s1 core false ps) core i
        { j with started := true, idx := (List.range n).map (elemOf 32 (readPieces s.mem ps)), susp := none }
    | .idle s1 => s1
    | .fault c va off => jobFault s core i j c va off

/-- The job delivers the bytes that follow in delivery order within one sector of its destination. -/
def transferJob (s : State) (core i : Nat) (j : Job) : State :=
  if badIndex j j.done then failJob s core i j 0xFFFF
  else
    let run := j.nextRun j.done
    match copyRun s core j run with
    | (.idle s1, _) => s1
    | (.fault c va off, _) => jobFault s core i j c va off
    | (.done s1, fl) => deliver s1 core i { j with done := runEnd j.done run } fl

/-- The pieces of row r of a gather from offset o on. -/
def Job.rowFrom (j : Job) (r rb : Nat) : Nat → Nat → List CopyPiece
  | 0, _ => []
  | k + 1, o =>
    if rb ≤ o then []
    else
      let p := j.piece (r * rb + o)
      { off := r * rb + o, src := p.1, dst := p.2.1, n := p.2.2 } :: Job.rowFrom j r rb k (o + p.2.2)

/-- Pieces one after another, those that share a sector of the destination together. -/
def bySector : List CopyPiece → List (List CopyPiece)
  | [] => []
  | p :: r =>
    match bySector r with
    | (q :: g) :: gs => if p.dst / 32 = q.dst / 32 then (p :: q :: g) :: gs else [p] :: (q :: g) :: gs
    | gs => [p] :: gs

/-- Rows of a gather arrive, a sector of the destination at a time, until one is held or faults. A row has arrived with its last
piece. -/
def arriveRuns (s : State) (core i rb : Nat) : List (List CopyPiece) → State
  | [] => s
  | g :: gs =>
    match (s.core core).jobs[i]? with
    | none => s
    | some j =>
      match copyRun s core j g with
      | (.idle s1, _) => s1
      | (.fault c va off, _) => jobFault s core i j c va off
      | (.done s1, _) =>
        let whole := g.filterMap (fun p => if (p.off + p.n) % rb = 0 then some (p.off / rb) else none)
        arriveRuns (if whole.isEmpty then s1 else deliver s1 core i { j with rows := j.rows ++ whole } 0) core i rb gs

/-- Rows of one owner arrive whole, ahead of their turn or in it, those that share a sector together (R268, R284; log 63). -/
def arriveRows (s : State) (core i : Nat) (j : Job) (rb : Nat) (rows : List Nat) : State :=
  let good := rows.takeWhile (fun r => !(badIndex j (r * rb)))
  let s1 := arriveRuns s core i rb (bySector (good.flatMap (fun r => j.rowFrom r rb rb 0)))
  match (s1.core core).jobs[i]? with
  | some j1 =>
    if good.length < rows.length && j1.susp.isNone && good.all (fun r => j1.rows.contains r || r * rb < j1.done) then failJob s1 core i j1 0xFFFF
    else s1
  | none => s1

/-- Whether the job at place i may start: its block is read and no earlier job of the core conflicts (R274). -/
def mayStart (s : State) (core i : Nat) (j : Job) : Bool :=
  !j.started && !j.blockPending && !((s.core core).jobs.take i).any (jobConflict core j)

/-- The next thing a job of a channel's head does. A retry makes the suspended access again: that of a row which was arriving from
its owner lies behind the next transfer (R393). -/
def jobStep (s : State) (core i : Nat) (j : Job) : State :=
  if j.blockPending then readBlock s core i j
  else if !j.started then (if mayStart s core i j then startJob s core i j else s)
  else match j.susp, j.block with
    | some x, some b =>
      let r := x.off / max 1 (blkRowb b)
      if j.kind = 2 && runEnd j.done (j.nextRun j.done) ≤ x.off then arriveRows s core i j (blkRowb b) [r] else transferJob s core i j
    | _, _ => if j.done < j.total then transferJob s core i j else s

/-! ## Events -/

/-- Whether a core has taken its edge, after which its engine moves no suspended job on (R419). -/
def coreFrozen (s : State) (core : Nat) : Bool :=
  match s.ctx (ctxOf core) with | some c => edged s c.part (.core (s.phys core)) | none => false

/-- An event of a channel acts on the channel's first job, unless that is suspended or the core frozen. Jobs committed before their
deck is power-gated or leaves the compute role run on (R31, R88; DEDUCED, log 72). -/
def onHead (core : Nat) (ch : BitVec 2) (s : State) (f : Nat → Job → State) : Res :=
  match headJob ch.toNat 0 (s.core core).jobs with
  | some (i, j) => .next (if j.susp.isNone && !(coreFrozen s core) then f i j else s)
  | none => .next s

/-- PARAMETER_BLOCK_READ (R276). -/
def execParameterBlockRead (core : Nat) (ch : BitVec 2) (s : State) : Res :=
  onHead core ch s (fun i j => if j.blockPending then readBlock s core i j else s)

/-- COPY_JOB_START (R274, R278). -/
def execCopyJobStart (core : Nat) (ch : BitVec 2) (s : State) : Res :=
  onHead core ch s (fun i j => if mayStart s core i j then startJob s core i j else s)

/-- COPY_TRANSFER (R278). -/
def execCopyTransfer (core : Nat) (ch : BitVec 2) (s : State) : Res :=
  onHead core ch s (fun i j => if j.started && j.done < j.total then transferJob s core i j else s)

/-- The owner of a row; a row whose owner cannot be consulted faults as one of the asking engine. -/
def rowOwner (s : State) (core : Nat) (j : Job) (r rb : Nat) : Nat :=
  match sourceCore s core j (j.piece (r * rb)).1 with | .ok k => k | .error _ => core

/-- The rows of one owner that have still to arrive, in index order. -/
def ownerRows (s : State) (core : Nat) (j : Job) (owner rb count : Nat) : List Nat :=
  (List.range count).filter (fun r => rowOwner s core j r rb = owner && !(j.rows.contains r) && j.done ≤ r * rb)

/-- GATHER_ROWS_ARRIVE (R284). -/
def execGatherRowsArrive (core : Nat) (ch : BitVec 2) (owner : Nat) (s : State) : Res :=
  onHead core ch s (fun i j =>
    match j.kind, j.block with
    | 2, some b => if j.started then arriveRows s core i j (blkRowb b) (ownerRows s core j owner (blkRowb b) (blkCount b)) else s
    | _, _ => s)

/-- The counter that a job's completion decrements (R155, R279). -/
def jobDecr (core : Nat) (j : Job) : Decr :=
  let r := fld j.w0.toNat 32 20
  { id := 0, src := core, core := if fld r 19 1 = 1 then core else coreKey (ctxOf core) (fld r 8 6) (fld r 14 5)
    c := r % 256, amount := 1, launch := j.launch, stage := j.stage }

/-- COPY_JOB_COMPLETE (R279, R284): the decrement is sent and flags go to the strand that pushed the job. -/
def execCopyJobComplete (core : Nat) (ch : BitVec 2) (s : State) : Res :=
  onHead core ch s (fun i j =>
    if j.started && j.total ≤ j.done then
      let s1 := dropJob s core i
      let k := core * 16 + j.slot
      let t := s1.strand k
      let s2 := if t.active && !t.idle && s1.groupOf k = some (j.launch, j.stage) then setFlags s1 k j.flags else s1
      if j.noctr then s2 else s2.sendDecr (jobDecr core j)
    else s)

/-- Ticks after which a suspended access is tried again, and after which its fault ends it (R393). -/
def retryTicks : Nat := 10 ^ 6
def expiryTicks : Nat := 10 ^ 9

/-- Whether a suspended access is due for a try, or has expired. -/
def Susp.retryDue (x : Susp) (now : Nat) : Bool := x.due || x.lastTry + retryTicks ≤ now
def Susp.expired (x : Susp) (now : Nat) : Bool := x.since + expiryTicks ≤ now

/-- A retry of a copy job's access; a frozen engine makes none. -/
def retryCopy (core : Nat) (ch : BitVec 2) (s : State) : State :=
  match headJob ch.toNat 0 (s.core core).jobs with
  | some (i, j) =>
    (match j.susp with
    | some x => if x.retryDue s.reft.toNat && !(coreFrozen s core) then jobStep s core i j else s
    | none => s)
  | none => s

/-- The end of a copy job whose fault has persisted: a last try of its access meets one again. A try that does not lets the job go on,
perhaps to another fault with a record of its own, and one that a boundary holds decides nothing. -/
def expireCopy (core : Nat) (ch : BitVec 2) (s : State) : State :=
  match headJob ch.toNat 0 (s.core core).jobs with
  | some (i, j) =>
    (match j.susp with
    | some x =>
      if x.expired s.reft.toNat && !(coreFrozen s core) then
        let s1 := jobStep s core i j
        match ((s1.core core).jobs[i]?).bind (fun j1 => j1.susp) with
        | some y =>
          if y.lastTry = s.reft.toNat && y.since = x.since && (s1.core core).jobs.length = (s.core core).jobs.length then failJob s core i j y.cause.toNat
          else s1
        | none => s1
      else s
    | none => s)
  | none => s

end Sys2Proof.Machine
end

