-- ==== Sys2Proof/Machine/Lanes.lean ====
section
/-!
DEFINITION. One lane of the elementwise instructions, of VCVT, VSCALE and VDOT, and the reductions (R183, R193, R217 to
R224). An element is a natural number below 2^w; a lane answers a pattern and flags.
-/

namespace Sys2Proof.Machine

/-! ## Integer elements (R182, R183, R218) -/

/-- An element of width w read with a sign. -/
def intElem (w : Nat) (sg : Bool) (n : Nat) : Int := if sg && 2 ^ (w - 1) ≤ n then (n : Int) - 2 ^ w else n

/-- The smallest and the largest value of an integer type. -/
def intMin (w : Nat) (sg : Bool) : Int := if sg then -(2 ^ (w - 1)) else 0
def intMax (w : Nat) (sg : Bool) : Int := if sg then 2 ^ (w - 1) - 1 else 2 ^ w - 1

/-- A result reduced to an integer type: the low bits, or saturated (R183). -/
def intReduce (w : Nat) (sg sat : Bool) (x : Int) : Nat :=
  ((if sat then max (intMin w sg) (min (intMax w sg) x) else x) % 2 ^ w).toNat

/-- log2 of a container width. -/
def lgWidth (w : Nat) : Nat := Nat.log2 w

/-- The integer operations of n0: exact on operands read with their own signs (R217, R218). -/
def intOp (op : VOp) (w : Nat) (f : V64) (a b c : Nat) : Nat :=
  let dsg := f.sgnA || f.sgnB
  let x := intElem w f.sgnA a
  let y := intElem w f.sgnB b
  let z := intElem w dsg c
  let k := b % 2 ^ lgWidth w
  let red := intReduce w dsg f.sat
  match op with
  | .vadd => red (x + y)
  | .vsub => red (x - y)
  | .vmul => red (x * y)
  | .vfma => red (x * y + z)
  | .vfms => red (x * y - z)
  | .vdiv => if y = 0 then 2 ^ w - 1 else red (Int.tdiv x y)
  | .vmin => red (min x y)
  | .vmax => red (max x y)
  | .vabs => red x.natAbs
  | .vneg => red (-x)
  | .vshl => red (x * 2 ^ k)
  | .vshr => red (a / 2 ^ k : Nat)
  | .vsar => red (intElem w true a / 2 ^ k)
  | .vclamp => red (min (max x y) z)
  | _ => 0

/-- The bitwise operations of n0. -/
def bitOp (op : VOp) (w a b : Nat) : Nat :=
  match op with
  | .vand => a &&& b
  | .vor => a ||| b
  | .vxor => a ^^^ b
  | .vandn => a &&& (2 ^ w - 1 - b)
  | _ => 0

/-! ## Floating elements (R219) -/

/-- VABS and VNEG on a pattern: only the sign bit changes, a NaN keeps its bits, with the narrow cases of R219. -/
def signOp (neg : Bool) (f : Fmt) (m : Mode) (sat : Bool) (p : Nat) : FRes :=
  let p := p % 2 ^ f.bits
  let sb := 2 ^ (f.man + f.exp)
  let v := decodeF f p
  if v.isNan then { bits := p, flags := 0 }
  else if f.sign = 0 then
    (if neg then { bits := 0, flags := if p = 0 then 0 else fNV } else { bits := p, flags := 0 })
  else if !neg then { bits := p % sb, flags := 0 }
  else if f.mode = .onenan && p = sb - 1 then roundTo f m sat v.negate
  else { bits := (p + sb) % (2 * sb), flags := 0 }

/-- The floating and narrow operations of n0: exact, then rounded once into the format of operand a (R219). -/
def floatOp (op : VOp) (fa fb : Fmt) (m : Mode) (sat : Bool) (a b c : Nat) : FRes :=
  let x := readF fa m a
  let y := readF fb m b
  let z := readF fa m c
  let fin (mode : Mode) (v : VRes) : FRes := let r := roundTo fa mode sat v.val; { r with flags := r.flags ||| v.flags }
  match op with
  | .vadd => fin m (addV m x y)
  | .vsub => fin m (addV m x y.negate)
  | .vmul => fin m (mulV x y)
  | .vfma => fin m (fmaV m x y z)
  | .vfms => fin m (fmaV m x y z.negate)
  | .vdiv => fin m (divV x y)
  | .vmin => fin m (minMaxV false x y)
  | .vmax => fin m (minMaxV true x y)
  | .vclamp =>
    let u := minMaxV true x y
    let t := minMaxV false u.val z
    fin m { t with flags := u.flags ||| t.flags }
  | .vabs => signOp false fa m sat a
  | .vneg => signOp true fa m sat a
  | _ => { bits := 0, flags := 0 }

/-! ## Comparison (R108, R220) -/

def cmpInt (cc : Nat) (x y : Int) : Bool :=
  if cc = 0 then x = y else if cc = 1 then x ≠ y else if cc = 2 then x < y else if cc = 3 then x ≤ y
  else if cc = 4 then y < x else y ≤ x

/-- The conditions of VCMP on floating values, with NV. -/
def cmpFloat (cc : Nat) (x y : Val) : Bool × Byte :=
  let un := x.isNan || y.isNan
  let sn := nvIf (x.isSnan || y.isSnan)
  if cc = 0 then (eqV x y, sn) else if cc = 1 then (un || !(eqV x y), sn)
  else if cc = 2 then (!un && ltV x y, nvIf un) else if cc = 3 then (!un && !(ltV y x), nvIf un)
  else if cc = 4 then (!un && ltV y x, nvIf un) else if cc = 5 then (!un && !(ltV x y), nvIf un)
  else if cc = 6 then (un, sn) else (!un, sn)

/-! ## Conversion (R192, R221) -/

/-- One VCVT lane: source type e, format fs, sign; destination type dt, format fd, sign, width. -/
def convLane (e : Nat) (fs : Fmt) (sgS : Bool) (ws dt : Nat) (fd : Fmt) (sgD : Bool) (wd : Nat) (m : Mode) (sat : Bool)
    (p : Nat) : FRes :=
  if isInt e then
    let x := intElem ws sgS p
    if isInt dt then { bits := intReduce wd sgD sat x, flags := 0 } else roundTo fd m sat (intVal x)
  else if isInt dt then
    let r := floatToInt m.rm (intMin wd sgD) (intMax wd sgD) (readF fs m p)
    { bits := (r.1 % 2 ^ wd).toNat, flags := r.2 }
  else convert fs fd m sat p

/-! ## Sums (R193) -/

/-- A rounded addition of two values into a format: the sum and its flags. -/
def roundAdd (f : Fmt) (m : Mode) (a b : Val × Byte) : Val × Byte :=
  let v := addV m a.1 b.1
  let r := roundTo f m false v.val
  (decodeF f r.bits, a.2 ||| b.2 ||| v.flags ||| r.flags)

/-- One level of the pairwise tree. -/
def pairUp {α : Type} (f : α → α → α) : List α → List α
  | a :: b :: r => f a b :: pairUp f r
  | l => l

/-- The pairwise tree over at most 2^levels values. -/
def treeSum {α : Type} (f : α → α → α) (d : α) : Nat → List α → α
  | 0, l => l.headD d
  | n + 1, l => treeSum f d n (pairUp f l)

/-- The binary pattern of a value that a format holds exactly. -/
def exactBits (f : Fmt) (v : Val) : Nat := (roundTo f Mode.rne false v).bits

/-! ## VSCALE and VDOT (R222, R223) -/

def scaleLane (m : Mode) (old a sb sc : Nat) : FRes :=
  let p := applyScales (readF fp32 m a) [sb % 512, sc % 512]
  let d := readF fp32 m old
  let v := addV m d p.val
  let r := roundTo fp32 m false v.val
  { r with flags := r.flags ||| p.flags ||| v.flags }

/-- One VDOT lane: the r source elements of a and b, and c. -/
def dotInt (w : Nat) (f : V64) (as bs : List Nat) (c : Nat) : Nat :=
  let ps := (as.zip bs).map (fun (p : Nat × Nat) => intElem w f.sgnA p.1 * intElem w f.sgnB p.2)
  intReduce 32 true f.sat (ps.foldl (· + ·) (intElem 32 true c))

/-- One VDOT lane of a float type. Each sum of the tree is a rounded result, so that FR flushes it, as R193 says of VRED's (DEDUCED, log
26). -/
def dotFloat (fa fb : Fmt) (m : Mode) (as bs : List Nat) (c : Nat) : FRes :=
  let ps := (as.zip bs).map (fun (p : Nat × Nat) => let v := mulV (readF fa m p.1) (readF fb m p.2); (v.val, v.flags))
  let t := treeSum (roundAdd fp32 m) (.zero false, 0) 3 ps
  let r := roundAdd fp32 m t (readF fp32 m c, 0)
  { bits := (if r.1.isNan then 0x7FC00000 else exactBits fp32 r.1), flags := r.2 }

/-! ## VRED (R224) -/

/-- The identity of a reduction: operation c, type e of width w. -/
def redIdentity (c e w : Nat) (sg : Bool) (f : Fmt) : Nat :=
  if c = 0 then (if isInt e then 0 else 2 ^ (w - 1))
  else if c = 1 then (if isInt e then (intMin w sg % 2 ^ w).toNat else infPattern f true)
  else if c = 2 then (if isInt e then (intMax w sg % 2 ^ w).toNat else infPattern f false)
  else if c = 3 then 2 ^ w - 1 else 0

/-- Combine two integer or bit patterns. -/
def redInt (c w : Nat) (sg : Bool) (a b : Nat) : Nat :=
  if c = 0 then (a + b) % 2 ^ w
  else if c = 1 then (if intElem w sg a < intElem w sg b then b else a)
  else if c = 2 then (if intElem w sg b < intElem w sg a then b else a)
  else if c = 3 then a &&& b else if c = 4 then a ||| b else a ^^^ b

/-- A sum as the source of the next addition, which has FS too (R193). -/
def reread (f : Fmt) (m : Mode) (v : Val × Byte) : Val × Byte :=
  match v.1 with
  | .fin _ _ _ => (if m.fs && f.flushes then readF f m (exactBits f v.1) else v.1, v.2)
  | _ => v

/-- Combine two floating values. -/
def redFloat (c : Nat) (f : Fmt) (m : Mode) (a b : Val × Byte) : Val × Byte :=
  if c = 0 then roundAdd f m (reread f m a) (reread f m b)
  else let v := minMaxV (c = 1) a.1 b.1; (v.val, a.2 ||| b.2 ||| v.flags)

/-- The result of VREDMAX or VREDMIN: flushed under FR as every result is (R190; log 13). -/
def redFinal (c e : Nat) (f : Fmt) (m : Mode) (r : FRes) : FRes :=
  if isFloat e && (c = 1 || c = 2) then
    match decodeF f r.bits with
    | .nan _ => r
    | v => let q := roundTo f m false v; { q with flags := q.flags ||| r.flags }
  else r

/-- The pattern of a floating value that the format holds, a NaN canonical. -/
def floatBits (f : Fmt) (v : Val) : Nat := if v.isNan then (canonNan f 0).bits else exactBits f v

/-- One beat of VRED: the elements, inactive ones replaced by the identity, reduced by the tree. -/
def redBeat (c e w : Nat) (sg : Bool) (f : Fmt) (m : Mode) (xs : List Nat) : FRes :=
  if isFloat e then
    let r := treeSum (redFloat c f m) (.zero false, 0) 9 (xs.map (fun (x : Nat) => (readF f m x, (0 : Byte))))
    { bits := floatBits f r.1, flags := r.2 }
  else { bits := treeSum (redInt c w sg) 0 9 xs, flags := 0 }

/-- A beat's result combined with the result of the beats before it. -/
def redJoin (c e w : Nat) (sg : Bool) (f : Fmt) (m : Mode) (acc x : Nat) : FRes :=
  if isFloat e then
    let r := redFloat c f m (decodeF f acc, 0) (decodeF f x, 0)
    { bits := floatBits f r.1, flags := r.2 }
  else { bits := redInt c w sg acc x, flags := 0 }

/-! ## VARGMAX (R225) -/

/-- One lane of VARGMAX: the running (v, x) as patterns, an element of format f with index k. FS acts on the element and not on
the running v, and FR does not act on the v that is written (log 13). -/
def argmaxLane (f : Fmt) (m : Mode) (k : Nat) (st : Nat × Nat × Byte) (e : Nat) : Nat × Nat × Byte :=
  let y := readF f m e
  let v := decodeF fp32 st.1
  if y.isNan then (st.1, st.2.1, st.2.2 ||| nvIf y.isSnan)
  else if ltV v y || (eqV y v && k < st.2.1) || v.isNan then (exactBits fp32 y, k, st.2.2)
  else st

end Sys2Proof.Machine
end

