-- ==== Sys2Proof/Machine/Special.lean ====
section
/-!
DEFINITION. The special functions of n4 (R228, R229) and the noise G (R348). A result outside the exact cases is any
binary32 value within the bound: the functions are computed as rationals far closer than the bound needs, the values
within the bound form an interval of patterns, and a free value picks one (Config.pick, log 7).
-/

namespace Sys2Proof.Machine

/-! ## Rational approximations with 320 fraction bits -/

/-- One in fixed point. -/
def fxOne : Nat := 2 ^ 320

/-- Sum of fxOne / (k * 2^k) for k from n down to 1: ln 2. -/
def ln2Sum : Nat → Nat
  | 0 => 0
  | k + 1 => fxOne / ((k + 1) * 2 ^ (k + 1)) + ln2Sum k
def fxLn2 : Nat := ln2Sum 340

/-- Sum of the terms of an alternating arctangent series of 1 / x. -/
def atanSum (x : Nat) : Nat → Int
  | 0 => 0
  | k + 1 => (if k % 2 = 0 then (1 : Int) else -1) * (fxOne / ((2 * k + 1) * x ^ (2 * k + 1)) : Nat) + atanSum x k
/-- π. -/
def fxPi : Int := 16 * atanSum 5 75 - 4 * atanSum 239 25

/-- Taylor terms from term k: e^y for 0 ≤ y < 1. -/
def expTerms (y term k : Nat) : Nat → Nat
  | 0 => 0
  | n + 1 => term + expTerms y (term * y / fxOne / k) (k + 1) n
/-- 2^r for a fraction r. -/
def fxExp2 (r : Nat) : Nat := expTerms (r * fxLn2 / fxOne) fxOne 1 80

/-- Odd powers of z over their exponents. -/
def atanhTerms (z2 p k : Nat) : Nat → Nat
  | 0 => 0
  | n + 1 => p / k + atanhTerms z2 (p * z2 / fxOne) (k + 2) n
/-- ln(num / den) for num > 0. -/
def fxLn (num den : Nat) : Int :=
  let n := ratLog num den
  let m := (unitDiv (num * fxOne) den n).1
  let z := (m - fxOne) * fxOne / (m + fxOne)
  n * fxLn2 + 2 * atanhTerms (z * z / fxOne) z 1 110

/-- Alternating Taylor terms of sine (from term x, k = 1) and cosine (from term 1, k = 0). -/
def trigTerms (x2 term k : Nat) : Nat → Int
  | 0 => 0
  | n + 1 => (term : Int) - trigTerms x2 (term * x2 / fxOne / ((k + 1) * (k + 2))) (k + 2) n
/-- sin(2πr) for a fraction r of a turn. -/
def fxSin (r : Nat) : Int :=
  let q := 4 * r / fxOne
  let x := ((r - q * fxOne / 4) * 2 * fxPi.toNat) / fxOne
  let x2 := x * x / fxOne
  let s := trigTerms x2 x 1 60
  let c := trigTerms x2 fxOne 0 60
  if q = 0 then s else if q = 1 then c else if q = 2 then -s else -c

/-! ## Picking a value within a bound -/

/-- Patterns of binary32 in the order of their values, −0 before +0. -/
def ordOf (p : Nat) : Int := if p < 2 ^ 31 then p else -((p - 2 ^ 31 : Nat) : Int) - 1
def ordInv (i : Int) : Nat := if 0 ≤ i then i.toNat else 2 ^ 31 + (-(i + 1)).toNat

/-- A rational as a value. -/
def ratVal (num : Int) (den : Nat) : Val := .fin (decide (num < 0)) num.natAbs den

/-- The pick of function `id` at operand x among the binary32 values within bn / bd of num / den. -/
def pickNear (id x : Nat) (num : Int) (den bn bd : Nat) : Nat :=
  let md (r : RMode) : Mode := { rm := r, fs := false, fr := false }
  let lo := ordOf (roundTo fp32 (md .rup) false (ratVal (num * bd - bn * den) (den * bd))).bits
  let hi := ordOf (roundTo fp32 (md .rdn) false (ratVal (num * bd + bn * den) (den * bd))).bits
  ordInv (lo + (Config.pick id x : Int) % (hi - lo + 1))

/-- The larger of n units in the last place of num / den and 2^-abs, as a fraction. -/
def ulpBound (n : Nat) (abs : Option Nat) (num : Int) (den : Nat) : Nat × Nat :=
  let e : Int := if num = 0 then -126 else max (-126) (ratLog num.natAbs den)
  let u : Nat × Nat := if 23 ≤ e then (n * 2 ^ (e - 23).toNat, 1) else (n, 2 ^ (23 - e).toNat)
  match abs with
  | some a => if u.1 * 2 ^ a < u.2 then (1, 2 ^ a) else u
  | none => u

/-- A binary32 result with its flags: NX and UF where it is not exact, then FR (R190, R191, R228). -/
def finish32 (m : Mode) (exact : Bool) (bits : Nat) : FRes :=
  let tiny := bits % 2 ^ 31 ≠ 0 ∧ bits % 2 ^ 31 < 2 ^ 23
  if m.fr ∧ tiny then { bits := bits / 2 ^ 31 * 2 ^ 31, flags := fUF ||| fNX }
  else { bits := bits, flags := (if exact then 0 else fNX) ||| (if !exact ∧ tiny then fUF else 0) }

/-- An inexact result near num / den: a pick within the bound. Beyond the largest finite value, R188 decides for VEXP2; for VRCP no
rule does, and the result is the largest finite value or infinity, whatever the mode (log 26). -/
def near32 (m : Mode) (id x : Nat) (num : Int) (den : Nat) (b : Nat × Nat) : FRes :=
  if decide (num.natAbs > den * (2 ^ 128 - 2 ^ 104)) then
    (if id = 0 then roundTo fp32 m false (ratVal num den)
     else { bits := signBit fp32 (decide (num < 0)) + (if Config.pick id x % 2 = 0 then 0x7F7FFFFF else 0x7F800000)
            flags := fOF ||| fNX })
  else finish32 m false (pickNear id x num den b.1 b.2)

def exact32 (m : Mode) (v : Val) : FRes := finish32 m true (exactBits fp32 v)
def nan32 (flags : Byte) : FRes := { bits := 0x7FC00000, flags := flags }

/-! ## The functions (R228, R229) -/

/-- num / den rounded down to an integer, and the fraction in fixed point. -/
def floorFrac (neg : Bool) (num den : Nat) : Int × Nat :=
  let x : Int := if neg then -(num : Int) else num
  (x / den, ((x % den) * fxOne / den).toNat)

/-- Whether num / den is a power of two; its exponent is ratLog. -/
def isPow2 (num den : Nat) : Bool :=
  let e := ratLog num den
  if 0 ≤ e then num = den * 2 ^ e.toNat else num * 2 ^ (-e).toNat = den

/-- 2^x for x = num / den, clamped where nothing changes within any bound, as a rational. -/
def ratExp2 (neg : Bool) (num den : Nat) : Int × Nat :=
  let (n, r) := if den * 1000 < num then (if neg then (-1000, 0) else (1000, 0)) else floorFrac neg num den
  if 0 ≤ n then (fxExp2 r * 2 ^ n.toNat, fxOne) else (fxExp2 r, fxOne * 2 ^ (-n).toNat)

/-- e^-y for a magnitude y = num / den, in fixed point: 2^(-y / ln 2). -/
def fxExpNeg (num den : Nat) : Nat :=
  let y := min (num * fxOne / den) (600 * fxOne)
  let p := ratExp2 true y fxLn2
  p.1.toNat * fxOne / p.2

/-- One lane of n4 in binary32: operation, mode, the source value and its pattern. -/
def special32 (op : VOp) (m : Mode) (v : Val) (x : Nat) : FRes :=
  match v with
  | .nan sig => nan32 (nvIf sig)
  | .inf neg =>
    (match op with
     | .vexp2 => exact32 m (if neg then .zero false else .inf false)
     | .vlog2 | .vsqrt => if neg then nan32 fNV else exact32 m (.inf false)
     | .vrcp => exact32 m (.zero neg)
     | .vrsqrt => if neg then nan32 fNV else exact32 m (.zero false)
     | .vtanh => exact32 m (.fin neg 1 1)
     | .vsigm => exact32 m (if neg then .zero false else .fin false 1 1)
     | _ => nan32 fNV)
  | .fin neg 0 _ =>
    (match op with
     | .vexp2 | .vcos => exact32 m (.fin false 1 1)
     | .vlog2 => { exact32 m (.inf true) with flags := fDZ }
     | .vrcp | .vrsqrt => { exact32 m (.inf neg) with flags := fDZ }
     | .vsigm => exact32 m (.fin false 1 2)
     | _ => exact32 m (.zero neg))
  | .fin neg num den =>
    let lg := ratLog num den
    let pow2 := isPow2 num den
    (match op with
     | .vexp2 =>
       let (n, r) := floorFrac neg num den
       let f := ratExp2 neg num den
       if r = 0 ∧ num % den = 0 ∧ -149 ≤ n ∧ n ≤ 127 then exact32 m (scaled false 1 n)
       else near32 m 0 x f.1 f.2 (ulpBound 1 none f.1 f.2)
     | .vlog2 =>
       if neg then nan32 fNV
       else if pow2 then exact32 m (intVal lg)
       else
         let f := fxLn num den * fxOne / fxLn2
         near32 m 1 x f fxOne (ulpBound 1 (some 22) f fxOne)
     | .vrcp =>
       if pow2 ∧ -127 ≤ lg ∧ lg ≤ 126 then exact32 m (scaled neg 1 (-lg))
       else
         let f : Int := if neg then -(den : Int) else den
         near32 m 2 x f num (ulpBound 1 none f num)
     | .vrsqrt =>
       if neg then nan32 fNV
       else if pow2 ∧ lg % 2 = 0 then exact32 m (scaled false 1 (-(lg / 2)))
       else
         let f := isqrt (den * 2 ^ 640 / num)
         near32 m 3 x f fxOne (ulpBound 1 none f fxOne)
     | .vsqrt => sqrtRes fp32 m v
     | .vsin =>
       if 2 * num % den = 0 then exact32 m (.zero false)
       else if 4 * num = den then exact32 m (.fin neg 1 1)
       else near32 m 5 x (fxSin (floorFrac neg num den).2) fxOne (1, 2 ^ 22)
     | .vcos =>
       if 2 * num % den = 0 then exact32 m (.fin (2 * num / den % 2 = 1) 1 1)
       else if 4 * num % den = 0 then exact32 m (.zero false)
       else near32 m 6 x (fxSin (((floorFrac neg num den).2 + fxOne / 4) % fxOne)) fxOne (1, 2 ^ 22)
     | .vtanh =>
       let e := fxExpNeg (2 * num) den
       let f : Int := ((fxOne - e) * fxOne / (fxOne + e) : Nat)
       let f := if neg then -f else f
       near32 m 7 x f fxOne (ulpBound 2 (some 24) f fxOne)
     | .vsigm =>
       let e := fxExpNeg num den
       let f : Int := ((if neg then e else fxOne) * fxOne / (fxOne + e) : Nat)
       near32 m 8 x f fxOne (ulpBound 2 (some 24) f fxOne)
     | _ => nan32 fNV)

/-- One lane of n4: fp16 and bf16 are widened exactly, and the binary32 result is rounded once to the type (R228). -/
def specialLane (op : VOp) (f : Fmt) (m : Mode) (p : Nat) : FRes :=
  let v := readF f m p
  let x := if v.isNan then p else exactBits fp32 v
  if f = fp32 then special32 op m v x
  else
    let r := special32 op { m with fr := false } v x
    let t := convert fp32 f { m with fs := false } false r.bits
    { bits := t.bits, flags := r.flags ||| t.flags }

/-! ## The inverse temperature (R347) -/

/-- τ of a captured SMPTEMP: a fault, a zero temperature (none), or its binary32 pattern and the flags of its rounding. -/
inductive InvTemp where
  | invalid
  | zero
  | tau (r : FRes)
  deriving DecidableEq, Repr

def invTemp (temp : Word) : InvTemp :=
  let c : Nat × Nat := if temp.getLsbD 32 then (fxLn2, fxOne) else (1, 1)
  match decodeF fp32 (fld temp.toNat 0 32) with
  | .nan _ => .invalid
  | .inf neg => if neg then .invalid else .tau { bits := 0, flags := 0 }
  | .fin neg num den =>
    if num = 0 then .zero
    else if neg then .invalid
    else if ltV (decodeF fp32 0x7F7FFFFF) (.fin false (c.1 * den) (c.2 * num)) then .zero
    else .tau (roundTo fp32 Mode.rne false (.fin false (c.1 * den) (c.2 * num)))

/-! ## The noise (R348) -/

/-- The hash of key, position and index. -/
def noiseHash (key pos : Word) (v : W32) : W32 :=
  [key.setWidth 32, key.extractLsb' 32 32, pos.setWidth 32, pos.extractLsb' 32 32, v].foldl
    (fun (h : W32) w => mix (h ^^^ w)) 0x243F6A88

/-- G(key, pos, v): a binary32 value within 2^-19 of −ln(−ln u), the same for the same arguments every time. -/
def noise (key pos : Word) (v : W32) : Nat :=
  let h := (noiseHash key pos v).toNat / 2 ^ 8
  -- u = (2h + 1) / 2^25
  let l := -(fxLn (2 * h + 1) (2 ^ 25))
  let g := -(fxLn l.toNat fxOne)
  pickNear 20 (key.toNat * 2 ^ 96 + pos.toNat * 2 ^ 32 + v.toNat) g fxOne 1 (2 ^ 19)

end Sys2Proof.Machine
end

