-- ==== Sys2Proof/Machine/Vector.lean ====
section
/-!
DEFINITION. How a vector instruction issues and how its beats run (R199, R205 to R213), the memory forms of n5 (R230 to
R232), the mask instructions of n6 (R233), the vector pipe (R68), the meanings of n0 to n7 and of the literal forms.
-/

namespace Sys2Proof.Machine

/-! ## Types and formats of an instruction -/

def VIns.etype (v : VIns) : Nat := v.f.etype.toNat
/-- Element type of the destination. -/
def VIns.dtype (v : VIns) : Nat := if v.op = .vcvt then v.f.c.toNat % 16 else v.etype

/-- Whether FMT[fmtB] is read: by VCVT for its destination, else where there is an operand b of the element type (R219). -/
def VIns.usesFmtB (v : VIns) : Bool :=
  match v.op with
  | .vcvt => v.dtype = 9
  | .vgather | .vscatter | .vscale | .vgumbel => false
  | op => v.etype = 9 && op.readsB

/-- FMT_INVALID (R181, R219). -/
def fmtFaults (c : Core) (v : VIns) : Option (Byte × Word) :=
  let wa := fmtWidth (c.fmtOf v.f.fmtA.toNat)
  let wb := fmtWidth (c.fmtOf v.f.fmtB.toNat)
  if v.etype = 9 && wa = none then some (Cause.fmtInvalid, v.f.fmtA.setWidth 64)
  else if v.usesFmtB && wb = none then some (Cause.fmtInvalid, v.f.fmtB.setWidth 64)
  else if v.usesFmtB && v.op ≠ .vcvt && wa ≠ wb then some (Cause.fmtInvalid, v.f.fmtB.setWidth 64)
  else none

/-- Container width of a type under an FMT value. -/
def widthOf (e : Nat) (fmt : Word) : Nat := (containerOf (fun _ => fmtWidth fmt) e 0).getD 8

/-- Width of the source elements and of the destination elements. -/
def VIns.ws (v : VIns) (fmtA : Word) : Nat := widthOf v.etype fmtA
def VIns.wd (v : VIns) (fmtA fmtB : Word) : Nat :=
  match v.op with
  | .vcvt => widthOf v.dtype fmtB
  | .vscale | .vdot | .vgumbel | .vargmax => 32
  | _ => widthOf v.etype fmtA

/-- Lanes (R196, R221 to R223). -/
def VIns.lanes (v : VIns) (fmtA fmtB : Word) : Nat :=
  match v.op with
  | .vcvt => 512 / max (v.ws fmtA) (v.wd fmtA fmtB)
  | .vscale | .vdot | .vgumbel => 16
  | _ => 512 / v.ws fmtA

/-- Element type, fmt field and width that a shaped operand in a position must have. -/
def VIns.shapeType (v : VIns) (c : Core) (pos : Nat) : Nat × Nat × Nat :=
  let fa := c.fmtOf v.f.fmtA.toNat
  let fb := c.fmtOf v.f.fmtB.toNat
  if pos = 0 ∧ v.op = .vcvt then (v.dtype, v.f.fmtB.toNat, widthOf v.dtype fb)
  else if pos = 2 then (v.etype, v.f.fmtB.toNat, widthOf v.etype fa)
  else (v.etype, v.f.fmtA.toNat, widthOf v.etype fa)

/-- The shaped operands of an instruction. -/
def VIns.shapedOps (v : VIns) (c : Core) : List ShapedOp :=
  (v.positions.filter (fun p => tierOf p.spec = .shape)).map (fun (p : OpPos) =>
    let t := v.shapeType c p.pos
    { pos := p.pos, off := (Vector.nth (n := 15) c.h (p.spec.toNat % 16)).toNat, etype := t.1, fsel := t.2.1, w := t.2.2 })

/-- The channel endpoints of an instruction in order, each once, with whether it is the destination. -/
def VIns.endpoints (v : VIns) : List (Nat × Bool) :=
  ((v.positions.filter (fun p => tierOf p.spec = .chan)).map (fun (p : OpPos) => (p.spec.toNat % 16, decide (p.pos = 0)))).eraseDups

/-! ## Modes -/

/-- The captured mode with the rounding field of the instruction (R97); stochastic draws are per lane. -/
def VIns.mode (v : VIns) (fpc : Word) (lane : Nat) : Mode :=
  let m := Mode.ofFpc fpc
  if v.f.rnd = 1 then { m with rm := .rne } else if v.f.rnd = 2 then { m with rm := .rtz }
  else if v.f.rnd = 3 then { m with rm := .sr (srDraw fpc lane) } else m

/-! ## One beat: lanes (R213) -/

/-- What a beat computes: destination elements of width w with their new values where they are written, the flags, and the
running value of a reduction. -/
structure BeatVal where
  w : Nat
  res : List (Option Nat)
  flags : Byte
  acc : V512

/-- Lane i of a mask (R197). -/
def maskLane (m : Mask) (lanes i : Nat) : Bool := m.getLsbD (if lanes = 512 then i / 4 else i)

/-- Elementwise lanes: written where active. -/
def laneMap (w n : Nat) (act : Nat → Bool) (f : Nat → FRes) : BeatVal :=
  let rs := (List.range n).map (fun i => if act i then some (f i) else none)
  { w := w, res := rs.map (fun r => r.map (fun (x : FRes) => x.bits))
    flags := rs.foldl (fun (b : Byte) r => match r with | some x => b ||| x.flags | none => b) 0, acc := 0 }

/-- The elements of a beat's sources, and what was captured. -/
structure BeatIn where
  v : VIns
  run : VecRun
  t : Nat
  n : Nat
  act : Nat → Bool
  a : Nat
  b : Nat
  c : Nat
  cm : Mask
  d : Nat
  x : Word

def plain (n : Nat) : FRes := { bits := n, flags := 0 }

/-- An element by its bits: the container bits above a narrow format are ignored in reading and written as zero (R180). -/
def VIns.elem (v : VIns) (fmtA : Word) (n : Nat) : Nat := if v.etype = 9 then n % 2 ^ (narrowFmt fmtA).bits else n

/-- An element moved by its bits. -/
def BeatIn.moved (i : BeatIn) (n : Nat) : FRes := plain (i.v.elem i.run.fmtA n)

/-- n0 and n7 (R217 to R220). -/
def beatN0 (i : BeatIn) : BeatVal :=
  let v := i.v
  let e := v.etype
  let w := v.ws i.run.fmtA
  let fa := fmtOf e i.run.fmtA
  let fb := fmtOf e i.run.fmtB
  let m := v.mode i.run.fpc 0
  laneMap w i.n i.act (fun j =>
    let a := elemOf w i.a j
    let b := elemOf w i.b j
    match v.op with
    | .vand | .vor | .vxor | .vandn => i.moved (bitOp v.op w a b)
    | .vsel => i.moved (if maskLane i.cm i.n j then a else b)
    | op => if isInt e then plain (intOp op w v.f a b (elemOf w i.c j))
            else floatOp op fa fb m v.f.sat a b (elemOf w i.c j))

/-- VCMP: every bit of the mask is written (R220). -/
def beatCmp (i : BeatIn) : BeatVal :=
  let v := i.v
  let e := v.etype
  let w := v.ws i.run.fmtA
  let m := v.mode i.run.fpc 0
  let cc := v.f.c.toNat
  let one (j : Nat) : FRes :=
    let a := elemOf w i.a j
    let b := elemOf w i.b j
    if !(i.act j) then plain 0
    else if isInt e then plain (if cmpInt cc (intElem w v.f.sgnA a) (intElem w v.f.sgnB b) then 1 else 0)
    else
      let r := cmpFloat cc (readF (fmtOf e i.run.fmtA) m a) (readF (fmtOf e i.run.fmtB) m b)
      { bits := if r.1 then 1 else 0, flags := r.2 }
  laneMap 1 i.n (fun _ => true) one

/-- VCVT: lane j writes element pN + j of the destination (R221). -/
def beatCvt (i : BeatIn) : BeatVal :=
  let v := i.v
  let ws := v.ws i.run.fmtA
  let wd := v.wd i.run.fmtA i.run.fmtB
  let p := v.f.c.toNat / 16
  let src (j : Nat) : Nat := if ws ≤ wd then p * i.n + j else j
  let off := if ws ≤ wd then 0 else p * i.n
  let r := laneMap wd i.n i.act (fun j =>
    convLane v.etype (fmtOf v.etype i.run.fmtA) v.f.sgnA ws v.dtype (fmtOf v.dtype i.run.fmtB) v.f.sgnB wd
      (v.mode i.run.fpc (i.t * i.n + j)) v.f.sat (elemOf ws i.a (src j)))
  { r with res := List.replicate off none ++ r.res }

/-- VSCALE, VDOT and VGUMBEL: 16 lanes of 32 bits. -/
def beatN1 (i : BeatIn) : BeatVal :=
  let v := i.v
  let m := v.mode i.run.fpc 0
  let e := v.etype
  let ws := v.ws i.run.fmtA
  laneMap 32 16 i.act (fun j =>
    match v.op with
    | .vscale => scaleLane m (elemOf 32 i.d j) (elemOf 32 i.a j) (elemOf 16 i.b j) (elemOf 16 i.c j)
    | .vdot =>
      let r := 32 / ws
      let as := (List.range r).map (fun q => elemOf ws i.a (r * j + q))
      let bs := (List.range r).map (fun q => elemOf ws i.b (r * j + q))
      if isInt e then plain (dotInt ws v.f as bs (elemOf 32 i.c j))
      else dotFloat (fmtOf e i.run.fmtA) (fmtOf e i.run.fmtB) m as bs (elemOf 32 i.c j)
    | _ =>
      let u := addV m (readF fp32 m (elemOf 32 i.a j)) (decodeF fp32 (noise i.run.key i.run.pos (.ofNat 32 (elemOf 32 i.b j))))
      let r := roundTo fp32 m false u.val
      { r with flags := r.flags ||| u.flags })

/-- VRED: every element is written (R224); the beats combine in shape order (R193). -/
def beatRed (i : BeatIn) : BeatVal :=
  let v := i.v
  let e := v.etype
  let w := v.ws i.run.fmtA
  let c := v.f.c.toNat
  let f := fmtOf e i.run.fmtA
  let m := v.mode i.run.fpc 0
  let xs := (List.range i.n).map (fun j => if i.act j then elemOf w i.a j else redIdentity c e w v.f.sgnA f)
  let r := redBeat c e w v.f.sgnA f m xs
  let q0 := if i.t = 0 then r
    else let z := redJoin c e w v.f.sgnA f m i.run.acc.toNat r.bits; { z with flags := z.flags ||| r.flags }
  let q := if i.t + 1 = i.run.beats then redFinal c e f m q0 else q0
  { w := w, res := some q.bits :: List.replicate (i.n - 1) (some 0), flags := q.flags, acc := .ofNat 512 q.bits }

/-- VARGMAX: the state (v, x) runs over the beats (R225). -/
def beatArgmax (i : BeatIn) : BeatVal :=
  let v := i.v
  let w := v.ws i.run.fmtA
  let f := fmtOf v.etype i.run.fmtA
  let m := v.mode i.run.fpc 0
  let st0 := (elemOf 32 i.run.acc.toNat 0, elemOf 32 i.run.acc.toNat 1, (0 : Byte))
  let st := (List.range i.n).foldl (fun (st : Nat × Nat × Byte) j =>
    if i.act j then argmaxLane f m ((i.x.toNat + i.t * i.n + j) % 2 ^ 32) st (elemOf w i.a j) else st) st0
  { w := 32, res := some st.1 :: some st.2.1 :: List.replicate 14 (some 0), flags := st.2.2
    acc := .ofNat 512 (st.1 + st.2.1 * 2 ^ 32) }

/-- The movement instructions of n3 (R227). -/
def beatN3 (i : BeatIn) : BeatVal :=
  let v := i.v
  let w := v.ws i.run.fmtA
  match v.op with
  | .vbcast => laneMap w i.n i.act (fun j => i.moved (if w = 1 then elemOf 1 i.x.toNat (j % 64) else i.x.toNat % 2 ^ w))
  | .vins => laneMap w i.n (fun j => j = v.f.c.toNat) (fun _ => i.moved (i.x.toNat % 2 ^ w))
  | .vperm => laneMap w i.n i.act (fun j => i.moved (elemOf w i.a (elemOf w i.b j % i.n)))
  | .vslide =>
    let s := v.f.c.toNat
    laneMap w i.n i.act (fun j => i.moved (if j + s < i.n then elemOf w i.a (j + s) else elemOf w i.b (j + s - i.n)))
  | .vcomp =>
    let picked := ((List.range i.n).filter i.act).map (elemOf w i.a)
    { w := w, res := (List.range i.n).map (fun j => some (i.moved (picked.getD j 0)).bits), flags := 0, acc := 0 }
  | _ => laneMap w i.n i.act (fun j => i.moved (elemOf w i.a j))

/-- n4 (R228). -/
def beatN4 (i : BeatIn) : BeatVal :=
  let w := i.v.ws i.run.fmtA
  laneMap w i.n i.act (fun j =>
    specialLane i.v.op (fmtOf i.v.etype i.run.fmtA) (i.v.mode i.run.fpc 0) (elemOf w i.a j))

def beatVal (i : BeatIn) : BeatVal :=
  match i.v.op with
  | .vcmp => beatCmp i
  | .vcvt => beatCvt i
  | .vscale | .vdot | .vgumbel => beatN1 i
  | .vred => beatRed i
  | .vargmax => beatArgmax i
  | .vmov | .vbcast | .vextr | .vins | .vperm | .vslide | .vcomp => beatN3 i
  | .vexp2 | .vlog2 | .vrcp | .vrsqrt | .vsqrt | .vsin | .vcos | .vtanh | .vsigm => beatN4 i
  | _ => beatN0 i

/-! ## One beat: operands and writes -/

/-- What a beat answers. -/
inductive BeatOut where
  /-- Nothing moves: a channel, a footprint, or the boundaries of some decks. -/
  | blocked (ds : List Nat)
  | fault (cause : Byte) (tval : Word)
  | done (s : State)

/-- Elements of the shape in beat t. -/
def elemsInBeat (cnt t n : Nat) : List Nat := (List.range n).filter (fun i => t * n + i < cnt)

/-- In what type a literal operand is read (R100). VPERM's b is among R100's general case: with etype fp64 the literal is widened
from binary32 before its bits are an index (DEDUCED, log 58). -/
def VIns.litType (v : VIns) (fmtA : Word) (pos : Nat) : ReadAs :=
  let w := v.ws fmtA
  match v.op with
  | .vscale => if pos = 1 then .elem 7 32 false else .scale
  | .vgumbel => if pos = 1 then .elem 7 32 false else .index
  | .vdot => if pos = 3 then (if isInt v.etype then .elem 3 32 true else .elem 7 32 false)
             else .elem v.etype w (if pos = 1 then v.f.sgnA else v.f.sgnB)
  | _ => .elem v.etype w (if pos = 1 then v.f.sgnA else if pos = 2 then v.f.sgnB else v.f.sgnA || v.f.sgnB)

/-- Whether an operation reads the whole of its sources, whatever lanes are active (R227). -/
def VIns.readsWhole (v : VIns) : Bool := v.op = .vperm || v.op = .vslide

/-- The 512-bit value of a source position in beat t. A lane out of shape reads nothing; what VPERM and VSLIDE find there is a
free value (log 74). -/
def srcValue (s : State) (k : Nat) (v : VIns) (r : VecRun) (n pos : Nat) (b : Spec) : Nat :=
  let core := coreOf k
  let w := v.ws r.fmtA
  match tierOf b with
  | .chan => (match receivable s core (b.toNat % 16) with | m :: _ => m.msg.toNat | [] => 0)
  | .shape =>
    (match r.shapes.getD pos none with
     | some h => packElems w ((List.range n).map (fun i =>
         if r.beat * n + i < h.count then shapeGet s core h w (r.beat * n + i)
         else if v.readsWhole then Config.openLane s.fresh (512 * pos + i) else 0))
     | none => 0)
  | .lit => (match v.form with | .lit l => litValue (v.litType r.fmtA pos) l | _ => 0)
  | _ => (regRead s k b).toNat

/-- The element accesses of the shaped operands in some positions in a beat, by offset and length. -/
def beatSpans (v : VIns) (r : VecRun) (n : Nat) (ps : List Nat) : List (Nat × Nat) :=
  ps.flatMap (fun pos => match r.shapes.getD pos none with
    | none => []
    | some h => (elemsInBeat h.count r.beat n).map (fun i =>
        shapeBytes h (if pos = 0 then v.wd r.fmtA r.fmtB else v.ws r.fmtA) (r.beat * n + i)))

/-- Whether an element access of a shaped operand conflicts with a copy footprint (R216). -/
def shapesBlocked (s : State) (k : Nat) (v : VIns) (r : VecRun) (n : Nat) : Bool :=
  let meets (ps : List Nat) (write : Bool) : Bool :=
    (beatSpans v r n ps).any (fun p => footprintBlocks s (coreOf k) (0xFFE * 2 ^ 44 + p.1) p.2 write)
  meets [0] true || meets [1, 2, 3] false

/-- Write the in-shape written elements of a beat. -/
def putElems (s : State) (core : Nat) (h : Shape) (w e : Nat) : List (Option Nat) → State
  | [] => s
  | x :: r =>
    let s1 := match x with | some v => if e < h.count then shapePut s core h w e v else s | none => s
    putElems s1 core h w (e + 1) r

def receiveAll (s : State) (k : Nat) : List Nat → State
  | [] => s
  | e :: r => receiveAll (receive s k e) k r

/-- A result image: written elements, `base` elsewhere. -/
def imageOf (o : BeatVal) (base : Nat) : Nat :=
  packElems o.w ((List.range (512 / o.w)).map (fun i => match o.res.getD i none with | some x => x | none => elemOf o.w base i))

/-- VRED leaves its destination to the last beat (R224, log 17). -/
def writesNow (v : VIns) (last : Bool) : Bool := v.op ≠ .vred || last

/-- Beat r.beat of an instruction of n0 to n4 and n7 for a strand, and what follows its last beat (R208 to R213). -/
def vbeat (s : State) (k : Nat) (r : VecRun) (v : VIns) : BeatOut :=
  let core := coreOf k
  let t := s.strand k
  let n := v.lanes r.fmtA r.fmtB
  let eps := v.endpoints
  let srcs := (eps.filter (fun e => !e.2)).map (fun (e : Nat × Bool) => e.1)
  let last := r.beat + 1 = r.beats
  let now := writesNow v last
  match srcs.find? (recvClosed s core) with
  | some e => .fault Cause.chanClosed (.ofNat 64 (e * 2 ^ 32 + r.beat))
  | none =>
    if srcs.any (fun e => (receivable s core e).isEmpty) || (now && eps.any (fun e => e.2 && unitsLeft s core e.1 = 0))
      || shapesBlocked s k v r n then .blocked []
    else
      let cnt := match r.shapes.find? Option.isSome with | some (some h) => h.count | _ => 512
      let inS (i : Nat) : Bool := r.beat * n + i < cnt
      let mask := t.mask v.f.mask.toNat
      let val (pos : Nat) (b : Spec) : Nat := srcValue s k v r n pos b
      let d := v.f.d
      let xreg : XReg := .ofNat 4 (if v.op = .vargmax then v.f.c.toNat else v.f.a.toNat)
      let old := (regRead s k d).toNat
      let b := match v.form with | .vi imm => immValue v.etype (v.ws r.fmtA) v.f.sgnB imm | _ => val 2 v.f.b
      let o := beatVal { v := v, run := r, t := r.beat, n := n, act := fun i => maskLane mask n i && inS i
                         a := val 1 v.f.a, b := b, c := val 3 v.f.c, cm := t.mask (v.f.c.toNat - 0xB0), d := old, x := t.readX xreg }
      let image := imageOf o (if tierOf d = .vreg || tierOf d = .qreg then old else 0)
      let s0 := padSeen (padSeen s core false (beatSpans v r n [1, 2, 3])) core true (beatSpans v r n [0])
      let s1 := setFlags (receiveAll s0 k srcs) k o.flags
      let s2 := if !now then s1 else match tierOf d with
        | .shape => (match r.shapes.getD 0 none with | some h => putElems s1 core h o.w (r.beat * n) o.res | none => s1)
        | .chan => send s1 k (d.toNat % 16) (.ofNat 512 image)
        | _ => regWrite s1 k d (.ofNat 512 image)
      if last then
        let s4 := if v.op = .vcmp then s2 else pushResult s2 k (.ofNat 512 image)
        let t4 := s4.strand k
        .done (s4.setStrand k { t4 with wait := .none, pc := t4.pc + .ofNat 64 v.len })
      else
        .done (s2.setStrand k { s2.strand k with wait := .vec { r with beat := r.beat + 1, acc := o.acc } })

/-! ## Issue -/

/-- Messages that an instruction sends over its beats, and the operations it stages. -/
def VIns.sends (v : VIns) (beats : Nat) : Nat := if v.op = .vred then 1 else beats
def VIns.stagedOps (v : VIns) (beats : Nat) : Nat :=
  v.endpoints.foldl (fun n e => n + (if e.2 then v.sends beats else beats)) 0

/-- Order 7, then the checks of order 8 in their order: FMT, shapes, endpoints, the staging limit (R86, R181, R207, R209). -/
def vissueFaults (s : State) (v : VIns) (beats : Nat) : Option (Byte × Word) :=
  let c := s.curCore
  let eps := v.endpoints
  (v.specFaults c.mode s.cur.vx)
  |>.or (fmtFaults c v)
  |>.or (shapeFaults s (coreOf s.fs) none (v.shapedOps c))
  |>.or (chanFaults s s.fs beats (v.sends beats) eps)
  |>.or (if eps ≠ [] && 32 < stagedCount s.cur + v.stagedOps beats then some (Cause.stageFull, 0) else none)

/-- The run of an instruction, as captured at issue (R187, R205, R208, R225). -/
def vrun (s : State) (i : Instr) (v : VIns) : VecRun :=
  let c := s.curCore
  let fa := c.fmtOf v.f.fmtA.toNat
  let fb := c.fmtOf v.f.fmtB.toNat
  let shapes := (List.range 4).map (fun pos =>
    ((v.shapedOps c).find? (fun o => o.pos = pos)).map (fun (o : ShapedOp) => (readShape s (coreOf s.fs) o.off).1))
  let n := v.lanes fa fb
  let beats := match shapes.find? Option.isSome with | some (some h) => (h.count + n - 1) / n | _ => 1
  { instr := i, beat := 0, beats := beats, fpc := s.cur.fpc, fmtA := fa, fmtB := fb, key := c.smpkey, pos := c.smppos
    shapes := shapes, acc := regRead s s.fs v.f.d }

/-- Results that an instruction converts (R189). -/
def VIns.draws (v : VIns) (r : VecRun) : Nat :=
  match r.shapes.find? Option.isSome with | some (some h) => h.count | _ => v.lanes r.fmtA r.fmtB

/-- The pipe has taken a beat of a slot's strand (R68, R408). -/
def tookBeat (s : State) (core slot : Nat) : State :=
  let s1 := s.count core 2 1
  s1.setCore core { s1.core core with rotPipe := slot }

/-! ## Vector memory (R230 to R232) -/

/-- Lane addresses of an n5 instruction, with the index source's value. -/
def laneAddr (s : State) (k : Nat) (v : VIns) (w idx i : Nat) : Nat :=
  let t := s.strand k
  let store := v.op = .vst || v.op = .vsts || v.op = .vscatter
  let base := t.readX (.ofNat 4 (if store then v.f.d.toNat else v.f.a.toNat))
  match v.op with
  | .vlds | .vsts => (base + .ofNat 64 i * t.readX (.ofNat 4 v.f.b.toNat)).toNat
  | .vgather | .vscatter => (base + (BitVec.ofNat 32 (elemOf 32 idx i)).signExtend 64 * .ofNat 64 (w / 8)).toNat
  | _ => (base + v.f.b.signExtend 64 * 64).toNat

/-- Lanes that an instruction may access. -/
def memLanes (v : VIns) (w : Nat) : Nat :=
  match v.op with | .vgather | .vscatter => min (512 / w) 16 | _ => 512 / w

/-- What a memory instruction's access answers: a fault, a wait, or the state after its checks with its pieces. -/
def lanesAccess (s : State) (k : Nat) (m : AccMode) (w : Nat) (as : List Nat) : Access :=
  let good := as.takeWhile (fun a => a % (w / 8) = 0)
  let ps := good.map (fun a => (a, w / 8))
  if good.length = as.length then accessPieces s k m ps
  else match checkPieces s k m ps with
    | .error (c, x) => .fault c x
    | .ok _ => .fault Cause.misaligned (.ofNat 64 (as.getD good.length 0))

/-- The new value of a byte of a VST and whether it is written: bits of active lanes of the source, old bits elsewhere. -/
def storeByte (mask : Mask) (w src : Nat) (old : Byte) (i : Nat) : Bool × Nat :=
  let bits : List Nat := List.range 8
  let on (j : Nat) : Bool := maskLane mask (512 / w) ((8 * i + j) / w)
  (bits.any on, bits.foldl (fun n j => n + (if (if on j then src.testBit (8 * i + j) else old.getLsbD j) then 2 ^ j else 0)) 0)

/-- Write one sector of a VST. -/
def storeSector (s : State) (mask : Mask) (w src first : Nat) (p : Piece) : State :=
  let bs := (List.range p.n).map (fun i => storeByte mask w src (Memory.read s.mem (p.hit.loc + i)) (first + i))
  let s1 := s.setMem (Memory.writeMasked s.mem p.hit.loc (bs.map (fun (b : Bool × Nat) => b.1))
    (packElems 8 (bs.map (fun (b : Bool × Nat) => b.2))))
  if bs.all (fun b => b.1) then { s1 with poison := clearPoison s1.poison p.hit.loc p.n } else s1

/-- The address that a fault of a VST in the sector at `va` reports, but for a race (R271): that of the lowest active lane of the sector
that faults (R231): one with a byte in a pending cell for COV_PENDING (R307), any other fault meets all of them. -/
def firstLane (s : State) (core w ea : Nat) (bytes : List Nat) (cause : Byte) (va : Nat) : Nat :=
  let faults (i : Nat) : Bool := cause ≠ Cause.covPending ||
    (match translate s (.core core) (ea + i) 1 .write with | .ok h => covPending s h.loc 1 | .error _ => true)
  match bytes.find? (fun i => (ea + i) / 32 = va / 32 && faults i) with
  | some i => ea + 8 * i / w * w / 8
  | none => va

/-- The bytes of active lanes within the sectors of a VST, each as a piece. -/
def bytePieces (ea : Nat) (bytes : List Nat) (ps : List Piece) : List Piece :=
  ps.flatMap (fun p => (bytes.filter (fun i => (ea + i) / 32 = p.va / 32)).map (fun i =>
    { va := ea + i, n := 1, hit := { p.hit with loc := p.hit.loc + (ea + i - p.va) } }))

def storeSectors (s : State) (mask : Mask) (w src ea : Nat) : List Piece → State
  | [] => s
  | p :: r => storeSectors (storeSector s mask w src (p.va - ea) p) mask w src ea r

def storeLanes (s : State) : List Piece → List Nat → State
  | p :: r, v :: q => storeLanes (writePieces s [p] v) r q
  | _, _ => s

/-- The loaded image: element i of the active lanes in order, as a function reads it, old elements elsewhere. -/
def loadImage (m : List Host.Cell) (w old : Nat) (elem : Nat → Nat) (act : List Nat) (ps : List Piece) : Nat :=
  let got := act.zip ps
  packElems w ((List.range (512 / w)).map (fun i =>
    match got.find? (fun g => g.1 = i) with
    | some g => elem (Memory.readN m g.2.hit.loc g.2.n)
    | none => elemOf w old i))

/-- One n5 instruction: at issue, or with a channel operand when the pipe takes it (R209, R231). A load is answered at
once where it is a VLD from the own scratchpad or a send, else by a reply (R232). -/
def vmemory (s : State) (k : Nat) (r : VecRun) (v : VIns) : BeatOut :=
  let core := coreOf k
  let t := s.strand k
  let w := v.ws r.fmtA
  let mask := t.mask v.f.mask.toNat
  let srcs := (v.endpoints.filter (fun e => !e.2)).map (fun (e : Nat × Bool) => e.1)
  let src (b : Spec) : Nat := srcValue s k v r (512 / w) 1 b
  let idx := match v.op with | .vgather | .vscatter => src v.f.b | _ => 0
  let act := (List.range (memLanes v w)).filter (maskLane mask (512 / w))
  let ea := laneAddr s k v w idx 0
  let done (s1 : State) : State :=
    let s2 := receiveAll s1 k srcs
    let t2 := s2.strand k
    s2.setStrand k { t2 with wait := .none, pc := t2.pc + .ofNat 64 v.len }
  match srcs.find? (recvClosed s core) with
  | some e => .fault Cause.chanClosed (.ofNat 64 (e * 2 ^ 32))
  | none =>
    if srcs.any (fun e => (receivable s core e).isEmpty) || v.endpoints.any (fun e => e.2 && unitsLeft s core e.1 = 0) then .blocked []
    else
      let loaded (s1 : State) (ps : List Piece) (now : Bool) (image : Nat) : BeatOut :=
        let s2 := (countPieces s1 core false ps)
        match tierOf v.f.d with
        | .chan => .done (done (pushResult (send s2 k (v.f.d.toNat % 16) (.ofNat 512 image)) k (.ofNat 512 image)))
        | _ =>
          if now then .done (done (pushResult (regWrite s2 k v.f.d (.ofNat 512 image)) k (.ofNat 512 image)))
          else
            let s3 := receiveAll s2 k srcs
            .done (s3.setStrand k { s3.strand k with wait := .reply { len := v.len, xw := [], vw := some (v.f.d, .ofNat 512 image), decks := piecesDecks s core ps } })
      match v.op with
      | .vld =>
        if ea % 64 ≠ 0 then .fault Cause.misaligned (.ofNat 64 ea)
        else match accessBytes s k ea 64 (.load false) with
          | .fault c x => .fault c x
          | .wait ds => .blocked ds
          | .ok s1 ps => loaded s1 ps (ea / 2 ^ 44 = 0xFFE) (readPieces s1.mem ps)
      | .vst =>
        if ea % 64 ≠ 0 then .fault Cause.misaligned (.ofNat 64 ea)
        else
          let on (i : Nat) : Bool := (storeByte mask w 0 0 i).1
          let bytes := (List.range 64).filter on
          let secs := ([0, 32].filter (fun o => bytes.any (fun i => i / 32 * 32 = o))).map (fun (o : Nat) => (ea + o, 32))
          let skip := ((List.range 64).filter (fun i => !(on i))).map (fun (i : Nat) => ea + i)
          match accessParts s k { AccMode.put false with skip := skip } secs (bytes.map (fun (i : Nat) => (ea + i, 1))) with
          | .fault c x => .fault c (if c = Cause.mmRace then x else .ofNat 64 (firstLane s core w ea bytes c x.toNat))
          | .wait ds => .blocked ds
          | .ok s1 ps => .done (done (countPieces (storeSectors s1 mask w (src v.f.a) ea ps) core true (bytePieces ea bytes ps)))
      | .vlds | .vgather =>
        (match lanesAccess s k (.load false) w (act.map (laneAddr s k v w idx)) with
         | .fault c x => .fault c x
         | .wait ds => .blocked ds
         | .ok s1 ps =>
           let old := match tierOf v.f.d with | .vreg | .qreg => (regRead s k v.f.d).toNat | _ => 0
           loaded s1 ps false (loadImage s1.mem w old (v.elem r.fmtA) act ps))
      | _ =>
        (match lanesAccess s k (.put false) w (act.map (laneAddr s k v w idx)) with
         | .fault c x => .fault c x
         | .wait ds => .blocked ds
         | .ok s1 ps => .done (done (countPieces (storeLanes s1 ps (act.map (fun i => v.elem r.fmtA (elemOf w (src v.f.a) i)))) core true ps)))

/-! ## VEXTR and the masks (R227, R233) -/

/-- A strand of a core goes on behind an instruction of n bytes. -/
def pipeDone (s : State) (k n : Nat) (t : Strand) : BeatOut := .done (s.setStrand k { t with wait := .none, pc := t.pc + .ofNat 64 n })

/-- VEXTR (R227). -/
def extractBeat (s : State) (k : Nat) (r : VecRun) (v : VIns) : BeatOut :=
  let w := v.ws r.fmtA
  let a := match v.form with
    | .lit l => if v.f.a = 0xFF then litValue (v.litType r.fmtA 1) l else (regRead s k v.f.a).toNat
    | _ => (regRead s k v.f.a).toNat
  pipeDone s k v.len ((s.strand k).writeX (.ofNat 4 v.f.d.toNat) (.ofInt 64 (intElem w v.f.sgnA (v.elem r.fmtA (elemOf w a v.f.c.toNat)))))

/-- MOP by its selector c. -/
def maskOp (c : Nat) (a b : Mask) : Mask :=
  if c = 0 then a &&& b else if c = 1 then a ||| b else if c = 2 then a ^^^ b else if c = 3 then a &&& ~~~b else ~~~a

/-- Bits 0 to k − 1 set. -/
def lowMask (k : Nat) : Mask := .ofNat 128 (2 ^ min k 128 - 1)

/-- The mask instructions (R233). -/
def maskBeat (s : State) (k : Nat) (v : VIns) : BeatOut :=
  let t := s.strand k
  let f := v.f
  let m (b : Spec) : Mask := t.mask (b.toNat - 0xB0)
  match v.op with
  | .mop => pipeDone s k 8 (t.setMask (f.d.toNat - 0xB0) (maskOp f.c.toNat (m f.a) (m f.b)))
  | .mpop => pipeDone s k 8 (t.writeX (.ofNat 4 f.d.toNat) (.ofNat 64 (popN (m f.a).toNat 128)))
  | .mfirst => pipeDone s k 8 (t.writeX (.ofNat 4 f.d.toNat) (.ofNat 64 (ctzN (m f.a).toNat 0 128)))
  | _ => pipeDone s k 8 (t.setMask (f.d.toNat - 0xB0) (lowMask (if f.c = 0 then f.b.toNat else (t.readX (.ofNat 4 f.b.toNat)).toNat)))

/-! ## The vector pipe (R68, R210) -/

/-- What the pipe would do with an instruction of a strand. -/
def beatOf (s : State) (k : Nat) (r : VecRun) (v : VIns) : BeatOut :=
  match v.op with
  | .vld | .vst | .vlds | .vsts | .vgather | .vscatter => vmemory s k r v
  | .vextr => extractBeat s k r v
  | .mop | .mpop | .mfirst | .mset => maskBeat s k v
  | _ => vbeat s k r v

/-- What the pipe would do with the operation a strand has in progress. -/
def pipeBeat (s : State) (k : Nat) : BeatOut :=
  match (s.strand k).wait with
  | .vec r => (match vinsOf r.instr with | some v => beatOf s k r v | none => .blocked [])
  | _ => .blocked []

def BeatOut.moves : BeatOut → Bool
  | .blocked _ => false
  | _ => true

/-- The slots of a core in rotation order, after the one whose beat the pipe took last (R68). -/
def pipeOrder (s : State) (core : Nat) : List Nat := (List.range 16).map (fun i => ((s.core core).rotPipe + 1 + i) % 16)

/-- Whether the pipe takes the beat of another strand before that of a slot (R68). -/
def pipeAhead (s : State) (core slot : Nat) : Bool :=
  ((pipeOrder s core).takeWhile (fun x => x ≠ slot)).any (fun x => (pipeBeat s (core * 16 + x)).moves)

/-- SRSTATE as an instruction found it, where its first beat faults: nothing is written (R189, R210). -/
def rewindSr (s : State) (k : Nat) : State :=
  match (s.strand k).wait with
  | .vec r =>
    if r.beat = 0 then
      s.setStrand k { s.strand k with fpc := r.fpc.extractLsb' 32 32 ++ (s.strand k).fpc.extractLsb' 0 32 }
    else s
  | _ => s

/-- The pipe takes the first beat it can in rotation order. A beat that faults in the pipe counts as the one that it took last: R68 does
not say (DESIGN CHOICE, log 67). -/
def pipeTake (s : State) (core : Nat) : List Nat → State
  | [] => s
  | slot :: r =>
    let k := core * 16 + slot
    match pipeBeat s k with
    | .blocked ds => pipeTake (noteHeld s k ds) core r
    | .done s1 => tookBeat (dropHeld s1 k) core slot
    | .fault c x => let s1 := trapAt (rewindSr (dropHeld s k) k) k c x; s1.setCore core { s1.core core with rotPipe := slot }

/-! ## Issue into the pipe -/

/-- An unshaped instruction without a channel operand has passed its checks: its beat runs at once, or, where the pipe takes
another strand's beat first, in its turn (R68). A beat that faults at its issue has not been taken: the rotation stays (log 67). -/
def pipeIssue (s : State) (r : VecRun) (v : VIns) : Res :=
  if pipeAhead s (coreOf s.fs) (slotOf s.fs) then waitFor (.vec r) s
  else match beatOf s s.fs r v with
    | .done s1 => .next (tookBeat s1 (coreOf s.fs) (slotOf s.fs))
    | .fault c x => trap s c x
    | .blocked ds =>
      match v.op with
      | .vst | .vsts | .vscatter => stallStore r.instr ds s
      | _ => stall ds s

/-- What the shaped sources of an instruction read, by offset and length. -/
def VecRun.reads (r : VecRun) (v : VIns) : List (Nat × Nat) :=
  [1, 2, 3].flatMap (fun pos => match r.shapes.getD pos none with
    | some h => (List.range h.count).map (shapeBytes h (v.ws r.fmtA))
    | none => [])

/-- An instruction of n0 to n4 and n7 issues: unshaped without a channel it goes into the pipe, else it runs beat by beat (R213,
R216). Poison in a shaped source faults before the first beat, for no beat may fault later (R207, R210; log 34). -/
def vissue (s : State) (i : Instr) (v : VIns) : Res :=
  let r := vrun s i v
  match (vissueFaults s v r.beats).or (padPoison s (coreOf s.fs) (r.reads v)) with
  | some (c, x) => trap s c x
  | none =>
    let s1 := if v.f.rnd = 3 then s.setCur { s.cur with fpc := srAdvance s.cur.fpc (v.draws r) } else s
    if v.endpoints.isEmpty && (v.shapedOps s.curCore).isEmpty then pipeIssue s1 r v
    else waitFor (.vec r) (padSeen s1 (coreOf s.fs) false ((v.shapedOps s.curCore).map (fun o => (o.off, 32))))

/-- VEXTR issues. -/
def vextract (s : State) (i : Instr) (v : VIns) : Res :=
  match (v.specFaults s.curCore.mode s.cur.vx).or (fmtFaults s.curCore v) with
  | some (c, x) => trap s c x
  | none => pipeIssue s (vrun s i v) v

/-- An n5 instruction issues. -/
def vmemIssue (s : State) (i : Instr) (v : VIns) : Res :=
  match vissueFaults s v 1 with
  | some (c, x) => trap s c x
  | none => if v.endpoints.isEmpty then pipeIssue s (vrun s i v) v else waitFor (.vec (vrun s i v)) s

/-- A mask instruction issues. -/
def maskExec (s : State) (i : Instr) (v : VIns) : Res :=
  match v.specFaults s.curCore.mode s.cur.vx with
  | some (c, x) => trap s c x
  | none => pipeIssue s (vrun s i v) v

/-- VECTOR_BEAT: one beat of one strand of a core. -/
def execVectorBeat (core : Nat) (s : State) : Res :=
  .next (pipeTake s core (pipeOrder s core))

/-! ## Meanings -/

/-- A vector instruction of n0 to n4, n7 or a literal form. -/
def vexec (i : Instr) (s : State) : Res :=
  checked i s (match vinsOf i with | some v => vissue s i v | none => trap s Cause.illegalOp 0)
/-- An instruction of n5. -/
def vmexec (i : Instr) (s : State) : Res :=
  checked i s (match vinsOf i with | some v => vmemIssue s i v | none => trap s Cause.illegalOp 0)
/-- An instruction of n6. -/
def vkexec (i : Instr) (s : State) : Res :=
  checked i s (match vinsOf i with | some v => maskExec s i v | none => trap s Cause.illegalOp 0)

def execVadd (f : V64) (s : State) : Res := vexec (.vadd f) s
def execVsub (f : V64) (s : State) : Res := vexec (.vsub f) s
def execVmul (f : V64) (s : State) : Res := vexec (.vmul f) s
def execVfma (f : V64) (s : State) : Res := vexec (.vfma f) s
def execVfms (f : V64) (s : State) : Res := vexec (.vfms f) s
def execVdiv (f : V64) (s : State) : Res := vexec (.vdiv f) s
def execVmin (f : V64) (s : State) : Res := vexec (.vmin f) s
def execVmax (f : V64) (s : State) : Res := vexec (.vmax f) s
def execVabs (f : V64) (s : State) : Res := vexec (.vabs f) s
def execVneg (f : V64) (s : State) : Res := vexec (.vneg f) s
def execVand (f : V64) (s : State) : Res := vexec (.vand f) s
def execVor (f : V64) (s : State) : Res := vexec (.vor f) s
def execVxor (f : V64) (s : State) : Res := vexec (.vxor f) s
def execVandn (f : V64) (s : State) : Res := vexec (.vandn f) s
def execVshl (f : V64) (s : State) : Res := vexec (.vshl f) s
def execVshr (f : V64) (s : State) : Res := vexec (.vshr f) s
def execVsar (f : V64) (s : State) : Res := vexec (.vsar f) s
def execVcmp (f : V64) (s : State) : Res := vexec (.vcmp f) s
def execVsel (f : V64) (s : State) : Res := vexec (.vsel f) s
def execVclamp (f : V64) (s : State) : Res := vexec (.vclamp f) s
def execVcvt (f : V64) (s : State) : Res := vexec (.vcvt f) s
def execVscale (f : V64) (s : State) : Res := vexec (.vscale f) s
def execVdot (f : V64) (s : State) : Res := vexec (.vdot f) s
def execVred (f : V64) (s : State) : Res := vexec (.vred f) s
def execVargmax (f : V64) (s : State) : Res := vexec (.vargmax f) s
def execVgumbel (f : V64) (s : State) : Res := vexec (.vgumbel f) s
def execVmov (f : V64) (s : State) : Res := vexec (.vmov f) s
def execVbcast (f : V64) (s : State) : Res := vexec (.vbcast f) s
def execVins (f : V64) (s : State) : Res := vexec (.vins f) s
def execVperm (f : V64) (s : State) : Res := vexec (.vperm f) s
def execVslide (f : V64) (s : State) : Res := vexec (.vslide f) s
def execVcomp (f : V64) (s : State) : Res := vexec (.vcomp f) s
def execVexp2 (f : V64) (s : State) : Res := vexec (.vexp2 f) s
def execVlog2 (f : V64) (s : State) : Res := vexec (.vlog2 f) s
def execVrcp (f : V64) (s : State) : Res := vexec (.vrcp f) s
def execVrsqrt (f : V64) (s : State) : Res := vexec (.vrsqrt f) s
def execVsqrt (f : V64) (s : State) : Res := vexec (.vsqrt f) s
def execVsin (f : V64) (s : State) : Res := vexec (.vsin f) s
def execVcos (f : V64) (s : State) : Res := vexec (.vcos f) s
def execVtanh (f : V64) (s : State) : Res := vexec (.vtanh f) s
def execVsigm (f : V64) (s : State) : Res := vexec (.vsigm f) s
def execVextr (f : V64) (s : State) : Res := checked (.vextr f) s (vextract s (.vextr f) (.of .vextr f))
def execVld (f : V64) (s : State) : Res := vmexec (.vld f) s
def execVst (f : V64) (s : State) : Res := vmexec (.vst f) s
def execVlds (f : V64) (s : State) : Res := vmexec (.vlds f) s
def execVsts (f : V64) (s : State) : Res := vmexec (.vsts f) s
def execVgather (f : V64) (s : State) : Res := vmexec (.vgather f) s
def execVscatter (f : V64) (s : State) : Res := vmexec (.vscatter f) s
def execMop (f : V64) (s : State) : Res := vkexec (.mop f) s
def execMpop (f : V64) (s : State) : Res := vkexec (.mpop f) s
def execMfirst (f : V64) (s : State) : Res := vkexec (.mfirst f) s
def execMset (f : V64) (s : State) : Res := vkexec (.mset f) s
def execVaddVi (f : VI) (s : State) : Res := vexec (.vaddVi f) s
def execVsubVi (f : VI) (s : State) : Res := vexec (.vsubVi f) s
def execVmulVi (f : VI) (s : State) : Res := vexec (.vmulVi f) s
def execVdivVi (f : VI) (s : State) : Res := vexec (.vdivVi f) s
def execVminVi (f : VI) (s : State) : Res := vexec (.vminVi f) s
def execVmaxVi (f : VI) (s : State) : Res := vexec (.vmaxVi f) s
def execVandVi (f : VI) (s : State) : Res := vexec (.vandVi f) s
def execVorVi (f : VI) (s : State) : Res := vexec (.vorVi f) s
def execVxorVi (f : VI) (s : State) : Res := vexec (.vxorVi f) s
def execVandnVi (f : VI) (s : State) : Res := vexec (.vandnVi f) s
def execVshlVi (f : VI) (s : State) : Res := vexec (.vshlVi f) s
def execVshrVi (f : VI) (s : State) : Res := vexec (.vshrVi f) s
def execVsarVi (f : VI) (s : State) : Res := vexec (.vsarVi f) s
def execVaddLit (f : V64) (lit : W32) (s : State) : Res := vexec (.vaddLit f lit) s
def execVsubLit (f : V64) (lit : W32) (s : State) : Res := vexec (.vsubLit f lit) s
def execVmulLit (f : V64) (lit : W32) (s : State) : Res := vexec (.vmulLit f lit) s
def execVfmaLit (f : V64) (lit : W32) (s : State) : Res := vexec (.vfmaLit f lit) s
def execVfmsLit (f : V64) (lit : W32) (s : State) : Res := vexec (.vfmsLit f lit) s
def execVdivLit (f : V64) (lit : W32) (s : State) : Res := vexec (.vdivLit f lit) s
def execVminLit (f : V64) (lit : W32) (s : State) : Res := vexec (.vminLit f lit) s
def execVmaxLit (f : V64) (lit : W32) (s : State) : Res := vexec (.vmaxLit f lit) s
def execVabsLit (f : V64) (lit : W32) (s : State) : Res := vexec (.vabsLit f lit) s
def execVnegLit (f : V64) (lit : W32) (s : State) : Res := vexec (.vnegLit f lit) s
def execVandLit (f : V64) (lit : W32) (s : State) : Res := vexec (.vandLit f lit) s
def execVorLit (f : V64) (lit : W32) (s : State) : Res := vexec (.vorLit f lit) s
def execVxorLit (f : V64) (lit : W32) (s : State) : Res := vexec (.vxorLit f lit) s
def execVandnLit (f : V64) (lit : W32) (s : State) : Res := vexec (.vandnLit f lit) s
def execVshlLit (f : V64) (lit : W32) (s : State) : Res := vexec (.vshlLit f lit) s
def execVshrLit (f : V64) (lit : W32) (s : State) : Res := vexec (.vshrLit f lit) s
def execVsarLit (f : V64) (lit : W32) (s : State) : Res := vexec (.vsarLit f lit) s
def execVcmpLit (f : V64) (lit : W32) (s : State) : Res := vexec (.vcmpLit f lit) s
def execVselLit (f : V64) (lit : W32) (s : State) : Res := vexec (.vselLit f lit) s
def execVclampLit (f : V64) (lit : W32) (s : State) : Res := vexec (.vclampLit f lit) s
def execVcvtLit (f : V64) (lit : W32) (s : State) : Res := vexec (.vcvtLit f lit) s
def execVscaleLit (f : V64) (lit : W32) (s : State) : Res := vexec (.vscaleLit f lit) s
def execVdotLit (f : V64) (lit : W32) (s : State) : Res := vexec (.vdotLit f lit) s
def execVredLit (f : V64) (lit : W32) (s : State) : Res := vexec (.vredLit f lit) s
def execVargmaxLit (f : V64) (lit : W32) (s : State) : Res := vexec (.vargmaxLit f lit) s
def execVgumbelLit (f : V64) (lit : W32) (s : State) : Res := vexec (.vgumbelLit f lit) s
def execVmovLit (f : V64) (lit : W32) (s : State) : Res := vexec (.vmovLit f lit) s
def execVpermLit (f : V64) (lit : W32) (s : State) : Res := vexec (.vpermLit f lit) s
def execVslideLit (f : V64) (lit : W32) (s : State) : Res := vexec (.vslideLit f lit) s
def execVcompLit (f : V64) (lit : W32) (s : State) : Res := vexec (.vcompLit f lit) s
def execVextrLit (f : V64) (lit : W32) (s : State) : Res := checked (.vextrLit f lit) s (vextract s (.vextrLit f lit) (.ofLit .vextr f lit))

end Sys2Proof.Machine
end

