-- ==== Sys2Proof/Machine/Coverage.lean ====
section
/-!
DEFINITION. Coverage stages (R288 to R311): the checks of a stage's blocks at release, CVPT, CVDONE, CVSTAT, the walker,
the reconstruction unit, audits and the controller.
-/

namespace Sys2Proof.Machine

/-! ## Fields (R289, R290) -/

def covCtype (record : V512) : Nat := fld record.toNat 120 4
def covNfmt (record : V512) : Word := .ofNat 64 (fld record.toNat 256 32)
def covWidth (record : V512) : Nat := widthOf (covCtype record) (covNfmt record)
def covIndex (record : V512) : Bool := fld record.toNat 240 1 = 1
def covAutoph (record : V512) : Bool := fld record.toNat 241 1 = 1
def covBfull (record : V512) : Bool := fld record.toNat 242 1 = 1
def covUnsigned (record : V512) : Bool := fld record.toNat 243 1 = 1
def covBoundBits (record : V512) : Nat := fld record.toNat 224 16
def blkFrac (b : BitVec 128) : Nat := if fld b.toNat 16 8 = 0 then 256 else fld b.toNat 16 8
def blkKernel (b : BitVec 128) : Nat := fld b.toNat 24 2
def blkCtl (b : BitVec 128) : Nat := fld b.toNat 32 6
def blkTarget (b : BitVec 128) : Nat := fld b.toNat 48 16
def blkInterval (b : BitVec 128) : Nat := fld b.toNat 64 8
def blkMin (b : BitVec 128) : Nat := fld b.toNat 72 4
def blkMax (b : BitVec 128) : Nat := fld b.toNat 76 4
def blkDims (b : BitVec 128) : Nat := fld b.toNat 0 2
def blkFamily (b : BitVec 128) : Nat := fld b.toNat 2 3
def blkLevel (b : BitVec 128) : Nat := fld b.toNat 5 4
def blkAxes (b : BitVec 128) : Nat := fld b.toNat 13 3

/-! ## Release (R292, R293) -/

/-- The largest level of a family. -/
def familyMax (family dims : Nat) : Nat :=
  if family = 0 then 0 else if family = 1 then (if dims = 1 then 6 else 3) else if family = 2 then 6 else 3

/-- E, the top of a stage's level range. -/
def covTop (b : BitVec 128) : Nat :=
  (List.range 16).foldl (fun (e : Nat) l =>
    if l ≤ blkMax b && l ≤ familyMax (blkFamily b) (blkDims b) && blkFrac b * 2 ^ (if blkFamily b = 4 then 2 * l else l) ≤ 256
    then l else e) 0

/-- A binary16 that is a NaN or below zero; −0 is accepted. -/
def halfBad (h : Nat) : Bool :=
  match decodeF fp16 h with
  | .nan _ => true
  | .inf neg => neg
  | .fin neg n _ => neg && n ≠ 0

/-- The stage of a record and a block before anything ran. -/
def covInit (ctx : Nat) (record : V512) (b : BitVec 128) : Cov :=
  { ctx := ctx, ctl := blkCtl b, record := record, block := b, minLevel := blkMin b, maxLevel := covTop b, seed := 0, next := 0
    returned := [], claimed := [], done := [], reconstructed := [], requests := [], values := [], bound := false, susp := none }

/-- What R293 refuses. -/
def covMalformed (record : V512) (b : BitVec 128) : Bool :=
  let n := b.toNat
  let r := record.toNat
  let c := covInit 0 record b
  let dims := blkDims b
  let axes := blkAxes b
  let ct := covCtype record
  let cs := covCsize c
  dims = 0 || 5 ≤ blkFamily b || 6 ≤ axes || fld n 26 6 ≠ 0 || fld n 38 2 ≠ 0 || fld n 40 8 < 3 || 8 < fld n 40 8
    || 21 < blkInterval b || fld n 80 48 ≠ 0
    || fld r 124 4 ≠ 0 || fld r 244 4 ≠ 0 || fld r 248 8 ≠ 0 || fld r 288 224 ≠ 0 || (ct ≠ 9 && fld r 256 32 ≠ 0)
    || covG c 0 = 0 || covG c 1 = 0 || covG c 2 = 0 || cs = 0 || 64 < cs
    || (dims = 1 && axes ≠ 0) || (dims = 2 && 2 ≤ axes) || (dims = 1 && 2 ≤ blkFamily b)
    || covG c (covAxisA c) % covExtent c (covAxisA c) ≠ 0 || (2 ≤ dims && covG c (covAxisB c) % 8 ≠ 0)
    || (dims < 2 && covG c 1 ≠ 1) || (dims < 3 && covG c 2 ≠ 1)
    || 11 ≤ ct || (ct = 9 && (fmtWidth (covNfmt record) = none || fld r 272 2 ≠ 0 || fld r 276 12 ≠ 0))
    || cs * 8 % covWidth record ≠ 0
    || (covUnsigned record && !(isInt ct)) || (blkKernel b ≠ 0 && (ct = 10 || covIndex record))
    || fld r 44 20 = 0xFFE
    || halfBad (blkTarget b) || halfBad (covBoundBits record) || covTop b < blkMin b

/-! ## Controllers (R294, R295, R305) -/

def State.ctl (s : State) (ctx id : Nat) : Ctl :=
  match s.ctx ctx with
  | some c => Tbl.get c.ctls id Ctl.empty
  | none => Ctl.empty
def State.setCtl (s : State) (ctx id : Nat) (x : Ctl) : State :=
  match s.ctx ctx with
  | some c => s.setCtx ctx { c with ctls := Tbl.put c.ctls id x }
  | none => s

def clampLevel (lo hi l : Nat) : Nat := max lo (min l hi)

/-- A stage is released onto a controller (R294). -/
def Ctl.release (x : Ctl) (b : BitVec 128) : Ctl :=
  let l := if x.inuse then x.level else blkLevel b
  { x with inuse := true, level := clampLevel (blkMin b) (covTop b) l, launches := x.launches + 1 }

/-- COVCTL.RESET (R295). -/
def Ctl.reset (x : Ctl) : Ctl :=
  { x with inuse := false, streak := 0, phase := 0, errsum := 0, errmax := 0, count := 0, lastmean := 0 }

/-- An update (R305); `last` for the completion of the stage. -/
def Ctl.update (x : Ctl) (c : Cov) (last : Bool) : Ctl :=
  let m := roundTo fp64 Mode.rne false (divV (decodeF fp64 x.errsum.toNat) (intVal x.count)).val
  let mv := decodeF fp64 m.bits
  let t := decodeF fp16 (blkTarget c.block)
  let half := (mulV t (.fin false 1 2)).val
  let y :=
    if x.count = 0 then x
    else
      let x := { x with lastmean := .ofNat 64 m.bits }
      if ltV t mv then { x with level := max (x.level - 1) c.minLevel, streak := 0 }
      else if ltV mv half then
        (if x.streak = 1 then { x with level := min (x.level + 1) c.maxLevel, streak := 0 } else { x with streak := 1 })
      else { x with streak := 0 }
  { y with errsum := 0, errmax := 0, count := 0
           phase := if last && covAutoph c.record then (y.phase + 1) % 16 else y.phase }

/-! ## The walker (R296 to R298) -/

def maskOfPoints (l : List Nat) : Word := .ofNat 64 (l.foldl (fun (n : Nat) p => n + 2 ^ p) 0)

/-- The batch word of a block. -/
def batchWord (c : Cov) (n : Nat) : Word :=
  .ofNat 64 (covOrigin c n 0 + 2 ^ 16 * covOrigin c n 1 + 2 ^ 32 * covOrigin c n 2)

/-- The block to claim next: the lowest of those returned, else the next one. -/
def nextBlock (c : Cov) : Option Nat :=
  match c.returned with
  | b :: r => some (r.foldl min b)
  | [] => if c.next < covTotal c then some c.next else none

def State.setCovs (s : State) (x : Tbl Cov) : State := { s with covs := x }

/-- The walker's answer to a strand. After an error above BOUND with BFULL, LEVEL 0 is captured as it is, whatever MINLEVEL, until
an update moves it (R296, R306; log 65). -/
def grant (s : State) (key k : Nat) (c : Cov) (d : XReg) : State :=
  let rest := c.requests.drop 1
  let t := s.strand k
  let put (a b e f : Word) (t : Strand) : Strand :=
    (((t.writeX d a).writeX (d + 1) b).writeX (d + 2) e).writeX (d + 3) f
  let go (t : Strand) : Strand := { t with wait := .none, pc := t.pc + 4 }
  match nextBlock c with
  | none => (s.setStrand k (go (put (.ofNat 64 (2 ^ 63)) 0 0 0 t))).setCovs (Tbl.put s.covs key { c with requests := rest })
  | some b =>
    let x := s.ctl c.ctx c.ctl
    let l := if c.bound && covBfull c.record && x.level = 0 then 0 else clampLevel c.minLevel c.maxLevel x.level
    let ph := (covPhase c + (if covAutoph c.record then x.phase else 0)) % 16
    let e := (b, l, ph)
    let c1 := { c with requests := rest, claimed := c.claimed ++ [e], returned := c.returned.filter (fun r => r ≠ b)
                       next := if b = c.next then c.next + 1 else c.next }
    (s.setStrand k { go (put (batchWord c b) (maskOfPoints (covComputed c e)) (maskOfPoints (covAudits c e)) (.ofNat 64 (l + 16 * ph)) t)
                     with batch := some b }).setCovs (Tbl.put s.covs key c1)

/-- BATCH_GRANT: the oldest request is answered. -/
def execBatchGrant (l st : Nat) (s : State) : Res :=
  match Tbl.look s.covs (stageKey l st) with
  | some c =>
    (match c.requests with
     | k :: _ => (match (s.strand k).wait with
       | .batch d => .next (grant s (stageKey l st) k c d)
       | _ => .next s)
     | [] => .next s)
  | none => .next s

/-! ## CVPT, CVDONE, CVSTAT (R296, R299, R309) -/

/-- The coverage stage of a strand, with its key. -/
def covOf (s : State) (k : Nat) : Option (Nat × Cov) :=
  match s.groupOf k with
  | some (l, st) => (Tbl.look s.covs (stageKey l st)).map (fun c => (stageKey l st, c))
  | none => none

/-- Whether a strand has staged the CVDONE of its batch. -/
def doneStaged (t : Strand) : Bool := t.staged.any (fun o => match o with | .cvdone _ => true | _ => false)

def execCvpt (d : XReg) (s : State) : Res :=
  checked (.cvpt d) s
    (match covOf s s.fs with
     | none => trap s Cause.covBatch 0
     | some (key, _) =>
       if s.cur.batch.isSome && !(doneStaged s.cur) then trap s Cause.covBatch 1
       else if commitBlocked s s.fs then hold (commitDecks s s.fs) s
       else
         let s1 := regionAt s s.fs s.pc
         match Tbl.look s1.covs key with
         | none => .next s1
         | some c => waitFor (.batch d) { s1 with covs := Tbl.put s1.covs key { c with requests := c.requests ++ [s.fs] } })

def execCvdone (a : XReg) (s : State) : Res :=
  checked (.cvdone a) s
    (let xa := s.readX a
     match covOf s s.fs, s.cur.batch with
     | some (_, c), some b =>
       if xa ≠ batchWord c b || doneStaged s.cur then trap s Cause.covBatch xa
       else if 32 ≤ stagedCount s.cur then trap s Cause.stageFull 0
       else retire 4 (stage s (.cvdone b))
     | _, _ => trap s Cause.covBatch xa)

/-- What CVSTAT reads of a controller. -/
def Ctl.stat (x : Ctl) (sel : Nat) : Word :=
  .ofNat 64 (
    if sel = 0 then x.level + 16 * x.streak + 2 ^ 8 * x.phase + (if x.inuse then 2 ^ 12 else 0) + 2 ^ 32 * x.launches.toNat
    else if sel = 1 then x.errsum.toNat
    else if sel = 2 then x.errmax.toNat + 2 ^ 32 * (x.count % 2 ^ 32)
    else if sel = 3 then x.lastmean.toNat
    else if sel = 4 then x.computed else if sel = 5 then x.audited else x.recon)

def execCvstat (d : XReg) (sel : BitVec 3) (s : State) : Res :=
  checked (.cvstat d sel) s
    (waitFor (.reply { len := 4, vw := none, decks := []
                       xw := [(d, (s.ctl (ctxOf (coreOf s.fs)) (fld s.curCore.covctl.toNat 0 6)).stat sel.toNat)] }) s)

/-- COVCTL_RESET: the oldest reset reaches its controller (R295). -/
def execCovctlReset (s : State) : Res :=
  match s.covResets with
  | (ctx, id) :: r => .next ({ s with covResets := r }.setCtl ctx id (s.ctl ctx id).reset)
  | [] => .next s

/-! ## Neighbours (R301) -/

/-- Block coordinates of a point along a and b. -/
def ptA (c : Cov) (p : Nat) : Nat := if covDims c = 1 then p else p % 8
def ptB (c : Cov) (p : Nat) : Nat := if covDims c = 1 then 0 else p / 8
def ptOf (c : Cov) (a b : Nat) : Nat := if covDims c = 1 then a else a + 8 * b

/-- The lattice points of a row of a block, ascending. -/
def rowPoints (c : Cov) (e : Nat × Nat × Nat) (b : Nat) : List Nat :=
  (List.range (if covDims c = 1 then 64 else 8)).filter (fun a => covLattice c e.1 (ptOf c a b) e.2.1 e.2.2)

/-- The row set of row b, ascending. -/
def rowSet (c : Cov) (e : Nat × Nat × Nat) (b : Nat) : List Nat :=
  if !(rowPoints c e b).isEmpty then [b]
  else
    let rows := (List.range (if covDims c = 1 then 1 else 8)).filter (fun r => !(rowPoints c e r).isEmpty)
    ((rows.filter (fun r => r < b)).getLast?).toList ++ ((rows.filter (fun r => b < r)).head?).toList

/-- lo(r) and hi(r) of a point's a on a row, a missing one taken from the other. -/
def rowLoHi (c : Cov) (e : Nat × Nat × Nat) (a r : Nat) : Nat × Nat :=
  let ps := rowPoints c e r
  if ps.contains a then (a, a)
  else
    let lo := (ps.filter (fun x => x < a)).getLast?
    let hi := (ps.filter (fun x => a < x)).head?
    ((lo.or hi).getD 0, (hi.or lo).getD 0)

/-- N(p), ascending in (a, b). -/
def neighbours (c : Cov) (e : Nat × Nat × Nat) (p : Nat) : List (Nat × Nat) :=
  let rows := rowSet c e (ptB c p)
  let pts := (rows.flatMap (fun r => let q := rowLoHi c e (ptA c p) r; [(q.1, r), (q.2, r)])).eraseDups
  (List.range 64).flatMap (fun a => pts.filter (fun q => q.1 = a))

/-! ## Kernels (R302, R303) -/

/-- The working precision: a rounding to a format, or exact for integers. -/
def roundW (w : Option Fmt) (v : Val) : Val :=
  match w with
  | none => v
  | some f => if v.isNan then .nan false else decodeF f (roundTo f Mode.rne false v).bits

/-- (1 − t) x + t y with t = num / den. -/
def linStep (w : Option Fmt) (num den : Nat) (x y : Val) : Val :=
  roundW w (addV Mode.rne (mulV (.fin false (den - num) den) x).val (mulV (.fin false num den) y).val).val

/-- The value along a row. -/
def linRow (w : Option Fmt) (c : Cov) (e : Nat × Nat × Nat) (V : Nat → Val) (a r : Nat) : Val :=
  let q := rowLoHi c e a r
  if q.1 = q.2 then V (ptOf c q.1 r) else linStep w (a - q.1) (q.2 - q.1) (V (ptOf c q.1 r)) (V (ptOf c q.2 r))

def absDiff (a b : Nat) : Nat := (a - b) + (b - a)

/-- The nearest point of N(p): smallest distance, then lower a, then lower b. -/
def nearestPoint (c : Cov) (e : Nat × Nat × Nat) (p : Nat) : Nat :=
  let a := ptA c p
  let b := ptB c p
  let d (q : Nat × Nat) : Nat := absDiff q.1 a + absDiff q.2 b
  match neighbours c e p with
  | [] => p
  | q :: r => let m := r.foldl (fun (m : Nat × Nat) x => if d x < d m then x else m) q; ptOf c m.1 m.2

/-- The estimate of one element by kernel linear, bilinear or mean. -/
def kernelVal (w : Option Fmt) (c : Cov) (e : Nat × Nat × Nat) (V : Nat → Val) (p : Nat) : Val :=
  let a := ptA c p
  let b := ptB c p
  let kernel := blkKernel c.block
  let rows := rowSet c e b
  let lo := rows.headD b
  let hi := rows.getLastD b
  if kernel = 0 then V (nearestPoint c e p)
  else if kernel = 1 then linRow w c e V a (if absDiff hi b < absDiff lo b then hi else lo)
  else if kernel = 2 then
    if lo = hi then linRow w c e V a lo
    else linStep w (b - lo) (hi - lo) (linRow w c e V a lo) (linRow w c e V a hi)
  else
    let vs := (neighbours c e p).map (fun (q : Nat × Nat) => V (ptOf c q.1 q.2))
    let sum := match vs with | [] => .zero false | v :: r => r.foldl (fun (x : Val) y => roundW w (addV Mode.rne x y).val) v
    roundW w (divV sum (intVal vs.length)).val

/-- Element values: integers by signedness, floats decoded, narrow ones to binary32 (R303, R304). -/
def covElemVal (c : Cov) (bits : Nat) : Val :=
  let ct := covCtype c.record
  if isInt ct || ct = 10 then intVal (intElem (covWidth c.record) (!(covUnsigned c.record) && ct ≠ 10) bits)
  else
    let v := decodeF (fmtOf ct (covNfmt c.record)) bits
    if ct = 9 then roundW (some fp32) v else v

/-- The estimate of one element as a pattern (R303): a copy where nearest is the only kernel, but that a NaN result is canonical. -/
def estimateElem (c : Cov) (e : Nat × Nat × Nat) (V : Nat → Nat) (p : Nat) : Nat :=
  let ct := covCtype c.record
  let w := covWidth c.record
  if ct = 10 || (covIndex c.record && isInt ct) then V (nearestPoint c e p)
  else if isInt ct then
    let sg := !(covUnsigned c.record)
    match kernelVal none c e (fun q => covElemVal c (V q)) p with
    | .fin neg n d =>
      let q := (toIntMag .rne neg n d).1
      let x : Int := if neg then -(q : Int) else q
      (max (intMin w sg) (min x (intMax w sg)) % 2 ^ w).toNat
    | _ => 0
  else
    let f := fmtOf ct (covNfmt c.record)
    let v := kernelVal (some (if ct = 8 then fp64 else fp32)) c e (fun q => covElemVal c (V q)) p
    if v.isNan then (canonNan f 0).bits else if covIndex c.record then V (nearestPoint c e p) else (roundTo f Mode.rne false v).bits

/-! ## Audits (R304) -/

/-- The error of one element as a binary32 value. Equal infinities have no stated difference: a free value (log 7). -/
def elemError (c : Cov) (fresh exact est : Nat) : Val :=
  let x := covElemVal c exact
  let y := covElemVal c est
  if x.isNan && y.isNan then .zero false
  else if x.isNan || y.isNan then .inf false
  else
    let d := addV Mode.rne x y.negate
    match roundW (some fp32) d.val with
    | .nan _ => decodeF fp32 (Config.pick 31 fresh % 2 ^ 32)
    | .inf _ => .inf false
    | .fin _ n m => .fin false n m

/-- The larger of two errors. -/
def maxErr (a b : Val) : Val := if ltV a b then b else a

/-- An audited point's error enters the accumulators, and the bound is checked (R304, R306). -/
def auditPoint (c : Cov) (err : Val) (x : Ctl) : Ctl × Bool :=
  let sum := roundTo fp64 Mode.rne false (addV Mode.rne (decodeF fp64 x.errsum.toNat) err).val
  let high := decide (covBoundBits c.record % 2 ^ 15 ≠ 0) && ltV (decodeF fp16 (covBoundBits c.record)) err
  ({ x with errsum := .ofNat 64 sum.bits
            errmax := .ofNat 32 (roundTo fp32 Mode.rne false (maxErr (decodeF fp32 x.errmax.toNat) err)).bits
            count := x.count + 1
            level := if high && covBfull c.record then 0 else x.level }, high)

/-! ## A block's reconstruction -/

/-- Elements of a cell. -/
def covElems (c : Cov) : Nat := 8 * covCsize c / covWidth c.record

/-- A fault of the unit, with the address of the cell it meets. -/
abbrev CellFault := AccFault × Word

/-- The cells of a list of points, read through the translation of a core of the stage (R311). -/
def readCells (s : State) (core : Nat) (c : Cov) (n : Nat) : List Nat → Except CellFault (List (Nat × Nat))
  | [] => .ok []
  | p :: r =>
    match engPieces s core .read (sectorsOf (covAddr c n p) (covCsize c) 66) with
    | .error e => .error (e, .ofNat 64 (covAddr c n p))
    | .ok ps =>
      match readCells s core c n r with
      | .error e => .error e
      | .ok l => .ok ((p, readPieces s.mem ps) :: l)

/-- The single-bit errors in cells that have been read are corrected (R265). -/
def seeCells (s : State) (core : Nat) (c : Cov) (n : Nat) (ps : List Nat) : State :=
  ps.foldl (fun (s : State) p => match engPieces s core .read (sectorsOf (covAddr c n p) (covCsize c) 66) with
    | .ok qs => qs.foldl (correctSoft · false) s
    | .error _ => s) s

/-- The bytes of pieces with a value, lowest first. -/
def pieceBytes : List Piece → Nat → List (Nat × Byte)
  | [], _ => []
  | p :: r, v => (List.range p.n).map (fun i => (p.hit.loc + i, BitVec.ofNat 8 (v / 256 ^ i))) ++ pieceBytes r (v / 256 ^ p.n)

/-- The estimate of a cell. -/
def estimateCell (c : Cov) (e : Nat × Nat × Nat) (cells : List (Nat × Nat)) (p : Nat) : Nat :=
  let w := covWidth c.record
  let cell (q : Nat) : Nat := ((cells.find? (fun x => x.1 = q)).map (fun x => x.2)).getD 0
  packElems w ((List.range (covElems c)).map (fun i => estimateElem c e (fun q => elemOf w (cell q) i) p))

/-- The reconstructed bytes of a list of points, or the first fault. -/
def writeCells (s : State) (core : Nat) (c : Cov) (e : Nat × Nat × Nat) (cells : List (Nat × Nat)) :
    List Nat → Except CellFault (List (Nat × Byte))
  | [] => .ok []
  | p :: r =>
    match engPieces s core .write (sectorsOf (covAddr c e.1 p) (covCsize c) 66) with
    | .error x => .error (x, .ofNat 64 (covAddr c e.1 p))
    | .ok ps =>
      match writeCells s core c e cells r with
      | .error x => .error x
      | .ok l => .ok (pieceBytes ps (estimateCell c e cells p) ++ l)

/-- The audits of a block, in ascending point number: R304 does not fix the order in which they enter ERRSUM (DESIGN CHOICE, log 42). -/
def auditAll (fresh : Nat) (c : Cov) (e : Nat × Nat × Nat) (cells : List (Nat × Nat)) : List Nat → Ctl × Bool → Ctl × Bool
  | [], r => r
  | p :: ps, r =>
    let w := covWidth c.record
    let exact := ((cells.find? (fun x => x.1 = p)).map (fun x => x.2)).getD 0
    let est := estimateCell c e cells p
    let err := (List.range (covElems c)).foldl (fun (m : Val) i => maxErr m (elemError c fresh (elemOf w exact i) (elemOf w est i))) (.zero false)
    let q := auditPoint c err r.1
    auditAll fresh c e cells ps (q.1, r.2 || q.2)

/-- Updates at an interval of completed blocks; the last block's update is the completion's (R305). -/
def intervalDue (c : Cov) (n : Nat) : Bool :=
  blkInterval c.block ≠ 0 && n % 2 ^ (blkInterval c.block - 1) = 0 && n < covTotal c

/-- One block: its cells, its audits, its update. -/
def reconBlock (s : State) (core : Nat) (c : Cov) (e : Nat × Nat × Nat) : Except CellFault (Cov × Ctl) :=
  match readCells s core c e.1 (covComputed c e ++ covAudits c e) with
  | .error x => .error x
  | .ok cells =>
    match writeCells s core c e cells (covSkipped c e) with
    | .error x => .error x
    | .ok bytes =>
      let a := auditAll s.fresh c e cells (covAudits c e) (s.ctl c.ctx c.ctl, false)
      let x := { a.1 with computed := a.1.computed + (covComputed c e).length, audited := a.1.audited + (covAudits c e).length
                          recon := a.1.recon + (covSkipped c e).length }
      let c1 := { c with done := c.done.filter (fun (d : Nat × Nat × Nat) => d.1 ≠ e.1), reconstructed := c.reconstructed ++ [e]
                         values := c.values ++ bytes, bound := c.bound || a.2, susp := none }
      .ok (c1, if intervalDue c c1.reconstructed.length then x.update c false else x)

/-- Links whose sender is one of the cores close (R311). -/
def closeLinks (s : State) (l : Nat) (cores : List Nat) : State :=
  { s with links := s.links.map (fun (k : Link) => if k.launch = l ∧ cores.contains k.sender then { k with closed := true } else k) }

/-- COV_FAULT with its underlying cause: the stage ends, the others run on, and the launch completes with the last (R311). A stage of a launch that has ended records the
fault in the dump under the cause met, for COV_FAULT stands in completion records only (R385), and its unit ends (R391; log 62).
Where several cells of a block or several stages fault, the completion record has the cell met first, computed cells before audited
before skipped ones, of the stage that faulted first: R311 speaks of one (DESIGN CHOICE, log 42). -/
def covFault (s : State) (l st : Nat) (c : Cov) (inner : Byte) (va : Word) : State :=
  match s.launch l with
  | none => s
  | some la =>
    let core := (s.coresOf l st).headD 0
    if la.ended then
      appendFault { flushValues s c with covs := Tbl.del s.covs (stageKey l st) } la l st
        (asyncFault inner 0xFFFF va core 0)
    else
      let s1 := setStageSt (stopGroup (endIdle s l st) l st) l st .ended
      let s2 := closeLinks (flushValues s1 c) l (s1.coresOf l st)
      let s3 := { s2 with covs := Tbl.del s2.covs (stageKey l st) }
      match s3.launch l with
      | some la =>
        let s4 := s3.setLaunch l { la with covFault := some (la.covFault.getD va) }
        if allEnded la then completeLaunch s4 l else s4
      | none => s3

/-- A fault of the unit: a translation fault suspends it, every other ends the stage (R311, R393). -/
def reconFault (s : State) (l st : Nat) (c : Cov) (cause : Byte) (va cell : Word) : State :=
  if cause.toNat / 32 = 4 then
    let now := s.reft.toNat
    let put (s : State) (x : Susp) : State := { s with covs := Tbl.put s.covs (stageKey l st) { c with susp := some x } }
    match c.susp.filter (fun x => x.va = va) with
    | some x => put s { x with cause := cause, lastTry := now, due := false }
    | none => engineRecord (put s { cause := cause, va := va, since := now, lastTry := now, off := 0, due := false }) l 1 0 cause va 0
  else covFault s l st c cause cell

/-- The values of a block of a stage that no longer runs become visible at once (R391). -/
def settleBlock (s : State) (l st : Nat) (c : Cov) : State :=
  if stageLive s (stageKey l st) then { s with covs := Tbl.put s.covs (stageKey l st) c }
  else { flushValues s c with covs := Tbl.put s.covs (stageKey l st) { c with values := [] } }

/-- The unit reconstructs the block that became done first. -/
def reconStep (s : State) (l st : Nat) (c : Cov) : State :=
  match c.done with
  | [] => s
  | e :: _ =>
    let core := (s.coresOf l st).headD 0
    match reconBlock s core c e with
    | .error x => reconFault s l st c x.1.1 x.1.2 x.2
    | .ok (c1, x) => (settleBlock (seeCells s core c e.1 (covComputed c e ++ covAudits c e)) l st c1).setCtl c.ctx c.ctl x

/-- BLOCK_RECONSTRUCT (R301 to R306). -/
def execBlockReconstruct (l st : Nat) (s : State) : Res :=
  match Tbl.look s.covs (stageKey l st) with
  | some c => .next (if c.susp.isNone then reconStep s l st c else s)
  | none => .next s

/-- ENGINE_FAULT_RETRY (R393). -/
def execEngineFaultRetry (e : EngineRef) (s : State) : Res :=
  match e with
  | .copy core ch => .next (retryCopy core ch s)
  | .recon l st =>
    match Tbl.look s.covs (stageKey l st) with
    | some c => .next (match c.susp with | some x => if x.retryDue s.reft.toNat then reconStep s l st c else s | none => s)
    | none => .next s

/-- ENGINE_FAULT_EXPIRY (R393). -/
def execEngineFaultExpiry (e : EngineRef) (s : State) : Res :=
  match e with
  | .copy core ch => .next (expireCopy core ch s)
  | .recon l st =>
    match Tbl.look s.covs (stageKey l st) with
    | some c =>
      .next (match c.susp, c.done with
        | some x, e :: _ =>
          if x.expired s.reft.toNat then
            (match reconBlock s ((s.coresOf l st).headD 0) c e with
              | .error y => if y.1.2 = x.va then covFault s l st c y.1.1 y.2 else reconStep s l st c
              | .ok _ => reconStep s l st c)
          else s
        | _, _ => s)
    | none => .next s

end Sys2Proof.Machine
end

