-- ==== Sys2Proof/Machine/Launch.lean ====
section
/-!
DEFINITION. Launches: the pipeline descriptor (R74, R75, R376), binding and release (R77), pre-emption for placement and
the restart after it (R396), restarts of groups (R89), completion of stages and launches (R78, R308, R373).
-/

namespace Sys2Proof.Machine

/-! ## The pipeline descriptor (R376) -/

/-- A descriptor as read. -/
structure Pipeline where
  fpc : Word
  sampling : Bool
  stages : List StageDesc
  chans : List ChanDesc
  deriving DecidableEq, Repr

/-- Byte k of a number. -/
def byteAt (w k : Nat) : Nat := fld w (8 * k) 8

/-- A stage entry from its 80 bytes. -/
def stageDesc (w : Nat) : StageDesc :=
  { entry := .ofNat 64 (fld w 0 64), a0 := .ofNat 64 (fld w 64 64), a1 := .ofNat 64 (fld w 128 64)
    a2 := .ofNat 64 (fld w 192 64), a3 := .ofNat 64 (fld w 256 64)
    x := byteAt w 40, y := byteAt w 41, w := byteAt w 42, h := byteAt w 43, mode := byteAt w 44, count := byteAt w 45
    spaddr := .ofNat 64 (fld w 384 64), splen := fld w 448 32
    cov := if byteAt w 46 % 2 = 1 then some (.ofNat 128 (w / 2 ^ 512)) else none }

/-- Reserved bytes of a stage entry. -/
def stageZero (w : Nat) : Bool :=
  byteAt w 46 / 2 = 0 && byteAt w 47 = 0 && fld w 480 32 = 0 && (byteAt w 46 % 2 = 1 || fld w 512 128 = 0)

/-- A channel entry from its 8 bytes. -/
def chanDesc (w : Nat) : ChanDesc :=
  { from_ := byteAt w 0, ks := byteAt w 1, dest := byteAt w 2, kr := byteAt w 3, slots := byteAt w 4 }

/-- Slices of n bytes of a number. -/
def slices (w n count : Nat) : List Nat := (List.range count).map (fun i => fld w (8 * n * i) (8 * n))

/-- The descriptor after its header, from the header and the bytes that follow it. Its FPC value goes to every strand (R186). -/
def pipelineOf (head rest : Nat) : Pipeline :=
  let ns := byteAt head 0
  { fpc := .ofNat 64 (fld head 72 4 * 2 ^ 8 + fld head 96 32 * 2 ^ 32), sampling := byteAt head 2 % 2 = 1
    stages := (slices rest 80 ns).map stageDesc, chans := (slices (rest / 2 ^ (640 * ns)) 8 (byteAt head 1)).map chanDesc }

/-- Strand slots of a mode (R62). -/
def modeSlots (m : Nat) : Nat := 16 / 2 ^ m

def StageDesc.meets (a b : StageDesc) : Bool := a.x < b.x + b.w && b.x < a.x + a.w && a.y < b.y + b.h && b.y < a.y + a.h

/-- Pairs of a list, in order. -/
def pairsOf {α : Type} : List α → List (α × α)
  | [] => []
  | a :: r => r.map (fun b => (a, b)) ++ pairsOf r

/-- A stage that breaks R69, R74 or R62. -/
def StageDesc.bad (c : Ctx) (sampling : Bool) (d : StageDesc) : Bool :=
  d.entry.toNat % 4 ≠ 0 || d.w = 0 || d.h = 0 || 2 ^ c.wlog < d.x + d.w || 2 ^ c.hlog < d.y + d.h || 4 ≤ d.mode
    || d.count = 0 || modeSlots d.mode < d.count || (sampling && d.count < 2) || d.splen % 32 ≠ 0

/-- A channel that breaks R74 or R75. -/
def ChanDesc.bad (p : Pipeline) (ch : ChanDesc) : Bool :=
  match p.stages[ch.from_]?, p.stages[ch.dest]? with
  | some a, some b =>
    ch.dest ≤ ch.from_ || 16 ≤ ch.ks || 16 ≤ ch.kr || ch.slots = 0 || 64 < ch.slots
      || !((a.w = b.w && a.h = b.h) || (b.w = 1 && b.h = 1))
  | _, _ => true

/-- The allowance that one channel brings to each core of its receiving stage. -/
def ChanDesc.arriving (p : Pipeline) (ch : ChanDesc) : Nat :=
  match p.stages[ch.from_]?, p.stages[ch.dest]? with
  | some a, some b => if a.w = b.w && a.h = b.h then ch.slots else ch.slots * (a.w * a.h)
  | _, _ => 0

/-- The channel slots of each core of a stage (R75, R87). -/
def Pipeline.slotsAt (p : Pipeline) (st : Nat) : Nat :=
  ((p.chans.filter (fun (c : ChanDesc) => c.dest = st)).map (fun (c : ChanDesc) => c.arriving p)).foldl (· + ·) 0

/-- What R376 refuses, the coverage stages apart; the reserved bits of the FPC value among the rest (R7, R186; log 59). -/
def pipelineBad (c : Ctx) (head rest : Nat) : Bool :=
  let p := pipelineOf head rest
  let ns := byteAt head 0
  byteAt head 2 / 2 ≠ 0 || fld head 24 40 ≠ 0 || fld head 64 8 ≠ 0 || fld head 76 20 ≠ 0 || fld head 128 384 ≠ 0
    || (slices rest 80 ns).any (fun w => !(stageZero w))
    || (slices (rest / 2 ^ (640 * ns)) 8 (byteAt head 1)).any (fun w => fld w 40 24 ≠ 0)
    || p.stages.any (StageDesc.bad c p.sampling) || (pairsOf p.stages).any (fun (e : StageDesc × StageDesc) => e.1.meets e.2)
    || p.chans.any (ChanDesc.bad p)
    || (List.range ns).any (fun st => 512 < p.slotsAt st
        || (match p.stages[st]? with | some d => d.spaddr ≠ 0 && 0x1FF800 - 64 * p.slotsAt st < d.splen | none => false))

/-- Reads the descriptor at an address: a fault of the access, none where it is malformed. -/
def readPipeline (s : State) (who : Who) (c : Ctx) (va : Nat) : Except AccFault (Option Pipeline) :=
  if va % 64 ≠ 0 then .ok none else
  match feRead s who va 64 with
  | .error e => .error e
  | .ok head =>
    if byteAt head 0 = 0 || 16 < byteAt head 0 then .ok none else
    match feRead s who (va + 64) (80 * byteAt head 0 + 8 * byteAt head 1) with
    | .error e => .error e
    | .ok rest => .ok (if pipelineBad c head rest then none else some (pipelineOf head rest))

/-- A stage whose output record is named through the own window, which names no core for the front end (R430). -/
def ownRecord (p : Pipeline) : Option StageDesc :=
  p.stages.find? (fun (d : StageDesc) => d.cov.isSome && d.a0.toNat % 64 = 0 && d.a0.toNat / 2 ^ 44 = 0xFFE)

/-- The coverage record of a stage, none where R293 refuses the stage: a record that cannot be read makes it malformed. -/
def readRecord (s : State) (who : Who) (d : StageDesc) (b : BitVec 128) : Option V512 :=
  if d.a0.toNat % 64 ≠ 0 then none else
  match feRead s who d.a0.toNat 64 with
  | .error _ => none
  | .ok r => if covMalformed (.ofNat 512 r) b then none else some (.ofNat 512 r)

def coverageOk (s : State) (who : Who) (p : Pipeline) : Bool :=
  p.stages.all (fun (d : StageDesc) => match d.cov with | some b => (readRecord s who d b).isSome | none => true)

/-- The images of the stages, none for a stage without one. -/
def readImages (s : State) (who : Who) : List StageDesc → Except AccFault (List Nat)
  | [] => .ok []
  | d :: r =>
    match (if d.spaddr = 0 then .ok 0 else feRead s who d.spaddr.toNat d.splen), readImages s who r with
    | .error e, _ => .error e
    | _, .error e => .error e
    | .ok v, .ok l => .ok (v :: l)

/-! ## Cores a launch needs -/

/-- The logical cores of a list of stages. -/
def coresOfStages (ctx : Nat) (ds : List StageDesc) : List Nat := ds.flatMap (stageCores ctx)

/-- The launches that hold one of some physical cores. -/
def occupants (s : State) (phys : List Nat) : List Nat :=
  (s.cores.filterMap (fun (e : Nat × Core) => if e.2.bound && phys.contains (s.phys e.1) then e.2.launch else none)).eraseDups

def launchCores (s : State) (l : Nat) : List Nat :=
  match s.launch l with | some la => coresOfStages la.ctx la.stages | none => []
def launchPhys (s : State) (l : Nat) : List Nat := (launchCores s l).map s.phys
def prioOf (s : State) (l : Nat) : Nat := match s.launch l with | some la => la.prio | none => 0
def isPreempted (s : State) (l : Nat) : Bool := match s.launch l with | some la => la.preempted | none => false

/-- Whether a core's unit takes groups of a partition: its deck serves and belongs to it, and no round has frozen it (R19, R27, R31,
R419). -/
def coreServes (s : State) (part phys : Nat) : Bool :=
  deckServes s (deckOf phys) && (s.tower (deckOf phys / 4)).part.toNat = part && !(edged s part (.core phys))

/-- A launch is held while its core table names a core of a changing deck (R27). -/
def tableHeld (s : State) (c : Ctx) : Bool := c.place.any (fun (e : Nat × Nat) => deckChanging s (deckOf e.2))

/-- The physical cores of the core table of a launch's context. -/
def tablePhys (s : State) (l : Nat) : List Nat :=
  match (s.launch l).bind (fun la => s.ctx la.ctx) with | some c => c.place.map (fun e => e.2) | none => []

/-- The physical cores that steps in flight hold (R363). -/
def stepPhys (s : State) : List Nat :=
  s.planners.flatMap (fun (e : Nat × Planner) => match e.2.flight with | some f => f.cores.map s.phys | none => [])

/-- A pre-empted launch that takes the cores first (R396). -/
def waitsAhead (s : State) (prio : Nat) (phys : List Nat) : Bool :=
  s.launches.any (fun (e : Nat × Launch) => e.2.preempted && prio ≤ e.2.prio && (tablePhys s e.1).any (fun p => phys.contains p))

/-- Nothing of a discarded launch is under way: no committed job, no store that had issued, no decrement, call or reply in flight, no coverage block that is
done and still to be reconstructed in scratchpads that another launch would overwrite (R310; log 49). -/
def quiet (s : State) (l : Nat) : Bool :=
  (launchCores s l).all (fun c => (s.core c).jobs.isEmpty) && s.decrs.all (fun (d : Decr) => d.launch ≠ l)
    && s.lates.all (fun (x : Late) => !((launchCores s l).contains (coreOf x.strand)))
    && s.calls.all (fun (f : Flight) => f.launch ≠ l) && s.replies.all (fun (r : RReply) => r.launch ≠ l)
    && s.covs.all (fun (e : Nat × Cov) => e.1 / 16 ≠ l || e.2.done.isEmpty)

/-- Pre-emption for placement, by the LAUNCH at an address of a queue or by a step: every group of the launch is discarded
(R396). -/
def preempt (s : State) (by' : Option (Nat × Nat)) (l : Nat) : State :=
  let s1 := discardLaunch s l
  match s1.launch l with
  | some la => s1.setLaunch l { la with preempted := true, everPreempted := true, displacer := by' }
  | none => s1

def preemptAll (s : State) (by' : Option (Nat × Nat)) : List Nat → State
  | [] => s
  | l :: r => preemptAll (if isPreempted s l then s else preempt s by' l) by' r

/-- The internal step queue, which stands in no run list (R363): as a displacer its packet is the partition of the step. -/
def stepQueue : Nat := 2 ^ 64

/-- Whether what displaced a launch still waits for the cores: a LAUNCH at the head of its queue, or a step to be formed. -/
def displacerWaits (s : State) (la : Launch) : Bool :=
  match la.displacer with
  | some (q, pkt) =>
    if q = stepQueue then
      let p := Tbl.get s.planners pkt Planner.empty
      p.flight.isNone && (!p.ring.isEmpty || p.replan.isSome)
    else qState s q = 1 && qRptr s q = pkt
  | none => false

/-- The LAUNCH of a queue, or the step of a partition, no longer waits. -/
def placed (s : State) (q pkt : Nat) : State :=
  { s with launches := s.launches.map (fun (e : Nat × Launch) =>
      if e.2.displacer = some (q, pkt) then (e.1, { e.2 with displacer := none }) else e) }

/-! ## The context save area (R88, R396) -/

def inPad (core loc : Nat) : Bool := padLoc core 0 ≤ loc && loc < padLoc core (2 ^ 21)

def saveCore (s : State) (k : Nat) : SavedCore :=
  { core := s.core k, strands := s.strands.filter (fun (e : Nat × Strand) => e.1 / 16 = k)
    inbox := s.inbox.filter (fun (e : Nat × List Msg) => e.1 / 16 = k)
    pad := s.mem.filter (fun (c : Host.Cell) => inPad k c.1), marks := s.poison.filter (inPad k) }

def putTable {α : Type} (t : Tbl α) : List (Nat × α) → Tbl α
  | [] => t
  | e :: r => putTable (Tbl.put t e.1 e.2) r

/-- The marks of a scratchpad with those of a save area: a mark stays with the byte wherever that is written (R265). -/
def putMarks (poison : List Nat) (k : Nat) (marks : List Nat) : List Nat := poison.filter (fun a => !(inPad k a)) ++ marks

/-- The single-bit errors in n bytes of a scratchpad are gone: the bytes are written. -/
def dropSoft (soft : List Nat) (k n : Nat) : List Nat := soft.filter (fun a => !(padLoc k 0 ≤ a && a < padLoc k n))

/-- A scratchpad with the contents of a save area. -/
def putPad (m : List Host.Cell) (k : Nat) (pad : List Host.Cell) : List Host.Cell :=
  pad.foldl (fun (m : List Host.Cell) c => Memory.write m c.1 c.2) (m.filter (fun (c : Host.Cell) => !(inPad k c.1)))

def restoreCore (s : State) (k : Nat) (v : SavedCore) : State :=
  { (s.setCore k { v.core with bound := true, jobs := (s.core k).jobs ++ v.core.jobs }) with
    poison := putMarks s.poison k v.marks, soft := dropSoft s.soft k (2 ^ 21)
    strands := putTable s.strands v.strands
    inbox := putTable (s.inbox.filter (fun (e : Nat × List Msg) => e.1 / 16 ≠ k)) v.inbox
    mem := putPad s.mem k v.pad }

def restoreCores (s : State) : List (Nat × SavedCore) → State
  | [] => s
  | e :: r => restoreCores (restoreCore s e.1 e.2) r

/-- A quiet pre-empted launch leaves its cores. -/
def vacate (s : State) (l : Nat) : State :=
  match s.launch l with
  | some la =>
    let cores := launchCores s l
    mapCores (s.setLaunch l { la with saved := cores.map (fun k => (k, saveCore s k)) }) (fun c => { c with bound := false }) cores
  | none => s

def vacateAll (s : State) : List Nat → State
  | [] => s
  | l :: r => vacateAll (vacate s l) r

/-! ## Binding and release (R77) -/

/-- The links of a launch's channels, one per sending core. -/
def linksFor (ctx l : Nat) (p : Pipeline) : List Link :=
  (List.range p.chans.length).flatMap (fun i =>
    match p.chans[i]? with
    | none => []
    | some ch => (match p.stages[ch.from_]?, p.stages[ch.dest]? with
      | some a, some b =>
        (List.range a.h).flatMap (fun j => (List.range a.w).map (fun k =>
          { launch := l, chan := i, sender := coreKey ctx (a.x + k) (a.y + j), ks := ch.ks
            receiver := if a.w = b.w && a.h = b.h then coreKey ctx (b.x + k) (b.y + j) else coreKey ctx b.x b.y
            kr := ch.kr, slots := ch.slots, closed := false }))
      | _, _ => []))

/-- The endpoints of a stage's cores. -/
def endsFor (p : Pipeline) (st : Nat) : Tbl Endpoint :=
  p.chans.foldl (fun (t : Tbl Endpoint) (ch : ChanDesc) =>
    let t1 := if ch.from_ = st then Tbl.put t ch.ks { send := true } else t
    if ch.dest = st then Tbl.put t1 ch.kr { send := false } else t1) []

/-- A core bound to a stage. -/
def boundCore (l st : Nat) (p : Pipeline) (d : StageDesc) : Core :=
  { Core.empty with
    launch := some l, stage := st, bound := true, mode := d.mode, count := d.count, sampling := p.sampling
    slots := Vector.ofFn (fun i => .ofNat 4 i.val), ends := endsFor p st, chanSlots := p.slotsAt st }

/-- A strand started at the stage's entry (R72, R77). -/
def startStrand (s : State) (fpc : Word) (d : StageDesc) (k : Nat) : State :=
  let now := s.reft.toNat
  let t := { Strand.empty with fpc := fpc, active := true, idleAt := now, epochs := epochsAt s (coreOf k) }
  takeTask (s.setStrand k t) k { entry := d.entry, xs := taskRegs d.a0 d.a1 d.a2 d.a3, id := 0, fpc := none, enq := now }

def startStrands (s : State) (fpc : Word) (d : StageDesc) : List Nat → State
  | [] => s
  | k :: r => startStrands (startStrand s fpc d k) fpc d r

/-- One core of a stage: endpoints and reserve, the image at offset 0, its strands. Jobs of an earlier launch run on (R391). -/
def startCore (s : State) (l st : Nat) (p : Pipeline) (d : StageDesc) (image k : Nat) : State :=
  let s1 := s.setCore k { boundCore l st p d with jobs := (s.core k).jobs }
  let s2 := { s1 with
    mem := if d.spaddr = 0 then s1.mem else Memory.writeN s1.mem (padLoc k 0) d.splen image
    poison := if d.spaddr = 0 then s1.poison else s1.poison.filter (fun a => !(padLoc k 0 ≤ a && a < padLoc k d.splen))
    soft := if d.spaddr = 0 then s1.soft else dropSoft s1.soft k d.splen
    inbox := s1.inbox.filter (fun (e : Nat × List Msg) => e.1 / 16 ≠ k)
    strands := s1.strands.filter (fun (e : Nat × Strand) => e.1 / 16 ≠ k) }
  startStrands s2 p.fpc d ((List.range d.count).map (fun i => k * 16 + i))

def startCores (s : State) (l st : Nat) (p : Pipeline) (d : StageDesc) (image : Nat) : List Nat → State
  | [] => s
  | k :: r => startCores (startCore s l st p d image k) l st p d image r

/-- A coverage stage takes its controller (R294). -/
def startCov (s : State) (who : Who) (ctx l st : Nat) (d : StageDesc) : State :=
  match d.cov with
  | none => s
  | some b =>
    match readRecord s who d b with
    | none => s
    | some rec' =>
      let c := covInit ctx rec' b
      let x := s.ctl ctx c.ctl
      { (s.setCtl ctx c.ctl (x.release b)) with covs := Tbl.put s.covs (stageKey l st) { c with seed := x.launches } }

/-- The stages in descending index order. -/
def startStages (s : State) (who : Who) (ctx l : Nat) (p : Pipeline) : List (Nat × StageDesc × Nat) → State
  | [] => s
  | (st, d, image) :: r =>
    startStages (startCores (startCov s who ctx l st d) l st p d image (stageCores ctx d)) who ctx l p r

/-- A launch starts on its cores. -/
def startLaunch (s : State) (q : Nat) (h : Hdr) (sigaddr sigval : Word) (ctx prio : Nat) (p : Pipeline) (images : List Nat) : State :=
  let l := s.nextId
  let la : Launch :=
    { ctx := ctx, qsb := q, prio := prio, pkt := .ofNat 64 (qRptr s q), hdr := h, sigaddr := sigaddr, sigval := sigval, fpc := p.fpc
      sampling := p.sampling, stages := p.stages, chans := p.chans, sts := p.stages.map (fun (_ : StageDesc) => StageSt.running)
      unconsumed := 0, discarded := 0, preempted := false, everPreempted := false, saved := [], fault := none, covBound := false
      covFault := none, displacer := none, ended := false, dump := none }
  let s := placed s q (qRptr s q)
  let s1 := { s with nextId := l + 1, launches := Tbl.put s.launches l la, links := s.links ++ linksFor ctx l p }
  let order := ((List.range p.stages.length).zip (p.stages.zip images)).reverse
  startAsync (startStages s1 (whoOf ctx) ctx l p order) q h (.launch l)

/-- The decks of a stage's cores. -/
def stageDecks (s : State) (l st : Nat) : List Nat := ((s.coresOf l st).map (fun k => deckOf (s.phys k))).eraseDups

/-- The stages of a launch that has just started which a relock holds, and all of lower index behind one, in descending order: they
are bound, and a GROUP_RESTART releases them after the step instant (R77, R415; log 76). -/
def holdStages (s : State) (l : Nat) (behind : Bool) : List Nat → State
  | [] => s
  | st :: r =>
    let ds := heldAt s (stageSender l st) (stageDecks s l st)
    if behind || !ds.isEmpty then holdStages (noteHeld (setStageSt (stopGroup s l st) l st .held) (stageSender l st) ds) l true r
    else holdStages s l behind r

/-- The priority of a queue: that of the thread that serves it, or of its list. -/
def queuePrio (s : State) (q : Nat) : Nat :=
  match threadOf s q with
  | some t => (s.thread t).prio
  | none => (((allQueues s).find? (fun e => e.2 = q)).map (fun e => e.1)).getD 0

/-- A launch on free cores starts; on cores of launches of lower priority it pre-empts them and starts once they are
quiet; otherwise it waits at the head of its queue. It waits for the steps that hold its cores, which have the highest priority
(R363), and for the end of a round, behind the marker that its cores take (R418). A relock holds back the stages on its deck
(R415). -/
def placeLaunch (s : State) (q : Nat) (h : Hdr) (sigaddr sigval : Word) (ctx : Nat) (c : Ctx) (p : Pipeline) (images : List Nat) : State :=
  let prio := queuePrio s q
  let need := (coresOfStages ctx p.stages).map s.phys
  let occ := occupants s need
  let deferred (l : Nat) : Bool := match s.launch l with
    | some la => (match s.ctx la.ctx with | some x => (s.round x.part).active | none => false)
    | none => false
  if tableHeld s c || (s.round c.part).active || need.any (fun x => !(coreServes s c.part x)) || waitsAhead s prio need then s
  else if need.any (stepPhys s).contains then s
  else if occ.any (fun l => prio ≤ prioOf s l || (deferred l && !(isPreempted s l))) then s
  else
    let s1 := preemptAll s (some (q, qRptr s q)) occ
    if occ.all (quiet s1) then
      holdStages (startLaunch (vacateAll s1 occ) q h sigaddr sigval ctx prio p images) s.nextId false (List.range p.stages.length).reverse
    else s1

/-- LAUNCH. A context for which a restore found no core table has no core to launch on (R19, R423). -/
def execLaunch (h : Hdr) (desc sigaddr sigval : Word) (s : State) : Res :=
  let q := s.fq
  let ctx := qCtx s q
  match s.ctx ctx with
  | none => .next (fail s q h Status.noContext)
  | some c =>
    if ctx = 0 then .next (fail s q h Status.noContext)
    else if !((partDecks s c.part).any (deckCompute s)) then .next (fail s q h Status.noCompute)
    else match readPipeline s (whoOf ctx) c desc.toNat with
      | .error e => .next (failAddr s q h e)
      | .ok none => .next (fail s q h Status.malformed)
      | .ok (some p) =>
        match ownRecord p with
        | some d => .next (failAddr s q h (Cause.noSuchCore, d.a0))
        | none =>
        if !(coverageOk s (whoOf ctx) p) then .next (fail s q h Status.malformed)
        else match readImages s (whoOf ctx) p.stages with
          | .error e => .next (failAddr s q h e)
          | .ok images =>
            if (coresOfStages ctx p.stages).any (fun k => (Tbl.look c.place (k % 2048)).isNone) then .next (fail s q h Status.capacity)
            else .next (placeLaunch s q h sigaddr sigval ctx c p images)

/-! ## Restarts (R89, R396) -/

/-- Whether every core of a stage may run its group again: also once no tower of the partition is in ENUMERATE (R23, R24). -/
def stageServes (s : State) (la : Launch) (st : Nat) : Bool :=
  match s.ctx la.ctx, la.stages[st]? with
  | some c, some d =>
    (stageCores la.ctx d).all (fun k => coreServes s c.part (s.phys k)) && !(s.round c.part).active
      && (List.range 4).all (fun t => (s.tower t).part.toNat ≠ c.part || (s.tower t).st ≠ .enumerate)
  | _, _ => false

/-- A stage is never released before all stages of higher index have been (R77). -/
def mayRelease (la : Launch) (st : Nat) : Bool := la.sts[st]? ≠ some .held || (la.sts.drop (st + 1)).all (fun x => x ≠ .held)

/-- GROUP_RESTART; a relock of a deck of the stage holds the release that the front end sends (R415). -/
def execGroupRestart (l st : Nat) (s : State) : Res :=
  match s.launch l with
  | some la =>
    if !la.preempted && la.fault.isNone && stageServes s la st && mayRelease la st then
      (match heldAt s (stageSender l st) (stageDecks s l st) with
       | [] => .next (restartGroup (dropHeld s (stageSender l st)) l st)
       | ds => .next (if la.sts[st]?.any StageSt.waits then noteHeld s (stageSender l st) ds else s))
    else .next s
  | none => .next s

/-- The groups of a launch restart, but for those that a relock holds, and those not yet released that must wait for such a one. -/
def restartStages (s : State) (l : Nat) : List Nat → State
  | [] => s
  | st :: r =>
    restartStages (if (s.launch l).any (fun la => mayRelease la st) then
        (match heldAt s (stageSender l st) (stageDecks s l st) with
        | [] => restartGroup s l st
        | ds => noteHeld s (stageSender l st) ds)
      else s) l r

/-- LAUNCH_RESTART: a pre-empted launch takes its cores back, its scratchpads in place, once every core of its core table is free
and the LAUNCH that displaced it has started or gone. -/
def execLaunchRestart (l : Nat) (s : State) : Res :=
  match s.launch l with
  | some la =>
    if la.preempted && !la.ended && (occupants s (tablePhys s l)).all (fun o => o = l) && !((tablePhys s l).any (stepPhys s).contains)
      && !(displacerWaits s la) && (List.range la.stages.length).all (stageServes s la) then
      let s1 := restoreCores (s.setLaunch l { la with preempted := false, saved := [] }) la.saved
      .next (restartStages s1 l (List.range la.stages.length).reverse)
    else .next s
  | none => .next s

/-! ## Completion (R78, R308, R373) -/

/-- Whether a running stage meets the conditions of R78 and R308. -/
def stageDone (s : State) (l st : Nat) : Bool :=
  let mine (a b : Nat) : Bool := a = l && b = st
  (s.strandsOf l st).all (fun k => (s.strand k).idle && (s.strand k).staged.isEmpty)
    && (s.coresOf l st).all (fun c => (s.core c).queue.isEmpty && (s.core c).held.isEmpty
        && (s.core c).jobs.all (fun (j : Job) => !(mine j.launch j.stage)))
    && s.decrs.all (fun (d : Decr) => !(mine d.launch d.stage))
    && s.calls.all (fun (f : Flight) => !(mine f.launch f.stage))
    && (match Tbl.look s.covs (stageKey l st) with
        | some c => c.claimed.isEmpty && c.done.isEmpty && c.reconstructed.length = covTotal c
        | none => true)

/-- The completion of a coverage stage: its last update, its values, its bound (R305 to R308). -/
def endCov (s : State) (l st : Nat) : State :=
  match Tbl.look s.covs (stageKey l st) with
  | none => s
  | some c =>
    let s1 := flushValues (s.setCtl c.ctx c.ctl ((s.ctl c.ctx c.ctl).update c true)) c
    let s2 := { s1 with covs := Tbl.del s1.covs (stageKey l st) }
    match s2.launch l with
    | some la => s2.setLaunch l { la with covBound := la.covBound || c.bound }
    | none => s2

/-- Counters still armed are discarded and counted. -/
def dropCounters (s : State) (l st : Nat) : State :=
  let cores := s.coresOf l st
  let n := cores.foldl (fun n c => n + armedCount (s.core c)) 0
  let s1 := mapCores s (fun c => { c with ctrs := [] }) cores
  match s1.launch l with
  | some la => s1.setLaunch l { la with discarded := la.discarded + n }
  | none => s1

/-- STAGE_COMPLETE; a launch whose last stage ended by COV_FAULT completes here too. -/
def execStageComplete (l st : Nat) (s : State) : Res :=
  match s.launch l with
  | none => .next s
  | some la =>
    if la.sts[st]? = some .running && stageDone s l st then
      let s1 := setStageSt (dropCounters (endIdle (endCov s l st) l st) l st) l st .complete
      match s1.launch l with
      | some lb => .next (if allEnded lb then completeLaunch s1 l else s1)
      | none => .next s1
    else if allEnded la && la.fault.isNone && s.asyncs.any (fun (a : Async) => a.kind = .launch l) then .next (completeLaunch s l)
    else .next s

end Sys2Proof.Machine
end

