-- ==== Sys2Proof/Machine/Pages.lean ====
section
/-!
DEFINITION. TLB fills (R262), the invalidation of translations (R262, R270) and the search of page tables that it and an
evacuation need (R25).
-/

namespace Sys2Proof.Machine

/-! ## TLBs (R262) -/

/-- Entries of a core's TLB and of a deck's. -/
def coreTlbSize : Nat := 64
def deckTlbSize : Nat := 16384

/-- A translation enters a TLB; a full one gives up the entry that the event names. -/
def fillTlb (s : State) (key size evict : Nat) (e : TlbEntry) : State :=
  let es := (Tbl.get s.tlbs key []).filter (fun (x : TlbEntry) => !(x.ctx = e.ctx && x.base = e.base))
  let kept := if es.length < size then es else es.eraseIdx (evict % size)
  { s with tlbs := Tbl.put s.tlbs key (kept ++ [e]) }

/-- PAGE_WALK: the walk of a core's context at an address. One that faults leaves nothing held. -/
def execPageWalk (core : Nat) (va : Word) (evict : Nat) (s : State) : Res :=
  match walk s (ctxOf core) va.toNat with
  | .error _ => .next s
  | .ok l =>
    let e : TlbEntry := { ctx := ctxOf core, base := l.base, size := l.size, leaf := l.entry, pa := l.pa }
    let p := s.phys core
    .next (fillTlb (fillTlb s (2048 + deckOf p) deckTlbSize evict e) p coreTlbSize evict e)

/-- Translations of a context that meet a range are no longer held; 0 bytes mean all (R377). -/
def dropTlb (s : State) (ctx va bytes : Nat) : State :=
  { s with tlbs := s.tlbs.map (fun (t : Nat × List TlbEntry) => (t.1, t.2.filter (fun (e : TlbEntry) =>
      !(e.ctx = ctx && (bytes = 0 || (e.base < va + bytes && va < e.base + e.size)))))) }

/-! ## Pages of a context -/

/-- A valid leaf entry with its location. -/
structure PageAt where
  loc : Nat
  leaf : Leaf
  deriving DecidableEq, Repr

/-- The valid leaf entries under a node of a level. -/
def pagesFrom (s : State) (base node : Nat) : Nat → List PageAt
  | 0 =>
    (List.range 512).filterMap (fun i =>
      let e := Memory.readN s.mem (locOf (node + 8 * i)) 8
      if e % 4 = 3 then some { loc := locOf (node + 8 * i), leaf := { entry := .ofNat 64 e, pa := fld e 12 40 * 2 ^ 12
                                                                      base := base + i * levelSize 0, size := levelSize 0 } }
      else none)
  | l + 1 =>
    (List.range (if l = 3 then 256 else 512)).flatMap (fun i =>
      let e := Memory.readN s.mem (locOf (node + 8 * i)) 8
      let va := base + i * levelSize (l + 1)
      if e % 2 = 0 then []
      else if e % 4 = 3 then [{ loc := locOf (node + 8 * i), leaf := { entry := .ofNat 64 e, pa := fld e 12 40 * 2 ^ 12, base := va
                                                                       size := levelSize (l + 1) } }]
      else pagesFrom s va (fld e 12 40 * 2 ^ 12) l)

/-- The pages of a context. -/
def pagesOf (s : State) (ctx : Nat) : List PageAt :=
  match s.ctx ctx with
  | some c => pagesFrom s 0 c.root 4
  | none => []

/-! ## Invalidation -/

/-- The check scope of a leaf, 0 for an unchecked page (R271). -/
def leafScope (l : Leaf) : Nat := if l.entry.getLsbD 8 then 2 + fld l.entry.toNat 6 2 else 0

/-- The region-0 address of a location in regions 1 to 4 (R256). -/
def viewOf (loc : Nat) : Nat :=
  let hi := fld loc 12 24 * 2 ^ 14
  let t := loc / 2 ^ 48 - 1
  hi + ((t ^^^ fld hi 20 2) ^^^ (fld hi 28 2 ^^^ fld hi 36 2)) * 2 ^ 12 + loc % 2 ^ 12

/-- Whether a location lies in a page. -/
def inPage (l : Leaf) (loc : Nat) : Bool :=
  let a := if l.pa / 2 ^ 48 = 0 then (if 1 ≤ loc / 2 ^ 48 && loc / 2 ^ 48 ≤ 4 then viewOf loc else 2 ^ 60) else loc
  l.pa ≤ a && a < l.pa + l.size

/-- Tags of a page whose CHK or CSCOPE has changed are emptied (R270). -/
def dropPageTags (l : Leaf) (tags : Tbl Tag) : Tbl Tag :=
  tags.filter (fun (t : Nat × Tag) => !(inPage l (32 * t.1) && t.2.scope ≠ leafScope l))

def dropPagesTags (tags : Tbl Tag) : List PageAt → Tbl Tag
  | [] => tags
  | p :: r => dropPagesTags (dropPageTags p.leaf tags) r

/-- Whether a page of a context lies in the range of an invalidation. -/
def PageAt.meets (p : PageAt) (va bytes : Nat) : Bool := bytes = 0 || (p.leaf.base < va + bytes && va < p.leaf.base + p.leaf.size)

/-- Suspended engine accesses of a context are due for a retry (R393). -/
def Susp.wake (x : Susp) : Susp := { x with due := true }

def wakeSuspended (s : State) (ctx : Nat) : State :=
  { s with
    cores := s.cores.map (fun (c : Nat × Core) => if ctxOf c.1 = ctx then
      (c.1, { c.2 with jobs := c.2.jobs.map (fun (j : Job) => { j with susp := j.susp.map Susp.wake }) }) else c)
    covs := s.covs.map (fun (c : Nat × Cov) => if c.2.ctx = ctx then (c.1, { c.2 with susp := c.2.susp.map Susp.wake }) else c) }

/-- The translations of a range are invalid: nothing held, tags of changed pages empty, suspended accesses due. -/
def invalidate (s : State) (ctx va bytes : Nat) : State :=
  let s1 := dropTlb s ctx va bytes
  wakeSuspended { s1 with tags := dropPagesTags s1.tags ((pagesOf s1 ctx).filter (fun (p : PageAt) => p.meets va bytes)) } ctx

end Sys2Proof.Machine
end

