-- ==== Sys2Proof/Machine/Planner.lean ====
section
/-!
DEFINITION. The long agent instructions and the step planner (R327 to R344), token choice, stop strings and speculation
(R349 to R360): issue, planning, completion and faults of steps, look-ahead, residency.
-/

namespace Sys2Proof.Machine

/-! ## Logits and scores (R318, R338) -/

/-- What distinguishes the logits of one sequence of one step from another's. -/
def logitKey (fresh h cand : Nat) : Nat := fresh * 2 ^ 80 + h * 2 ^ 20 + cand

/-- The logits of the position after n tokens of which the last is `prev`: a row of a table model, or a model's own. -/
def logitRow (s : State) (m : Model) (id key n : Nat) (prev : Option Nat) : Except Byte (List Nat) :=
  if m.cls = 0 then
    match feRead s (.ctx m.ctx) (m.addr.toNat + 4 * m.v * prev.getD m.v) (4 * m.v) with
    | .error e => .error e.1
    | .ok v => .ok ((List.range m.v).map (fun i => v / 2 ^ (32 * i) % 2 ^ 32))
  else .ok ((List.range m.v).map (fun i => (Config.logit key id n i).toNat))

/-- Whether a model's logits are in log₂ units; a table model's always are. -/
def Model.log2Units (m : Model) : Bool := m.log2 || m.cls = 0

/-- A value rounded to binary32 under RNE. -/
def rnd32 (v : Val) : Val := if v.isNan then .nan false else decodeF fp32 (roundTo fp32 Mode.rne false v).bits

/-- 2^x: correctly rounded for the table model, within the bound of R228 for others. -/
def exp2Score (exact : Bool) (v : Val) : Val :=
  match v with
  | .fin neg num den =>
    if exact then
      (if num = 0 then .fin false 1 1
       else
         let f := floorFrac neg num den
         if f.2 = 0 ∧ num % den = 0 then (if -1000 ≤ f.1 then rnd32 (scaled false 1 f.1) else .zero false)
         else let r := ratExp2 neg num den; rnd32 (ratVal r.1 r.2))
    else decodeF fp32 (special32 .vexp2 Mode.rne v (exactBits fp32 v)).bits
  | .inf neg => if neg then .zero false else .inf false
  | .nan _ => .nan false

/-- log2 of a sum. -/
def log2Score (exact : Bool) (v : Val) : Val :=
  match v with
  | .fin _ num den =>
    if num = 0 then .inf true
    else if exact then
      (if isPow2 num den then intVal (ratLog num den) else rnd32 (ratVal (fxLn num den * fxOne / fxLn2) fxOne))
    else decodeF fp32 (special32 .vlog2 Mode.rne v (exactBits fp32 v)).bits
  | .inf neg => if neg then .nan false else .inf false
  | .nan _ => .nan false

/-- The score of token τ in a row (R338), as a pattern. -/
def scoreOf (m : Model) (row : List Nat) (tok : Nat) : Nat :=
  let exact := decide (m.cls = 0)
  let l := row.map (fun (p : Nat) =>
    let v := decodeF fp32 p
    if m.log2Units then v else rnd32 (mulV v (decodeF fp32 0x3FB8AA3B)).val)
  let lt := l.getD tok (.nan false)
  if l.any (fun v => v.isNan || v = .inf false) then 0x7FC00000
  else if lt = .inf true then infPattern fp32 true
  else
    let mx := l.foldl (fun (a : Val) v => if ltV a v then v else a) (.inf true)
    let sum := l.foldl (fun (a : Val) v =>
      if v = .inf true then a else rnd32 (addV Mode.rne a (exp2Score exact (rnd32 (addV Mode.rne v mx.negate).val))).val) (.zero false)
    let lse := rnd32 (addV Mode.rne mx (log2Score exact sum)).val
    floatBits fp32 (rnd32 (addV Mode.rne lt lse.negate).val)

/-- PSUM + lp (R336). -/
def addScore (a b : Nat) : Nat := floatBits fp32 (rnd32 (addV Mode.rne (decodeF fp32 a) (decodeF fp32 b)).val)

/-! ## Token choice (R349) -/

/-- The score s_v of token v at position value p. -/
def sampleScore (t : TokCtx) (m : Model) (p : Word) (l v : Nat) : Val :=
  match invTemp (.ofNat 64 (t.temp.toNat + (if m.log2Units then 2 ^ 32 else 0))) with
  | .tau r => rnd32 (addV Mode.rne (mulV (decodeF fp32 l) (decodeF fp32 r.bits)).val (decodeF fp32 (noise t.key p (.ofNat 32 v)))).val
  | _ => decodeF fp32 l

/-- The greatest score among the candidates; a tie goes to the lowest id. -/
def chooseFrom (f : Nat → Val) (mask : Option Nat) : List Nat → Option (Nat × Val) → Option Nat
  | [], best => best.map (fun b => b.1)
  | v :: r, best =>
    let x := f v
    let ok := !x.isNan && (match mask with | some b => b.testBit v | none => true)
    let better := match best with | some b => ltV b.2 x | none => true
    chooseFrom f mask r (if ok && better then some (v, x) else best)

def chooseTok (t : TokCtx) (m : Model) (mask : Option Nat) (row : List Nat) (p : Word) : Option Nat :=
  chooseFrom (fun v => sampleScore t m p (row.getD v 0) v) mask (List.range m.v) none

/-! ## Long instructions: issue (R333 to R336, R352) -/

/-- The parts of the candidates from the one at `addr` on that up to `limit` ids make: each with the candidate's address, its first
id and how many; none of a candidate where `stop` holds, nor of those behind it, once there are ids of one before (R336). -/
def chooseRuns (s : State) (a : Agent) (stop : Nat → Bool) : Bool → Nat → Nat → Nat → Nat → Except AgentFault (List (Nat × Nat × Nat))
  | _, 0, _, _, _ => .ok []
  | begun, f + 1, addr, done, limit =>
    if limit = 0 then .ok []
    else match readId s a (addr % 2 ^ 64) with
      | .error e => .error e
      | .ok c =>
        let k := min limit (c - done)
        let begun := begun || 0 < c
        if limit - k = 0 || f = 0 || (begun && stop (addr + 4 + 4 * c)) then .ok [(addr, done, k)]
        else match chooseRuns s a stop begun f (addr + 4 + 4 * c) 0 (limit - k) with
          | .error e => .error e
          | .ok l => .ok ((addr, done, k) :: l)

/-- The ids of such parts. -/
def runAddrs (l : List (Nat × Nat × Nat)) : List Nat := l.flatMap (fun r => idAddrs r.1 r.2.1 r.2.2)

/-- The stop-string set at an address (R352): K, then K entries of a length and 16 ids. -/
def readStop (s : State) (a : Agent) (v base : Nat) : Except AgentFault (List Nat) :=
  match readId s a base with
  | .error e => .error e
  | .ok l =>
    if l = 0 ∨ 16 < l then .error (Cause.ctxRange, .ofNat 64 l, 0)
    else
      let rec' := (List.range l).map (fun i => base + 4 + 4 * i)
      match readIds s a (2 ^ 32) rec' with
      | .error e => .error e
      | .ok ids => (match ids.find? (fun x => v ≤ x) with | some x => .error (Cause.ctxRange, .ofNat 64 x, 0) | none => .ok ids)

def readStopList (s : State) (a : Agent) (v : Nat) : List Nat → Except AgentFault (List (List Nat))
  | [] => .ok []
  | b :: r =>
    match readStop s a v b with
    | .error e => .error e
    | .ok x => (match readStopList s a v r with | .error e => .error e | .ok l => .ok (x :: l))

def readStops (s : State) (a : Agent) (v : Nat) (base : Word) : Except AgentFault (List (List Nat)) :=
  if base = 0 then .ok []
  else match readId s a base.toNat with
    | .error e => .error e
    | .ok k =>
      if 8 < k then .error (Cause.ctxRange, .ofNat 64 k, 0)
      else readStopList s a v ((List.range k).map (fun i => base.toNat + 4 + 68 * i))

/-- The instruction ends: READY, PROGRESS zero, the next instruction at P + 8. -/
def Agent.finish (a : Agent) : Agent :=
  { a.advance with st := stReady, prog := Progress.zero, cur := none, stops := [], held := [] }

/-! ## Scores of strings, and what a step's tokens leave (R336, R358) -/

/-- The larder learns the runs of up to four tokens that tokens from position `from_` on complete (R358). -/
def larderLearn (model : Nat) (toks : List Nat) (from_ : Nat) (l : List ((Nat × Nat × Nat) × List Nat)) :
    List ((Nat × Nat × Nat) × List Nat) :=
  let starts := (List.range (toks.length - 2 - (from_ - 5))).map (fun i => from_ - 5 + i)
  (starts.foldl (fun (l : List ((Nat × Nat × Nat) × List Nat)) i =>
    let key := (model, toks.getD i 0, toks.getD (i + 1) 0)
    (key, (toks.drop (i + 2)).take 4) :: l.filter (fun e => e.1 ≠ key)) l).take 65536

/-- A partition's larder learns from the tokens from position `from_` on that are appended to a context. -/
def learn (s : State) (part model : Nat) (toks : List Nat) (from_ : Nat) : State :=
  let p := s.planner part
  if toks.length ≤ from_ then s else s.setPlanner part { p with larder := larderLearn model toks from_ p.larder }

/-- Records to write after the step's effects. -/
abbrev Records := List (Nat × BitVec 256)

/-- The instruction of an agent ends with its registers. -/
def endLong (s : State) (id : Nat) (a : Agent) (gd : Option (BitVec 3)) (v : Word) (flag : Option Bool) : State :=
  let a1 := match gd with | some r => a.setReg r v | none => a
  s.setAgent id { a1.finish with flag := flag.getD a.flag }

/-- Scores of string tokens, folded into PSUM in order (R336). -/
def scoreTokens (s : State) (m : Model) (t : TokCtx) (h cand : Nat) : List Nat → Nat → Option Nat → Nat → Except Byte Nat
  | [], _, _, psum => .ok psum
  | id :: r, n, prev, psum =>
    match logitRow s m t.model (logitKey s.fresh h cand) n prev with
    | .error c => .error c
    | .ok row => scoreTokens s m t h cand r (n + 1) (some id) (addScore psum (scoreOf m row id))

/-- A final score is folded in ascending index (R336). -/
def foldScore (p : Progress) (next : Nat) : Progress :=
  let better := p.cand = 0 || ltV (decodeF fp32 p.bscore.toNat) (decodeF fp32 p.psum.toNat)
  { p with best := if better then p.cand else p.best, bscore := if better then p.psum else p.bscore, cand := p.cand + 1, done := 0
           psum := 0, addr := .ofNat 64 next, scored := [] }

/-- Full blocks of a computed sequence enter the pantry: those that end past position `lo`, each behind its parent (R316). -/
def fillBlocks (s : State) (part model lo : Nat) : List (List Nat) → Nat → Option Nat → State
  | [], _, _ => s
  | ids :: r, e, parent =>
    match pantryFind s part model parent ids with
    | some x => fillBlocks s part model lo r (e + 16) (some x)
    | none =>
      if e + 16 ≤ lo then s
      else
        let n := newBlock s part model parent ids 0
        fillBlocks (releaseBlock n.1 n.2) part model lo r (e + 16) (some n.2)

/-- Tokens of a string have been scored behind others: the blocks that they fill enter the pantry without a reference. -/
def fillScored (s : State) (part : Nat) (t : TokCtx) (pre ids : List Nat) : State :=
  let base := 16 * t.blocks.length
  fillBlocks s part t.model (t.toks.length + pre.length) (chunks16 (t.toks.drop base ++ (pre ++ ids))) base t.blocks.getLast?

/-- The next tokens of a string are scored: each on the context followed by the tokens before it (R336). -/
def scoreMore (s : State) (part : Nat) (m : Model) (a : Agent) (t : TokCtx) (h cand : Nat) (ids : List Nat) (p : Progress) :
    Except Byte (Except AgentFault (State × Progress)) :=
  match scoredIds s a m.v p with
  | .error e => .ok (.error e)
  | .ok pre =>
    match scoreTokens s m t h cand ids (t.toks.length + p.done) ((t.toks ++ pre).getLast?) p.psum.toNat with
    | .error c => .error c
    | .ok ps =>
      .ok (.ok (fillScored s part t pre ids, { p with done := p.done + ids.length, psum := .ofNat 32 ps, scored := pre ++ ids }))

/-- The candidates of a CCHOOSE go on by the ids of a step. -/
def chooseWalk (s : State) (part : Nat) (m : Model) (a : Agent) (t : TokCtx) (h : Nat) :
    Nat → List Nat → Progress → Except Byte (Except AgentFault (State × Progress))
  | 0, _, p => .ok (.ok (s, p))
  | f + 1, ids, p =>
    if p.total ≤ p.cand then .ok (.ok (s, p))
    else match readId s a p.addr.toNat with
      | .error e => .ok (.error e)
      | .ok c =>
        let k := min (c - p.done) ids.length
        match scoreMore s part m a t h (p.cand + 1) (ids.take k) p with
        | .error x => .error x
        | .ok (.error e) => .ok (.error e)
        | .ok (.ok (s1, p1)) =>
          if p1.done < c then .ok (.ok (s1, p1))
          else chooseWalk s1 part m a t h f (ids.drop k) (foldScore p1 (p.addr.toNat + 4 + 4 * c))

/-- Tokens scored by a CSCORE or a CCHOOSE take effect in its agent (R336): its progress, and at its end its registers and, for
CCHOOSE, the tokens of the best candidate. -/
def applyScores (s : State) (part id : Nat) (a : Agent) (h : Nat) (t : TokCtx) (m : Model) (ids : List Nat) : Except Byte State :=
  match a.cur with
  | some (.cscore gd _ _ _) =>
    (match scoreMore s part m a t h 0 ids a.prog with
     | .error c => .error c
     | .ok (.error e) => .ok (agentFault s id e.1 e.2.1 e.2.2)
     | .ok (.ok (s1, p)) =>
       let a1 := { a with prog := p }
       .ok (if p.total ≤ p.done then endLong s1 id a1 (some gd) (p.psum.setWidth 64) none else s1.setAgent id a1))
  | some (.cchoose _ gd gs imm) =>
    (match chooseWalk s part m a t h (a.prog.total - a.prog.cand + 1) ids a.prog with
     | .error c => .error c
     | .ok (.error e) => .ok (agentFault s id e.1 e.2.1 e.2.2)
     | .ok (.ok (s1, p)) =>
       let a1 := { a with prog := p }
       if p.cand < p.total then .ok (s1.setAgent id a1)
       else match bestIds s1 a m.v p.best (agentEa a gs imm) with
         | .error e => .ok (agentFault s1 id e.1 e.2.1 e.2.2)
         | .ok best =>
           if maxTokens < t.toks.length + best.length then .ok (agentFault s1 id Cause.ctxRange (.ofNat 64 best.length) 0)
           else
             let q := computeKv s1 part { t with toks := t.toks ++ best }
             .ok (endLong (learn (q.1.setTok h q.2) part t.model q.2.toks t.toks.length) id a1 (some gd) (.ofNat 64 p.best) none))
  | _ => .ok s

/-! ## Adoption from the pantry (R341) -/

/-- The first candidate with ids from an address on: its address and length. -/
def firstString (s : State) (a : Agent) : Nat → Nat → Option (Nat × Nat)
  | 0, _ => none
  | n + 1, addr =>
    match readId s a (addr % 2 ^ 64) with
    | .error _ => none
    | .ok 0 => firstString s a n (addr + 4)
    | .ok c => some (addr, c)

/-- The string from which an agent's instruction takes its next tokens: its address, the tokens consumed, its length, and
whether they are scored on the context and not appended to it. -/
def currentString (s : State) (a : Agent) : Option (Nat × Nat × Nat × Bool) :=
  let addr := a.prog.addr.toNat
  match a.cur with
  | some (.cappend _ _ _) => some (addr, a.prog.done, a.prog.total, false)
  | some (.cscore _ _ _ _) => some (addr, a.prog.done, a.prog.total, true)
  | some (.cchoose _ _ _ _) =>
    (match firstString s a (a.prog.total - a.prog.cand) addr with | some p => some (p.1, a.prog.done, p.2, true) | none => none)
  | _ => none

/-- The same, but none while a relock holds the reading of it (R415, R430). -/
def openString (s : State) (a : Agent) : Option (Nat × Nat × Nat × Bool) :=
  (currentString s a).filter (fun x => (extHeld s (plannerSender (partOf s a)) (.ctx a.home) [(x.1, 4 + 4 * x.2.2.1)]).isEmpty)

/-- The pantry entry behind a chain of full blocks, none where one is missing. -/
def chainFind (s : State) (part model : Nat) : List (List Nat) → Option Nat → Option (Option Nat)
  | [], parent => some parent
  | ids :: r, parent =>
    match pantryFind s part model parent ids with
    | some e => chainFind s part model r (some e)
    | none => none

/-- A block that an agent's instruction would complete next: its key, and how many tokens of the instruction's string it takes. -/
structure NextBlock where
  parent : Option Nat
  ids : List Nat
  need : Nat

/-- The next full block of an agent: one of pending positions, or one that its string completes. -/
def nextKvBlock (s : State) (a : Agent) (t : TokCtx) : Option NextBlock :=
  let base := 16 * t.blocks.length
  let n := t.toks.length
  if 0 < t.pending && base + 16 ≤ n then some { parent := t.blocks.getLast?, ids := (t.toks.drop base).take 16, need := 0 }
  else match openString s a, vocab s a t with
    | some (addr, done, count, scored), some v =>
      let b := if scored then 16 * ((n + done) / 16) else base
      let need := b + 16 - (n + if scored then done else 0)
      if count < done + need then none
      else (match (if scored then scoredIds s a v a.prog else .ok []), readIds s a v (idAddrs addr done need) with
        | .ok pre, .ok str =>
          let seq := t.toks.drop base ++ (pre ++ str)
          (match chainFind s (partOf s a) t.model (chunks16 (seq.take (b - base))) t.blocks.getLast? with
           | some parent => some { parent := parent, ids := (seq.drop (b - base)).take 16, need := need }
           | none => none)
        | _, _ => none)
    | _, _ => none

/-- The key of a block: model, parent entry, ids. -/
abbrev BlockKey := Nat × Option Nat × List Nat

/-- The key of the first full block that a candidate which is scored on a context completes, where its parent is there. -/
def candKey (s : State) (a : Agent) (t : TokCtx) (addr : Nat) : Option BlockKey :=
  let base := 16 * t.blocks.length
  let n := t.toks.length
  match readId s a (addr % 2 ^ 64), vocab s a t with
  | .ok c, some v =>
    let need := base + 16 - n
    if n < base + 16 && need ≤ c then
      (match readIds s a v (idAddrs addr 0 need) with | .ok l => some (t.model, t.blocks.getLast?, t.toks.drop base ++ l) | .error _ => none)
    else none
  | _, _ => none

/-- Most positions of a step. -/
def stepRoom : Nat := 4096

/-- The keys of the blocks that an agent's next steps may compute first: its next block's, and those of later candidates. -/
def agentKeys (s : State) (id : Nat) : List BlockKey :=
  match (s.agent id).bind (fun a => (longCtx s a).map (fun x => (a, x.2))) with
  | none => []
  | some (a, t) =>
    let next := match nextKvBlock s a t with | some b => [(t.model, b.parent, b.ids)] | none => []
    match a.cur with
    | some (.cchoose _ _ _ _) =>
      (match chooseRuns s a (fun _ => false) false (a.prog.total - a.prog.cand) a.prog.addr.toNat a.prog.done (stepRoom + 1) with
       | .ok l => next ++ (l.drop 1).filterMap (fun r => candKey s a t r.1)
       | .error _ => next)
    | _ => next

/-- Whether a step must not go on to the later candidate at an address: the block that this completes first is in the pantry, or
another agent of the ring may compute it (R341). -/
def candShared (s : State) (id : Nat) (a : Agent) (t : TokCtx) (addr : Nat) : Bool :=
  let part := partOf s a
  match candKey s a t addr with
  | none => false
  | some k => (pantryFind s part k.1 k.2.1 k.2.2).isSome
      || ((s.planner part).ring.filter (fun x => x ≠ id)).any (fun x => (agentKeys s x).contains k)

/-- Positions of a step that is to be planned again are gone. -/
def dropReplanned (s : State) (part id gone : Nat) : State :=
  let p := s.planner part
  s.setPlanner part { p with replan := p.replan.map (fun st => { st with
    plans := (st.plans.map (fun (x : Plan) => if x.agent = id then { x with count := x.count - gone } else x)).filter
      (fun (x : Plan) => 0 < x.count || x.agent ≠ id) }) }

/-- An agent takes a block that is in the pantry: pending positions get their KV, and the tokens of its string take effect as a
step's would (R331, R341); none where a step must answer. -/
def adoptBlock (s : State) (part id : Nat) (a : Agent) (h : Nat) (t : TokCtx) (b : NextBlock) : Option State :=
  let base := 16 * t.blocks.length
  let str := b.ids.drop (16 - b.need)
  match currentString s a with
  | some (_, _, _, true) =>
    if b.need = 0 then
      let r := completeBlock s part { t with pending := t.toks.length - base - 16 }
      some (r.1.setTok h r.2)
    else match modelOf s part t.model with
      | none => none
      | some m =>
        let r := computeKv s part { t with pending := 0 }
        (match applyScores (r.1.setTok h r.2) part id a h r.2 m str with | .ok s1 => some s1 | .error _ => none)
  | _ =>
    let t1 := { t with toks := t.toks ++ str }
    let r := completeBlock s part { t1 with pending := t1.toks.length - base - 16 }
    let a1 := { a with prog := { a.prog with done := a.prog.done + b.need } }
    let s1 := learn (r.1.setTok h r.2) part t.model t1.toks t.toks.length
    some (if 0 < b.need && a1.prog.total ≤ a1.prog.done then endLong s1 id a1 none 0 none else s1.setAgent id a1)

/-- A LONG agent adopts the blocks its instruction would complete with a key in the pantry, without a step. -/
def adoptBlocks (s : State) (id : Nat) : Nat → State
  | 0 => s
  | n + 1 =>
    match s.agent id with
    | none => s
    | some a =>
      match if a.st = stLong then longCtx s a else none with
      | none => s
      | some (h, t) =>
        match nextKvBlock s a t with
        | none => s
        | some b =>
          let part := partOf s a
          if (pantryFind s part t.model b.parent b.ids).isNone then s
          else match adoptBlock s part id a h t b with
            | none => s
            | some s1 =>
              let pend := match s1.tok h with | some t1 => t1.pending | none => 0
              adoptBlocks (dropReplanned (s1.countPart part 25 1) part id (t.pending + b.need - pend)) id n

/-! ## The ring (R343) -/

/-- Agents of a partition with a long instruction, those of the ring first. -/
def longAgents (s : State) (part : Nat) : List Nat :=
  let ring := (s.planner part).ring
  ring ++ ((s.agents.filter (fun e => e.2.st = stLong ∧ partOf s e.2 = part ∧ !(ring.contains e.1))).map (fun e => e.1))

/-- The key of the next block, which one step computes for all agents that need it (R341). -/
def nextKey (s : State) (id : Nat) : Option (Nat × Option Nat × List Nat) :=
  match s.agent id with
  | some a => (match longCtx s a with
    | some (_, t) => (nextKvBlock s a t).map (fun b => (t.model, b.parent, b.ids))
    | none => none)
  | none => none

/-- Whether an agent waits on a block that an agent before it computes. -/
def waitsShared (s : State) (before : List Nat) (id : Nat) : Bool :=
  match nextKey s id with
  | some k => before.any (fun b => nextKey s b = some k)
  | none => false

/-- Eligibility but for shared blocks: LONG, resident, its blocks out of the cellar, its context's ring not behind. -/
def readyToPlan (s : State) (id : Nat) : Bool :=
  match s.agent id with
  | some a => a.st = stLong && a.resident && (match longCtx s a with
    | some (_, t) => (blocksRead s id).all (fun b => !(inCellar s b)) && (t.ring = 0 || !(ringFull s (ringKey a.home t.ring)))
    | none => false)
  | none => false

/-- The eligible agents of a list, in its order. -/
def eligibleOf (s : State) : List Nat → List Nat → List Nat
  | _, [] => []
  | before, id :: r =>
    if readyToPlan s id && !(waitsShared s before id) then id :: eligibleOf s (before ++ [id]) r else eligibleOf s before r

def zeroDeficits (s : State) : List Nat → State
  | [] => s
  | id :: r => zeroDeficits (match s.agent id with | some a => s.setAgent id { a with deficit := 0 } | none => s) r

def adoptAll (s : State) : List Nat → State
  | [] => s
  | id :: r => adoptAll (adoptBlocks s id (maxTokens / 16)) r

/-- The ring as agents become and stop being eligible: new ones at the tail, with DEFICIT 0. -/
def refreshRing (s : State) (part : Nat) : State :=
  let s1 := adoptAll s ((longAgents s part).filter (fun id => !(inFlight s part id)))
  let p := s1.planner part
  let ring := eligibleOf s1 [] (longAgents s1 part)
  let same (id : Nat) : Bool := p.ring.contains id && ring.contains id
  zeroDeficits (s1.setPlanner part { p with ring := ring, visiting := p.visiting && p.ring.head? = ring.head? })
    ((p.ring ++ ring).filter (fun id => !(same id)))

/-- A long instruction with work enters LONG. -/
def enterLong (s : State) (a : Agent) (i : Instr) (p : Progress) (stops : List (List Nat)) : Res :=
  .next (refreshRing (s.setAgent s.fa { a with st := stLong, cur := some i, prog := p, stops := stops, held := [] }) (partOf s a))

/-- CAPPEND (R334). -/
def execCappend (cd : BitVec 4) (gs : BitVec 3) (imm : W32) (s : State) : Res :=
  onAgent s (fun a => withCtx s a cd (fun _ t =>
    let va := agentEa a gs imm
    match readId s a va with
    | .error f => agentTrapF s f
    | .ok c =>
      if maxTokens < t.toks.length + c then agentTrap s Cause.ctxRange (.ofNat 64 c)
      else if c = 0 then agentEnd s a
      else enterLong s a (.cappend cd gs imm) { Progress.zero with total := c, addr := .ofNat 64 va } []))

/-- CGEN (R335): with nothing to generate it ends at issue. -/
def execCgen (cd : BitVec 4) (gd gs : BitVec 3) (s : State) : Res :=
  onAgent s (fun a => withCtx s a cd (fun h t =>
    match vocab s a t with
    | none => agentTrap s Cause.modelAbsent (.ofNat 64 t.model)
    | some v =>
      match readStops s a v t.stops with
      | .error f => agentTrapF s f
      | .ok stops =>
        let total := min (a.reg gs).toNat (2 ^ 32 - 1)
        if total = 0 || maxTokens ≤ t.toks.length then agentEnd s { a.setReg gd 0 with flag := false }
        else
          let s1 := s.setTok h { t with depth := t.depmin, window := none }
          enterLong s1 a (.cgen cd gd gs) { Progress.zero with total := total } stops))

/-- CSCORE (R336). R334's limit n + c ≤ 2^20 is CAPPEND's, which appends; no rule sets one for tokens that are scored (DESIGN CHOICE,
log 44). -/
def execCscore (gd : BitVec 3) (cs : BitVec 4) (gs : BitVec 3) (imm : W32) (s : State) : Res :=
  onAgent s (fun a => withCtx s a cs (fun _ _ =>
    let va := agentEa a gs imm
    match readId s a va with
    | .error f => agentTrapF s f
    | .ok c =>
      if c = 0 then agentEnd s (a.setReg gd 0)
      else enterLong s a (.cscore gd cs gs imm) { Progress.zero with total := c, addr := .ofNat 64 va } []))

/-- Whether every candidate of a list is empty. -/
def allEmpty (s : State) (a : Agent) : Nat → Nat → Bool
  | 0, _ => true
  | n + 1, addr => match readId s a (addr % 2 ^ 64) with | .ok 0 => allEmpty s a n (addr + 4) | _ => false

/-- CCHOOSE (R336): a list of empty candidates has no work, and candidate 0 is the best. -/
def execCchoose (cd : BitVec 4) (gd gs : BitVec 3) (imm : W32) (s : State) : Res :=
  onAgent s (fun a => withCtx s a cd (fun _ _ =>
    let va := agentEa a gs imm
    match readId s a va with
    | .error f => agentTrapF s f
    | .ok n =>
      if n = 0 || 65536 < n then agentTrap s Cause.ctxRange (.ofNat 64 n)
      else if allEmpty s a n (va + 4) then agentEnd s (a.setReg gd 0)
      else enterLong s a (.cchoose cd gd gs imm) { Progress.zero with total := n, addr := .ofNat 64 (va + 4) } []))

/-! ## Planning a step (R330, R343) -/

/-- Positions an agent can contribute: pending ones first (R327), then its instruction's own; for a list of candidates
counted up to one more than a step holds, and not beyond a candidate whose first block is shared (R341). -/
def demandOf (s : State) (id : Nat) : Nat :=
  match s.agent id with
  | none => 0
  | some a =>
    match longCtx s a with
    | none => 0
    | some (_, t) =>
      t.pending + (match a.cur with
        | some (.cgen _ _ _) => if t.spec = 0 then 1 else 1 + t.depth
        | some (.cchoose _ _ _ _) =>
          (match chooseRuns s a (candShared s id a t) false (a.prog.total - a.prog.cand) a.prog.addr.toNat a.prog.done (stepRoom + 1) with
           | .ok l => (runAddrs l).length
           | .error _ => 1)
        | _ => a.prog.total - a.prog.done)

/-- The quantum Q (R343). -/
def quantumOf (s : State) (id : Nat) : Nat := match s.agent id with | some a => 16 * a.weight * 2 ^ a.prio | none => 0

/-- What the forming of a step goes through. -/
structure Forming where
  ring : List Nat
  visiting : Bool
  defs : Tbl Nat
  planned : Tbl Nat
  room : Nat
  idle : Nat

/-- One visit of the ring (R343). -/
def visitRing (s : State) (f : Forming) : Forming :=
  match f.ring with
  | [] => f
  | id :: r =>
    let d0 := Tbl.get f.defs id 0 + (if f.visiting then 0 else quantumOf s id)
    let done := Tbl.get f.planned id 0
    let dem := demandOf s id - done
    let k := min d0 (min dem f.room)
    let d1 := d0 - k
    let ended := dem = k || d1 = 0
    { ring := if ended then r ++ [id] else f.ring, visiting := !ended
      defs := Tbl.put f.defs id (if dem = k then 0 else d1), planned := if k = 0 then f.planned else Tbl.put f.planned id (done + k)
      room := f.room - k, idle := if k = 0 then f.idle + 1 else 0 }

/-- Visits until the room is used or a full pass plans nothing more. -/
def formStep (s : State) : Nat → Forming → Forming
  | 0, f => f
  | n + 1, f => if f.room = 0 || f.ring.length ≤ f.idle then f else formStep s n (visitRing s f)

/-- The larder's entry for the last two tokens of a context, and its continuation. -/
def larderEntry (p : Planner) (t : TokCtx) : Option ((Nat × Nat × Nat) × List Nat) :=
  match t.toks.reverse with
  | b :: a :: _ => p.larder.find? (fun e => e.1 = (t.model, a, b))
  | _ => none
def larderNext (p : Planner) (t : TokCtx) : List Nat := match larderEntry p t with | some e => e.2 | none => []

/-- Whether a context drafts by the Jacobi window in its next step (R355, R358). -/
def usesWindow (m : Model) (t : TokCtx) : Bool := t.spec = 2 || m.exit = 0 || 0 < t.jacobi

/-- The head's tokens y_1 to y_d from position value p on: each chosen by R349 from the head's logits after the context and
the drafts before it (R356). -/
def headDrafts (m : Model) (t : TokCtx) (mask : Option Nat) (key : Nat) : Nat → List Nat → Word → List Nat
  | 0, _, _ => []
  | d + 1, toks, p =>
    let row := (List.range m.v).map (fun i => (Config.headLogit key t.model toks.length i).toNat)
    let y := (chooseTok t m mask row p).getD 0
    y :: headDrafts m t mask key d (toks ++ [y]) (p + 1)

/-- d drafts: the tokens of the early-exit head, or the Jacobi window's guesses (R356, R358). -/
def draftsOf (s : State) (p : Planner) (m : Model) (h : Nat) (t : TokCtx) (mask : Option Nat) (d : Nat) : List Nat :=
  if usesWindow m t then
    let base := match t.window with | some w => w | none => larderNext p t
    (List.range d).map (fun i => base.getD i ((base.getLast?.or t.toks.getLast?).getD 0))
  else headDrafts m t mask (logitKey s.fresh h 0) d t.toks t.pos

/-- The bitmap of a mask: none where the context names none (R350). -/
def readMask (s : State) (part : Nat) (m : Model) (mask : W32) : Except AgentFault (Option Nat) :=
  if mask.toNat = noneId then .ok none
  else match if mask.toNat < 64 then Tbl.look s.masks (part * 64 + mask.toNat) else none with
    | none => .error (Cause.ctxRange, mask.setWidth 64, 0)
    | some (ctx, addr) =>
      match feRead s (.ctx ctx) addr.toNat ((m.v + 7) / 8) with
      | .error e => .error (Cause.agentAddr, e.2, e.1.toNat)
      | .ok b => .ok (some b)

/-- The plan of k positions of an agent: what it reads, or the fault it will take at the step's boundary. -/
def planFor (s : State) (part id k : Nat) : Plan :=
  let none' : Plan := { agent := id, count := k, ids := [], drafts := [], jac := false, mask := none, fault := none }
  match s.agent id with
  | none => none'
  | some a =>
    match longCtx s a with
    | none => none'
    | some (h, t) =>
      match modelOf s part t.model with
      | none => { none' with fault := some (Cause.modelAbsent, .ofNat 64 t.model, 0) }
      | some m =>
        let own := k - t.pending
        let ids (r : Except AgentFault (List Nat)) : Plan :=
          match r with | .ok l => { none' with ids := l } | .error e => { none' with fault := some e }
        match a.cur with
        | some (.cgen _ _ _) =>
          if own = 0 then none'
          else (match readMask s part m t.mask with
            | .error e => { none' with fault := some e }
            | .ok b => { none' with mask := b, jac := t.spec ≠ 0 && usesWindow m t, drafts := draftsOf s (s.planner part) m h t b (own - 1) })
        | some (.cchoose _ _ _ _) =>
          ids (match chooseRuns s a (fun _ => false) false (a.prog.total - a.prog.cand) a.prog.addr.toNat a.prog.done own with
            | .error e => .error e
            | .ok l => readIds s a m.v (runAddrs l))
        | _ => ids (readIds s a m.v (idAddrs a.prog.addr.toNat a.prog.done own))

/-- KV blocks that positions appended to a context need: one for each block that they enter, and one for the copy of a private last
block that is shared (R317). -/
def appendNeed (s : State) (t : TokCtx) (k : Nat) : Nat :=
  let c := t.computed
  let shared := match t.last.bind (Tbl.look s.pantry) with | some b => 1 < b.refs | none => false
  if k = 0 then 0 else (c + k + 15) / 16 - (c + 15) / 16 + (if shared && c % 16 ≠ 0 then 1 else 0)

/-- KV blocks that k positions scored behind n, from token d of their string on, need: with its first token a string takes a copy of
a private last block (R317). -/
def scoreNeed (n d k : Nat) : Nat := if k = 0 then 0 else (n + d + k + 15) / 16 - (if d = 0 then n / 16 else (n + d + 15) / 16)

/-- KV blocks that the positions of a plan need beyond those that are there: those of its pending positions, then those that it
appends or, string by string, scores (R322, R327; log 18). -/
def blocksNeeded (s : State) (p : Plan) : Nat :=
  match (s.agent p.agent).bind (fun a => (longCtx s a).map (fun x => (a, x.2))) with
  | none => 0
  | some (a, t) =>
    let own := p.count - t.pending
    let behind (l : List (Nat × Nat × Nat)) : Nat :=
      appendNeed s t (min p.count t.pending) + (l.map (fun r => scoreNeed t.toks.length r.2.1 r.2.2)).foldl (· + ·) 0
    match a.cur with
    | some (.cscore _ _ _ _) => behind [(0, a.prog.done, own)]
    | some (.cchoose _ _ _ _) =>
      behind (match chooseRuns s a (fun _ => false) false (a.prog.total - a.prog.cand) a.prog.addr.toNat a.prog.done own with
        | .ok l => l | .error _ => [])
    | _ => appendNeed s t p.count

/-- Blocks that stand in no pantry, and those that the steps in flight still need. -/
def reservedBlocks (s : State) : Nat :=
  scoredEnds s + s.planners.foldl (fun (n : Nat) e => n + (match e.2.flight with
    | some f => (f.plans.map (blocksNeeded s)).foldl (· + ·) 0
    | none => 0)) 0

/-- Whether a block is the least recently used of those that satisfy p. -/
def leastUsed (s : State) (p : Nat × Block → Bool) (b : Block) : Bool := !((s.pantry.filter p).any (fun e => e.2.used < b.used))

/-- Blocks that the steps in flight read. -/
def flightBlocks (s : State) : List Nat :=
  s.planners.flatMap (fun e => match e.2.flight with | some f => f.plans.flatMap (fun (p : Plan) => blocksRead s p.agent) | none => [])

/-- Cached entries, but for those that a step reads, are evicted, least recently used first, until so many blocks find room
(R316). -/
def evictFor (s : State) (keep : List Nat) (wanted : Nat) : Nat → State
  | 0 => s
  | n + 1 =>
    if s.pantry.length + wanted ≤ Config.kvBlocks then s
    else
      let cached (x : Nat × Block) : Bool := x.2.refs = 0 && !(keep.contains x.1)
      match s.pantry.find? (fun e => cached e && leastUsed s cached e.2) with
      | some e => evictFor { s with pantry := Tbl.del s.pantry e.1 } keep wanted n
      | none => s

/-- What the plans of a step read. -/
def plansRead (s : State) (l : List Plan) : List Nat := l.flatMap (fun (p : Plan) => blocksRead s p.agent)

/-- Agents whose blocks cannot be allocated once cached entries are evicted fault; the others stay in the step (R322, R337). What
those of the step and the steps in flight read is not evicted; `keep` holds that of the latter and of the plans before. -/
def allocate (s : State) (keep : List Nat) : Nat → List Plan → State × List Plan
  | taken, [] => (evictFor s keep taken s.pantry.length, [])
  | taken, p :: r =>
    let n := blocksNeeded s p
    if n ≠ 0 && Config.kvBlocks < blocksKept s (keep ++ plansRead s (p :: r)) + taken + n then
      allocate (agentFault s p.agent Cause.ctxExhausted 0 0) keep taken r
    else let q := allocate s (keep ++ blocksRead s p.agent) (taken + n) r; (q.1, p :: q.2)

def putDeficits (s : State) : Tbl Nat → State
  | [] => s
  | (id, d) :: r => putDeficits (match s.agent id with | some a => s.setAgent id { a with deficit := d } | none => s) r

/-- What a step is made of once its forming has ended: the agents' positions, and whether they are planned the second time. -/
structure Formed where
  st : State
  plans : List Plan
  retry : Bool

/-- A new step from the ring (R343). -/
def formNew (s : State) (part : Nat) : Formed :=
  let q := s.planner part
  let defs := q.ring.foldl (fun (t : Tbl Nat) (id : Nat) => Tbl.put t id (match s.agent id with | some a => a.deficit | none => 0)) []
  let f := formStep s ((stepRoom + 1) * (q.ring.length + 1))
    { ring := q.ring, visiting := q.visiting, defs := defs, planned := [], room := stepRoom, idle := 0 }
  let s1 := putDeficits (s.setPlanner part { q with ring := f.ring, visiting := f.visiting }) f.defs
  { st := s1, plans := f.planned.map (fun (e : Nat × Nat) => planFor s1 part e.1 e.2), retry := false }

/-- The positions of a step to plan: those of the step whose launch faulted, read again (R337, R350), or new ones; none while an
agent of the former is not ready. -/
def formPlans (s : State) (part : Nat) : Option Formed :=
  let q := s.planner part
  match q.replan with
  | some st =>
    if !(st.plans.all (fun (x : Plan) => readyToPlan s x.agent)) then none
    else some { st := s.setPlanner part { q with replan := none }, retry := true
                plans := st.plans.map (fun (x : Plan) => planFor s part x.agent (min x.count (demandOf s x.agent))) }
  | none => some (formNew s part)

/-- The context of an agent's instruction with its model, for a plan. -/
def planModel (s : State) (part : Nat) (p : Plan) : Option (TokCtx × Model) :=
  ((s.agent p.agent).bind (longCtx s)).bind (fun x => (modelOf s part x.2.model).map (fun m => (x.2, m)))

/-- The logical cores of the contexts that registered the models of a step, whose launch takes cores among them (log 66). -/
def stepTable (s : State) (part : Nat) (plans : List Plan) : List Nat :=
  ((plans.filterMap (planModel s part)).map (fun x => x.2.ctx)).eraseDups.flatMap (fun c =>
    match s.ctx c with | some x => x.place.map (fun e => c * 2048 + e.1) | none => [])

/-- The early-exit models whose drafts a step checks. -/
def checkedModels (s : State) (part : Nat) (plans : List Plan) : List Model :=
  (plans.filter (fun (p : Plan) => !p.jac && !p.drafts.isEmpty)).filterMap (fun p => (planModel s part p).map (fun x => x.2))

/-- LRB and LRE of the cores of a step's check stages (R356). -/
def writeLayers (s : State) (cores : List Nat) : List Model → State
  | [] => s
  | m :: r =>
    writeLayers (mapCores s (fun c => { c with lrb := .ofNat 64 m.exit, lre := .ofNat 64 m.layers })
      (cores.filter (fun k => ctxOf k = m.ctx))) cores r

/-- The blocks that a step reads have been used (R316, R342). -/
def touchPlans (s : State) (plans : List Plan) : State :=
  let read := plans.flatMap (fun (p : Plan) => blocksRead s p.agent)
  { s with pantry := s.pantry.map (fun e => if read.contains e.1 then (e.1, { e.2 with used := s.reft.toNat }) else e) }

/-- The larder's entries from which a step that completes has drafted have been used (R358, R360). -/
def touchLarder (s : State) (part : Nat) : List Plan → State
  | [] => s
  | p :: r =>
    let q := s.planner part
    let hit := match planModel s part p with
      | some (t, _) => if p.jac && t.window.isNone then larderEntry q t else none
      | none => none
    touchLarder (match hit with | some e => s.setPlanner part { q with larder := e :: q.larder.filter (fun x => x.1 ≠ e.1) } | none => s) part r

/-- What the planner reads for the positions of a plan: the ids of a string with the heads of the candidates among them, or a mask. -/
def planTouch (s : State) (part : Nat) (p : Plan) : Touch :=
  match (s.agent p.agent).bind (fun a => (longCtx s a).map (fun x => (a, x.2))) with
  | none => Touch.none
  | some (a, t) =>
    let who : Who := .ctx a.home
    let addr := a.prog.addr.toNat
    let own := p.count - t.pending
    let reads (l : List (Who × Nat × Nat)) : Touch := { reads := l, rest := [] }
    if own = 0 then Touch.none
    else match a.cur with
    | some (.cgen _ _ _) =>
      (match Tbl.look s.masks (part * 64 + t.mask.toNat), vocab s a t with
       | some (ctx, base), some v => if t.mask.toNat < 64 then reads [(.ctx ctx, base.toNat, (v + 7) / 8)] else Touch.none
       | _, _ => Touch.none)
    | some (.cchoose _ _ _ _) =>
      (match chooseRuns s a (fun _ => false) false (a.prog.total - a.prog.cand) addr a.prog.done own with
       | .ok l => reads (l.flatMap (fun r => [(who, r.1, 4), (who, r.1 + 4 + 4 * r.2.1, 4 * r.2.2)]))
       | .error _ => reads [(who, addr, 4)])
    | _ => reads [(who, addr + 4 + 4 * a.prog.done, 4 * own)]

/-- The touches of a list of plans. -/
def planTouches (f : Plan → Touch) (l : List Plan) : Touch := l.foldl (fun t p => t.append (f p)) Touch.none

/-- The launch of a step takes its cores (R330, R363): it pre-empts the launches there, all of lower priority than the step queue,
and waits until they are quiet, for launches of priority 7, for a round, and for a relock (R396, R415, R418). -/
def flyStep (s : State) (part : Nat) (f : Formed) (cores check : List Nat) : State :=
  let phys := cores.map s.phys
  let occ := occupants s phys
  let deferred (l : Nat) : Bool := match (s.launch l).bind (fun la => s.ctx la.ctx) with
    | some x => (s.round x.part).active && !(isPreempted s l)
    | none => false
  let touch := planTouches (planTouch f.st part) f.plans
  let decks := touchDecks f.st touch ++ phys.map deckOf
  let s0 := dropHeld s (plannerSender part)
  if !(heldAt s (plannerSender part) decks.eraseDups).isEmpty then
    noteHeld s (plannerSender part) (heldAt s (plannerSender part) decks.eraseDups)
  else if occ.any (fun l => 7 ≤ prioOf s l || deferred l) || phys.any (stepPhys s).contains then s0
  else
    let s1 := preemptAll s0 (some (stepQueue, part)) occ
    if !(occ.all (quiet s1)) then s1
    else
      let f := { f with st := touchSeen (dropHeld f.st (plannerSender part)) touch }
      let r := allocate f.st (flightBlocks f.st) (reservedBlocks f.st) f.plans
      let s2 := placed (vacateAll (preemptAll r.1 (some (stepQueue, part)) occ) occ) stepQueue part
      let s3 := writeLayers (touchPlans s2 r.2) check (checkedModels s2 part r.2)
      let q := s3.planner part
      s3.setPlanner part { q with flight := if r.2.isEmpty then none else some { plans := r.2, retry := f.retry, cores := cores } }

/-- A partition with no step in flight forms one, or plans again the step that faulted. The front end chooses the cores of the
step's launch and of its check stages: those picked, or all where none is. None is formed while the context machine is frozen (R419), in a
round, or while no compute deck of the partition takes steps (R19, R23). -/
def planStep (s : State) (part : Nat) : State :=
  if (s.planner part).flight.isSome then s
  else if edged s part .machine || (s.round part).active || !((partDecks s part).any (deckServes s)) then dropHeld s (plannerSender part)
  else
    let s1 := refreshRing s part
    match formPlans s1 part with
    | none => dropHeld s1 (plannerSender part)
    | some f =>
      if f.plans.isEmpty then dropHeld f.st (plannerSender part)
      else
        let table := stepTable f.st part f.plans
        let free := table.filter (fun k => coreServes s1 part (s1.phys k))
        let chosen (p l : List Nat) : List Nat := if (l.filter p.contains).isEmpty then l else l.filter p.contains
        let cores := chosen s.picks free
        if free.isEmpty && !table.isEmpty then dropHeld s1 (plannerSender part) else flyStep s1 part f cores (chosen s.checks cores)

/-- STEP_PLAN. -/
def execStepPlan (part : Nat) (s : State) : Res := .next (planStep s part)

/-! ## Records of a step (R354, R381) -/

def tokenRecord (reg : BitVec 4) (record : Word) (tok : Nat) (p : Word) : BitVec 256 :=
  .ofNat 256 (1 + recAt 2 reg.toNat + recAt 4 tok + recAt 8 record.toNat + recAt 16 p.toNat)
def retractRecord (reg : BitVec 4) (record : Word) (n : Nat) : BitVec 256 :=
  .ofNat 256 (2 + recAt 2 reg.toNat + recAt 4 n + recAt 8 record.toNat)
def endRecord (reg : BitVec 4) (record : Word) (flag : Bool) (done : Nat) : BitVec 256 :=
  .ofNat 256 (3 + recAt 2 reg.toNat + recAt 3 (if flag then 1 else 0) + recAt 4 done + recAt 8 record.toNat)

/-! ## Generated tokens (R335, R353) -/

/-- A CGEN within a step. -/
structure Gen where
  toks : List Nat
  pos : Word
  done : Nat
  held : List (Nat × Word)
  out : List (Nat × Word)
  retract : Option Nat
  /-- Set when CGEN ends: its FLAG. -/
  ended : Option Bool

/-- The longest stop string that the last generated tokens equal. -/
def stopMatch (stops : List (List Nat)) (toks : List Nat) (done : Nat) : Option Nat :=
  (stops.filter (fun l => l.length ≤ done && toks.drop (toks.length - l.length) = l)).foldl
    (fun (b : Option Nat) l => match b with | some n => some (max n l.length) | none => some l.length) none

/-- Length of the longest suffix of the held tokens that is a proper prefix of a stop string. -/
def heldSuffix (stops : List (List Nat)) (h : List (Nat × Word)) : Nat :=
  ((List.range (h.length + 1)).reverse.find? (fun n =>
    let suf := (h.drop (h.length - n)).map (fun (x : Nat × Word) => x.1)
    n = 0 || stops.any (fun l => n < l.length && l.take n = suf))).getD 0

/-- One token is appended (R353), and CGEN ends where R335 says. -/
def genToken (t : TokCtx) (stops : List (List Nat)) (total : Nat) (g : Gen) (tok : Nat) : Gen :=
  let toks := g.toks ++ [tok]
  let done := g.done + 1
  let g1 := { g with toks := toks, pos := g.pos + 1, done := done }
  let held := g.held ++ [(tok, g.pos)]
  match stopMatch stops toks done with
  | some l =>
    if t.hold then { g1 with out := g.out ++ held.take (held.length - l), held := [], ended := some true }
    else { g1 with out := g.out ++ [(tok, g.pos)], retract := some l, ended := some true }
  | none =>
    if t.endtok.toNat = tok then { g1 with out := g.out ++ held, held := [], ended := some true }
    else
      let n := if t.hold then heldSuffix stops held else 0
      let g2 := { g1 with out := g.out ++ held.take (held.length - n), held := held.drop (held.length - n) }
      if done = total || maxTokens ≤ toks.length then { g2 with out := g2.out ++ g2.held, held := [], ended := some false } else g2

/-- Target tokens appended in order while drafts agree (R357); none where a position has no candidate. -/
def genTokens (t : TokCtx) (stops : List (List Nat)) (total : Nat) : List (Option Nat) → List Nat → Gen → Option Gen
  | [], _, g => some g
  | z :: zs, ys, g =>
    match z with
    | none => none
    | some tok =>
      let g1 := genToken t stops total g tok
      if g1.ended.isSome then some g1
      else match ys with
        | y :: yr => if y = tok then genTokens t stops total zs yr g1 else some g1
        | [] => some g1

/-- Target tokens z_1 to z_{D+1}: each from the logits after the context and the drafts before it. -/
def targets (s : State) (m : Model) (h : Nat) (t : TokCtx) (mask : Option Nat) : List Nat → List Nat → Word →
    Except Byte (List (Option Nat))
  | ys, toks, p =>
    match logitRow s m t.model (logitKey s.fresh h 0) toks.length toks.getLast? with
    | .error c => .error c
    | .ok row =>
      let z := chooseTok t m mask row p
      match ys with
      | [] => .ok [z]
      | y :: yr => (match targets s m h t mask yr (toks ++ [y]) (p + 1) with | .error c => .error c | .ok l => .ok (z :: l))

/-- How many drafts the target tokens confirm. -/
def accepted : List (Option Nat) → List Nat → Nat
  | some z :: zs, y :: ys => if z = y then 1 + accepted zs ys else 0
  | _, _ => 0

/-- The rate history of the drafting steps, and the fall-back's count of steps (R358). -/
def draftHistory (m : Model) (t : TokCtx) (jac : Bool) (j d : Nat) : TokCtx :=
  if t.spec ≠ 1 || m.exit = 0 then t
  else if jac then { t with jacobi := t.jacobi - 1, history := if t.jacobi = 1 then [] else t.history }
  else if d = 0 then t
  else
    let hs := (t.history ++ [(j, d)]).drop (t.history.length - 7)
    let sj := hs.foldl (fun (n : Nat) e => n + e.1) 0
    let sd := hs.foldl (fun (n : Nat) e => n + e.2) 0
    if hs.length = 8 && ltV (intVal sj) (mulV (decodeF fp32 t.thresh.toNat) (intVal sd)).val then
      { t with history := hs, jacobi := 32, window := none }
    else { t with history := hs }

/-! ## Completion of a step (R331) -/

/-- Pending positions computed by a plan. -/
def computePending (s : State) (part h : Nat) (t : TokCtx) (k : Nat) : State × TokCtx :=
  if t.pending = 0 then (s, t)
  else let r := computeKv s part { t with pending := t.pending - min k t.pending }; (r.1.setTok h r.2, r.2)

/-- A CGEN's part of a step. -/
def applyGen (s : State) (part id : Nat) (a : Agent) (h : Nat) (t : TokCtx) (m : Model) (pl : Plan) (cd : BitVec 4) (gd : BitVec 3) :
    Except Byte (State × Records) :=
  match targets s m h t pl.mask pl.drafts t.toks t.pos with
  | .error c => .error c
  | .ok zs =>
    match genTokens t a.stops a.prog.total zs pl.drafts
        { toks := t.toks, pos := t.pos, done := a.prog.done, held := a.held, out := [], retract := none, ended := none } with
    | none =>
      let i := accepted zs pl.drafts
      .ok (agentFault s id Cause.ctxRange (t.pos + .ofNat 64 i) 0, [])
    | some g =>
      let j := accepted zs pl.drafts
      let t1 := draftHistory m { t with toks := g.toks, pos := g.pos } pl.jac j pl.drafts.length
      let t2 := if pl.jac then { t1 with window := some ((zs.drop (j + 1)).filterMap (fun z => z)) } else t1
      let r := computeKv s part t2
      let s1 := learn (r.1.setTok h r.2) part t.model g.toks t.toks.length
      let key := ringKey a.home t.ring
      let recs := g.out.map (fun (x : Nat × Word) => (key, tokenRecord cd a.record x.1 x.2))
        ++ (match g.retract with | some n => [(key, retractRecord cd a.record n)] | none => [])
        ++ (match g.ended with | some f => [(key, endRecord cd a.record f g.done)] | none => [])
      let a1 := { a with held := g.held, prog := { a.prog with done := g.done } }
      match g.ended with
      | some f => .ok (endLong s1 id a1 (some gd) (.ofNat 64 g.done) (some f), recs)
      | none => .ok (s1.setAgent id a1, recs)

/-- The effects of one plan at its step's completion. -/
def applyPlan (s : State) (part : Nat) (pl : Plan) : Except Byte (State × Records) :=
  match pl.fault with
  | some f => .ok (agentFault s pl.agent f.1 f.2.1 f.2.2, [])
  | none =>
    match s.agent pl.agent with
    | none => .ok (s, [])
    | some a =>
      match longCtx s a with
      | none => .ok (s, [])
      | some (h, t0) =>
        match modelOf s part t0.model with
        | none => .ok (agentFault s pl.agent Cause.modelAbsent (.ofNat 64 t0.model) 0, [])
        | some m =>
          let own := pl.count - t0.pending
          let r := computePending s part h t0 pl.count
          let s1 := r.1
          let t := r.2
          if own = 0 then .ok (s1, [])
          else match a.cur with
            | some (.cappend _ _ _) =>
              let q := computeKv s1 part { t with toks := t.toks ++ pl.ids }
              let a1 := { a with prog := { a.prog with done := a.prog.done + pl.ids.length } }
              let s2 := learn (q.1.setTok h q.2) part t.model q.2.toks t.toks.length
              .ok (if a1.prog.total ≤ a1.prog.done then endLong s2 pl.agent a1 none 0 none else s2.setAgent pl.agent a1, [])
            | some (.cgen cd gd _) => applyGen s1 part pl.agent a h t m pl cd gd
            | _ => (match applyScores s1 part pl.agent a h t m pl.ids with | .ok s2 => .ok (s2, []) | .error c => .error c)

def applyPlans (s : State) (part : Nat) : List Plan → Except Byte (State × Records)
  | [] => .ok (s, [])
  | pl :: r =>
    match applyPlan s part pl with
    | .error c => .error c
    | .ok (s1, rs) =>
      match applyPlans s1 part r with
      | .error c => .error c
      | .ok (s2, qs) => .ok (s2, rs ++ qs)

def postRecords (s : State) : Records → State
  | [] => s
  | (k, x) :: r => postRecords (ringPost s k x) r

/-- The depth monitor (R359). -/
def monitorDepth (idle stall : Nat) (t : TokCtx) : TokCtx :=
  if t.spec = 0 then t
  else if 5 * stall < 4 * idle then { t with depth := min (t.depth + 1) t.depmax }
  else if 5 * idle < 4 * stall then { t with depth := max (t.depth - 1) t.depmin }
  else t

/-- The contexts of a step's agents. -/
def stepCtxs (s : State) (plans : List Plan) : List Nat :=
  plans.filterMap (fun p => (s.agent p.agent).bind (fun a => (longCtx s a).map (fun x => x.1)))

def mapToks (s : State) (f : TokCtx → TokCtx) : List Nat → State
  | [] => s
  | h :: r => mapToks (match s.tok h with | some t => s.setTok h (f t) | none => s) f r

/-- Suspensions that waited for the step's end take effect (R314). -/
def suspendAsked (s : State) : List Plan → State
  | [] => s
  | p :: r =>
    suspendAsked (match s.agent p.agent with | some a => if a.suspendReq then suspendNow s p.agent else s | none => s) r

/-- Every agent of a step faults (R337). -/
def faultAll (s : State) (cause : Byte) (tval : Word) : List Plan → State
  | [] => s
  | p :: r => faultAll (agentFault s p.agent cause tval 0) cause tval r

/-- A step is discarded (R337): after a group fault its positions are planned once more, and a second fault faults its
agents; a pre-empted one is planned again. Suspensions that were asked for take effect, and leave the step. -/
def discardStep (s : State) (part : Nat) (fault : Option Byte) : State :=
  let p := s.planner part
  match p.flight with
  | none => s
  | some f =>
    let s1 := s.setPlanner part { p with flight := none }
    match fault, f.retry with
    | some c, true => refreshRing (suspendAsked (faultAll s1 Cause.modelFault (c.setWidth 64) f.plans) f.plans) part
    | x, retry =>
      let s2 := suspendAsked s1 f.plans
      let left := f.plans.filter (fun (q : Plan) => match s2.agent q.agent with | some a => a.st = stLong | none => false)
      let q := s2.planner part
      let again := x.isSome || retry
      refreshRing (s2.setPlanner part { q with replan := if again then some { plans := left, retry := true, cores := [] } else none }) part

/-- The effects of a step in flight together, then its ring records (R331, R354). A model whose table cannot be read faults the
step's launch. -/
def endStep (part idle stall : Nat) (f : Step) (s : State) : State :=
  let ctxs := stepCtxs s f.plans
  match applyPlans (touchLarder s part f.plans) part f.plans with
  | .error c => discardStep s part (some c)
  | .ok (s1, recs) =>
    let q := s1.planner part
    let s2 := mapToks (s1.setPlanner part { q with flight := none }) (monitorDepth idle stall) ctxs
    let s3 := s2.countPart part 24 (f.plans.foldl (fun (n : Nat) x => n + x.count) 0)
    refreshRing (suspendAsked (postRecords s3 recs) f.plans) part

/-- What a step's completion reads for a plan: the rows of a model's table, and again the string whose tokens it scores. -/
def completionTouch (s : State) (part : Nat) (p : Plan) : Touch :=
  match (s.agent p.agent).bind (fun a => (planModel s part p).map (fun x => (a, x.1, x.2))) with
  | none => Touch.none
  | some (a, t, m) =>
    let rows (prev : List (Option Nat)) : List (Who × Nat × Nat) :=
      if m.cls = 0 then prev.map (fun x => (.ctx m.ctx, m.addr.toNat + 4 * m.v * x.getD m.v, 4 * m.v)) else []
    match a.cur with
    | some (.cappend _ _ _) => Touch.none
    | some (.cgen _ _ _) => { reads := rows (t.toks.getLast? :: p.drafts.map some), rest := [] }
    | some i =>
      if longReg i |>.isNone then Touch.none
      else { reads := rows (t.toks.getLast? :: (a.prog.scored ++ p.ids).dropLast.map some)
             rest := [(.ctx a.home, a.prog.addr.toNat, 4 + 4 * (a.prog.done + p.ids.length))] }
    | none => Touch.none

/-- What the agents of a step that have stopped at its end have written. -/
def stoppedTouch (s t : State) (p : Plan) : Touch :=
  match s.agent p.agent with
  | some a => if (t.agent p.agent).any (fun b => stSuspended ≤ b.st) then recordTouch s p.agent a else Touch.none
  | none => Touch.none

/-- A step ends in state t, unless a relock holds what it writes (R415). -/
def stepEnd (part : Nat) (plans : List Plan) (s t : State) : Res :=
  whenTouch s (plannerSender part) (planTouches (stoppedTouch s t) plans) (fun _ => .next (dropHeld t (plannerSender part)))

/-- STEP_COMPLETE. -/
def execStepComplete (part idle stall : Nat) (s : State) : Res :=
  match (s.planner part).flight with
  | none => .next s
  | some f =>
    whenTouch s (plannerSender part) (planTouches (completionTouch s part) f.plans) (fun s =>
      stepEnd part f.plans s (endStep part idle stall f s))

/-- STEP_FAULT: a group of the step's launch faults, or the launch is discarded (none). -/
def execStepFault (part : Nat) (fault : Option (BitVec 8)) (s : State) : Res :=
  stepEnd part (match (s.planner part).flight with | some f => f.plans | none => []) s (discardStep s part fault)

/-! ## CTRIM (R317, R326) -/

/-- CTRIM; the copy of a block that is cut needs a block, for which a cached entry makes room (R317, R322). -/
def execCtrim (cd : BitVec 4) (gs : BitVec 3) (s : State) : Res :=
  onAgent s (fun a => withCtx s a cd (fun h t =>
    let r := trimCtx s (partOf s a) t (a.reg gs).toNat
    let keep := flightBlocks s
    let held := reservedBlocks s
    if Config.kvBlocks < blocksKept r.1 keep + held && blocksKept s keep < blocksKept r.1 keep then agentTrap s Cause.ctxExhausted 0
    else agentEnd ((evictFor r.1 keep held r.1.pantry.length).setTok h r.2) a))

/-! ## Residency (R312, R342, R344) -/

/-- Whether decoding ahead ends with an instruction (R340). -/
def endsAhead : Instr → Bool
  | .gb _ _ => true
  | .gj _ => true
  | .gcall _ => true
  | .gret => true
  | .gwait _ _ _ _ => true
  | .ghalt _ => true
  | _ => false

/-- Instructions of an agent's program from an address on: up to n, straight-line. -/
def decodeAhead (s : State) (a : Agent) : Nat → Word → List Instr
  | 0, _ => []
  | n + 1, pc =>
    match agentFetch s a pc with
    | .error _ => []
    | .ok w => (match decodeAgent w with
      | none => []
      | some i => if endsAhead i then [i] else i :: decodeAhead s a n (pc + 8))

/-- The current instruction of an agent and, where it is LONG or READY, up to 8 after it (R340). -/
def lookAhead (s : State) (a : Agent) : List Instr :=
  let cur := match a.cur with | some i => [i] | none => decodeAhead s a 1 a.pc
  if a.st = stLong || a.st = stReady then cur ++ decodeAhead s a 8 (a.pc + 8) else cur

/-- The ctx registers that an agent instruction names. -/
def ctxRegs : Instr → List (BitVec 4)
  | .cnew cd _ => [cd]
  | .cfork cd cs => [cd, cs]
  | .cdrop cd => [cd]
  | .ctrim cd _ => [cd]
  | .clen _ cs => [cs]
  | .ctok _ cs _ => [cs]
  | .cappend cd _ _ => [cd]
  | .cappt cd _ => [cd]
  | .cgen cd _ _ => [cd]
  | .cscore _ cs _ _ => [cs]
  | .cchoose cd _ _ _ => [cd]
  | .cinfo _ cs _ => [cs]
  | .csets cd _ _ => [cd]
  | .csetx cd _ _ => [cd]
  | .cbind cd _ => [cd]
  | _ => []

/-- Blocks that a step in flight reads, and those that a current or looked-ahead instruction of a resident agent names (R342). -/
def flightReads (s : State) (id : Nat) : Bool := (flightBlocks s).contains id
def namedBlock (s : State) (id : Nat) : Bool :=
  s.agents.any (fun e => e.2.resident && ((blocksRead s e.1).contains id || (lookAhead s e.2).any (fun i => (ctxRegs i).any (fun c =>
    match s.tok (e.2.handle c) with | some t => t.held.contains id | none => false))))

/-- BLOCK_MOVE: a block changes place (0 DRAM, 1 deck store, 2 cellar tier), or a cached one is evicted for want of room (3); the choices
of the planner are the event's, within R316 and R342. -/
def execBlockMove (entry : Nat) (place : BitVec 2) (s : State) : Res :=
  match Tbl.look s.pantry entry with
  | none => .next s
  | some b =>
    if flightReads s entry then .next s
    else if place = 3 then
      (if Config.kvBlocks ≤ s.pantry.length + reservedBlocks s && b.refs = 0 && leastUsed s (fun e => e.2.refs = 0 && !(flightReads s e.1)) b then .next { s with pantry := Tbl.del s.pantry entry } else .next s)
    else if place = 2 && (namedBlock s entry || !(leastUsed s (fun e => e.2.place ≠ 2 && !(namedBlock s e.1) && !(flightReads s e.1)) b)) then .next s
    else
      let s1 := { s with pantry := Tbl.put s.pantry entry { b with place := place } }
      let s2 := if place = 2 && b.place ≠ 2 then s1.countPart b.part 26 1 else if place ≠ 2 && b.place = 2 then s1.countPart b.part 27 1 else s1
      .next (refreshRing s2 b.part)

/-- Resident slots (R312). -/
def agentSlots : Nat := 8192
def residentCount (s : State) : Nat := (s.agents.filter (fun e => e.2.resident)).length

/-- A resident agent, in no step, is moved out and its record written. -/
def swapOut (s : State) (id : Nat) : State :=
  match s.agent id with
  | some b =>
    if b.resident && !(inFlight s (partOf s b) id) then
      awaitSlot (refreshRing (writeRecord (s.setAgent id { b with resident := false }) id) (partOf s b)) id
    else s
  | none => s

/-- AGENT_SWAP_IN: the record of the agent that waits longest for a slot is brought into one; where none is free another agent is
moved out (R344). -/
def execAgentSwapIn (id out : Nat) (s : State) : Res :=
  if s.slotQueue.head? ≠ some id then .next s
  else
    let s1 := if residentCount s < agentSlots then s else swapOut s out
    let gone : Touch := match s.agent out with | some b => if residentCount s < agentSlots then Touch.none else recordTouch s out b | none => Touch.none
    if !(touchHeld s (agentSender out) gone).isEmpty then .next s
    else if agentSlots ≤ residentCount s1 then .next s1
    else match s1.agent id with
      | some a => .next (refreshRing ((leaveSlotQueue s1 id).setAgent id { a with resident := true }) (partOf s1 a))
      | none => .next (leaveSlotQueue s1 id)

end Sys2Proof.Machine
end

