-- ==== Sys2Proof/Machine/Packets.lean ====
section
/-!
DEFINITION. The packets of R373 apart from LAUNCH and ROLESET: WAITS, COND, REARM, COPYH, RING, FENCE, the agent
operations (R379) and the control operations (R377). A packet acts on the queue in focus, whose RPTR is on it.
-/

namespace Sys2Proof.Machine

/-! ## Packets that complete at their start -/

/-- NOP. -/
def execNop (h : Hdr) (s : State) : Res := .next (finish s s.fq h)

/-- A type of 13 or more, or a body that breaks R373. -/
def execBadPacket (h : Hdr) (code : Byte) (s : State) : Res :=
  let _ := code
  .next (fail s s.fq h Status.badPacket)

/-- A signal word as the front end reaches it: aligned, on an unchecked page. -/
def signalRead (s : State) (q : Nat) (va : Nat) : Except AccFault Nat :=
  let who := whoOf (qCtx s q)
  if va % 8 ≠ 0 || onChecked s who va 8 then .error (Cause.misaligned, .ofNat 64 va) else feLoad s who va

/-- WAITS: it completes at once, or the queue enters WAIT with the wait fields in its QSB. -/
def execWaits (h : Hdr) (addr value : Word) (cond : Byte) (timeout : Word) (s : State) : Res :=
  let q := s.fq
  if 5 < cond.toNat then .next (fail s q h Status.badPacket) else
  match signalRead s q addr.toNat with
  | .error e => .next (failAddr s q h e)
  | .ok v =>
    let s0 := countPacket s q true
    if condHolds cond.toNat (.ofNat 64 v) value then .next (countPacket (finish s0 q h) q true)
    else
      let due := if timeout = 0 then 0 else min (s.reft.toNat + timeout.toNat) (2 ^ 64 - 1)
      let s1 := qsbPut (qsbPut (qsbPut (qsbPut s0 q 48 8 addr.toNat) q 56 8 value.toNat) q 64 1 cond.toNat) q 72 8 due
      .next (qsbPut s1 q 8 1 2)

/-- Queues whose pending WAITS waits on an address. -/
def waitersOn (s : State) (va : Nat) : List Nat :=
  ((allQueues s).filter (fun e => qState s e.2 = 2 && qWaitaddr s e.2 = va)).map (fun e => e.2)

/-- COND. -/
def execCond (h : Hdr) (addr value : Word) (cond : Byte) (target : Word) (s : State) : Res :=
  let q := s.fq
  if 5 < cond.toNat then .next (fail s q h Status.badPacket) else
  match signalRead s q addr.toNat with
  | .error e => .next (failAddr s q h e)
  | .ok v =>
    .next (if condHolds cond.toNat (.ofNat 64 v) value then finishAt s q h target.toNat else finish s q h)

/-- The headers that a REARM reads from an address on. -/
def rearmHeads (s : State) (who : Who) (last : Nat) : Nat → Nat → List Nat
  | 0, _ => []
  | n + 1, p =>
    if last ≤ p then []
    else p :: (match feRead s who p 16 with
      | .error _ => []
      | .ok head =>
        let len := fld head 16 16
        if !(lenOk len) || last < p + len then [] else rearmHeads s who last n (p + len))

/-- Marks set from an address to the end of a region, packet by packet; a bad LEN or a fault stops it (R375). -/
def rearmFrom (who : Who) (last : Nat) (s : State) : Nat → Nat → State × Option (Nat × Nat)
  | 0, _ => (s, none)
  | n + 1, p =>
    if last ≤ p then (s, none) else
    match feRead s who p 16 with
    | .error e => (s, some (Status.addrFault, e.1.toNat))
    | .ok head =>
      let len := fld head 16 16
      if !(lenOk len) || last < p + len then (s, some (Status.badPacket, 0)) else
      match feWrite s who p 1 0x5A with
      | .error e => (s, some (Status.addrFault, e.1.toNat))
      | .ok s1 => rearmFrom who last s1 n (p + len)

/-- REARM: the front end passes the packet, then sets every mark of the region, its own among them. -/
def execRearm (h : Hdr) (base size target : Word) (s : State) : Res :=
  let q := s.fq
  let who := whoOf (qCtx s q)
  let last := base.toNat + size.toNat
  let go (s : State) := rearmFrom who last s (size.toNat / 16 + 1) base.toNat
  match go (advancePast s q target.toNat) with
  | (s1, none) => .next (completePacket s1 q (.ofNat 64 (qRptr s q)) h Status.ok false 0 0)
  | (_, some f) => .next (failWith (go s).1 q h f.1 f.2)

/-- FENCE: later packets start only once every earlier one has completed. -/
def execFencePacket (h : Hdr) (s : State) : Res :=
  if (asyncsOf s s.fq).isEmpty then .next (finish s s.fq h) else .next s

/-! ## RING (R381) -/

/-- The fault of the first page of a range that does not translate, from its first byte in the page to its last: a range in a window may
reach the reserve within a page (R252). -/
def rangeFault (s : State) (who : Who) (va bytes : Nat) (acc : AccKind) : Option Byte :=
  (List.range ((va % 4096 + bytes - 1) / 4096 + 1)).findSome? (fun i =>
    let page := va / 4096 * 4096 + 4096 * i
    [max va page, min (va + bytes - 1) (page + 4095)].findSome? (fun a =>
      match translate s who a 1 acc with
      | .error c => some c
      | .ok h => if h.device then some Cause.paAbsent else none))

def execRing (h : Hdr) (ringid vector : Half) (entries : W32) (base headaddr : Word) (thresh : W32) (timeout : Word) (s : State) : Res :=
  let q := s.fq
  let ctx := qCtx s q
  let key := ringKey ctx ringid.toNat
  let n := entries.toNat
  if ringid = 0 || 1023 < ringid.toNat || 2047 < vector.toNat || !(n = 0 || powBetween n 6 20) || base.toNat % 32 ≠ 0
    || headaddr.toNat % 8 ≠ 0 then .next (fail s q h Status.badPacket)
  else if n = 0 then .next (finish (dropRing s key) q h)
  else
    match (rangeFault s (whoOf ctx) base.toNat (32 * n) .write).or (rangeFault s (whoOf ctx) headaddr.toNat 8 .read) with
    | some c => .next (failAddr s q h (c, base))
    | none =>
      let r : Ring := { ctx := ctx, entries := n, base := base, headaddr := headaddr, vector := vector.toNat, thresh := thresh.toNat
                        timeout := timeout.toNat, written := 0, waiting := [], unsignalled := 0, oldest := 0 }
      .next (finish { s with rings := Tbl.put s.rings key r } q h)

/-! ## COPYH (R373) -/

def execCopyh (h : Hdr) (src dst bytes sigaddr : Word) (s : State) : Res :=
  let q := s.fq
  if 2 ^ 40 ≤ bytes.toNat then .next (fail s q h Status.badPacket)
  else .next (startAsync s q h (.copyh src dst bytes sigaddr))

/-- Bytes copied up to the first fault, sector by sector. -/
def copyBytes (who : Who) (s : State) : Nat → Nat → Nat → Nat → Except (State × AccFault) State
  | 0, _, _, _ => .ok s
  | fuel + 1, src, dst, n =>
    if n = 0 then .ok s else
    let k := min n (min (32 - src % 32) (32 - dst % 32))
    match feRead s who src k with
    | .error e => .error (s, e)
    | .ok v =>
      match feWrite s who dst k v with
      | .error e => .error (s, e)
      | .ok s1 => copyBytes who (extSeen s1 who src k) fuel (src + k) (dst + k) (n - k)

/-- COPYH_COMPLETE: the bytes are written, then 1 is added at SIGADDR; a relock holds it (R415). -/
def execCopyhComplete (k : Nat) (s : State) : Res :=
  match s.asyncs[k]? with
  | some a =>
    (match a.kind with
     | .copyh src dst bytes sig =>
       let who := whoOf (qCtx s a.qsb)
       whenTouch s (packetSender a.id)
         { reads := [], rest := [(who, src.toNat, bytes.toNat), (who, dst.toNat, bytes.toNat), (who, sig.toNat, 8)] } (fun s =>
       match copyBytes who s bytes.toNat src.toNat dst.toNat bytes.toNat with
        | .error (s1, e) => .next (endAsync s1 a Status.addrFault e.1.toNat)
        | .ok s1 =>
          match signalAdd s1 who sig.toNat 1 with
          | .error e => .next (endAsync s1 a Status.addrFault e.1.toNat)
          | .ok s2 => .next (endAsync s2 a Status.ok 0))
     | _ => .next s)
  | none => .next s

/-! ## AGENT (R379) -/

def maxAgents : Nat := 2 ^ 20

/-- The agent whose record stands at an address of a context. -/
def agentAt (s : State) (ctx : Nat) (record : Word) : Option Nat :=
  (s.agents.find? (fun (e : Nat × Agent) => e.2.home = ctx && e.2.record = record)).map (fun e => e.1)

/-- The checks of every AGENT packet: on success the context of the queue. -/
def agentPacket (h : Hdr) (ceil : Byte) (record entry : Word) (s : State) (go : Nat → Res) : Res :=
  let q := s.fq
  let ctx := qCtx s q
  if record.toNat % 256 ≠ 0 || entry.toNat % 8 ≠ 0 || 7 < ceil.toNat then .next (fail s q h Status.badPacket)
  else if ctx = 0 || (s.ctx ctx).isNone then .next (fail s q h Status.noContext)
  else go ctx

/-- A new agent (R312). -/
def newAgent (s : State) (ctx : Nat) (record entry : Word) (ceil : Nat) : Agent :=
  { home := ctx, record := record, qsb := s.fq, pc := entry, g := Vector.replicate 8 0, ctxs := Vector.replicate 16 0, flag := false
    prio := 0, weight := 1, ceil := ceil, stack := [], st := stReady, cause := 0, tval := 0, prog := Progress.zero, deficit := 0
    resident := residentCount s < agentSlots, suspendReq := false
    stops := [], held := [], cur := none }

/-- An agent enters the module; one without a slot waits for one (R344). -/
def addAgent (s : State) (a : Agent) : State :=
  awaitSlot { s with agents := Tbl.put s.agents s.nextId a, nextId := s.nextId + 1 } s.nextId

def execAgentCreate (h : Hdr) (ceil : Byte) (record entry image : Word) (s : State) : Res :=
  let _ := image
  agentPacket h ceil record entry s (fun ctx =>
    if (agentAt s ctx record).isSome then .next (fail s s.fq h Status.busy)
    else if maxAgents ≤ s.agents.length then .next (fail s s.fq h Status.capacity)
    else .next (finish (addAgent s (newAgent s ctx record entry ceil.toNat)) s.fq h))

/-- SUSPEND and EXPORT: the packet completes when the agent has stopped. -/
def stopPacket (h : Hdr) (ceil : Byte) (record entry : Word) (dest : Option Word) (s : State) : Res :=
  agentPacket h ceil record entry s (fun ctx =>
    match agentAt s ctx record with
    | none => .next (fail s s.fq h Status.noAgent)
    | some id => .next (requestSuspend (startAsync s s.fq h (.agent id dest)) id))

def execAgentSuspend (h : Hdr) (ceil : Byte) (record entry image : Word) (s : State) : Res :=
  let _ := image
  stopPacket h ceil record entry none s
def execAgentExport (h : Hdr) (ceil : Byte) (record entry image : Word) (s : State) : Res :=
  stopPacket h ceil record entry (some image) s

/-- Whether an instruction is long (R333). -/
def isLong (i : Instr) : Bool :=
  match i with
  | .cappend _ _ _ => true
  | .cgen _ _ _ => true
  | .cscore _ _ _ _ => true
  | .cchoose _ _ _ _ => true
  | _ => false

/-- The p values of held tokens, the last ones released to POS (R351). -/
def heldTokens (s : State) (a : Agent) (i : Instr) : List (Nat × Word) :=
  match i with
  | .cgen cd _ _ =>
    (match s.tok (a.handle cd) with
     | some t => (List.range a.held.length).map (fun j => ((a.held.getD j (0, 0)).1, t.pos - .ofNat 64 a.held.length + .ofNat 64 j))
     | none => a.held)
  | _ => a.held

/-- The long instruction that an imported agent is in: the one at its PC. -/
def importedLong (s : State) (a : Agent) : Option Instr :=
  if a.prog = Progress.zero then none
  else match agentFetch s a a.pc with
    | .ok w => (match decodeAgent w with | some i => if isLong i then some i else none | none => none)
    | .error _ => none

/-- RESUME: a long instruction goes on from PROGRESS, every other one issues again. -/
def resumeAgent (s : State) (id : Nat) (a : Agent) : State :=
  let long : Option Instr := match a.cur with
    | some i => if isLong i then some i else none
    | none => importedLong s a
  let b := { a with cause := 0, cur := long, st := if long.isSome then stLong else stReady, suspendReq := false }
  let c := match a.cur, long with | none, some i => { b with held := heldTokens s b i } | _, _ => b
  refreshRing (awaitSlot (s.setAgent id c) id) (partOf s c)

def execAgentResume (h : Hdr) (ceil : Byte) (record entry image : Word) (s : State) : Res :=
  let _ := image
  agentPacket h ceil record entry s (fun ctx =>
    match agentAt s ctx record with
    | none => .next (fail s s.fq h Status.noAgent)
    | some id => (match s.agent id with
      | none => .next (fail s s.fq h Status.noAgent)
      | some a => if a.st = stSuspended || a.st = stFaulted then .next (finish (resumeAgent s id a) s.fq h)
                  else .next (fail s s.fq h Status.busy)))

def execAgentRemove (h : Hdr) (ceil : Byte) (record entry image : Word) (s : State) : Res :=
  let _ := image
  agentPacket h ceil record entry s (fun ctx =>
    match agentAt s ctx record with
    | none => .next (fail s s.fq h Status.noAgent)
    | some id => (match s.agent id with
      | none => .next (fail s s.fq h Status.noAgent)
      | some a => if a.st = stSuspended || a.st = stHalted || a.st = stFaulted then .next (finish (removeAgent s id) s.fq h)
                  else .next (fail s s.fq h Status.busy)))

/-- A context of an image from its header and its ids: every position pending. -/
def imageCtx (head ids : Nat) : TokCtx :=
  let n := fld head 32 32
  { TokCtx.fresh (fld head 0 32) with
    toks := (List.range n).map (fun i => fld ids (32 * i) 32), pending := n, key := .ofNat 64 (fld head 64 64)
    temp := .ofNat 32 (fld head 128 32), endtok := .ofNat 32 (fld head 160 32), mask := .ofNat 32 (fld head 192 32)
    stops := .ofNat 64 (fld head 224 64), hold := fld head 288 8 ≠ 0, spec := fld head 296 8, depmin := fld head 304 8
    depmax := fld head 312 8, pos := .ofNat 64 (fld head 320 64), ring := fld head 384 32, thresh := .ofNat 32 (fld head 416 32)
    depth := fld head 304 8 }

/-- The contexts of an image for a list of ctx registers, from an address on. -/
def imageCtxs (s : State) (ctx : Nat) : Nat → List Nat → Except AccFault (List (Nat × TokCtx))
  | _, [] => .ok []
  | va, r :: rs =>
    match feRead s (.ctx ctx) va 64 with
    | .error e => .error e
    | .ok head =>
      let n := fld head 32 32
      match feRead s (.ctx ctx) (va + 64) (4 * n) with
      | .error e => .error e
      | .ok ids =>
        match imageCtxs s ctx (va + 64 + (4 * n + 7) / 8 * 8) rs with
        | .error e => .error e
        | .ok l => .ok ((r, imageCtx head ids) :: l)

/-- The bytes that the contexts of an image take from an address on, as far as they can be read. -/
def imageBytes (s : State) (ctx : Nat) : Nat → List Nat → Nat
  | _, [] => 0
  | va, _ :: rs =>
    match feRead s (.ctx ctx) va 64 with
    | .error _ => 64
    | .ok head => let n := 64 + (4 * fld head 32 32 + 7) / 8 * 8; n + imageBytes s ctx (va + n) rs

/-- A suspended agent from the 896 bytes that open an image. -/
def imageAgent (s : State) (ctx : Nat) (record : Word) (w : Nat) : Agent :=
  let st := fld w 64 64
  let sp := min 8 (fld st 32 4)
  let pr := fld w 1664 256
  let gen := w / 2 ^ 2048
  { newAgent s ctx record (.ofNat 64 (fld w 0 64)) (fld st 20 3) with
    g := Vector.ofFn (fun i => .ofNat 64 (fld w (128 + 64 * i.val) 64)), flag := bit st 8, prio := fld st 16 3, weight := fld st 24 8
    stack := (List.range sp).map (fun i => .ofNat 64 (fld w (1152 + 64 * i) 64)), st := stSuspended, cause := .ofNat 8 (fld st 48 8)
    tval := .ofNat 64 (fld w 1984 64)
    prog := { done := fld pr 0 32, total := fld pr 32 32, cand := fld pr 64 32, psum := .ofNat 32 (fld pr 96 32), best := fld pr 128 32
              bscore := .ofNat 32 (fld pr 160 32), addr := .ofNat 64 (fld pr 192 64), scored := [] }
    stops := (List.range (min 8 (fld gen 0 32))).map (fun i =>
      let e := fld gen (32 + 544 * i) 544
      (List.range (min 16 (fld e 0 32))).map (fun j => fld e (32 + 32 * j) 32))
    held := (List.range (min 16 (fld gen (8 * 552) 32))).map (fun i => (fld gen (8 * 556 + 32 * i) 32, 0)) }

/-- The contexts of an imported agent take new handles. -/
def adoptCtxs (s : State) (a : Agent) : List (Nat × TokCtx) → State × Agent
  | [] => (s, a)
  | (r, t) :: l =>
    adoptCtxs ({ s with nextId := s.nextId + 1 }.setTok s.nextId t) (a.setHandle (.ofNat 4 r) s.nextId) l

def execAgentImport (h : Hdr) (ceil : Byte) (record entry image : Word) (s : State) : Res :=
  agentPacket h ceil record entry s (fun ctx =>
    if (agentAt s ctx record).isSome then .next (fail s s.fq h Status.busy)
    else if maxAgents ≤ s.agents.length then .next (fail s s.fq h Status.capacity)
    else match feRead s (.ctx ctx) image.toNat 896 with
      | .error e => .next (failAddr s s.fq h e)
      | .ok w =>
        match imageCtxs s ctx (image.toNat + 896) ((List.range 16).filter (fun r => fld w (640 + 32 * r) 32 ≠ 0)) with
        | .error e => .next (failAddr s s.fq h e)
        | .ok l =>
          if maxContexts < s.toks.length + l.length then .next (fail s s.fq h Status.capacity)
          else
            let r := adoptCtxs s (imageAgent s ctx record w) l
            .next (finish (addAgent r.1 r.2) s.fq h))

/-! ## Core tables (R73) -/

/-- The physical clusters of the compute decks of a partition that no change is under way for: deck * 32 + y * 8 + x. -/
def freeClusters (s : State) (part : Nat) : List Nat :=
  ((partDecks s part).filter (fun d => deckCompute s d && !(deckChanging s d))).flatMap (fun d => (List.range 32).map (fun i => d * 32 + i))

/-- The cluster of a physical core, and a core of a cluster. -/
def clusterOf (phys : Nat) : Nat := unitOf 2 phys
def coreAt (cluster dx dy : Nat) : Nat :=
  cluster / 32 * 128 + (2 * (cluster / 8 % 4) + dy) * 16 + 2 * (cluster % 8) + dx

/-- The logical clusters of a torus. -/
def logicalClusters (w h : Nat) : List (Nat × Nat) :=
  (List.range ((h + 1) / 2)).flatMap (fun b => (List.range ((w + 1) / 2)).map (fun a => (a, b)))

/-- The entries of one cluster in a core table. -/
def clusterEntries (w h a b cluster : Nat) : List (Nat × Nat) :=
  [(0, 0), (1, 0), (0, 1), (1, 1)].filterMap (fun (d : Nat × Nat) =>
    if 2 * a + d.1 < w && 2 * b + d.2 < h then some ((2 * b + d.2) * 64 + 2 * a + d.1, coreAt cluster d.1 d.2) else none)

/-- Clusters placed one by one, each on a free physical cluster of the front end's choice (log 11). -/
def placeClusters (w h seed : Nat) : List (Nat × Nat) → List Nat → Option (List (Nat × Nat))
  | [], _ => some []
  | _ :: _, [] => none
  | (a, b) :: r, f :: fs =>
    let free := f :: fs
    let c := free.getD (Config.place (seed + r.length) % free.length) f
    (placeClusters w h seed r (free.filter (fun x => x ≠ c))).map (fun l => clusterEntries w h a b c ++ l)

/-- A core table of a w × h torus in a partition. -/
def placeTorus (s : State) (part w h : Nat) : Option (Tbl Nat) :=
  (placeClusters w h (s.fresh * 1024) (logicalClusters w h) (freeClusters s part)).map (putTable [])

/-! ## QCTL (R377) -/

/-- A privileged operation. -/
def privOnly (h : Hdr) (s : State) (body : Res) : Res :=
  if qPriv s s.fq then body else .next (fail s s.fq h Status.privileged)

/-- The tags of the checked pages of a new context are empty (R270). -/
def clearTags (s : State) (ctx : Nat) : State :=
  if s.tags.isEmpty then s
  else
    let pages := (pagesOf s ctx).filter (fun (p : PageAt) => leafScope p.leaf ≠ 0)
    { s with tags := s.tags.filter (fun (t : Nat × Tag) => !(pages.any (fun p => inPage p.leaf (32 * t.1)))) }

def execCtxnew (h : Hdr) (arg0 arg1 arg2 : Word) (s : State) : Res :=
  privOnly h s
    (let q := s.fq
     let a := arg1.toNat
     let part := fld a 8 2
     if 6 < fld a 0 3 || 5 < fld a 3 3 || fld a 6 2 ≠ 0 || fld a 11 53 ≠ 0 then .next (fail s q h Status.badPacket)
     else match placeTorus s part (2 ^ fld a 0 3) (2 ^ fld a 3 3) with
       | none => .next (fail s q h Status.capacity)
       | some place =>
         let c : Ctx := { root := arg0.toNat, wlog := fld a 0 3, hlog := fld a 3 3, part := part, priv := qPriv s q, debug := bit a 10
                          place := place, bars := [], ctls := [], dbg := [] }
         if arg2.toNat % 4 ≠ 0 then .next (failAddr s q h (Cause.misaligned, arg2)) else
         match feWrite s (whoOf (qCtx s q)) arg2.toNat 4 s.nextId with
         | .error e => .next (failAddr s q h e)
         | .ok s1 => .next (finish (clearTags ({ s1 with nextId := s.nextId + 1 }.setCtx s.nextId c) s.nextId) q h))

/-- Whether a launch, an agent or a queue uses a context. -/
def ctxBusy (s : State) (c : Nat) : Bool :=
  s.asyncs.any (fun (a : Async) => match a.kind with
      | .launch l => (match s.launch l with | some la => la.ctx = c | none => false)
      | _ => false)
    || s.agents.any (fun (e : Nat × Agent) => e.2.home = c) || (allQueues s).any (fun e => qCtx s e.2 = c)

/-- A context is gone with its cores and scratchpads. -/
def dropContext (s : State) (c : Nat) : State :=
  let mine (k : Nat) : Bool := ctxOf k = c
  let pad (loc : Nat) : Bool := 2 ^ 56 ≤ loc && mine ((loc - 2 ^ 56) / 2 ^ 21)
  { s with ctxs := Tbl.del s.ctxs c, cores := s.cores.filter (fun (e : Nat × Core) => !(mine e.1))
           strands := s.strands.filter (fun (e : Nat × Strand) => !(mine (e.1 / 16)))
           inbox := s.inbox.filter (fun (e : Nat × List Msg) => !(mine (e.1 / 16)))
           lates := s.lates.filter (fun (l : Late) => !(mine (coreOf l.strand)))
           mem := s.mem.filter (fun (x : Host.Cell) => !(pad x.1)), poison := s.poison.filter (fun l => !(pad l))
           soft := s.soft.filter (fun l => !(pad l))
           tags := s.tags.filter (fun (t : Nat × Tag) => !(pad (32 * t.1)))
           rings := s.rings.filter (fun (r : Nat × Ring) => r.2.ctx ≠ c)
           tlbs := s.tlbs.map (fun (t : Nat × List TlbEntry) => (t.1, t.2.filter (fun (e : TlbEntry) => e.ctx ≠ c))) }

def execCtxfree (h : Hdr) (arg0 arg1 arg2 : Word) (s : State) : Res :=
  let _ := arg1
  let _ := arg2
  privOnly h s
    (let q := s.fq
     if (s.ctx arg0.toNat).isNone then .next (fail s q h Status.noContext)
     else if ctxBusy s arg0.toNat then .next (fail s q h Status.busy)
     else .next (finish (dropContext s arg0.toNat) q h))

def execInval (h : Hdr) (arg0 arg1 arg2 : Word) (s : State) : Res :=
  let q := s.fq
  if (s.ctx arg0.toNat).isNone then .next (fail s q h Status.noContext)
  else if !(qPriv s q) && qCtx s q ≠ arg0.toNat then .next (fail s q h Status.privileged)
  else .next (startAsync s q h (.inval arg0.toNat arg1 arg2))

/-- Whether an access through an old entry of a context is under way: a matrix transfer that has captured its addresses,
reconstructed values that become visible later, or a store that outlives its group (R137, R240, R262, R307). -/
def oldAccess (s : State) (ctx : Nat) : Bool :=
  s.cores.any (fun (e : Nat × Core) => ctxOf e.1 = ctx && e.2.mx.any (fun (o : MxOp) => !o.rows.isEmpty))
    || s.covs.any (fun (e : Nat × Cov) => e.2.ctx = ctx && !e.2.values.isEmpty)
    || s.lates.any (fun (l : Late) => ctxOf (coreOf l.strand) = ctx)

/-- INVAL_COMPLETE: every access through the old entries has completed (R262). -/
def execInvalComplete (k : Nat) (s : State) : Res :=
  match s.asyncs[k]? with
  | some a =>
    (match a.kind with
     | .inval ctx va bytes =>
       if oldAccess s ctx then .next s else .next (endAsync (invalidate s ctx va.toNat bytes.toNat) a Status.ok 0)
     | _ => .next s)
  | none => .next s

/-- The partition of the queue's context, for MODEL and MASK. -/
def withPart (h : Hdr) (s : State) (go : Nat → Nat → Res) : Res :=
  let ctx := qCtx s s.fq
  match s.ctx ctx with
  | some c => if ctx = 0 then .next (fail s s.fq h Status.noContext) else go ctx c.part
  | none => .next (fail s s.fq h Status.noContext)

/-- Whether a context of a partition names a model. -/
def modelUsed (s : State) (part id : Nat) : Bool :=
  s.agents.any (fun (e : Nat × Agent) => partOf s e.2 = part && e.2.ctxs.toList.any (fun x =>
    match s.tok x with | some t => t.model = id | none => false))

def execQctlModel (h : Hdr) (arg0 arg1 arg2 : Word) (s : State) : Res :=
  withPart h s (fun ctx part =>
    let a := arg0.toNat
    let id := fld a 0 12
    let v := fld a 32 16
    if fld a 17 15 ≠ 0 || fld a 48 16 ≠ 0 || fld arg2.toNat 32 32 ≠ 0 || v = 0 || (fld a 12 4 = 0 && 4096 < v) then
      .next (fail s s.fq h Status.badPacket)
    else if modelUsed s part id then .next (fail s s.fq h Status.busy)
    else
      let m : Model := { ctx := ctx, cls := fld a 12 4, log2 := bit a 16, v := v, addr := arg1, exit := fld arg2.toNat 0 16
                         layers := fld arg2.toNat 16 16 }
      .next (finish { s with models := Tbl.put s.models (part * 4096 + id) m } s.fq h))

def execQctlMask (h : Hdr) (arg0 arg1 arg2 : Word) (s : State) : Res :=
  withPart h s (fun ctx part =>
    let _ := arg2
    if 63 < arg0.toNat then .next (fail s s.fq h Status.badPacket)
    else
      let key := part * 64 + arg0.toNat
      .next (finish { s with masks := if arg1 = 0 then Tbl.del s.masks key else Tbl.put s.masks key (ctx, arg1) } s.fq h))

/-- FREQ: refused for a deck that has no ceiling to run under; held while a named deck's tower is not in RUN (R27). -/
def execQctlFreq (h : Hdr) (arg0 arg1 arg2 : Word) (s : State) : Res :=
  privOnly h s
    (let q := s.fq
     let ds := (List.range 16).filter (fun d => arg0.getLsbD d)
     let _ := arg2
     if 2 ^ 16 ≤ arg0.toNat then .next (fail s q h Status.badPacket)
     else if ds.any (fun d => (s.tower (d / 4)).st ≠ .run) then .next s
     else if arg1.toNat < 12 || ds.any (fun d => !(deckCompute s d) || (s.deck d).ceil.toNat < arg1.toNat) then
       .next (fail s q h Status.badFreq)
     else
       let s1 := startAsync s q h (.freq [])
       .next (closeFreq (requestAll s1 (some s.nextId) (.ofNat 8 arg1.toNat) ds) s.nextId))

/-- Whether a tower carries a context or an agent. -/
def towerCarries (s : State) (t : Nat) : Bool :=
  s.ctxs.any (fun (e : Nat × Ctx) => e.2.place.any (fun (p : Nat × Nat) => deckOf p.2 / 4 = t))
    || s.agents.any (fun (e : Nat × Agent) => partOf s e.2 = (s.tower t).part.toNat)

/-- PARTITION; it waits while bring-up still changes the towers (log 60). -/
def execPartition (h : Hdr) (arg0 arg1 arg2 : Word) (s : State) : Res :=
  privOnly h s
    (let q := s.fq
     let mine (t : Nat) : BitVec 2 := .ofNat 2 (arg0.toNat / 2 ^ (2 * t))
     let _ := arg1
     let _ := arg2
     if 256 ≤ arg0.toNat then .next (fail s q h Status.badPacket)
     else if s.bringup then .next s
     else if (List.range 4).any (fun t => mine t ≠ (s.tower t).part && towerCarries s t) then .next (fail s q h Status.busy)
     else .next (finish ((List.range 4).foldl (fun (s : State) t => s.setTower t { s.tower t with part := mine t }) s) q h))

end Sys2Proof.Machine
end

