-- ==== Sys2Proof/Machine/Sync.lean ====
section
/-!
DEFINITION. Barriers (R166 to R170) with the epochs of race detection (R270).
-/

namespace Sys2Proof.Machine

/-- The key of the barrier that a barrier instruction of the current strand names (R167). -/
def barOf (s : State) (scope : BitVec 3) (id : BitVec 10) : Nat :=
  barKey scope.toNat (unitOf scope.toNat (s.phys (coreOf s.fs))) id.toNat

/-- TVAL of BAR_CONFIG and BAR_OVERRUN (R168). -/
def barTval (scope : BitVec 3) (id : BitVec 10) : Word := .ofNat 64 (scope.toNat * 256 + id.toNat)

/-- A barrier of tower or package scope lies outside the deck of a strand: a relock holds what goes there, and what comes from
there (R415). -/
def barHeld (s : State) (k scope : Nat) : List Nat := if 4 ≤ scope then heldAt s k [deckOf (s.phys (coreOf k))] else []

/-- Set the arrive epoch, or the wait epoch unless it is already later (R270). -/
def Strand.arriveEpoch (t : Strand) (scope : Nat) (q : Half) : Strand :=
  { t with epochs := Vector.upd t.epochs (scope - 2) (q + 1, (t.epoch scope).2) }
def Strand.waitEpoch (t : Strand) (scope : Nat) (w : Half) : Strand :=
  let c := (t.epoch scope).2
  { t with epochs := Vector.upd t.epochs (scope - 2) ((t.epoch scope).1, if earlier (w + 1) c then c else w + 1) }

/-- An arrival of a group, with the phase it counts in; none is an overrun (R168). -/
def Barrier.arrive (b : Barrier) (g : Nat) : Option (Half × Barrier) :=
  if b.cur.length < b.n.toNat then some (b.p, { b with cur := b.cur ++ [g] })
  else if b.nxt.length < b.n.toNat then some (b.p + 1, { b with nxt := b.nxt ++ [g] })
  else none

def execArrive (d : XReg) (scope : BitVec 3) (id : BitVec 10) (s : State) : Res :=
  checked (.arrive d scope id) s
    (let ctx := ctxOf (coreOf s.fs)
     let key := barOf s scope id
     let b := s.bar ctx key
     let g := (s.groupOf s.fs).getD (0, 0)
     if b.n = 0 then trap s Cause.barConfig (barTval scope id)
     else if !(barHeld s s.fs scope.toNat).isEmpty then hold (barHeld s s.fs scope.toNat) s
     else match b.arrive (stageKey g.1 g.2) with
       | none => trap s Cause.barOverrun (barTval scope id)
       | some (q, b1) =>
         let s1 := s.setBar ctx key b1
         let s2 := if id = 0 then s1.setCur (s1.cur.arriveEpoch scope.toNat q) else s1
         writeAndRetire 4 d (q.setWidth 64) s2)

/-- Whether phase w of a barrier has completed (R169). -/
def Barrier.passed (b : Barrier) (w : Half) : Bool := 1 ≤ (b.p - w).toNat && (b.p - w).toNat ≤ 32767

/-- The scope and the id within its key of a barrier. -/
def barScope (key : Nat) : Nat := key / 16 / 1024
def barId (key : Nat) : Nat := key % 16

/-- A WAITB on phase w of a barrier ends for a strand. -/
def endWaitb (s : State) (k key : Nat) (w : Half) : State :=
  let t := s.strand k
  let t1 := if barId key = 0 then t.waitEpoch (barScope key) w else t
  s.setStrand k { t1 with wait := .none, pc := t.pc + 4 }

def execWaitb (a : XReg) (scope : BitVec 3) (id : BitVec 10) (s : State) : Res :=
  checked (.waitb a scope id) s
    (let key := barOf s scope id
     let w := (s.readX a).setWidth 16
     if (s.bar (ctxOf (coreOf s.fs)) key).passed w then
       (match barHeld s s.fs scope.toNat with
        | [] => .next (endWaitb s s.fs key w)
        | ds => waitFor (.waitb key w) (noteHeld s s.fs ds))
     else waitFor (.waitb key w) s)

/-- BAR_CONFIG carries the same TVAL as in ARRIVE (log 15). -/
def execBarcfg (b : XReg) (scope : BitVec 3) (id : BitVec 10) (s : State) : Res :=
  checked (.barcfg b scope id) s
    (let ctx := ctxOf (coreOf s.fs)
     let key := barOf s scope id
     let x := s.bar ctx key
     if !(barHeld s s.fs scope.toNat).isEmpty then hold (barHeld s s.fs scope.toNat) s
     else if !x.cur.isEmpty || !x.nxt.isEmpty then trap s Cause.barConfig (barTval scope id)
     else retire 4 (s.setBar ctx key { x with n := (s.readX b).setWidth 16 }))

/-- End the waits of a context's strands on a barrier whose phase is past theirs; a relock of a strand's deck holds the end of one
that comes from outside the deck (R415). -/
def releaseWaiters (s : State) (ctx key : Nat) : List Nat → State
  | [] => s
  | k :: r =>
    let s1 := match (s.strand k).wait with
      | .waitb j w => if ctxOf (coreOf k) = ctx ∧ j = key ∧ (s.bar ctx key).passed w then
        (match barHeld s k (barScope key) with | [] => endWaitb (dropHeld s k) k key w | ds => noteHeld s k ds) else s
      | _ => s
    releaseWaiters s1 ctx key r

/-- A full phase completes (R166): p advances, the counts move up, and the strands waiting on the phase go on, those too whose end
a relock has held. -/
def execBarrierPhaseComplete (ctx key : Nat) (s : State) : Res :=
  let b := s.bar ctx key
  let s1 := if b.n ≠ 0 ∧ b.n.toNat ≤ b.cur.length then s.setBar ctx key { b with p := b.p + 1, cur := b.nxt, nxt := [] } else s
  .next (releaseWaiters s1 ctx key (s1.strands.map (fun (e : Nat × Strand) => e.1)))

/-- The barriers of clusters that move go with them, given by old and new cluster (R23). -/
def moveBars (bars : Tbl Barrier) (moves : List (Nat × Nat)) : Tbl Barrier :=
  (bars.map (fun (e : Nat × Barrier) =>
    if barScope e.1 = 2 then
      (match moves.find? (fun m => m.1 = e.1 / 16 % 1024) with
       | some m => (barKey 2 m.2 (barId e.1), e.2)
       | none => e)
    else e)).foldl (fun (t : Tbl Barrier) e => Tbl.put t e.1 e.2) []

end Sys2Proof.Machine
end

