-- ==== Sys2Proof/Machine/Checkpoint.lean ====
section
/-!
DEFINITION. Marker rounds (R417 to R419, R422), the release of a freeze (R420) and the restore of an image (R423).
-/

namespace Sys2Proof.Config

/-- The image of another device that bytes hold: whether its device is of this revision, the FEATURES of the code objects that its
launches name, and its contents; none for bytes that are no image. The layout belongs to the firmware (R419; log 19). -/
opaque foreignImage : Nat → Option (Bool × List Word × Machine.Image)

end Sys2Proof.Config

namespace Sys2Proof.Machine

/-! ## Rounds (R418) -/

/-- Whether a launch has not completed. -/
def liveLaunch (s : State) (l : Nat) : Bool := s.asyncs.any (fun (a : Async) => a.kind = .launch l)

/-- The inputs of a physical core: the front-end link, and every channel of a running launch that arrives there; one that has been
pre-empted for placement runs nowhere. -/
def coreInputs (s : State) (p : Nat) : List InputRef :=
  .frontEnd :: s.links.filterMap (fun (k : Link) =>
    if s.phys k.receiver = p && (s.launch k.launch).any (fun la => !la.preempted) then some (.channel k.launch k.chan k.sender) else none)

/-- The inputs of a unit; a launch that has ended leaves none (R422). -/
def unitInputs (s : State) : UnitRef → List InputRef
  | .core p => coreInputs s p
  | _ => [.frontEnd]

/-- The units of a round of a partition, with no marker come. -/
def roundUnits (s : State) (part : Nat) : List (UnitRef × List InputRef) :=
  let cores := ((partDecks s part).filter (deckCompute s)).flatMap (fun d => (List.range 128).map (fun i => d * 128 + i))
  let queues := (allQueues s).filter (fun e => queuePart s e.2 = some part)
  (cores.map UnitRef.core ++ queues.map (fun e => UnitRef.queue e.2) ++ [UnitRef.machine]).map (fun u => (u, []))

/-- START (R417). -/
def startRound (s : State) (part : Nat) : State :=
  let r := s.round part
  if r.active then s
  else if (List.range 4).any (fun t => (s.tower t).part.toNat = part && (s.tower t).st ≠ .run) then s.setRound part { r with refused := true }
  else s.setRound part { r with active := true, refused := false, pending := true, waiting := roundUnits s part, edged := [] }

def execCkptStart (part : BitVec 2) (s : State) : Res := .next (startRound s part.toNat)

/-- Whether a marker may arrive now: on a channel, once its sender has taken its edge; a relock delays it (R422). -/
def markerReady (s : State) (part : Nat) (u : UnitRef) (i : InputRef) : Bool :=
  match i, u with
  | .frontEnd, .core p => !(s.deck (deckOf p)).relock
  | .frontEnd, _ => true
  | .channel _ _ sender, .core p => edged s part (.core (s.phys sender)) && !(relockHeld s (s.phys sender) p)
  | .channel _ _ _, _ => false

/-! ## Edges and images (R419) -/

/-- The groups on a physical core. -/
def groupsAt (s : State) (p : Nat) : List (Nat × Nat) :=
  s.cores.filterMap (fun (e : Nat × Core) => if e.2.bound && s.phys e.1 = p then e.2.launch.map (fun l => (l, e.2.stage)) else none)

/-- Copy jobs of a physical core have completed, or their channel stands behind a suspended one; and the stores that its strands had
issued are complete (R88). -/
def jobsRest (s : State) (p : Nat) : Bool :=
  s.lates.all (fun (l : Late) => s.phys (coreOf l.strand) ≠ p) &&
  s.cores.all (fun (e : Nat × Core) => s.phys e.1 ≠ p ||
    e.2.jobs.all (fun (j : Job) => e.2.jobs.any (fun (k : Job) => k.channel = j.channel && k.susp.isSome)))

/-- The agents of a partition. -/
def agentsOf (s : State) (part : Nat) : List Nat :=
  (s.agents.filter (fun (e : Nat × Agent) => partOf s e.2 = part)).map (fun e => e.1)

/-- The image of a partition. -/
def partImage (s : State) (part : Nat) : Image :=
  let mine (c : Nat) : Bool := match s.ctx c with | some x => x.part = part | none => false
  let agents := s.agents.filter (fun (e : Nat × Agent) => partOf s e.2 = part)
  let launches := s.launches.filter (fun (e : Nat × Launch) => mine e.2.ctx && liveLaunch s e.1)
  let live (l : Nat) : Bool := launches.any (fun (e : Nat × Launch) => e.1 = l)
  { ctxs := s.ctxs.filter (fun (e : Nat × Ctx) => e.2.part = part)
    cores := s.cores.filter (fun (e : Nat × Core) => mine (ctxOf e.1)), strands := s.strands.filter (fun (e : Nat × Strand) => mine (ctxOf (e.1 / 16)))
    pads := s.mem.filter (fun (c : Host.Cell) => 2 ^ 56 ≤ c.1 && mine (ctxOf ((c.1 - 2 ^ 56) / 2 ^ 21)))
    launches := launches, links := s.links.filter (fun (k : Link) => live k.launch)
    marks := s.poison.filter (fun a => 2 ^ 56 ≤ a && mine (ctxOf ((a - 2 ^ 56) / 2 ^ 21)))
    decrs := s.decrs.filter (fun (d : Decr) => live d.launch), calls := s.calls.filter (fun (f : Flight) => live f.launch)
    replies := s.replies.filter (fun (r : RReply) => live r.launch), covResets := s.covResets.filter (fun e => mine e.1)
    halts := s.halts.filter (fun (e : Nat × Nat) => queuePart s e.1 = some part)
    behind := s.behind.filter (fun (e : Nat × Nat) => queuePart s e.1 = some part)
    inbox := s.inbox.filter (fun (e : Nat × List Msg) => mine (ctxOf (e.1 / 16))), covs := s.covs.filter (fun (e : Nat × Cov) => mine e.2.ctx)
    agents := agents
    toks := s.toks.filter (fun (e : Nat × TokCtx) => agents.any (fun (a : Nat × Agent) => a.2.ctxs.toList.contains e.1))
    asyncs := s.asyncs.filter (fun (a : Async) => mine (qCtx s a.qsb))
    freqs := s.asyncs.filterMap (fun (a : Async) => match a.kind with
      | .freq ds => if mine (qCtx s a.qsb) then some (a.id, ds.map (fun p =>
          (p.1, if p.2 then (s.deck p.1).waiting.getD (s.deck p.1).target else (s.deck p.1).target))) else none
      | _ => none)
    queues := ((allQueues s).filter (fun e => queuePart s e.2 = some part)).map (fun e => (e.2, e.1, qsbGet s e.2 8 120)) }

/-- CKPTBUF and CKPTSIZE. -/
def ckptBuf (s : State) (part : Nat) : Nat := (s.reg (0x640 + 16 * part)).toNat
def ckptSize (s : State) (part : Nat) : Nat := (s.reg (0x648 + 16 * part)).toNat

/-- Every unit is frozen: the image is written where it fits, and the round counts. -/
def freeze (s : State) (part : Nat) : State :=
  let n := Config.imageSize s.fresh
  let r := s.round part
  let done (refused : Bool) : Round := { r with frozen := true, pending := false, count := r.count + 1, refused := refused }
  if ckptSize s part < n then s.setRound part (done true)
  else match feWrite s .phys (ckptBuf s part) n (Config.imageBytes s.fresh) with
    | .error _ => s.setRound part (done true)
    | .ok s1 => { s1.setRound part (done r.refused) with images := (n, Config.imageBytes s.fresh, partImage s part) :: s1.images }

/-- A round whose units have all taken their edges freezes, also where a RESTORE has frozen the partition before it. -/
def closeRound (s : State) (part : Nat) : State :=
  let r := s.round part
  if r.active && r.pending && r.waiting.isEmpty then freeze s part else s

/-- MARKER_ARRIVE. -/
def execMarkerArrive (part : BitVec 2) (u : UnitRef) (i : InputRef) (s : State) : Res :=
  let r := s.round part.toNat
  if r.active && markerReady s part.toNat u i && (unitInputs s u).contains i then
    .next (closeRound (s.setRound part.toNat { r with waiting := r.waiting.map (fun (e : UnitRef × List InputRef) =>
      if e.1 = u && !(e.2.contains i) then (e.1, e.2 ++ [i]) else e) }) part.toNat)
  else .next (closeRound s part.toNat)

/-- Whether the marker has come on every input of a unit. -/
def markersCome (s : State) (u : UnitRef) (come : List InputRef) : Bool := (unitInputs s u).all come.contains

/-- A unit that freezes gives up its places at boundaries (R415). -/
def yieldPlaces (s : State) (part : Nat) : UnitRef → State
  | .queue q => dropHeld s (queueSender q)
  | .machine => (agentsOf s part).foldl (fun s id => dropHeld s (agentSender id)) (dropHeld s (plannerSender part))
  | .core _ => s

/-- A unit takes its edge. -/
def takeEdge (s : State) (part : Nat) (u : UnitRef) : State :=
  let r := s.round part
  let r1 := { r with waiting := r.waiting.filter (fun (e : UnitRef × List InputRef) => e.1 ≠ u), edged := r.edged ++ [u] }
  let s := yieldPlaces s part u
  closeRound (s.setRound part r1) part

/-- UNIT_EDGE: a core discards its groups and waits for its copy jobs, a queue for its COPYH packets, the context machine
discards its step and writes its agents' records. -/
def execUnitEdge (part : BitVec 2) (u : UnitRef) (s : State) : Res :=
  let pt := part.toNat
  let r := s.round pt
  match r.waiting.find? (fun (e : UnitRef × List InputRef) => e.1 = u) with
  | none => .next (closeRound s pt)
  | some e =>
    if !r.active || !(markersCome s u e.2) then .next s
    else match u with
      | .core p =>
        let s1 := discardOn s (groupsAt s p)
        .next (if jobsRest s1 p then takeEdge s1 pt u else s1)
      | .queue q =>
        .next (if (asyncsOf s q).any (fun (a : Async) => match a.kind with | .copyh _ _ _ _ => true | _ => false) then s else takeEdge s pt u)
      | .machine =>
        let records := (agentsOf s pt).foldl (fun (t : Touch) id => match s.agent id with | some a => t.append (recordTouch s id a) | none => t) Touch.none
        if !(touchHeld s (plannerSender pt) records).isEmpty then .next s
        else .next (takeEdge ((agentsOf s pt).foldl writeRecord (discardStep s pt none)) pt u)

/-! ## RELEASE and RESTORE (R420, R423) -/

/-- RELEASE; the groups restart by their own events. -/
def releaseRound (s : State) (part : Nat) : State :=
  let r := s.round part
  if r.frozen then s.setRound part { r with active := false, frozen := false, pending := false, waiting := [], edged := [] } else s

def execCkptRelease (part : BitVec 2) (s : State) : Res := .next (releaseRound s part.toNat)

/-- A token context of an image: every position pending, no draft state (R327, R361). -/
def TokCtx.restored (t : TokCtx) : TokCtx :=
  { t with pending := t.toks.length, blocks := [], last := none, window := none, history := [], jacobi := 0, depth := t.depmin }

/-- A queue of an image: its QSB's fields, and its place in its list. -/
def restoreQueue (s : State) (e : Nat × Nat × Nat) : State :=
  let q := e.1
  let s1 := qsbPut s q 8 120 e.2.2
  let s2 := qsbPut s1 q 9 1 (qFlags s1 q &&& 3)
  if (listOf s2 e.2.1).contains q then s2
  else qsbPut (qsbPut s2 ((listOf s2 e.2.1).getLastD (sentinel s2 e.2.1)) 0 8 q) q 0 8 0

/-- The clusters that logical cores of a context leave and reach as its core table changes. -/
def clusterMoves (old new : Tbl Nat) : List (Nat × Nat) :=
  (old.filterMap (fun (e : Nat × Nat) => (Tbl.look new e.1).map (fun p => (unitOf 2 e.2, unitOf 2 p)))).eraseDups

/-! ### New numbers for what an image brings back -/

/-- A location of a scratchpad when contexts take numbers that are d higher. -/
def shiftLoc (d a : Nat) : Nat := if 2 ^ 56 ≤ a then a + d * 2 ^ 32 else a
/-- A core, a strand or an endpoint. -/
def shiftCore (d k : Nat) : Nat := k + d * 2048
def shiftStrand (d k : Nat) : Nat := k + d * 2048 * 16
def shiftTable {α : Type} (f : Nat → Nat) (g : α → α) (t : Tbl α) : Tbl α := t.map (fun (e : Nat × α) => (f e.1, g e.2))
def shiftCells (d : Nat) (l : List Host.Cell) : List Host.Cell := l.map (fun (c : Host.Cell) => (shiftLoc d c.1, c.2))
def Msg.shift (d : Nat) (m : Msg) : Msg := { m with sender := shiftCore d m.sender }
def Core.shift (d : Nat) (c : Core) : Core :=
  { c with launch := c.launch.map (· + d), jobs := c.jobs.map (fun (j : Job) => { j with launch := j.launch + d })
           ctrs := shiftTable id (fun (x : Ctr) => match x with | .armed v home t => .armed v (shiftCore d home) t | y => y) c.ctrs }
def SavedCore.shift (d : Nat) (v : SavedCore) : SavedCore :=
  { core := v.core.shift d, strands := shiftTable (shiftStrand d) id v.strands
    inbox := shiftTable (shiftStrand d) (List.map (Msg.shift d)) v.inbox, pad := shiftCells d v.pad, marks := v.marks.map (shiftLoc d) }
def Ctx.shift (d : Nat) (c : Ctx) : Ctx :=
  { c with bars := shiftTable id (fun (b : Barrier) => { b with cur := b.cur.map (· + 16 * d), nxt := b.nxt.map (· + 16 * d) }) c.bars }
def Launch.shift (d : Nat) (la : Launch) : Launch :=
  { la with ctx := la.ctx + d, saved := shiftTable (shiftCore d) (SavedCore.shift d) la.saved }
def Cov.shift (d : Nat) (c : Cov) : Cov :=
  { c with ctx := c.ctx + d, requests := c.requests.map (shiftStrand d), values := c.values.map (fun (v : Nat × Byte) => (shiftLoc d v.1, v.2)) }
def Agent.shift (d : Nat) (a : Agent) : Agent :=
  { a with home := a.home + d, ctxs := a.ctxs.map (fun h => if h = 0 then 0 else h + d) }
def AsyncKind.shift (d : Nat) : AsyncKind → AsyncKind
  | .launch l => .launch (l + d)
  | .inval c va n => .inval (c + d) va n
  | .agent a dest => .agent (a + d) dest
  | k => k
/-- A queue's saved fields: CTX is bytes 16 to 19 of the QSB, that is bits 64 to 95 here; context 0 is none. -/
def shiftQueue (d : Nat) (e : Nat × Nat × Nat) : Nat × Nat × Nat :=
  (e.1, e.2.1, if fld e.2.2 64 32 = 0 then e.2.2 else e.2.2 + d * 2 ^ 64)

/-- An image whose contexts, launches, agents, handles and packets take numbers that are d higher. -/
def Image.shift (d : Nat) (im : Image) : Image :=
  { ctxs := shiftTable (· + d) (Ctx.shift d) im.ctxs, cores := shiftTable (shiftCore d) (Core.shift d) im.cores
    strands := shiftTable (shiftStrand d) id im.strands, pads := shiftCells d im.pads, marks := im.marks.map (shiftLoc d)
    launches := shiftTable (· + d) (Launch.shift d) im.launches
    links := im.links.map (fun (k : Link) =>
      { k with launch := k.launch + d, sender := shiftCore d k.sender, receiver := shiftCore d k.receiver })
    inbox := shiftTable (shiftStrand d) (List.map (Msg.shift d)) im.inbox
    covs := shiftTable (· + 16 * d) (Cov.shift d) im.covs
    decrs := im.decrs.map (fun (x : Decr) => { x with src := shiftCore d x.src, core := shiftCore d x.core, launch := x.launch + d })
    calls := im.calls.map (fun (x : Flight) => { x with src := shiftCore d x.src, core := shiftCore d x.core, launch := x.launch + d })
    replies := im.replies.map (fun (x : RReply) => { x with src := shiftCore d x.src, ctx := x.ctx + d, launch := x.launch + d })
    covResets := im.covResets.map (fun e => (e.1 + d, e.2)), halts := im.halts, behind := shiftTable id (· + d) im.behind
    agents := shiftTable (· + d) (Agent.shift d) im.agents, toks := shiftTable (· + d) id im.toks
    asyncs := im.asyncs.map (fun (a : Async) => { a with id := a.id + d, kind := a.kind.shift d })
    freqs := shiftTable (· + d) id im.freqs, queues := im.queues.map (shiftQueue d) }

/-- Whether a number that an image brings back is in use: a context, a launch of one, an agent, a handle or a packet has it. -/
def Image.meets (s : State) (im : Image) : Bool :=
  let keys {α : Type} (t : Tbl α) : List Nat := t.map (fun e => e.1)
  (keys im.ctxs).any (keys s.ctxs).contains || s.launches.any (fun (e : Nat × Launch) => (keys im.launches).contains e.1 && (s.ctx e.2.ctx).isSome)
    || (keys im.agents).any (keys s.agents).contains || (keys im.toks).any (keys s.toks).contains
    || im.asyncs.any (fun (a : Async) => s.asyncs.any (fun (b : Async) => a.id = b.id))

/-- What an image brings back keeps its numbers, or, where one is in use on this device, takes new ones throughout, also in the CTX
fields of its queues: no rule says what becomes of a number in use (DESIGN CHOICE, log 19). -/
def Image.fresh (s : State) (im : Image) : Image := if im.meets s then im.shift s.nextId else im

/-- A context of an image comes to the partition that restores it; it keeps its core table where that still fits, or gets another,
which its clusters' barriers follow; where none fits it has none, and the answer is false. -/
def restoreCtx (s : State) (part : Nat) (e : Nat × Ctx) : State × Bool :=
  let c := { e.2 with part := part }
  let fits := !c.place.isEmpty && c.place.all (fun (p : Nat × Nat) =>
    deckCompute s (deckOf p.2) && !(deckChanging s (deckOf p.2)) && (s.tower (deckOf p.2 / 4)).part.toNat = part)
  if fits then (s.setCtx e.1 c, true)
  else match placeTorus s part (2 ^ c.wlog) (2 ^ c.hlog) with
    | some place => (s.setCtx e.1 { c with place := place, bars := moveBars c.bars (clusterMoves c.place place) }, true)
    | none => (s.setCtx e.1 { c with place := [] }, false)

def restoreCtxs (s : State) (part : Nat) : List (Nat × Ctx) → State × List Nat
  | [] => (s, [])
  | e :: r =>
    let a := restoreCtx s part e
    let b := restoreCtxs a.1 part r
    (b.1, if a.2 then b.2 else e.1 :: b.2)

/-- Launches of contexts without a core table that fits are refused. -/
def refuseLaunches (s : State) : List Nat → State
  | [] => s
  | l :: r => refuseLaunches (endLaunch s l Status.capacity 0) r

/-- The first number behind the ids that an image brings back: new contexts, launches, agents, handles and packets come after. -/
def Image.nextId (im : Image) : Nat :=
  (im.ctxs.map (fun e => e.1) ++ im.launches.map (fun e => e.1) ++ im.agents.map (fun e => e.1) ++ im.toks.map (fun e => e.1)
    ++ im.asyncs.map (fun a => a.id)).foldl (fun n i => max n (i + 1)) 0

/-- A FREQ packet of an image requests its targets again, of the compute decks whose ceilings admit them (R416; log 51). -/
def restoreFreq (s : State) (e : Nat × List (Nat × Byte)) : State :=
  let s1 := { s with asyncs := s.asyncs.map (fun (a : Async) => if a.id = e.1 then { a with kind := .freq [] } else a) }
  let ok (p : Nat × Byte) : Bool := (s.tower (p.1 / 4)).st = .run && deckCompute s p.1 && p.2.toNat ≤ (s.deck p.1).ceil.toNat
  closeFreq ((e.2.filter ok).foldl (fun (s : State) p => requestFreq s (some e.1) p.1 p.2) s1) e.1

/-- The contents of an image, frozen, in the partition that restores it (R423, R429; log 19). -/
def restoreImage (s : State) (part : Nat) (image : Image) : State :=
  let im := image.fresh s
  let a := restoreCtxs s part im.ctxs
  let s1 := a.1
  let s2 := { s1 with
    cores := putTable s1.cores im.cores, strands := putTable s1.strands im.strands, launches := putTable s1.launches im.launches
    links := s1.links ++ im.links, inbox := putTable s1.inbox im.inbox, covs := putTable s1.covs im.covs
    covResets := s1.covResets ++ im.covResets, halts := putTable s1.halts im.halts, behind := putTable s1.behind im.behind, poison := s1.poison ++ im.marks
    nextId := max s1.nextId im.nextId
    agents := putTable s1.agents (im.agents.map (fun (e : Nat × Agent) => (e.1, { e.2 with resident := false }))), toks := putTable s1.toks (im.toks.map (fun (e : Nat × TokCtx) => (e.1, e.2.restored)))
    asyncs := s1.asyncs ++ im.asyncs, mem := im.pads.foldl (fun (m : List Host.Cell) c => Memory.write m c.1 c.2) s1.mem }
  let sent := im.replies.foldl State.sendReply (im.calls.foldl State.sendCall (im.decrs.foldl State.sendDecr s2))
  let s3 := im.agents.foldl (fun s (e : Nat × Agent) => awaitSlot s e.1) (im.queues.foldl restoreQueue sent)
  let gone := (im.launches.filter (fun (e : Nat × Launch) => a.2.contains e.2.ctx)).map (fun e => e.1)
  let s4 := refreshRing (refuseLaunches (im.freqs.foldl restoreFreq s3) gone) part
  s4.setRound part { s4.round part with frozen := true }

/-- The feature bits that an object may ask of this device: all but the native bit (R427). -/
def featuresOk (f : Word) : Bool := f.toNat < 2 ^ 15

/-- The image that stands at a buffer: one that this module wrote, by its bytes, or one from elsewhere, which a device of another
revision has written only where the objects of its launches pass the load check (R423, R427, R429). -/
def imageAt (s : State) (buf size : Nat) : Option Image :=
  match s.images.find? (fun (e : Nat × Nat × Image) => feRead s .phys buf e.1 = .ok e.2.1) with
  | some e => some e.2.2
  | none =>
    match feRead s .phys buf size with
    | .error _ => none
    | .ok b => (match Config.foreignImage b with
      | some (same, features, im) => if same || features.all featuresOk then some im else none
      | none => none)

/-- RESTORE, while the partition has no live context; without an image it is refused. -/
def restoreRound (s : State) (part : Nat) : State :=
  if s.ctxs.any (fun (e : Nat × Ctx) => e.2.part = part) then s
  else match imageAt s (ckptBuf s part) (ckptSize s part) with
    | none => s.setRound part { s.round part with refused := true }
    | some im => restoreImage s part im

def execCkptRestore (part : BitVec 2) (s : State) : Res := .next (restoreRound s part.toNat)

end Sys2Proof.Machine
end

