-- ==== Sys2Proof/Machine/Csr.lean ====
section
/-!
DEFINITION. CSR access (R172, R173) to every CSR of R113, TRAP, BRK and ERET (R174), PSEND and PRECV (R175).
-/

namespace Sys2Proof.Machine

/-! ## Reading a CSR: reserved bits read as zero (R7) -/

/-- STRAND (R63). -/
def strandCsr (s : State) : Nat :=
  let c := s.curCore
  slotOf s.fs + c.mode * 2 ^ 4 + c.count * 2 ^ 8 + (if c.sampling && slotOf s.fs + 1 = c.count then 2 ^ 16 else 0)

/-- CORE (R64). -/
def coreCsr (s : State) : Nat :=
  let k := coreOf s.fs
  let wh := match s.ctx (ctxOf k) with | some c => (c.wlog, c.hlog) | none => (0, 0)
  xOf k + yOf k * 2 ^ 8 + wh.1 * 2 ^ 16 + wh.2 * 2 ^ 20 + s.curCore.stage * 2 ^ 24

def TowerSt.code : TowerSt → Nat
  | .run => 0
  | .drain => 1
  | .flush => 2
  | .enumerate => 3

/-- ROLEMAP (R20): bits 5:0 of a byte are zero for a tower outside the reader's partition. -/
def rolemapCsr (s : State) : Nat :=
  let p := s.phys (coreOf s.fs)
  let part := match s.ctx (ctxOf (coreOf s.fs)) with | some c => c.part | none => 0
  let byte (i : Nat) : Nat :=
    let t := s.tower i
    if t.part.toNat = part then 2 ^ 6 + t.st.code * 2 ^ 4 + t.cmask.toNat else 0
  byte 0 + byte 1 * 2 ^ 8 + byte 2 * 2 ^ 16 + byte 3 * 2 ^ 24 + (deckOf p / 4) * 2 ^ 32 + (deckOf p % 4) * 2 ^ 34

/-- FREQ (R21). -/
def freqCsr (d : Deck) : Nat :=
  d.cur.toNat + d.ceil.toNat * 2 ^ 8 + d.target.toNat * 2 ^ 16 + (if d.relock then 2 ^ 24 else 0)

/-- TCAUSE (R386). -/
def tcauseCsr (t : Strand) : Nat := t.tCode.toNat + (if t.tActive then 2 ^ 63 else 0)

/-- The value of a CSR of the current strand (R113). -/
def readCsr (s : State) (n : Nat) : Word :=
  let t := s.cur
  let c := s.curCore
  let d := s.deck (deckOf (s.phys (coreOf s.fs)))
  if n = 0x001 then t.fpc
  else if n = 0x002 then t.vx.setWidth 64
  else if n = 0x003 then t.vxw.setWidth 64
  else if 0x010 ≤ n ∧ n < 0x018 then Vector.nth (n := 7) c.tcfg (n - 0x010)
  else if 0x018 ≤ n ∧ n < 0x020 then Vector.nth (n := 7) c.fmt (n - 0x018)
  else if n = 0x020 then c.mcfg
  else if n = 0x030 then .ofNat 64 (strandCsr s)
  else if n = 0x031 then .ofNat 64 (coreCsr s)
  else if n = 0x032 then t.taskid.setWidth 64
  else if n = 0x033 then t.rgn
  else if n = 0x040 then .ofNat 64 (tcauseCsr t)
  else if n = 0x041 then t.tpc
  else if n = 0x042 then t.tval
  else if n = 0x043 then t.tvec
  else if n = 0x050 then d.cyc
  else if n = 0x051 then s.reft
  else if n = 0x052 then d.clklog
  else if n = 0x053 then .ofNat 64 (freqCsr d)
  else if n = 0x058 then .ofNat 64 (rolemapCsr s)
  else if 0x060 ≤ n ∧ n < 0x064 then Vector.nth (n := 3) c.cpwp (n - 0x060)
  else if n = 0x070 then c.smpkey
  else if n = 0x071 then c.smppos
  else if n = 0x072 then c.smptemp
  else if n = 0x074 then c.lrb
  else if n = 0x075 then c.lre
  else if n = 0x078 then c.covctl
  else 0

/-! ## Writing a CSR: reserved bits and read-only fields are ignored (R7, R113) -/

/-- The bits of a CSR that a write changes; none of a read-only one. -/
def csrMask (n : Nat) : Word :=
  if n = 0x001 then 0xFFFFFFFF00000F1F
  else if n = 0x002 ∨ n = 0x003 ∨ n = 0x074 ∨ n = 0x075 then 0xFFFF
  else if 0x010 ≤ n ∧ n < 0x018 then 0xFFFFFFFF00FFFFFF
  else if 0x018 ≤ n ∧ n < 0x020 then 0xCFFFF
  else if n = 0x020 then 0x3
  else if n = 0x040 then 0xFF
  else if n = 0x041 ∨ n = 0x043 then 0xFFFFFFFFFFFFFFFC
  else if n = 0x042 ∨ n = 0x070 ∨ n = 0x071 then 0xFFFFFFFFFFFFFFFF
  else if n = 0x072 then 0x1FFFFFFFF
  else if n = 0x078 then 0x3F
  else 0

/-- Write a value to a CSR of the current strand or core. RESET of COVCTL sends a reset on its way to the controller that
CTLSEL names (R295). -/
def writeCsr (s : State) (n : Nat) (value : Word) : State :=
  let v := value &&& csrMask n
  let t := s.cur
  let c := s.curCore
  if n = 0x001 then s.setCur { t with fpc := v }
  else if n = 0x002 then s.setCur { t with vx := v.setWidth 16 }
  else if n = 0x003 then s.setCur { t with vxw := v.setWidth 16 }
  else if 0x010 ≤ n ∧ n < 0x018 then s.setCurCore { c with tcfg := Vector.upd c.tcfg (n - 0x010) v }
  else if 0x018 ≤ n ∧ n < 0x020 then s.setCurCore { c with fmt := Vector.upd c.fmt (n - 0x018) v }
  else if n = 0x020 then s.setCurCore { c with mcfg := v }
  else if n = 0x040 then s.setCur { t with tCode := v.setWidth 8 }
  else if n = 0x041 then s.setCur { t with tpc := v }
  else if n = 0x042 then s.setCur { t with tval := v }
  else if n = 0x043 then s.setCur { t with tvec := v }
  else if n = 0x070 then s.setCurCore { c with smpkey := v }
  else if n = 0x071 then s.setCurCore { c with smppos := v }
  else if n = 0x072 then s.setCurCore { c with smptemp := v }
  else if n = 0x074 then s.setCurCore { c with lrb := v }
  else if n = 0x075 then s.setCurCore { c with lre := v }
  else if n = 0x078 then
    let s1 := s.setCurCore { c with covctl := v }
    if value.getLsbD 8 then { s1 with covResets := s1.covResets ++ [(ctxOf (coreOf s.fs), v.toNat % 64)] } else s1
  else s

/-- A CSR instruction: xd takes the old value, the CSR the new one. -/
def csrOp (i : Instr) (d : XReg) (csr : BitVec 12) (new : Word → Option Word) (s : State) : Res :=
  checked i s
    (let old := readCsr s csr.toNat
     let s1 := match new old with | some v => writeCsr s csr.toNat v | none => s
     writeAndRetire 4 d old s1)

def execCsrr (d : XReg) (csr : BitVec 12) (s : State) : Res := csrOp (.csrr d csr) d csr (fun _ => none) s
def execCsrw (d a : XReg) (csr : BitVec 12) (s : State) : Res := csrOp (.csrw d a csr) d csr (fun _ => some (s.readX a)) s
def execCsrs (d a : XReg) (csr : BitVec 12) (s : State) : Res :=
  csrOp (.csrs d a csr) d csr (fun c => some (c ||| s.readX a)) s
def execCsrc (d a : XReg) (csr : BitVec 12) (s : State) : Res :=
  csrOp (.csrc d a csr) d csr (fun c => some (c &&& ~~~(s.readX a))) s

/-! ## TRAP, BRK, ERET, PSEND, PRECV -/

def execTrap (n : BitVec 16) (s : State) : Res := trap s Cause.trapInstr (n.setWidth 64)
def execBrk (n : BitVec 16) (s : State) : Res := trap s Cause.breakpoint (n.setWidth 64)
def execEret (s : State) : Res := .next (trapReturn s s.fs)

/-- Executed natively, both raise NOT_TRANSLATED with the instruction's bits (R175, R116). -/
def execPsend (a b : XReg) (s : State) : Res := trap s Cause.notTranslated (instrBits ((encode (.psend a b)).getD 0))
def execPrecv (d a : XReg) (s : State) : Res := trap s Cause.notTranslated (instrBits ((encode (.precv d a)).getD 0))

end Sys2Proof.Machine
end

