-- ==== Sys2Proof/Machine/Registers.lean ====
section
/-!
DEFINITION. The device registers of region 8 (R383): the front end's, the trunks' (R397), the debug registers (R401, R404),
the performance counters' (R407), attestation's (R405) and the checkpoint rounds' (R417), and
the packets and the agent instruction whose stores may reach them. Reads have no side effect.
-/

namespace Sys2Proof.Machine

/-! ## Debug registers (R401, R404) -/

/-- The bits of a debug register that hold a value (R7). -/
def debugMask (off : Nat) : Word :=
  if off % 16 = 0 && off < 0x290 then 0xFFFFFFFFFFFFFFFF
  else if off < 0x290 then (if off % 16 = 8 then 0xC000FFFFFFFFFFFF else 0xFFFFFFFFFFFFFFFF)
  else if off % 16 = 0 then 0xFFFFFFFFFFFFFFFF
  else 0xF1F0FFFFFFFFFFFF

/-- DEBUG_REGISTER_WRITE: a context without DEBUG refuses it, and DBGSTAT shows it. -/
def writeDebug (s : State) (off : Nat) (v : Word) : State :=
  match s.ctx (dbgCtx s) with
  | none => s
  | some c =>
    if c.debug then (s.setCtx (dbgCtx s) { c with dbg := Tbl.put c.dbg off (v &&& debugMask off) }).setReg 0x208 0
    else s.setReg 0x208 (Cause.debugDenied.setWidth 64)

def execDebugRegisterWrite (off : Nat) (value : Word) (s : State) : Res :=
  .next (if isDebugSet off then writeDebug s off value else s)

/-! ## Attestation (R405) -/

/-- ATTEST_REQUEST: a write to ATTADDR starts a report, or is ignored while one is in work. -/
def attestRequest (s : State) (pa : Word) : State :=
  match s.attBusy with
  | some _ => s
  | none =>
    if (s.ctx (s.reg 0x500).toNat).isNone then s.setReg 0x518 4
    else { s.setReg 0x518 1 with attBusy := some (pa.toNat / 64 * 64) }

def execAttestRequest (pa : Word) (s : State) : Res := .next (attestRequest s pa)

/-- Bytes 63:0 of a report. -/
def reportHead (s : State) (ctx : Nat) (c : Ctx) : V512 :=
  .ofNat 512 (bytesAt [(0, (s.reg 0x508).toNat), (8, Config.identity.toNat), (16, ctx), (20, (if c.debug then 1 else 0) + (if c.priv then 2 else 0))
                     , (21, c.part), (24, Config.recordHash.toNat)])

/-- ATTEST_DONE: the report is written, then DONE reads 1. -/
def execAttestDone (s : State) : Res :=
  match s.attBusy with
  | none => .next s
  | some pa =>
    let ctx := (s.reg 0x500).toNat
    let s1 := { s with attBusy := none }
    match s.ctx ctx with
    | none => .next (s1.setReg 0x518 4)
    | some c =>
      let head := reportHead s ctx c
      match feWrite s1 .phys pa 128 (head.toNat + (Config.signature s.fresh head).toNat * 2 ^ 512) with
      | .ok s2 => .next (s2.setReg 0x518 2)
      | .error _ => .next (s1.setReg 0x518 2)

/-! ## Performance readings (R407) -/

/-- PERF_READING: a write to PERFREQ clears DONE and starts a reading. -/
def perfReading (s : State) (v : Word) : State :=
  match s.perfBusy with
  | some _ => s
  | none =>
    if fld v.toNat 4 2 = 3 then s
    else { s.setReg 0x408 0 with perfBusy := some (fld v.toNat 0 3, fld v.toNat 4 2, fld v.toNat 8 2) }

def execPerfReading (value : Word) (s : State) : Res := .next (perfReading s value)

/-- Counter n of every compute core of a partition. -/
def perfSamples (s : State) (n part : Nat) : List Nat :=
  ((partDecks s part).filter (deckCompute s)).flatMap (fun d => (List.range 128).map (fun i => Tbl.get s.perf ((d * 128 + i) * 8 + n) 0))

def reduceSamples (op : Nat) : List Nat → Nat
  | [] => 0
  | x :: r => r.foldl (fun a b => if op = 0 then a + b else if op = 1 then min a b else max a b) x

/-- PERF_READING_DONE: VALUE, and DONE. -/
def execPerfReadingDone (s : State) : Res :=
  match s.perfBusy with
  | none => .next s
  | some (n, op, part) =>
    let ev := (s.reg (0x410 + 8 * n)).toNat % 256
    let v := if 24 ≤ ev && ev ≤ 31 then Tbl.get s.perfPart (part * 32 + ev) 0 else reduceSamples op (perfSamples s n part)
    .next ({ s with perfBusy := none }.setReg 0x408 (.ofNat 64 (v % 2 ^ 56 + 2 ^ 63)))

/-- PERF_CLEAR: counter n of every core of the module. -/
def perfClear (s : State) (n : Nat) : State := { s with perf := s.perf.filter (fun (e : Nat × Nat) => e.1 % 8 ≠ n) }

def execPerfClear (n : BitVec 3) (s : State) : Res := .next (perfClear s n.toNat)

/-! ## Reads and writes -/

/-- Whether a QSB stands in a list: then RLBASE, PWBASE and PWLIMIT are not written. -/
def listsEmpty (s : State) : Bool := (allQueues s).isEmpty

/-- START, RELEASE and RESTORE of CKPTCTL. -/
def writeCkptctl (s : State) (part : Nat) (v : Word) : State :=
  let s1 := if v.getLsbD 0 then startRound s part else s
  let s2 := if v.getLsbD 1 then releaseRound s1 part else s1
  if v.getLsbD 2 then restoreRound s2 part else s2

/-- A write to the register at an offset: reserved bits are ignored, read-only registers keep their value (R7, R383). CLEAR of a
PERFSEL is a command that is not kept: it reads as 0, of which R407 says nothing (DESIGN CHOICE, log 52). -/
def devWrite (s : State) (off : Nat) (v : Word) : State :=
  if off = 8 then (if listsEmpty s then s.setReg 8 (v &&& ~~~2047) else s)
  else if off = 0x10 || off = 0x18 then (if listsEmpty s then s.setReg off v else s)
  else if 0x40 ≤ off && off < 0x80 then s.setReg off (if off % 16 = 0 then v &&& ~~~63 else v)
  else if off = 0x200 then s.setReg off v
  else if isDebugSet off then writeDebug s off v
  else if off = 0x400 then perfReading s v
  else if 0x410 ≤ off && off < 0x450 then
    let s1 := s.setReg off (v &&& 0xFF)
    if v.getLsbD 8 then perfClear s1 ((off - 0x410) / 8) else s1
  else if off = 0x500 || off = 0x508 then s.setReg off v
  else if off = 0x510 then attestRequest s v
  else if 0x600 ≤ off && off < 0x640 then (if off % 16 = 0 then writeCkptctl s ((off - 0x600) / 16) v else s)
  else if 0x640 ≤ off && off < 0x680 then s.setReg off (if off % 16 = 0 then v &&& ~~~4095 else v)
  else if 0x100000 ≤ off then wakeQid s ((off - 0x100000) / 8)
  else s

/-- REGISTER_WRITE: a write through the host port's window; one that names no register has no effect. -/
def execRegisterWrite (off : Nat) (value : Word) (s : State) : Res :=
  .next (if regExists off then devWrite s off value else s)

/-! ## Stores of packets and agents that may reach a register (R324, R373, R383) -/

/-- Eight aligned bytes written for a context or by physical address. -/
def feStore (s : State) (who : Who) (va : Nat) (v : Word) : Except AccFault State :=
  match deviceAt s who va .write with
  | some off => .ok (devWrite s off v)
  | none => feWrite s who va 8 v.toNat

/-- SIGNAL: an atomic add or a store, and the wake of the queues that wait on the word (R369). -/
def execSignal (h : Hdr) (addr value : Word) (op : Byte) (s : State) : Res :=
  let q := s.fq
  let va := addr.toNat
  let who := whoOf (qCtx s q)
  if 1 < op.toNat then .next (fail s q h Status.badPacket) else
  match (if op = 0 then signalAdd s who va value.toNat
         else if va % 8 ≠ 0 || onChecked s who va 8 then .error (Cause.misaligned, addr)
         else feStore s who va value) with
  | .error e => .next (failAddr s q h e)
  | .ok s1 =>
    let s2 := finish s1 q h
    .next (wakeAll s2 (waitersOn s2 va))

/-- TSTAMP, once every earlier packet of the queue has completed. -/
def execTstamp (h : Hdr) (addr : Word) (s : State) : Res :=
  let q := s.fq
  if !(asyncsOf s q).isEmpty then .next s
  else if addr.toNat % 8 ≠ 0 then .next (failAddr s q h (Cause.misaligned, addr))
  else match feStore s (whoOf (qCtx s q)) addr.toNat s.reft with
    | .error e => .next (failAddr s q h e)
    | .ok s1 => .next (finish s1 q h)

/-- GST; eight bytes of a privileged context may reach a register. -/
def execGst (gd gs : BitVec 3) (w : Bool) (imm : W32) (s : State) : Res :=
  onAgent s (fun a =>
    let va := agentEa a gs imm
    match if w then none else deviceAt s (.ctx a.home) va .write with
    | some off => agentEnd (devWrite s off (a.reg gd)) a
    | none =>
      match agentWrite s a.home va (if w then 4 else 8) (a.reg gd).toNat with
      | .error f => agentTrapF s f
      | .ok s1 => agentEnd s1 a)

end Sys2Proof.Machine
end

