-- ==== Sys2Proof/Machine/LoadStore.lean ====
section
/-!
DEFINITION. Scalar loads and stores, atomics, FENCE and WAITW (R131 to R147, R171). Every access of the model takes effect
at its turn, in one order that all strands see: FENCE, LDA and STL order nothing that is not ordered already (log 1).
-/

namespace Sys2Proof.Machine

/-! ## One scalar access -/

/-- The value that an access reads: a device register, or the bytes of its pieces (R383). -/
def readOf (s : State) (ps : List Piece) : Nat :=
  match ps with
  | p :: _ => if p.hit.device then (devRead s ((p.hit.pa.getD 0) % 2 ^ 48)).toNat else readPieces s.mem ps
  | [] => 0

/-- The write of an access: a device register, or the bytes of its pieces (R383). -/
def writeOf (s : State) (ps : List Piece) (v : Nat) : State :=
  match ps with
  | p :: _ => if p.hit.device then devWrite s ((p.hit.pa.getD 0) % 2 ^ 48) (.ofNat 64 v) else writePieces s ps v
  | [] => s

/-- The low 8n bits of a value, sign-extended or zero-extended. -/
def sextBytes (n v : Nat) : Word := (BitVec.ofNat (8 * n) v).signExtend 64
def zextBytes (n v : Nat) : Word := (BitVec.ofNat (8 * n) v).setWidth 64

/-- The address of a load or a store. -/
def memAddr (a : XReg) (off : BitVec 11) (s : State) : Word := s.readX a + off.signExtend 64

/-- Whether an address lies in the own-scratchpad window (R251): a load of it keeps the strand in rotation (R135). -/
def ownWindow (ea : Word) : Bool := ea.toNat / 2 ^ 44 = 0xFFE

/-- A load of n bytes at ea into t (R132, R135): from the own window it completes, else the strand waits for its reply. -/
def loadAt (t : XReg) (n : Nat) (sx : Bool) (ea : Word) (s : State) : Res :=
  if ea.toNat % n ≠ 0 then trap s Cause.misaligned ea else
  match accessBytes s s.fs ea.toNat n (AccMode.load (n = 8)) with
  | .fault c v => trap s c v
  | .wait ds => stall ds s
  | .ok s1 ps =>
    let v := if sx then sextBytes n (readOf s1 ps) else zextBytes n (readOf s1 ps)
    let s2 := countPieces s1 (coreOf s.fs) false ps
    if ownWindow ea then writeAndRetire 4 t v s2
    else waitFor (.reply { len := 4, xw := [(t, v)], vw := none, decks := piecesDecks s1 (coreOf s.fs) ps }) s2

/-- A store of the low n bytes of v at ea, by an instruction (R132, R135). -/
def storeAt (i : Instr) (n : Nat) (v ea : Word) (s : State) : Res :=
  if ea.toNat % n ≠ 0 then trap s Cause.misaligned ea else
  match accessBytes s s.fs ea.toNat n (AccMode.put (n = 8)) with
  | .fault c w => trap s c w
  | .wait ds => stallStore i ds s
  | .ok s1 ps => retire 4 (countPieces (writeOf s1 ps (v.toNat % 256 ^ n)) (coreOf s.fs) true ps)

def execLd (t a : XReg) (off : BitVec 11) (sx : Bool) (size : BitVec 2) (s : State) : Res :=
  checked (.ld t a off sx size) s (loadAt t (2 ^ size.toNat) sx (memAddr a off s) s)
def execSt (t a : XReg) (off : BitVec 11) (size : BitVec 2) (s : State) : Res :=
  checked (.st t a off size) s (storeAt (.st t a off size) (2 ^ size.toNat) (s.readX t) (memAddr a off s) s)
def execLda (t a : XReg) (off : BitVec 11) (scope : BitVec 3) (sx : Bool) (size : BitVec 2) (s : State) : Res :=
  checked (.lda t a off scope sx size) s (loadAt t (2 ^ size.toNat) sx (memAddr a off s) s)
def execStl (t a : XReg) (off : BitVec 11) (scope : BitVec 3) (size : BitVec 2) (s : State) : Res :=
  checked (.stl t a off scope size) s (storeAt (.stl t a off scope size) (2 ^ size.toNat) (s.readX t) (memAddr a off s) s)

/-! ## Atomics -/

/-- f(old, b) on n bytes (R139). -/
def amoValue (f n old b : Nat) : Nat :=
  let m := 2 ^ (8 * n)
  let so := sextBytes n old
  let sb := sextBytes n b
  if f = 0 then (old + b) % m
  else if f = 1 then b % m
  else if f = 2 then old &&& b
  else if f = 3 then old ||| b
  else if f = 4 then old ^^^ b
  else if f = 5 then (if so.toInt ≤ sb.toInt then old else b)
  else if f = 6 then (if sb.toInt ≤ so.toInt then old else b)
  else if f = 7 then min old b
  else max old b

/-- An AMO of operation f on n bytes at xa, by an instruction (R139): one action; the strand waits for the old value (R141). -/
def amoAt (i : Instr) (f : Nat) (d a b : XReg) (n : Nat) (s : State) : Res :=
  let ea := s.readX a
  if ea.toNat % n ≠ 0 then trap s Cause.misaligned ea else
  match accessBytes s s.fs ea.toNat n (AccMode.rmw true) with
  | .fault c v => trap s c v
  | .wait ds => stallStore i ds s
  | .ok s1 ps =>
    let old := readPieces s1.mem ps
    let s2 := writePieces s1 ps (amoValue f n old ((s.readX b).toNat % 256 ^ n))
    waitFor (.reply { len := 4, xw := [(d, sextBytes n old)], vw := none, decks := piecesDecks s1 (coreOf s.fs) ps })
      (countPieces (countPieces s2 (coreOf s.fs) false ps) (coreOf s.fs) true ps)

def execAmoadd (d a b : XReg) (scope : BitVec 3) (size : BitVec 4) (s : State) : Res :=
  checked (.amoadd d a b scope size) s (amoAt (.amoadd d a b scope size) 0 d a b (2 ^ size.toNat) s)
def execAmoswap (d a b : XReg) (scope : BitVec 3) (size : BitVec 4) (s : State) : Res :=
  checked (.amoswap d a b scope size) s (amoAt (.amoswap d a b scope size) 1 d a b (2 ^ size.toNat) s)
def execAmoand (d a b : XReg) (scope : BitVec 3) (size : BitVec 4) (s : State) : Res :=
  checked (.amoand d a b scope size) s (amoAt (.amoand d a b scope size) 2 d a b (2 ^ size.toNat) s)
def execAmoor (d a b : XReg) (scope : BitVec 3) (size : BitVec 4) (s : State) : Res :=
  checked (.amoor d a b scope size) s (amoAt (.amoor d a b scope size) 3 d a b (2 ^ size.toNat) s)
def execAmoxor (d a b : XReg) (scope : BitVec 3) (size : BitVec 4) (s : State) : Res :=
  checked (.amoxor d a b scope size) s (amoAt (.amoxor d a b scope size) 4 d a b (2 ^ size.toNat) s)
def execAmomin (d a b : XReg) (scope : BitVec 3) (size : BitVec 4) (s : State) : Res :=
  checked (.amomin d a b scope size) s (amoAt (.amomin d a b scope size) 5 d a b (2 ^ size.toNat) s)
def execAmomax (d a b : XReg) (scope : BitVec 3) (size : BitVec 4) (s : State) : Res :=
  checked (.amomax d a b scope size) s (amoAt (.amomax d a b scope size) 6 d a b (2 ^ size.toNat) s)
def execAmominn (d a b : XReg) (scope : BitVec 3) (size : BitVec 4) (s : State) : Res :=
  checked (.amominn d a b scope size) s (amoAt (.amominn d a b scope size) 7 d a b (2 ^ size.toNat) s)
def execAmomaxn (d a b : XReg) (scope : BitVec 3) (size : BitVec 4) (s : State) : Res :=
  checked (.amomaxn d a b scope size) s (amoAt (.amomaxn d a b scope size) 8 d a b (2 ^ size.toNat) s)

/-- Whether a CAS of n bytes at xa would succeed: where the word can be read, its value decides (R140). -/
def casHolds (d a : XReg) (n : Nat) (s : State) : Bool :=
  match translate s (.core (coreOf s.fs)) (s.readX a).toNat n .write with
  | .ok h => Memory.readN s.mem h.loc n = (s.readX d).toNat % 256 ^ n
  | .error _ => false

/-- A CAS on n bytes at xa, by an instruction: a failed one writes nothing and counts as an atomic read (R140). -/
def casAt (i : Instr) (d a b : XReg) (n : Nat) (s : State) : Res :=
  let ea := s.readX a
  if ea.toNat % n ≠ 0 then trap s Cause.misaligned ea else
  let hold := casHolds d a n s
  match accessBytes s s.fs ea.toNat n (AccMode.rmw hold) with
  | .fault c v => trap s c v
  | .wait ds => stallStore i ds s
  | .ok s1 ps =>
    let old := readPieces s1.mem ps
    let s2 := countPieces (if hold then writePieces s1 ps ((s.readX b).toNat % 256 ^ n) else s1) (coreOf s.fs) false ps
    waitFor (.reply { len := 4, xw := [(d, sextBytes n old)], vw := none, decks := piecesDecks s1 (coreOf s.fs) ps })
      (if hold then countPieces s2 (coreOf s.fs) true ps else s2)

def execCas (d a b : XReg) (scope : BitVec 3) (size : BitVec 2) (s : State) : Res :=
  checked (.cas d a b scope size) s (casAt (.cas d a b scope size) d a b (2 ^ size.toNat) s)

/-! ## FENCE -/

/-- FENCE (R144, R145): every earlier access has completed, so it only advances. -/
def execFence (kind : BitVec 2) (scope : BitVec 3) (s : State) : Res :=
  checked (.fence kind scope) s (retire 4 s)

/-! ## WAITW (R171) -/

/-- The condition of R107 on two values of n bytes: conditions 4 and 5 compare them zero-extended. -/
def waitCond (c n v w : Nat) : Bool :=
  if 4 ≤ c then condHolds c (zextBytes n v) (zextBytes n w) else condHolds c (sextBytes n v) (sextBytes n w)

/-- One read of a WAITW: an atomic read. -/
def waitwRead (n : Nat) : AccMode := { write := false, store := false, atomic := true, reads := true, dev := n = 8, skip := [] }

/-- A WAITW of n bytes reads its location: the wait ends, or goes on. -/
def waitwAt (i : Instr) (d a b : XReg) (c n : Nat) (s : State) : Res :=
  let ea := s.readX a
  if ea.toNat % n ≠ 0 then trap s Cause.misaligned ea else
  match accessBytes s s.fs ea.toNat n (waitwRead n) with
  | .fault e v => trap s e v
  | .wait ds => (match s.cur.wait with | .waitw _ => .next (noteHeld s s.fs ds) | _ => stall ds s)
  | .ok s1 ps =>
    let v := readOf s1 ps
    let s2 := countPieces s1 (coreOf s.fs) false ps
    if waitCond c n v ((s.readX b).toNat % 256 ^ n) then
      writeAndRetire 4 d (sextBytes n v) (s2.setCur { s2.cur with wait := .none })
    else waitFor (.waitw i) s2

def execWaitw (d a b : XReg) (scope : BitVec 3) (cond : BitVec 3) (dbl : Bool) (s : State) : Res :=
  checked (.waitw d a b scope cond dbl) s
    (waitwAt (.waitw d a b scope cond dbl) d a b cond.toNat (if dbl then 8 else 4) s)

/-- WAITW_RECHECK: a strand in WAITW reads its location again. -/
def execWaitwRecheck (k : Nat) (s : State) : Res :=
  match (s.strand k).wait with
  | .waitw (.waitw d a b scope cond dbl) =>
    (match waitwAt (.waitw d a b scope cond dbl) d a b cond.toNat (if dbl then 8 else 4) { s with fs := k } with
     | .next t => .next { t with fs := s.fs }
     | .fault f => .fault f
     | .refused r => .refused r)
  | _ => .next s

/-! ## Stores that outlive their group, and replies (R67, R88, R137, R143) -/

/-- The meaning of a store or an atomic. -/
def storeMeaning (i : Instr) (s : State) : Res :=
  match i with
  | .st t a off size => execSt t a off size s
  | .stl t a off scope size => execStl t a off scope size s
  | .amoadd d a b scope size => execAmoadd d a b scope size s
  | .amoswap d a b scope size => execAmoswap d a b scope size s
  | .amoand d a b scope size => execAmoand d a b scope size s
  | .amoor d a b scope size => execAmoor d a b scope size s
  | .amoxor d a b scope size => execAmoxor d a b scope size s
  | .amomin d a b scope size => execAmomin d a b scope size s
  | .amomax d a b scope size => execAmomax d a b scope size s
  | .amominn d a b scope size => execAmominn d a b scope size s
  | .amomaxn d a b scope size => execAmomaxn d a b scope size s
  | .cas d a b scope size => execCas d a b scope size s
  | .vst f => execVst f s
  | .vsts f => execVsts f s
  | .vscatter f => execVscatter f s
  | _ => .next s

/-- The place of a strand at a boundary while a late store of it stands in that place. -/
def asideSender (k : Nat) : Nat := 2 ^ 62 + k

/-- The state in which a late store or atomic makes its access: its strand and its core as they were, in its own place at a boundary.
A handler stands by, so that a fault is seen as a trap. -/
def lateSetup (s : State) (l : Late) : State :=
  let k := l.strand
  let s1 := renameHeld (renameHeld s k (asideSender k)) (itemSender l.id) k
  { (s1.setCore (coreOf k) { l.core with jobs := (s.core (coreOf k)).jobs }).setStrand k
      { l.saved with tActive := false, tvec := 1, wait := .none } with fs := k }

/-- A late store or atomic tries its access: its effect on everything but its strand and its core stands, and no reply is written; or
what holds it goes on to hold it, and so does another strand's beat that the pipe takes before a vector store's (R68). One that no
longer passes the checks that it passed at its issue has no effect (log 68). -/
def lateTry (s : State) (l : Late) : State :=
  let k := l.strand
  let gone : State := dropHeld { s with lates := s.lates.filter (fun x => x.id ≠ l.id) } (itemSender l.id)
  match storeMeaning l.instr (lateSetup s l) with
  | .next u =>
    let back := renameHeld (renameHeld { (u.setCore (coreOf k) (s.core (coreOf k))).setStrand k (s.strand k) with fs := s.fs }
      k (itemSender l.id)) (asideSender k) k
    match (u.strand k).wait with
    | .store _ | .vec _ => back
    | _ =>
      if (u.strand k).tActive then gone
      else dropHeld { back with lates := back.lates.filter (fun x => x.id ≠ l.id) } (itemSender l.id)
  | _ => gone

/-- The late stores and atomics of a strand, the oldest first. -/
def latesOf (s : State) (k : Nat) : List Late := s.lates.filter (fun l => l.strand = k)

/-- The outstanding reply of a strand is written and the strand goes on (R67, R135). -/
def replyArrives (k : Nat) (s : State) : Res :=
  match (s.strand k).wait with
  | .reply r =>
    match heldAt s k r.decks with
    | d :: ds => .next (noteHeld s k (d :: ds))
    | [] =>
      let s0 := dropHeld s k
      let t := r.xw.foldl (fun (t : Strand) w => t.writeX w.1 w.2) (s0.strand k)
      let s1 := s0.setStrand k { t with wait := .none, pc := t.pc + .ofNat 64 r.len }
      .next (match r.vw with | some (d, v) => pushResult (regWrite s1 k d v) k v | none => s1)
  | _ => .next s

/-- MEMORY_REPLY: what a strand has left behind at a discard completes, then its outstanding reply. -/
def execMemoryReply (k : Nat) (s : State) : Res := replyArrives k ((latesOf s k).foldl lateTry s)

end Sys2Proof.Machine
end

