-- ==== Sys2Proof/Machine/Roles.lean ====
section
/-!
DEFINITION. Role changes of towers (R16 to R18, R22 to R28, R378), power-on and bring-up (R29).
-/

namespace Sys2Proof.Machine

/-! ## Role maps (R18) -/

def popc4 (m : BitVec 4) : Nat := ((List.range 4).filter (fun i => m.getLsbD i)).length

/-- Whether two neighbouring decks are in the compute role. -/
def adjacent (m : BitVec 4) : Bool := (List.range 3).any (fun i => m.getLsbD i && m.getLsbD (i + 1))

/-- The clock ceiling of the compute decks of a map, in units of 0.1 GHz. -/
def mapCeil (m : BitVec 4) : Byte := if popc4 m ≤ 1 then 30 else if popc4 m = 2 && !(adjacent m) then 30 else 24

/-- Whether a tower may take a map: one of the fifteen, and listed in the configuration record. -/
def mapLegal (t : Nat) (m : BitVec 4) : Bool := m ≠ 0b1111#4 && Config.mapListed t m.toNat

/-- The map that a tower will have. -/
def mapAfter (s : State) (t : Nat) : BitVec 4 :=
  match (s.tower t).change with | some c => c.cmask | none => (s.tower t).cmask

/-- Compute cores of a partition when the towers have the given maps. -/
def coresUnder (s : State) (part : Nat) (m : Nat → BitVec 4) : Nat :=
  (List.range 4).foldl (fun n t => if (s.tower t).part.toNat = part then n + 128 * popc4 (m t) else n) 0

/-- Decks of a tower that a change takes from storeroom to compute, and from compute to storeroom. -/
def decksUp (s : State) (t : Nat) (m : BitVec 4) : List Nat :=
  (List.range 4).filterMap (fun i => if m.getLsbD i && !((s.tower t).cmask.getLsbD i) then some (4 * t + i) else none)
def decksDown (s : State) (t : Nat) (m : BitVec 4) : List Nat :=
  (List.range 4).filterMap (fun i => if !(m.getLsbD i) && (s.tower t).cmask.getLsbD i then some (4 * t + i) else none)

/-! ## ROLESET (R22, R378) -/

/-- Pages of a deck store: the entries of an evacuation list for one deck (R373). -/
def deckPages : Nat := 65536

/-- Towers enter DRAIN, each with its part of the evacuation list. -/
def startChanges (s : State) (release : Bool) (m : Nat → BitVec 4) (deadline : Nat) (async : Option Nat) : Nat → List Nat → State
  | _, [] => s
  | evac, t :: r =>
    let c : Change := { cmask := m t, release := release, deadline := deadline, evac := .ofNat 64 evac, async := async, expired := false }
    startChanges (s.setTower t { s.tower t with st := .drain, change := some c }) release m deadline async
      (evac + 8 * deckPages * (decksUp s t (m t)).length) r

/-- The round of a named tower's partition holds a ROLESET at the head of its queue (R422). -/
def roundHolds (s : State) (ts : List Nat) : Bool := ts.any (fun t => (s.round (s.tower t).part.toNat).active)

/-- ROLESET; its DEADLINE is a number of ticks from this start, which no sum of them wraps (R22 speaks of ticks; log 60). In reduced
service, whose map and ceiling last until the stacks have trained (R21, R29), it waits at the head of its queue (log 60). -/
def execRoleset (h : Hdr) (towers mode : Byte) (maps : W32) (deadline evac : Word) (s : State) : Res :=
  privOnly h s
    (let q := s.fq
     let ts := (List.range 4).filter (fun t => towers.getLsbD t)
     let m (t : Nat) : BitVec 4 := .ofNat 4 (maps.toNat / 2 ^ (8 * t))
     let after (t : Nat) : BitVec 4 := if ts.contains t then m t else mapAfter s t
     if 16 ≤ towers.toNat || 1 < mode.toNat
       || (List.range 4).any (fun t => if ts.contains t then 16 ≤ byteAt maps.toNat t else byteAt maps.toNat t ≠ 0) then
       .next (fail s q h Status.badPacket)
     else if ts.isEmpty then .next (finish s q h)
     else if !s.trained || roundHolds s ts then .next s
     else if ts.any (fun t => (s.tower t).st ≠ .run) then .next (fail s q h Status.busy)
     else if ts.any (fun t => !(mapLegal t (m t))) then .next (fail s q h Status.illegalMap)
     else if s.ctxs.any (fun (e : Nat × Ctx) => coresUnder s e.2.part after < 2 ^ (e.2.wlog + e.2.hlog)) then
       .next (fail s q h Status.capacity)
     else .next (startChanges (startAsync s q h (.roleset ts none)) (mode = 1) m (s.reft.toNat + deadline.toNat) (some s.nextId) evac.toNat ts))

/-- A tower's part of a ROLESET ends; the packet completes with the last tower (R26, R28). Where the evacuations of two towers
fault, the address of the one that settled first is reported: the rules speak of one tower (log 60). -/
def settleRole (s : State) (t : Nat) (async : Option Nat) (fault : Option Word) : State :=
  match s.asyncs.find? (fun (a : Async) => async = some a.id) with
  | none => s
  | some a =>
    match a.kind with
    | .roleset ts f =>
      let rest := ts.filter (fun x => x ≠ t)
      let g := f.or fault
      if rest.isEmpty then
        (match g with | some va => endAsync s a Status.evacFault va.toNat | none => endAsync s a Status.ok 0)
      else { s with asyncs := s.asyncs.map (fun (x : Async) => if x.id = a.id then { x with kind := .roleset rest g } else x) }
    | _ => s

/-! ## DRAIN (R23) -/

/-- Running groups with a core on some decks. -/
def runningOn (s : State) (decks : List Nat) : List (Nat × Nat) :=
  (stagesOn s decks).filter (fun g => match s.launch g.1 with | some la => la.sts[g.2]? = some .running | none => false)

/-- The decks of a tower, and those whose role changes. -/
def towerDecks (t : Nat) : List Nat := (List.range 4).map (fun i => 4 * t + i)
def changingDecks (s : State) (t : Nat) : List Nat := (towerDecks t).filter (deckChanging s)

/-- The steps in flight with a core that satisfies p are discarded and planned again (R23, R31, R337). -/
def discardSteps (s : State) (p : Nat → Bool) : State :=
  s.planners.foldl (fun (s : State) e => match e.2.flight with
    | some f => if f.cores.any p then discardStep s e.1 none else s
    | none => s) s

/-- Everything that runs on some decks is discarded. -/
def clearDecks (s : State) (decks : List Nat) : State :=
  discardSteps (discardOn s (runningOn s decks)) (fun k => decks.contains (deckOf (s.phys k)))

/-- DRAIN_DEADLINE. -/
def execDrainDeadline (tower : BitVec 2) (s : State) : Res :=
  let t := tower.toNat
  let x := s.tower t
  match x.change with
  | some c =>
    if x.st = .drain && c.deadline ≤ s.reft.toNat && !c.expired then
      .next (clearDecks (s.setTower t { x with change := some { c with expired := true } }) (changingDecks s t))
    else .next s
  | none => .next s

/-! ## FLUSH and evacuation (R23 to R26) -/

/-- The first physical address of a deck's store (R17). -/
def deckBase (d : Nat) : Nat := 6 * 2 ^ 48 + d * 2 ^ 28
def inDeck (d pa : Nat) : Bool := deckBase d ≤ pa && pa < deckBase d + 2 ^ 28

/-- Pages of every context that map into a deck's store; a malformed leaf maps nothing. -/
def mappingsTo (s : State) (d : Nat) : List PageAt :=
  let sound (ctx : Nat) (p : PageAt) : Bool := match walk s ctx p.leaf.base with | .ok _ => true | .error _ => false
  s.ctxs.flatMap (fun (e : Nat × Ctx) => (pagesOf s e.1).filter (fun (p : PageAt) =>
    p.leaf.pa < deckBase d + 2 ^ 28 && deckBase d < p.leaf.pa + p.leaf.size && sound e.1 p))

/-- The mappings are invalid in the page tables and in every TLB. -/
def dropMappings (s : State) (d : Nat) (ps : List PageAt) : State :=
  { s with
    mem := ps.foldl (fun (m : List Host.Cell) p => Memory.write m p.loc (Memory.read m p.loc &&& 0xFE)) s.mem
    tlbs := s.tlbs.map (fun (t : Nat × List TlbEntry) => (t.1, t.2.filter (fun (e : TlbEntry) =>
      !(e.pa < deckBase d + 2 ^ 28 && deckBase d < e.pa + e.size)))) }

/-- One page of a deck's store copied to the DRAM page that the list names; none where it faults. An entry that is misaligned or
names no page of regions 0 to 4, and a poisoned source page, count as such a fault: no rule names them (log 60). -/
def evacPage (s : State) (who : Who) (list d i : Nat) : Option State :=
  let src := deckBase d + 4096 * i
  if s.poison.any (fun l => src ≤ l && l < src + 4096) then none else
  match feRead s who (list + 8 * i) 8 with
  | .error _ => none
  | .ok dst =>
    if dst % 4096 ≠ 0 || 5 ≤ dst / 2 ^ 48 then none else
    match feWrite s .phys dst 4096 (Memory.readN s.mem src 4096) with
    | .error _ => none
    | .ok s1 => some s1

def evacPages (who : Who) (list d : Nat) (s : State) : List Nat → State × Option Word
  | [] => (s, none)
  | i :: r =>
    match evacPage s who list d i with
    | none => (s, some (.ofNat 64 (deckBase d + 4096 * i)))
    | some s1 => evacPages who list d s1 r

/-- The evacuation of some decks: mappings first, then, in copy mode, every page that had one. -/
def evacuate (who : Who) (copy : Bool) (s : State) : Nat → List Nat → State × Option Word
  | _, [] => (s, none)
  | list, d :: r =>
    let ps := mappingsTo s d
    let mapped := (List.range deckPages).filter (fun i => ps.any (fun (p : PageAt) =>
      p.leaf.pa < deckBase d + 4096 * (i + 1) && deckBase d + 4096 * i < p.leaf.pa + p.leaf.size))
    match (if copy then evacPages who list d (dropMappings s d ps) mapped else (dropMappings s d ps, none)) with
    | (s1, some va) => (s1, some va)
    | (s1, none) => evacuate who copy s1 (list + 8 * deckPages) r

/-- The SRAM of a deck is written to zero. -/
def zeroDeck (s : State) (d : Nat) : State :=
  { s with mem := s.mem.filter (fun (c : Host.Cell) => !(inDeck d c.1)), poison := s.poison.filter (fun l => !(inDeck d l))
           soft := s.soft.filter (fun l => !(inDeck d l))
           tags := s.tags.filter (fun (t : Nat × Tag) => !(inDeck d (32 * t.1))) }

/-- The addressing of an evacuation list: that of the ROLESET's queue. -/
def evacWho (s : State) (async : Option Nat) : Who :=
  match s.asyncs.find? (fun (a : Async) => async = some a.id) with
  | some a => whoOf (qCtx s a.qsb)
  | none => .phys

/-- Whether an access through an old entry to a deck's store is under way (R262). -/
def storeBusy (s : State) (d : Nat) : Bool :=
  s.cores.any (fun (e : Nat × Core) => e.2.mx.any (fun (o : MxOp) => o.rows.any (fun l => l.any (inDeck d))))
    || s.covs.any (fun (e : Nat × Cov) => e.2.values.any (fun v => inDeck d v.1)) || !s.lates.isEmpty

/-- The requests that a tower's decks hold are met, now that it is in RUN (R27). -/
def meetAll (s : State) (t : Nat) : State := (towerDecks t).foldl meetPending s

/-- ROLE_FLUSH: no group is left on a deck that changes; evacuation, then zeroing. Scratchpads belong to logical cores, so
saving them keeps them as they are (R24). A failed evacuation returns the tower to RUN with its old map (R26). -/
def execRoleFlush (tower : BitVec 2) (s : State) : Res :=
  let t := tower.toNat
  let x := s.tower t
  let idle := !((stepPhys s).any (fun p => (changingDecks s t).contains (deckOf p)))
  match x.change with
  | some c =>
    if x.st = .drain && (runningOn s (changingDecks s t)).isEmpty && idle && !((decksUp s t c.cmask).any (storeBusy s)) then
      (match evacuate (evacWho s c.async) (!c.release) s c.evac.toNat (decksUp s t c.cmask) with
       | (s1, some va) =>
         .next (settleRole (meetAll (s1.setTower t { s1.tower t with st := .run, change := none }) t) t c.async (some va))
       | (s1, none) =>
         .next ((changingDecks s1 t).foldl zeroDeck (s1.setTower t { s1.tower t with st := .flush })))
    else .next s
  | none => .next s

/-! ## ENUMERATE (R23, R24) -/

/-- Whether a deck belongs to the physical core set that core tables are written from: by the new map of a tower in ENUMERATE, and
else as a compute deck whose role does not change (R23). -/
def deckNames (s : State) (d : Nat) : Bool :=
  let x := s.tower (d / 4)
  match x.change with
  | some c => if x.st = .enumerate then c.cmask.getLsbD (d % 4) else deckCompute s d && !(deckChanging s d)
  | none => deckCompute s d

/-- The clusters that a core table of a partition may name. -/
def clustersAfter (s : State) (part : Nat) : List Nat :=
  ((partDecks s part).filter (deckNames s)).flatMap (fun d => (List.range 32).map (fun i => d * 32 + i))

/-- A core table after a change: clusters on decks that stay stay, the others move to clusters of the partition; with the moves
made, old cluster and new. -/
def moveClusters (c : Ctx) (down clusters : List Nat) (seed : Nat) : Option (Tbl Nat × List (Nat × Nat)) :=
  let w := 2 ^ c.wlog
  let h := 2 ^ c.hlog
  let at' (e : Nat × Nat) : Nat := clusterOf (Tbl.get c.place (2 * e.2 * 64 + 2 * e.1) 0)
  let all := logicalClusters w h
  let stays (e : Nat × Nat) : Bool := !(down.contains (at' e / 32))
  let kept := all.filter stays
  let moved := all.filter (fun e => !(stays e))
  let free := clusters.filter (fun f => !((kept.map at').contains f))
  (placeClusters w h seed moved free).map (fun l =>
    let t := putTable c.place l
    (t, moved.map (fun e => (at' e, clusterOf (Tbl.get t (2 * e.2 * 64 + 2 * e.1) 0)))))

/-- Whether a context's core table names a core of some decks. -/
def namesDeck (c : Ctx) (decks : List Nat) : Bool := c.place.any (fun (p : Nat × Nat) => decks.contains (deckOf p.2))

/-- The groups of a context are discarded. -/
def discardCtx (s : State) (ctx : Nat) : State :=
  ((s.launches.filter (fun (e : Nat × Launch) => e.2.ctx = ctx)).map (fun e => e.1)).foldl discardLaunch s

/-- Every affected context gets a core table; none where one does not fit yet. -/
def moveContexts (s : State) (down : List Nat) : List Nat → Option State
  | [] => some s
  | id :: r =>
    match s.ctx id with
    | none => moveContexts s down r
    | some c =>
      match moveClusters c down (clustersAfter s c.part) (s.fresh * 1024 + id) with
      | none => none
      | some (place, moves) =>
        let s1 := discardCtx s id
        match s1.ctx id with
        | none => none
        | some c1 => moveContexts (s1.setCtx id { c1 with place := place, bars := moveBars c1.bars moves }) down r

/-- Requests for a deck that leaves the compute role are settled. -/
def dropRequests (s : State) (d : Nat) : State := settleFreq (settleFreq s d false) d true

/-- A deck of the tower under its new map. -/
def enumerateDeck (m : BitVec 4) (up down : List Nat) (s : State) (d : Nat) : State :=
  let x := s.deck d
  if down.contains d then (dropRequests s d).setDeck d { x with relock := false, waiting := none, pending := none }
  else if up.contains d then
    s.setDeck d { cyc := 0, frac := 0, clklog := 0, cur := 12, target := 12, ceil := mapCeil m, relock := false, relockEnd := 0, waiting := none,
                   pending := none }
  else if m.getLsbD (d % 4) then
    let s1 := s.setDeck d { x with ceil := mapCeil m }
    if (mapCeil m).toNat < (x.waiting.getD x.target).toNat then requestFreq s1 none d (mapCeil m) else s1
  else s

/-- The contexts whose core tables name a deck of some. -/
def affected (s : State) (decks : List Nat) : List Nat := (s.ctxs.filter (fun (e : Nat × Ctx) => namesDeck e.2 decks)).map (fun e => e.1)

/-- The core tables that name decks which leave the compute role are rewritten, as soon as all of them fit; steps of those contexts
are discarded. -/
def rewriteTables (s : State) (down : List Nat) : State :=
  let hit := affected s down
  (moveContexts (discardSteps s (fun k => hit.contains (ctxOf k))) down hit).getD s

/-- ROLE_ENUMERATE: FLUSH ends when its own work is done, and the physical core set changes; the core tables follow, at once or in a
later such event, once another tower in change has decks for them too. The tower's map stays the old one until it is in RUN, as
02_device_notes.md shows ROLEMAP (log 57). -/
def execRoleEnumerate (tower : BitVec 2) (s : State) : Res :=
  let t := tower.toNat
  let x := s.tower t
  match x.change with
  | some c =>
    let up := decksUp s t c.cmask
    let down := decksDown s t c.cmask
    if x.st = .flush then
      let s1 := s.setTower t { x with st := .enumerate }
      let s2 := { s1 with tlbs := s1.tlbs.filter (fun (e : Nat × List TlbEntry) =>
        !((up ++ down).contains (if e.1 < 2048 then deckOf e.1 else e.1 - 2048))) }
      .next (rewriteTables ((towerDecks t).foldl (enumerateDeck c.cmask up down) s2) down)
    else .next (if x.st = .enumerate then rewriteTables s down else s)
  | none => .next s

/-- The steps that bring-up requests once every tower is in RUN, for the compute decks whose CUR differs from their initial
frequency; without any, bring-up is complete (R29). -/
def requestInitial (s : State) : State :=
  let ds := (List.range 16).filter (fun d => deckCompute s d && (s.deck d).cur ≠ initialFreq s d)
  let s1 := ds.foldl (fun (s : State) d => requestFreq s none d (initialFreq s d)) s
  { s1 with initial := some (ds.map (fun d => (d, (s.deck d).relock))), bringup := !ds.isEmpty }

/-- ROLE_RUN: the tables are rewritten and the relocks done, the tower serves. -/
def execRoleRun (tower : BitVec 2) (s : State) : Res :=
  let t := tower.toNat
  let x := s.tower t
  match x.change with
  | some c =>
    if x.st = .enumerate && (towerDecks t).all (fun d => !(s.deck d).relock) && (affected s (decksDown s t c.cmask)).isEmpty then
      let s1 := settleRole (meetAll (s.setTower t { x with st := .run, cmask := c.cmask, change := none }) t) t c.async none
      if s1.trained && s1.initial.isNone && (List.range 4).all (fun u => (s1.tower u).st = .run) then .next (requestInitial s1)
      else .next s1
    else .next s
  | none => .next s

/-! ## Power-on (R29) -/

/-- The firmware's registers at power-on (R383). -/
def powerOnRegs : Tbl Word := [(8, Config.fwReg 8 &&& ~~~(2047 : Word)), (0x10, Config.fwReg 0x10), (0x18, Config.fwReg 0x18)]

/-- POWER_ON: reduced service, with the registers that the configuration record names. -/
def execPowerOn (s : State) : Res :=
  .next { State.reset with regs := powerOnRegs, agenda := s.agenda, fresh := s.fresh }

/-- The initial map of a tower: one of those that the configuration record lists (R18, R29), C S S S where it lists none. -/
def initialMap (t : Nat) : BitVec 4 :=
  let l := ((List.range 15).map (fun i => BitVec.ofNat 4 i)).filter (mapLegal t)
  l.getD (Config.initialMap t % l.length) 1

/-- DRAM_TRAINED: every tower moves to its initial map, from DRAIN, in release mode, once no change of a ROLESET is under way.
R29 gives this change no drain deadline: it is the present tick (log 60). -/
def execDramTrained (s : State) : Res :=
  if s.trained || (List.range 4).any (fun t => (s.tower t).st ≠ .run) then .next s
  else .next (startChanges { s with trained := true } true initialMap s.reft.toNat none 0 [0, 1, 2, 3])

/-! ## Heat (R31) -/

/-- THERMAL_POWER_GATE: a temperature that has persisted for 100 × 10^6 ticks power-gates the compute decks of a tower, and
everything there is discarded as in DRAIN. -/
def execThermalPowerGate (tower : BitVec 2) (s : State) : Res :=
  let t := tower.toNat
  let x := s.tower t
  match x.trip with
  | some since =>
    if since + 10 ^ 8 ≤ s.reft.toNat && !x.gated then .next (clearDecks (s.setTower t { x with gated := true }) (towerCompute s t))
    else .next s
  | none => .next s

end Sys2Proof.Machine
end

