-- ==== Sys2Proof/Machine/Events.lean ====
section
/-!
DEFINITION. What is not an instruction at its strand (R115, R389), the turn of a front-end thread with the fetch of its
next packet (R367, R371, R372), and accesses from outside the module (R142).
-/

namespace Sys2Proof.Machine

/-! ## Encodings and fetches (R94, R115, R389) -/

/-- UNASSIGNED_ENCODING: the cause that the decoder names. -/
def execUnassignedEncoding (cause : BitVec 8) (tval : Word) (s : State) : Res := trap s cause tval

/-- FETCH_FAULT: the pc is at the first word, TVAL is the failing word. -/
def execFetchFault (cause : BitVec 8) (va : Word) (s : State) : Res := trap s cause va

/-- LINK_CRC_RETRY: a retry is invisible; a single-bit error corrected at a core is counted (R265, R408). -/
def execLinkCrcRetry (corrected : Option Nat) (s : State) : Res :=
  match corrected with
  | some core => .next (s.count core 15 1)
  | none => .next s

/-! ## The turn of a front-end thread -/

/-- The meaning of a packet. -/
def runPacket (p : Packet) (s : State) : Res :=
  match p with
  | .nop h => execNop h s
  | .launch h desc sigaddr sigval => execLaunch h desc sigaddr sigval s
  | .waits h addr value cond timeout => execWaits h addr value cond timeout s
  | .signal h addr value op => execSignal h addr value op s
  | .cond h addr value cond target => execCond h addr value cond target s
  | .rearm h base size target => execRearm h base size target s
  | .copyh h src dst bytes sigaddr => execCopyh h src dst bytes sigaddr s
  | .ring h ringid vector entries base headaddr thresh timeout => execRing h ringid vector entries base headaddr thresh timeout s
  | .tstamp h addr => execTstamp h addr s
  | .fencePacket h => execFencePacket h s
  | .agentCreate h ceil record entry image => execAgentCreate h ceil record entry image s
  | .agentSuspend h ceil record entry image => execAgentSuspend h ceil record entry image s
  | .agentResume h ceil record entry image => execAgentResume h ceil record entry image s
  | .agentRemove h ceil record entry image => execAgentRemove h ceil record entry image s
  | .agentExport h ceil record entry image => execAgentExport h ceil record entry image s
  | .agentImport h ceil record entry image => execAgentImport h ceil record entry image s
  | .ctxnew h arg0 arg1 arg2 => execCtxnew h arg0 arg1 arg2 s
  | .ctxfree h arg0 arg1 arg2 => execCtxfree h arg0 arg1 arg2 s
  | .inval h arg0 arg1 arg2 => execInval h arg0 arg1 arg2 s
  | .qctlModel h arg0 arg1 arg2 => execQctlModel h arg0 arg1 arg2 s
  | .qctlMask h arg0 arg1 arg2 => execQctlMask h arg0 arg1 arg2 s
  | .qctlFreq h arg0 arg1 arg2 => execQctlFreq h arg0 arg1 arg2 s
  | .partition h arg0 arg1 arg2 => execPartition h arg0 arg1 arg2 s
  | .roleset h towers mode maps deadline evac => execRoleset h towers mode maps deadline evac s
  | .badPacket h code => execBadPacket h code s

/-- Whether a packet is asynchronous: LAUNCH, COPYH, AGENT, QCTL and ROLESET (R374). -/
def isAsync : Packet → Bool
  | .nop _ => false
  | .waits _ _ _ _ _ => false
  | .signal _ _ _ _ => false
  | .cond _ _ _ _ _ => false
  | .rearm _ _ _ _ => false
  | .ring _ _ _ _ _ _ _ _ => false
  | .tstamp _ _ => false
  | .fencePacket _ => false
  | .badPacket _ _ => false
  | _ => true

/-- The bytes of the contexts behind the 896 bytes that open an image. -/
def importBytes (s : State) (ctx va : Nat) : Nat :=
  match feRead s (.ctx ctx) va 896 with
  | .ok w => imageBytes s ctx (va + 896) ((List.range 16).filter (fun r => fld w (640 + 32 * r) 32 ≠ 0))
  | .error _ => 0

/-- What an AGENT packet touches as it starts: the record that it makes the agent write, the instruction that RESUME or IMPORT looks
at, and the image. -/
def agentPacketTouch (s : State) (ctx : Nat) (record : Word) (image : Option Word) (import' : Bool) : Touch :=
  let who : Who := .ctx ctx
  let agent := (agentAt s ctx record).bind s.agent
  let pcs := match agent with | some a => [(who, a.pc.toNat, 8)] | none => []
  let length (va : Word) : Nat :=
    if import' then 896 + importBytes s ctx va.toNat else match agent with | some a => (agentImage s a).1 | none => 0
  let im := match image with | some va => [(who, va.toNat, length va)] | none => []
  { reads := pcs ++ (if import' then im else []), rest := (who, record.toNat, 256) :: (if import' then [] else im) }

/-- What a LAUNCH reads as it starts: its descriptor, and the images and output records that this names. -/
def launchTouch (s : State) (who : Who) (desc : Nat) : Touch :=
  if desc % 64 ≠ 0 then Touch.none
  else match feRead s who desc 64 with
  | .error _ => { Touch.none with reads := [(who, desc, 64)] }
  | .ok head =>
    let n := if 16 < byteAt head 0 then 0 else 80 * byteAt head 0 + 8 * byteAt head 1
    let l : List (Nat × Nat) := match feRead s who (desc + 64) n with
      | .error _ => []
      | .ok rest => (pipelineOf head rest).stages.flatMap (fun (d : StageDesc) =>
        (if d.spaddr = 0 then [] else [(d.spaddr.toNat, d.splen)]) ++ (if d.cov.isSome then [(d.a0.toNat, 64)] else []))
    { Touch.none with reads := ((desc, 64) :: (desc + 64, n) :: l).map (fun p => (who, p)) }

/-- What a packet touches as it starts (R430); a device register lies outside every deck. -/
def packetTouch (s : State) (q : Nat) (p : Packet) : Touch :=
  let ctx := qCtx s q
  let who := whoOf ctx
  let reads (va : Word) (n : Nat) : Touch := { Touch.none with reads := [(who, va.toNat, n)] }
  let writes (va : Word) (n : Nat) : Touch := { Touch.none with rest := [(who, va.toNat, n)] }
  match p with
  | .launch _ desc _ _ => launchTouch s who desc.toNat
  | .waits _ addr _ _ _ => reads addr 8
  | .cond _ addr _ _ _ => reads addr 8
  | .signal _ addr _ _ => writes addr 8
  | .tstamp _ addr => writes addr 8
  | .rearm _ base size _ =>
    { reads := (rearmHeads s who (base.toNat + size.toNat) (size.toNat / 16 + 1) base.toNat).map (fun p => (who, p, 16))
      rest := [(who, base.toNat, size.toNat)] }
  | .ctxnew _ _ _ arg2 => writes arg2 4
  | .agentSuspend _ _ record _ _ => agentPacketTouch s ctx record none false
  | .agentResume _ _ record _ _ => { agentPacketTouch s ctx record none false with rest := [] }
  | .agentExport _ _ record _ image => agentPacketTouch s ctx record (some image) false
  | .agentImport _ _ record _ image => { agentPacketTouch s ctx record (some image) true with rest := [] }
  | _ => Touch.none

/-- A packet at RPTR starts. One that asks for a report waits while 64 records wait for its ring (R381), an asynchronous one for
its place among eight (R374), and one whose accesses a relock holds for these (R415). -/
def startPacket (s : State) (q : Nat) (w : Nat) : Res :=
  let p := decodePacket w
  let left := dropHeld s (queueSender q)
  if (hdrOf w).report && ringFull s (ringKey (qCtx s q) (qRepring s q)) then .next left
  else
    let open' := if isAsync p then asyncOpen s q else (s, true)
    if open'.2 then whenTouch open'.1 (queueSender q) (packetTouch s q p) (fun s => runPacket p { s with fq := q })
    else .next (dropHeld open'.1 (queueSender q))

/-- A packet has been found at RPTR: the thread is neither idle nor reading a torn one. -/
def foundPacket (s : State) (t q : Nat) : State :=
  { s.setThread t { s.thread t with idleSince := none } with torn := Tbl.del s.torn q }

/-- The bytes that a fetch at RPTR reads: the header, or, where that is a valid mark and a LEN in range, the packet. -/
def fetchBytes (s : State) (q : Nat) : Nat :=
  match feRead s (whoOf (qCtx s q)) (qRptr s q) 16 with
  | .ok h => if fld h 0 8 = 0x5A && lenOk (fld h 16 16) then fld h 16 16 else 16
  | .error _ => 16

/-- A READY queue's thread reads the packet at RPTR and starts it (R371, R372); an unprivileged queue of context 0 halts at its
first packet (R364). -/
def fetchTurn (s : State) (t q : Nat) : Res :=
  let denied := qCtx s q = 0 && !(qPriv s q)
  let who := whoOf (qCtx s q)
  let left (s : State) : Res := .next (dropHeld s (queueSender q))
  if tornOver s q then left (haltHere s q Status.queueTorn)
  else match extHeld s (queueSender q) who [(qRptr s q, fetchBytes s q)] with
  | d :: ds => .next (noteHeld s (queueSender q) (d :: ds))
  | [] =>
  let s := extSeen s who (qRptr s q) (fetchBytes s q)
  match fetchPacket s q with
  | .fault _ => left (haltHere s q Status.addrFault)
  | .noMark =>
    let x := s.thread t
    left { s.setThread t { x with idleSince := some (x.idleSince.getD s.reft.toNat) } with torn := Tbl.del s.torn q }
  | .torn => left (tornAt s q)
  | .overrun h => left (if denied then haltHere s q Status.privileged else fail s q (hdrOf h) Status.badPacket)
  | .packet w => if denied then left (haltHere s q Status.privileged) else startPacket (foundPacket s t q) q w

/-- The turn of a thread that serves a queue. 4096 packets end its slice before it starts another (R375). -/
def queueTurn (s : State) (t q : Nat) : Res :=
  if queueFrozen s q then .next s
  else if (s.thread t).unmap || qState s q = 3 || qState s q = 4 then .next (unmapQueue s t q)
  else if qState s q = 2 then .next (recheckWait s q)
  else if qState s q = 1 && 4096 ≤ (s.thread t).packets then .next (endSlice s t)
  else if qState s q = 1 then fetchTurn s t q
  else .next s

/-- The turn of a thread. Threads 0 to 30 serve queues, or move one within a list; thread 31 serves the step queue of each
partition (R363, R366). -/
def threadTurn (s : State) (t : Nat) : Res :=
  if 31 < t then .fault .noSuchUnit
  else if t = 31 then .next ((List.range 4).foldl planStep s)
  else match (s.thread t).qsb with
    | some q => queueTurn s t q
    | none => .next (finishMove s)

/-- PACKET_REFETCH: a thread that met a mismatch reads the packet again. -/
def execPacketRefetch (t : Nat) (s : State) : Res :=
  match (s.thread t).qsb with
  | some q => if (tornSince s q).isSome then queueTurn s t q else .next s
  | none => .next s

/-! ## Accesses from outside (R142) -/

/-- Whether n bytes at a physical address are device memory that exists. -/
def outsideOk (s : State) (pa n : Nat) : Bool :=
  (sectorsOf pa n (n + 1)).all (fun p => paOk s p.1 && p.1 / 2 ^ 48 ≤ 6)

/-- A write from outside: the bytes land, and the marks of whole sectors are cleared (R265). -/
def outsideWrite (s : State) (pa n v : Nat) : State :=
  if outsideOk s pa n then writeLocs s ((sectorsOf pa n (n + 1)).map (fun (p : Nat × Nat) => (locOf p.1, p.2))) v else s

/-- The bytes of a list, the first lowest. -/
def bytesValue : List Byte → Nat
  | [] => 0
  | b :: r => b.toNat + 256 * bytesValue r

/-- An access from outside; one that reaches no memory has no effect here. -/
def outsideAccess (x : ExtAccess) (s : State) : State :=
  match x with
  | .read _ _ => s
  | .write pa data => outsideWrite s pa data.length (bytesValue data)
  | .add pa v =>
    if pa % 8 = 0 then outsideWrite s pa 8 ((Memory.readN s.mem (locOf pa) 8 + v.toNat) % 2 ^ 64) else s
  | .cas pa e v =>
    if pa % 8 = 0 && Memory.readN s.mem (locOf pa) 8 = e.toNat then outsideWrite s pa 8 v.toNat else s

def execHostCoherentAccess (x : ExtAccess) (s : State) : Res := .next (outsideAccess x s)
def execRemoteMemoryOperation (x : ExtAccess) (s : State) : Res := .next (outsideAccess x s)

end Sys2Proof.Machine
end

