-- ==== Sys2Proof/Machine/Index.lean ====
section
/-!
DEFINITION. VX and the shape registers (R202 to R204), channel status and close (R211, R212).
-/

namespace Sys2Proof.Machine

/-- VXSET (R202). -/
def execVxset (a : XReg) (imm : Half) (s : State) : Res :=
  checked (.vxset a imm) s (retire 4 (s.setCur { s.cur with vx := (s.readX a).setWidth 16 + imm }))

/-- HSET (R202): the exact sum is checked. -/
def execHset (h a : XReg) (imm : Half) (s : State) : Res :=
  checked (.hset h a imm) s
    (let v := (s.readX a).toNat + imm.toNat
     if 2 ^ 21 ≤ v then trap s Cause.bounds (.ofNat 64 v)
     else if v % 32 ≠ 0 then trap s Cause.misaligned (.ofNat 64 v)
     else
       let c := s.curCore
       retire 4 (s.setCurCore { c with h := Vector.upd c.h h.toNat (.ofNat 21 v) }))

/-- The value VXADD writes (R203): the exact sum modulo 2^16 or modulo VXW.WIDTH. -/
def vxSum (vx vxw : Half) (x : Word) (imm : BitVec 17) : Half :=
  .ofInt 16 ((vx.toInt + (x.toInt + imm.toInt)) % (if vxw = 0 then 2 ^ 16 else (vxw.toNat : Int)))

def execVxadd (a : XReg) (imm : BitVec 17) (s : State) : Res :=
  checked (.vxadd a imm) s (retire 4 (s.setCur { s.cur with vx := vxSum s.cur.vx s.cur.vxw (s.readX a) imm }))

/-- CHSTAT's value (R211). -/
def chanStatus (s : State) (k e : Nat) : Nat :=
  let core := coreOf k
  match Tbl.look (s.core core).ends e with
  | none => 0
  | some x =>
    let closed := if x.send then hasClosed (s.strand k) e else recvClosed s core e
    let n := if x.send then unitsLeft s core e else (receivable s core e).length
    2 ^ 18 + (if x.send then 2 ^ 17 else 0) + (if closed then 2 ^ 16 else 0) + n % 2 ^ 10

def execChstat (d : XReg) (k : BitVec 4) (s : State) : Res :=
  checked (.chstat d k) s (writeAndRetire 4 d (.ofNat 64 (chanStatus s s.fs k.toNat)) s)

/-- CHCLOSE (R212): the end marker is staged. -/
def execChclose (k : BitVec 4) (s : State) : Res :=
  checked (.chclose k) s
    (let e := k.toNat
     if chanDir s (coreOf s.fs) e true then trap s Cause.chanDir (.ofNat 64 e)
     else if hasClosed s.cur e then trap s Cause.chanClosed (Config.openTval s.fresh)
     else if 32 < stagedCount s.cur + 1 then trap s Cause.stageFull 0
     else retire 4 (s.setCur { s.cur with staged := s.cur.staged ++ [.endMark e] }))

end Sys2Proof.Machine
end

