-- ==== Sys2Proof/Machine/Matrix.lean ====
section
/-!
DEFINITION. The matrix engine (R234 to R250): the operations and their checks at issue, their effects at start, the two
units, the meanings of TLD to MSLOT, MMA and the engine's events.
-/

namespace Sys2Proof.Machine

/-! ## Descriptions (R235, R236) -/

def tcfgCols (v : Word) : Nat := fld v.toNat 8 8 + 1
def tcfgRows (v : Word) : Nat := fld v.toNat 3 5 + 1
def tcfgKoff (v : Word) : Nat := fld v.toNat 16 8
/-- Element width in bits. -/
def tcfgW (v : Word) : Nat := 4 * 2 ^ fld v.toNat 0 3
def tcfgStride (v : Word) : Int := (v.extractLsb' 32 32).toInt
def tcfgRowBytes (v : Word) : Nat := tcfgCols v * tcfgW v / 8
def tcfgValid (v : Word) : Bool :=
  fld v.toNat 0 3 ≤ 2 && tcfgCols v * tcfgW v ≤ 1024 && tcfgCols v * tcfgW v % 8 = 0 && tcfgKoff v < tcfgCols v

/-! ## Semirings (R244) -/

/-- The identity pattern of a semiring for a type. -/
def srIdentity (sr : Nat) (int : Bool) : Nat :=
  if int then (if sr = 1 then 0x7FFFFFFF else if sr = 2 ∨ sr = 3 then 0x80000000 else 0)
  else if sr = 1 then 0x7F800000 else if sr = 2 ∨ sr = 3 then 0xFF800000 else 0

/-- Groups of four consecutive k-steps; the last may be shorter (R194). -/
def groupsOf4 {α : Type} : List α → List (List α)
  | a :: b :: c :: d :: r => [a, b, c, d] :: groupsOf4 r
  | [] => []
  | l => [l]

/-- a ⊗ b of float elements, exact; a NaN product sets NV (R194). -/
def mulSr (sr : Nat) (a b : Val) : VRes :=
  let p := if sr = 0 ∨ sr = 3 then mulV a b else addV Mode.rne a b
  { p with flags := p.flags ||| nvIf p.val.isNan }

/-- x ⊕ y of exact values. -/
def addSr (sr : Nat) (a b : VRes) : VRes :=
  let fl := a.flags ||| b.flags
  if sr = 0 then let s := addV Mode.rne a.val b.val; { s with flags := s.flags ||| fl }
  else if a.val.isNan || b.val.isNan then { val := .nan false, flags := fl ||| nvIf (a.val.isSnan || b.val.isSnan) }
  else if sr = 1 then { val := if ltZ b.val a.val then b.val else a.val, flags := fl }
  else { val := if ltZ a.val b.val then b.val else a.val, flags := fl }

/-- ⊕ over the products of one group. -/
def foldSr (sr : Nat) : List VRes → VRes
  | [] => { val := .zero false, flags := 0 }
  | [a] => a
  | a :: r => r.foldl (addSr sr) a

/-- The float accumulator element after the groups (R194, R245): FS on the value that a group finds, FR on the one it writes. -/
def mmaFloat (sr : Nat) (m : Mode) (ps : List VRes) (acc : Nat) : FRes :=
  let m := { m with rm := .rne }
  (groupsOf4 ps).foldl (fun (v : FRes) g =>
    let x := addSr sr { val := readF fp32 m v.bits, flags := v.flags } (foldSr sr g)
    let q := roundTo fp32 m false x.val
    { bits := q.bits, flags := x.flags ||| q.flags }) { bits := acc, flags := 0 }

/-- a ⊗ b and x ⊕ y of integers. -/
def mulSrInt (sr : Nat) (a b : Int) : Int :=
  if sr = 0 ∨ sr = 3 then a * b else if sr = 4 then (if a ≠ 0 ∧ b ≠ 0 then 1 else 0) else a + b
def addSrInt (sr : Nat) (a b : Int) : Int :=
  if sr = 0 then a + b else if sr = 1 then min a b else if sr = 4 then (if a = 0 then b else if b = 0 then a else
    ((BitVec.ofInt 32 a) ||| (BitVec.ofInt 32 b)).toInt) else max a b

/-- The integer accumulator element after the groups: the low 32 bits. -/
def mmaInt (sr : Nat) (ps : List Int) (acc : Nat) : Nat :=
  let fold (l : List Int) : Int := match l with | [] => 0 | a :: r => r.foldl (addSrInt sr) a
  let r := (groupsOf4 ps).foldl (fun (v : Int) g => (BitVec.ofInt 32 (addSrInt sr v (fold g))).toInt) (BitVec.ofNat 32 acc).toInt
  (BitVec.ofInt 32 r).toNat

/-! ## Pending operations and their conflicts (R237) -/

/-- What an operation touches: tiles 0 to 7, accumulators 8 to 11, and whether it writes it. -/
def mxTouch : Instr → List (Nat × Bool)
  | .tld t _ _ => [(t.toNat, true)]
  | .tst t _ _ => [(t.toNat, false)]
  | .tzero t => [(t.toNat, true)]
  | .azero n _ _ => [(8 + n.toNat, true)]
  | .mma f => [(f.tileA.toNat, false), (f.tileB.toNat, false), (8 + f.acc.toNat, true)]
  | .mdrain n _ _ _ => [(8 + n.toNat, false)]
  | .mdrainG n _ _ _ _ => [(8 + n.toNat, false)]
  | .mdrains n _ _ _ _ => [(8 + n.toNat, false)]
  | _ => []

def isMma : Instr → Bool
  | .mma _ => true
  | _ => false
def isAzero : Instr → Bool
  | .azero _ _ _ => true
  | _ => false

def mxConflict (a b : Instr) : Bool :=
  (mxTouch a).any (fun x => (mxTouch b).any (fun y => x.1 = y.1 && (x.2 || y.2)))

/-- Whether two operations are MMAs into one accumulator. -/
def sameAcc : Instr → Instr → Bool
  | .mma f, .mma g => f.acc = g.acc
  | _, _ => false

/-- Whether an operation is held back: by a running one, for every conflict but that of two MMAs; an MMA also by a pending MMA
into the same accumulator that issued before it (R194; log 75). Pending operations stand in issue order. -/
def mxHeld (c : Core) (o : MxOp) : Bool :=
  c.mx.any (fun r => r.running && mxConflict r.instr o.instr && !(isMma r.instr && isMma o.instr))
    || (c.mx.takeWhile (fun p => p.slot ≠ o.slot)).any (fun p => !p.running && sameAcc p.instr o.instr)

/-- Whether a unit is free. -/
def unitFree (c : Core) (array : Bool) : Bool := !(c.mx.any (fun o => o.running && o.array = array && !o.freed))

/-- The operation an instruction of the current strand becomes, with its captures. -/
def mxOp (s : State) (i : Instr) (array : Bool) (xa : Word) (rows : List (List Nat)) (shape : Option Shape) : MxOp :=
  let c := s.curCore
  { slot := slotOf s.fs, array := array, instr := i, tcfg := c.tcfg, fmts := c.fmt, mcfg := c.mcfg, key := c.smpkey, pos := c.smppos
    temp := c.smptemp, fpc := s.cur.fpc, xa := xa, rows := rows, span := [], decks := [], shape := shape, running := false
    crossing := false, freed := false, flags := 0 }

/-- The operation becomes pending, and its strand leaves the rotation. -/
def mxIssue (s : State) (o : MxOp) : Res :=
  let c := s.curCore
  waitFor .mx (s.setCurCore { c with mx := c.mx ++ [o] })

/-- MODE_CONFLICT (R238). -/
def modeConflict (s : State) : Bool :=
  s.curCore.mcfg.getLsbD 0 && !(s.curCore.slots.toList.any (fun e => e.toNat = slotOf s.fs))

/-! ## Issue of transfers (R240) -/

/-- The sectors of the rows of a transfer, row after row. -/
def rowSectors (cfg : Word) (ea : Word) : List (List (Nat × Nat)) :=
  (List.range (tcfgRows cfg)).map (fun r =>
    sectorsOf (ea + .ofNat 64 r * .ofInt 64 (tcfgStride cfg)).toNat (tcfgRowBytes cfg) 5)

/-- Cut a list into pieces of n. -/
def cutEvery {α : Type} (n : Nat) : Nat → List α → List (List α)
  | 0, _ => []
  | k + 1, l => l.take n :: cutEvery n k (l.drop n)

/-- TLD and TST at issue: the checks of their accesses. A relock holds their rows as they run (R239, R415). -/
def transferIssue (s : State) (i : Instr) (load : Bool) (t : BitVec 3) (a : XReg) (off : BitVec 11) : Res :=
  let cfg := Vector.nth (n := 7) s.curCore.tcfg t.toNat
  let ea := s.readX a + off.signExtend 64
  if !(tcfgValid cfg) then trap s Cause.tileConfig (t.setWidth 64)
  else if ea.toNat % 32 ≠ 0 || tcfgStride cfg % 32 ≠ 0 then trap s Cause.misaligned ea
  else
    let rows := rowSectors cfg ea
    match accessIssue s s.fs (if load then .load false else .put false) rows.flatten rows.flatten with
    | .fault c x => trap s c x
    | .wait ds => stall ds s
    | .ok s1 ps =>
      let s2 := countPieces s1 (coreOf s1.fs) (!load) ps
      mxIssue s2 { mxOp s2 i false 0 (cutEvery ((tcfgRowBytes cfg + 31) / 32) (tcfgRows cfg) (ps.map (fun (p : Piece) => p.hit.loc))) none
                   with span := rows.flatten, decks := piecesDecks s (coreOf s.fs) ps }

/-! ## Issue of MMA (R245) -/

/-- The checks of one tile of an MMA. -/
def mmaTileBad (c : Core) (t : BitVec 3) (etype : Nat) (fmt : BitVec 3) (k : Nat) : Bool :=
  let cfg := Vector.nth (n := 7) c.tcfg t.toNat
  !(tcfgValid cfg) || tcfgW cfg ≠ widthOf etype (c.fmtOf fmt.toNat) || tcfgCols cfg < tcfgKoff cfg + k

def mmaIsInt (f : M64) : Bool := isInt f.etypeA.toNat

def mmaFault (s : State) (f : M64) : Option (Byte × Word) :=
  let c := s.curCore
  let k := f.ksteps.toNat + 1
  let bad (e : BitVec 4) (q : BitVec 3) : Bool := e = 9 && fmtWidth (c.fmtOf q.toNat) = none
  if bad f.etypeA f.fmtA then some (Cause.fmtInvalid, f.fmtA.setWidth 64)
  else if bad f.etypeB f.fmtB then some (Cause.fmtInvalid, f.fmtB.setWidth 64)
  else if mmaTileBad c f.tileA f.etypeA.toNat f.fmtA k then some (Cause.tileConfig, f.tileA.setWidth 64)
  else if mmaTileBad c f.tileB f.etypeB.toNat f.fmtB k then some (Cause.tileConfig, f.tileB.setWidth 64)
  else if !f.ow && (Vector.nth (n := 3) c.accs f.acc.toNat).tag ≠ some (!(mmaIsInt f), f.semiring.toNat) then
    some (Cause.tileConfig, .ofNat 64 (8 + f.acc.toNat))
  else if modeConflict s then some (Cause.modeConflict, .ofNat 64 (slotOf s.fs))
  else none

/-! ## Issue of drains (R246 to R248) -/

/-- The kinds of drain. -/
inductive DrainKind where
  | plain
  | noise
  | scaled
  deriving DecidableEq, Repr

/-- Order 7 for the destination of a drain of n rows. -/
def drainSpecFault (mode : Nat) (vx : Half) (d : Spec) (n : Nat) : Option (Byte × Word) :=
  match tierOf d with
  | .reserved | .lit => some (Cause.specReserved, specTval false 0 d.toNat 0)
  | .vreg =>
    ((List.range (2 * n)).map (fun (j : Nat) => regIndex vx d + j)).findSome? (fun (i : Int) =>
      if i < 0 || (allocOf mode : Int) ≤ i then some (Cause.vregRange, specTval false 0 d.toNat i) else none)
  | .qreg => if 8 < d.toNat - 0x88 + 2 * n then some (Cause.vregRange, specTval false 0 d.toNat 8) else none
  | .shape | .chan => none
  | _ => some (Cause.specTier, specTval false 0 d.toNat 0)

def drainShape (s : State) (d : Spec) (float : Bool) : ShapedOp :=
  { pos := 0, off := (Vector.nth (n := 15) s.curCore.h (d.toNat % 16)).toNat, etype := if float then 7 else 3, fsel := 0, w := 32 }

/-- Orders 7 and 8 of a drain. -/
def drainFault (s : State) (kind : DrainKind) (acc : BitVec 2) (n : Nat) (d : Spec) (xa : Word) : Option (Byte × Word) :=
  let c := s.curCore
  let tag := (Vector.nth (n := 3) c.accs acc.toNat).tag
  let float := match tag with | some (fl, _) => fl | none => false
  let tagBad := tag = none || (kind ≠ .plain && !float)
  (drainSpecFault c.mode s.cur.vx d n)
  |>.or (if kind = .noise && invTemp c.smptemp = .invalid then some (Cause.tempInvalid, .ofNat 64 (fld c.smptemp.toNat 0 32)) else none)
  |>.or (if tagBad then some (Cause.tileConfig, .ofNat 64 (8 + acc.toNat)) else none)
  |>.or (if tierOf d = .shape then shapeFaults s (coreOf s.fs) (some (32 * n)) [drainShape s d float] else none)
  |>.or (if tierOf d = .chan then chanFaults s s.fs 0 (2 * n) [(d.toNat % 16, true)] else none)
  |>.or (if tierOf d = .chan && 32 < stagedCount s.cur + 2 * n then some (Cause.stageFull, 0) else none)
  |>.or (if kind = .scaled && xa.toNat % 32 ≠ 0 then some (Cause.misaligned, xa) else none)
  |>.or (if kind = .scaled && reserveBase c < xa.toNat + 128 then some (Cause.bounds, xa) else none)
  |>.or (if kind = .scaled then padPoison s (coreOf s.fs) ((List.range 4).map (fun i => (xa.toNat + 32 * i, 32))) else none)
  |>.or (if modeConflict s then some (Cause.modeConflict, .ofNat 64 (slotOf s.fs)) else none)

def drainIssue (s : State) (i : Instr) (kind : DrainKind) (acc : BitVec 2) (n : BitVec 4) (d : Spec) (xa : Word) : Res :=
  match drainFault s kind acc (n.toNat + 1) d xa with
  | some (c, x) => trap s c x
  | none =>
    let shape := if tierOf d = .shape then some (readShape s (coreOf s.fs) (drainShape s d true).off).1 else none
    mxIssue (if tierOf d = .shape then padSeen s (coreOf s.fs) false [((drainShape s d true).off, 32)] else s)
      (mxOp s i true xa [] shape)

/-! ## Effects at start -/

/-- A row of a transfer, read or written sector by sector. -/
def readRow (m : List Host.Cell) : Nat → List Nat → Nat
  | _, [] => 0
  | n, l :: r => Memory.readN m l (min n 32) + 2 ^ 256 * readRow m (n - 32) r
def rowPieces : Nat → List Nat → List (Nat × Nat)
  | _, [] => []
  | n, l :: r => (l, min n 32) :: rowPieces (n - 32) r
def writeRows (s : State) (n : Nat) : List (List Nat) → List (BitVec 1024) → State
  | l :: ls, v :: vs => writeRows (writeLocs s (rowPieces n l) v.toNat) n ls vs
  | _, _ => s

/-- The accumulator after an MMA, row by row, with its flags. -/
def mmaRun (c : Core) (o : MxOp) (f : M64) : Acc × Byte :=
  let fmt (q : BitVec 3) : Word := Vector.nth (n := 7) o.fmts q.toNat
  let ca := Vector.nth (n := 7) o.tcfg f.tileA.toNat
  let cb := Vector.nth (n := 7) o.tcfg f.tileB.toNat
  let sr := f.semiring.toNat
  let int := mmaIsInt f
  let k := f.ksteps.toNat + 1
  let m := Mode.ofFpc o.fpc
  let fa := fmtOf f.etypeA.toNat (fmt f.fmtA)
  let fb := fmtOf f.etypeB.toNat (fmt f.fmtB)
  let acc := Vector.nth (n := 3) c.accs f.acc.toNat
  let row (t : BitVec 3) (cfg : Word) (i : Nat) : List Nat :=
    let v := (Vector.nth (n := 31) (Vector.nth (n := 7) c.tiles t.toNat) i).toNat
    (List.range k).map (fun q => elemOf (tcfgW cfg) v (tcfgKoff cfg + q))
  let one (i j old : Nat) : FRes :=
    let start := if f.ow then srIdentity sr int else old
    if tcfgRows ca ≤ i || tcfgRows cb ≤ j then { bits := start, flags := 0 }
    else
      let ps := (row f.tileA ca i).zip (row f.tileB cb j)
      if int then
        { bits := mmaInt sr (ps.map (fun (p : Nat × Nat) => mulSrInt sr (intElem (tcfgW ca) f.sgnA p.1) (intElem (tcfgW cb) f.sgnB p.2))) start
          flags := 0 }
      else mmaFloat sr m (ps.map (fun (p : Nat × Nat) => mulSr sr (readF fa m p.1) (readF fb m p.2))) start
  let rows := (List.range 32).map (fun i =>
    let old := (Vector.nth (n := 31) acc.rows i).toNat
    (List.range 32).map (fun j => one i j (elemOf 32 old j)))
  ({ rows := Vector.ofFn (fun (i : Fin 32) => BitVec.ofNat 1024 (packElems 32 ((rows.getD i.val []).map (fun (x : FRes) => x.bits))))
     tag := some (!int, sr) },
   rows.foldl (fun (b : Byte) r => r.foldl (fun (b : Byte) x => b ||| x.flags) b) 0)

/-- One drained element. -/
def drainElem (s : State) (core : Nat) (o : MxOp) (kind : DrainKind) (r col e : Nat) : FRes :=
  let m := { Mode.ofFpc o.fpc with rm := .rne }
  match kind with
  | .plain => plain e
  | .noise =>
    (match invTemp o.temp with
     | .tau t =>
       let p := mulV (readF fp32 m e) (decodeF fp32 t.bits)
       let v := addV m p.val (decodeF fp32 (noise o.key o.pos (.ofNat 32 (o.xa.toNat + col))))
       let q := roundTo fp32 m false v.val
       { q with flags := t.flags ||| q.flags ||| p.flags ||| v.flags }
     | _ => plain e)
  | .scaled =>
    let code (i : Nat) : Nat := Memory.readN s.mem (padLoc core (o.xa.toNat + 2 * i)) 2 % 512
    let v := applyScales (readF fp32 m e) [code r, code (32 + col)]
    let q := roundTo fp32 m false v.val
    { q with flags := q.flags ||| v.flags }

/-- Where a drained half row goes: register or message j of the destination. -/
def drainPut (s : State) (k : Nat) (d : Spec) (j : Nat) (v : V512) : State :=
  match tierOf d with
  | .vreg =>
    let c := s.core (coreOf k)
    s.setCore (coreOf k) { c with vf := Tbl.put c.vf (physReg s k (regIndex (s.strand k).vx d + j).toNat) v }
  | .qreg => s.setStrand k { s.strand k with q := Vector.upd (s.strand k).q (d.toNat - 0x88 + j) v }
  | .chan => send s k (d.toNat % 16) v
  | _ => s

def drainPuts (s : State) (k : Nat) (d : Spec) : Nat → List (List Nat) → State
  | _, [] => s
  | j, r :: rs =>
    drainPuts (drainPut (drainPut s k d j (.ofNat 512 (packElems 32 (r.take 16)))) k d (j + 1) (.ofNat 512 (packElems 32 (r.drop 16))))
      k d (j + 2) rs

/-- A drain: the state after it and its flags (R246 to R248). -/
def drainRun (s : State) (core : Nat) (o : MxOp) (kind : DrainKind) (acc : BitVec 2) (row0 n : Nat) (d : Spec) : State × Byte :=
  let a := Vector.nth (n := 3) (s.core core).accs acc.toNat
  let rows := (List.range n).map (fun m =>
    let v := (Vector.nth (n := 31) a.rows (row0 + m)).toNat
    (List.range 32).map (fun c => drainElem s core o kind (row0 + m) c (elemOf 32 v c)))
  let bits := rows.map (fun (r : List FRes) => r.map (fun (x : FRes) => x.bits))
  let fl := rows.foldl (fun (b : Byte) r => r.foldl (fun (b : Byte) x => b ||| x.flags) b) 0
  let s := if kind = .scaled then padSeen s core false [(o.xa.toNat, 128)] else s
  (match o.shape with
   | some h => putElems (padSeen s core true ((List.range (32 * n)).map (shapeBytes h 32))) core h 32 0 (bits.flatten.map some)
   | none => drainPuts s (core * 16 + o.slot) d 0 bits, fl)

def setTile (s : State) (core : Nat) (t : BitVec 3) (v : Tile) : State :=
  s.setCore core { s.core core with tiles := Vector.upd (s.core core).tiles t.toNat v }
def setAcc (s : State) (core : Nat) (n : BitVec 2) (a : Acc) : State :=
  s.setCore core { s.core core with accs := Vector.upd (s.core core).accs n.toNat a }

/-- The whole effect of an operation, with its flags: performed when it starts (R237). -/
def mxEffect (s : State) (core : Nat) (o : MxOp) : State × Byte :=
  match o.instr with
  | .tld t _ _ =>
    let n := tcfgRowBytes (Vector.nth (n := 7) o.tcfg t.toNat)
    (setTile s core t (Vector.ofFn (fun (i : Fin 32) => .ofNat 1024 (readRow s.mem n (o.rows.getD i.val [])))), 0)
  | .tst t _ _ =>
    (writeRows s (tcfgRowBytes (Vector.nth (n := 7) o.tcfg t.toNat)) o.rows (Vector.nth (n := 7) (s.core core).tiles t.toNat).toList, 0)
  | .tzero t => (setTile s core t (Vector.replicate 32 0), 0)
  | .azero n sr int =>
    (setAcc s core n { rows := Vector.replicate 32 (.ofNat 1024 (packElems 32 (List.replicate 32 (srIdentity sr.toNat int))))
                       tag := some (!int, sr.toNat) }, 0)
  | .mma f => let r := mmaRun (s.core core) o f; (setAcc s core f.acc r.1, r.2)
  | .mdrain n r0 m d => drainRun s core o .plain n r0.toNat (m.toNat + 1) d
  | .mdrainG n r0 m d _ => drainRun s core o .noise n r0.toNat (m.toNat + 1) d
  | .mdrains n r0 m d _ => drainRun s core o .scaled n r0.toNat (m.toNat + 1) d
  | _ => (s, 0)

/-! ## The units (R237 to R239) -/

/-- A drain to a channel that has no allowance for its messages: the array does not take it yet (R210; log 75). -/
def mxNoRoom (s : State) (core : Nat) (o : MxOp) : Bool :=
  match drainDst o.instr with
  | some (d, n) => tierOf d = .chan && unitsLeft s core (d.toNat % 16) < 2 * n
  | none => false

/-- What keeps an operation from its effect: the footprints of copies that its destination, its scale block or its rows meet
(R240, R275). -/
def mxBlocked (s : State) (core : Nat) (o : MxOp) : Bool :=
  (match o.shape, drainDst o.instr with
   | some h, some (_, n) => (List.range (32 * n)).any (fun e => footprintBlocks s core (shapeSpan h 32 e).1 4 true)
   | _, _ => false)
  || (match o.instr with
      | .tld _ _ _ => o.span.any (fun p => footprintBlocks s core p.1 p.2 false)
      | .tst _ _ _ => o.span.any (fun p => footprintBlocks s core p.1 p.2 true)
      | .mdrains _ _ _ _ _ => footprintBlocks s core (0xFFE * 2 ^ 44 + o.xa.toNat) 128 false
      | _ => false)

/-- The owner of the current slot of the slot table. -/
def slotOwner (s : State) (core : Nat) : Nat :=
  (Vector.nth (n := 31) (s.core core).slots ((s.deck (deckOf (s.phys core))).cyc.toNat / 64 % 32)).toNat

/-- Eligibility of a pending array operation (R238). -/
def mxEligible (s : State) (core : Nat) (o : MxOp) : Bool :=
  let own := slotOwner s core
  !o.array || !(o.mcfg.getLsbD 0) || isAzero o.instr || o.slot = own
    || (o.mcfg.getLsbD 1 && !((s.core core).mx.any (fun p => p.array && !p.running && p.slot = own)))

/-- The first pending operation of a unit in rotation order that may start. -/
def mxPick (s : State) (core : Nat) (array : Bool) : Option MxOp :=
  let c := s.core core
  let rot := if array then c.rotArray else c.rotTile
  ((List.range 16).map (fun (i : Nat) => (rot + 1 + i) % 16)).findSome? (fun slot =>
    c.mx.find? (fun o => o.slot = slot && o.array = array && !o.running && mxEligible s core o && !(mxHeld c o) && !(mxNoRoom s core o)))

/-- MATRIX_OP_START: a free unit starts the operation it picks, and its whole effect counts as performed then; but where a row of
a transfer is held at a boundary (R239, R415), or a copy's footprint holds it back (R275), once that lets it go. A drain to a channel that is held keeps the allowance for its messages (R210, R246). -/
def execMatrixOpStart (core : Nat) (array : Bool) (s : State) : Res :=
  if !(unitFree (s.core core) array) then .next s
  else match mxPick s core array with
    | none => .next s
    | some o =>
      let k := core * 16 + o.slot
      let ds := heldAt s k o.decks
      let wait := !ds.isEmpty || mxBlocked s core o
      let r := if wait then (noteHeld s k ds, 0) else mxEffect s core o
      let c := r.1.core core
      let rest := c.mx.filter (fun p => p.slot ≠ o.slot)
      let c1 := { c with mx := rest ++ [{ o with running := true, crossing := wait, flags := r.2 }] }
      .next (r.1.setCore core (if array then { c1 with rotArray := o.slot } else { c1 with rotTile := o.slot }))

/-- ARRAY_FREE: the running MMA frees the array, 12 cycles before it completes (R239). -/
def execArrayFree (core : Nat) (s : State) : Res :=
  let c := s.core core
  .next (s.setCore core { c with mx := c.mx.map (fun (o : MxOp) => if o.running && isMma o.instr then { o with freed := true } else o) })

/-- Length of a matrix instruction. -/
def mxLen (i : Instr) : Nat := if isMma i then 8 else 4

/-- An operation that started and has still to have its effect, which a copy's footprint holds back. -/
def mxCrossing (s : State) (core : Nat) (o : MxOp) : Bool := o.crossing && mxBlocked s core o

/-- MATRIX_OP_COMPLETE: a running operation completes; an MMA after it has freed the array and after the MMAs that started
before it, a transfer once no row of it, and no reply, is held at a boundary. Its flags are delivered, and its strand goes on. -/
def execMatrixOpComplete (core slot : Nat) (s : State) : Res :=
  let c := s.core core
  let k := core * 16 + slot
  match c.mx.find? (fun o => o.running && (o.slot = slot || (isMma o.instr && c.mx.any (fun p => p.slot = slot && isMma p.instr)))) with
  | none => .next s
  | some o =>
    if o.slot ≠ slot || (isMma o.instr && !o.freed) || mxCrossing s core o then .next s
    else match heldAt s k o.decks with
      | d :: ds => .next (noteHeld s k (d :: ds))
      | [] =>
        let r := if o.crossing then mxEffect s core o else (s, o.flags)
        let s0 := dropHeld r.1 k
        let s1 := s0.setCore core { s0.core core with mx := c.mx.filter (fun p => p.slot ≠ slot) }
        let t := s1.strand k
        .next (setFlags (s1.setStrand k { t with wait := .none, pc := t.pc + .ofNat 64 (mxLen o.instr) }) k r.2)

/-! ## Meanings -/

def execTld (t : BitVec 3) (a : XReg) (off : BitVec 11) (s : State) : Res :=
  checked (.tld t a off) s (transferIssue s (.tld t a off) true t a off)
def execTst (t : BitVec 3) (a : XReg) (off : BitVec 11) (s : State) : Res :=
  checked (.tst t a off) s (transferIssue s (.tst t a off) false t a off)
def execTzero (t : BitVec 3) (s : State) : Res := checked (.tzero t) s (mxIssue s (mxOp s (.tzero t) false 0 [] none))
def execAzero (n : BitVec 2) (sr : BitVec 3) (int : Bool) (s : State) : Res :=
  checked (.azero n sr int) s (mxIssue s (mxOp s (.azero n sr int) true 0 [] none))
def execMma (f : M64) (s : State) : Res :=
  checked (.mma f) s (match mmaFault s f with
    | some (c, x) => trap s c x
    | none => mxIssue s (mxOp s (.mma f) true 0 [] none))
def execMdrain (acc : BitVec 2) (row0 : BitVec 5) (n : BitVec 4) (d : Spec) (s : State) : Res :=
  checked (.mdrain acc row0 n d) s (drainIssue s (.mdrain acc row0 n d) .plain acc n d 0)
def execMdrainG (acc : BitVec 2) (row0 : BitVec 5) (n : BitVec 4) (d : Spec) (a : XReg) (s : State) : Res :=
  checked (.mdrainG acc row0 n d a) s (drainIssue s (.mdrainG acc row0 n d a) .noise acc n d (s.readX a))
def execMdrains (acc : BitVec 2) (row0 : BitVec 5) (n : BitVec 4) (d : Spec) (a : XReg) (s : State) : Res :=
  checked (.mdrains acc row0 n d a) s (drainIssue s (.mdrains acc row0 n d a) .scaled acc n d (s.readX a))

/-- MSLOT: 16 entries of the slot table (R250). -/
def execMslot (half : Bool) (a : XReg) (s : State) : Res :=
  checked (.mslot half a) s
    (let v := (s.readX a).toNat
     let c := s.curCore
     let base := if half then 16 else 0
     retire 4 (s.setCurCore { c with slots := (List.range 16).foldl (fun (t : Vector (BitVec 4) 32) i =>
       Vector.upd t (base + i) (.ofNat 4 (v / 16 ^ i))) c.slots }))

end Sys2Proof.Machine
end

