-- ==== Sys2Proof/Machine/ScalarFp.lean ====
section
/-!
DEFINITION. The scalar floating-point instructions of m10 (R124 to R130).
-/

namespace Sys2Proof.Machine

/-- Format of the width bit (R124). -/
def fpFmt (dbl : Bool) : Fmt := if dbl then fp64 else fp32

/-- The pattern of an operand: bits 31:0 of the register for FP32 (R125). -/
def fpBits (dbl : Bool) (v : Word) : Nat := v.toNat % 2 ^ (if dbl then 64 else 32)

/-- An operand read arithmetically, flushed under FS where it is FP32 (R125, R190). -/
def fpRead (s : State) (dbl : Bool) (a : XReg) : Val := readF (fpFmt dbl) s.mode (fpBits dbl (s.readX a))

/-- A result and its flags: written zero-extended, flags ORed into FPC (R125). -/
def fpRetire (d : XReg) (r : FRes) (s : State) : Res := writeAndRetire 4 d (.ofNat 64 r.bits) (setFlags s s.fs r.flags)

/-- An exact result rounded once (R126). -/
def fpRound (s : State) (dbl : Bool) (v : VRes) : FRes :=
  let r := roundTo (fpFmt dbl) s.mode false v.val
  { r with flags := r.flags ||| v.flags }

def execFadd (d a b : XReg) (dbl : Bool) (s : State) : Res :=
  fpRetire d (fpRound s dbl (addV s.mode (fpRead s dbl a) (fpRead s dbl b))) s
def execFsub (d a b : XReg) (dbl : Bool) (s : State) : Res :=
  fpRetire d (fpRound s dbl (addV s.mode (fpRead s dbl a) (fpRead s dbl b).negate)) s
def execFmul (d a b : XReg) (dbl : Bool) (s : State) : Res :=
  fpRetire d (fpRound s dbl (mulV (fpRead s dbl a) (fpRead s dbl b))) s
def execFdiv (d a b : XReg) (dbl : Bool) (s : State) : Res :=
  fpRetire d (fpRound s dbl (divV (fpRead s dbl a) (fpRead s dbl b))) s
def execFsqrt (d a : XReg) (dbl : Bool) (s : State) : Res :=
  fpRetire d (sqrtRes (fpFmt dbl) s.mode (fpRead s dbl a)) s
def execFma (d a b c : XReg) (dbl : Bool) (s : State) : Res :=
  fpRetire d (fpRound s dbl (fmaV s.mode (fpRead s dbl a) (fpRead s dbl b) (fpRead s dbl c))) s

/-- The chosen operand is the result as it stands: FR does not act on it, for no other flag is set (R127; DEDUCED, log 13). -/
def fpMinMax (mx dbl : Bool) (d a b : XReg) (s : State) : Res :=
  let v := minMaxV mx (fpRead s dbl a) (fpRead s dbl b)
  let r := roundTo (fpFmt dbl) Mode.rne false v.val
  fpRetire d { r with flags := r.flags ||| v.flags } s
def execFmin (d a b : XReg) (dbl : Bool) (s : State) : Res := fpMinMax false dbl d a b s
def execFmax (d a b : XReg) (dbl : Bool) (s : State) : Res := fpMinMax true dbl d a b s

/-- The conditions of R128, with NV. -/
def fpCompare (f : Val → Val → Bool × Byte) (dbl : Bool) (d a b : XReg) (s : State) : Res :=
  let r := f (fpRead s dbl a) (fpRead s dbl b)
  fpRetire d { bits := if r.1 then 1 else 0, flags := r.2 } s
def cmpEq (a b : Val) : Bool × Byte := (eqV a b, nvIf (a.isSnan || b.isSnan))
def cmpLt (a b : Val) : Bool × Byte := (!a.isNan && !b.isNan && ltV a b, nvIf (a.isNan || b.isNan))
def cmpLe (a b : Val) : Bool × Byte := (!a.isNan && !b.isNan && !(ltV b a), nvIf (a.isNan || b.isNan))
def cmpUnord (a b : Val) : Bool × Byte := (a.isNan || b.isNan, nvIf (a.isSnan || b.isSnan))
def execFeq (d a b : XReg) (dbl : Bool) (s : State) : Res := fpCompare cmpEq dbl d a b s
def execFlt (d a b : XReg) (dbl : Bool) (s : State) : Res := fpCompare cmpLt dbl d a b s
def execFle (d a b : XReg) (dbl : Bool) (s : State) : Res := fpCompare cmpLe dbl d a b s
def execFunord (d a b : XReg) (dbl : Bool) (s : State) : Res := fpCompare cmpUnord dbl d a b s

/-- The mode of FCVT: its rounding selector, where nonzero, replaces FPC.RM (R125, R129). -/
def fcvtMode (rsel : BitVec 4) (m : Mode) : Mode :=
  if rsel = 1 then { m with rm := .rne } else if rsel = 2 then { m with rm := .rtz } else m

/-- The conversions of R129. -/
def fcvtRes (xc : BitVec 4) (sel : BitVec 2) (dbl : Bool) (m : Mode) (v : Word) : FRes :=
  if xc = 1 then
    (if dbl then convert fp64 fp32 m false (fpBits true v) else convert fp32 fp64 m false (fpBits false v))
  else if sel = 0 then
    let r := floatToInt m.rm (-(2 ^ 63)) (2 ^ 63 - 1) (readF (fpFmt dbl) m (fpBits dbl v))
    { bits := (BitVec.ofInt 64 r.1).toNat, flags := r.2 }
  else if sel = 1 then
    let r := floatToInt m.rm 0 (2 ^ 64 - 1) (readF (fpFmt dbl) m (fpBits dbl v))
    { bits := r.1.toNat, flags := r.2 }
  else roundTo (fpFmt dbl) m false (intVal (if sel = 2 then v.toInt else v.toNat))

def execFcvt (d a : XReg) (rsel xc : BitVec 4) (sel : BitVec 2) (dbl : Bool) (s : State) : Res :=
  checked (.fcvt d a rsel xc sel dbl) s (fpRetire d (fcvtRes xc sel dbl (fcvtMode rsel s.mode) (s.readX a)) s)

/-- The class bit of a pattern, without flushing (R130). -/
def fclassBit (f : Fmt) (p : Nat) : Nat :=
  let sub := p / 2 ^ f.man % 2 ^ f.exp = 0
  match decodeF f p with
  | .nan sig => if sig then 8 else 9
  | .inf neg => if neg then 0 else 7
  | .fin neg num _ =>
    if num = 0 then (if neg then 3 else 4)
    else if sub then (if neg then 2 else 5)
    else if neg then 1 else 6
def execFclass (d a : XReg) (dbl : Bool) (s : State) : Res :=
  writeAndRetire 4 d (.ofNat 64 (2 ^ fclassBit (fpFmt dbl) (fpBits dbl (s.readX a)))) s

end Sys2Proof.Machine
end

