-- ==== Sys2Proof/Machine/Dispatch.lean ====
section
/-!
DEFINITION. The meaning of every row of the opcode table: one arm per constructor of Instr.
-/

namespace Sys2Proof.Machine

open Sys2Proof

def exec (i : Instr) (s : State) : Host.Outcome State Fault Refusal :=
  match i with
  | .add d a b => Sys2Proof.Machine.execAdd d a b s
  | .sub d a b => Sys2Proof.Machine.execSub d a b s
  | .mul d a b => Sys2Proof.Machine.execMul d a b s
  | .mulh d a b => Sys2Proof.Machine.execMulh d a b s
  | .mulhn d a b => Sys2Proof.Machine.execMulhn d a b s
  | .div d a b => Sys2Proof.Machine.execDiv d a b s
  | .divn d a b => Sys2Proof.Machine.execDivn d a b s
  | .rem d a b => Sys2Proof.Machine.execRem d a b s
  | .remn d a b => Sys2Proof.Machine.execRemn d a b s
  | .and d a b => Sys2Proof.Machine.execAnd d a b s
  | .or d a b => Sys2Proof.Machine.execOr d a b s
  | .xor d a b => Sys2Proof.Machine.execXor d a b s
  | .andn d a b => Sys2Proof.Machine.execAndn d a b s
  | .shl d a b => Sys2Proof.Machine.execShl d a b s
  | .shr d a b => Sys2Proof.Machine.execShr d a b s
  | .sar d a b => Sys2Proof.Machine.execSar d a b s
  | .min d a b => Sys2Proof.Machine.execMin d a b s
  | .max d a b => Sys2Proof.Machine.execMax d a b s
  | .minn d a b => Sys2Proof.Machine.execMinn d a b s
  | .maxn d a b => Sys2Proof.Machine.execMaxn d a b s
  | .slt d a b => Sys2Proof.Machine.execSlt d a b s
  | .sltn d a b => Sys2Proof.Machine.execSltn d a b s
  | .clz d a => Sys2Proof.Machine.execClz d a s
  | .ctz d a => Sys2Proof.Machine.execCtz d a s
  | .popc d a => Sys2Proof.Machine.execPopc d a s
  | .sext d a w => Sys2Proof.Machine.execSext d a w s
  | .zext d a w => Sys2Proof.Machine.execZext d a w s
  | .addi d a imm => Sys2Proof.Machine.execAddi d a imm s
  | .andi d a imm => Sys2Proof.Machine.execAndi d a imm s
  | .ori d a imm => Sys2Proof.Machine.execOri d a imm s
  | .xori d a imm => Sys2Proof.Machine.execXori d a imm s
  | .shli d a sh => Sys2Proof.Machine.execShli d a sh s
  | .shri d a sh => Sys2Proof.Machine.execShri d a sh s
  | .sari d a sh => Sys2Proof.Machine.execSari d a sh s
  | .slti d a imm => Sys2Proof.Machine.execSlti d a imm s
  | .lih d a imm => Sys2Proof.Machine.execLih d a imm s
  | .lil d lit => Sys2Proof.Machine.execLil d lit s
  | .addl d a lit => Sys2Proof.Machine.execAddl d a lit s
  | .fadd d a b dbl => Sys2Proof.Machine.execFadd d a b dbl s
  | .fsub d a b dbl => Sys2Proof.Machine.execFsub d a b dbl s
  | .fmul d a b dbl => Sys2Proof.Machine.execFmul d a b dbl s
  | .fdiv d a b dbl => Sys2Proof.Machine.execFdiv d a b dbl s
  | .fsqrt d a dbl => Sys2Proof.Machine.execFsqrt d a dbl s
  | .fma d a b c dbl => Sys2Proof.Machine.execFma d a b c dbl s
  | .fmin d a b dbl => Sys2Proof.Machine.execFmin d a b dbl s
  | .fmax d a b dbl => Sys2Proof.Machine.execFmax d a b dbl s
  | .feq d a b dbl => Sys2Proof.Machine.execFeq d a b dbl s
  | .flt d a b dbl => Sys2Proof.Machine.execFlt d a b dbl s
  | .fle d a b dbl => Sys2Proof.Machine.execFle d a b dbl s
  | .funord d a b dbl => Sys2Proof.Machine.execFunord d a b dbl s
  | .fcvt d a rsel xc sel dbl => Sys2Proof.Machine.execFcvt d a rsel xc sel dbl s
  | .fclass d a dbl => Sys2Proof.Machine.execFclass d a dbl s
  | .ld t a off sx size => Sys2Proof.Machine.execLd t a off sx size s
  | .st t a off size => Sys2Proof.Machine.execSt t a off size s
  | .lda t a off scope sx size => Sys2Proof.Machine.execLda t a off scope sx size s
  | .stl t a off scope size => Sys2Proof.Machine.execStl t a off scope size s
  | .amoadd d a b scope size => Sys2Proof.Machine.execAmoadd d a b scope size s
  | .amoswap d a b scope size => Sys2Proof.Machine.execAmoswap d a b scope size s
  | .amoand d a b scope size => Sys2Proof.Machine.execAmoand d a b scope size s
  | .amoor d a b scope size => Sys2Proof.Machine.execAmoor d a b scope size s
  | .amoxor d a b scope size => Sys2Proof.Machine.execAmoxor d a b scope size s
  | .amomin d a b scope size => Sys2Proof.Machine.execAmomin d a b scope size s
  | .amomax d a b scope size => Sys2Proof.Machine.execAmomax d a b scope size s
  | .amominn d a b scope size => Sys2Proof.Machine.execAmominn d a b scope size s
  | .amomaxn d a b scope size => Sys2Proof.Machine.execAmomaxn d a b scope size s
  | .cas d a b scope size => Sys2Proof.Machine.execCas d a b scope size s
  | .fence kind scope => Sys2Proof.Machine.execFence kind scope s
  | .br a b cond off => Sys2Proof.Machine.execBr a b cond off s
  | .j off => Sys2Proof.Machine.execJ off s
  | .jal d off => Sys2Proof.Machine.execJal d off s
  | .jr a imm => Sys2Proof.Machine.execJr a imm s
  | .jalr d a imm => Sys2Proof.Machine.execJalr d a imm s
  | .spawn d a => Sys2Proof.Machine.execSpawn d a s
  | .spawnr d a => Sys2Proof.Machine.execSpawnr d a s
  | .depset d a b c => Sys2Proof.Machine.execDepset d a b c s
  | .deprd d c => Sys2Proof.Machine.execDeprd d c s
  | .depdec a scope n => Sys2Proof.Machine.execDepdec a scope n s
  | .rcall d a b => Sys2Proof.Machine.execRcall d a b s
  | .rreply a b => Sys2Proof.Machine.execRreply a b s
  | .migrate a imm => Sys2Proof.Machine.execMigrate a imm s
  | .arrive d scope id => Sys2Proof.Machine.execArrive d scope id s
  | .waitb a scope id => Sys2Proof.Machine.execWaitb a scope id s
  | .barcfg b scope id => Sys2Proof.Machine.execBarcfg b scope id s
  | .waitw d a b scope cond dbl => Sys2Proof.Machine.execWaitw d a b scope cond dbl s
  | .csrr d csr => Sys2Proof.Machine.execCsrr d csr s
  | .csrw d a csr => Sys2Proof.Machine.execCsrw d a csr s
  | .csrs d a csr => Sys2Proof.Machine.execCsrs d a csr s
  | .csrc d a csr => Sys2Proof.Machine.execCsrc d a csr s
  | .trap n => Sys2Proof.Machine.execTrap n s
  | .brk n => Sys2Proof.Machine.execBrk n s
  | .tld t a off => Sys2Proof.Machine.execTld t a off s
  | .tst t a off => Sys2Proof.Machine.execTst t a off s
  | .tzero t => Sys2Proof.Machine.execTzero t s
  | .azero n sr int => Sys2Proof.Machine.execAzero n sr int s
  | .mma f => Sys2Proof.Machine.execMma f s
  | .mdrain acc row0 n d => Sys2Proof.Machine.execMdrain acc row0 n d s
  | .mdrainG acc row0 n d a => Sys2Proof.Machine.execMdrainG acc row0 n d a s
  | .mdrains acc row0 n d a => Sys2Proof.Machine.execMdrains acc row0 n d a s
  | .mslot half a => Sys2Proof.Machine.execMslot half a s
  | .cpy d a nb => Sys2Proof.Machine.execCpy d a nb s
  | .cpwait d b ch => Sys2Proof.Machine.execCpwait d b ch s
  | .cvpt d => Sys2Proof.Machine.execCvpt d s
  | .cvdone a => Sys2Proof.Machine.execCvdone a s
  | .cvstat d sel => Sys2Proof.Machine.execCvstat d sel s
  | .vxset a imm => Sys2Proof.Machine.execVxset a imm s
  | .hset h a imm => Sys2Proof.Machine.execHset h a imm s
  | .vxadd a imm => Sys2Proof.Machine.execVxadd a imm s
  | .chstat d k => Sys2Proof.Machine.execChstat d k s
  | .chclose k => Sys2Proof.Machine.execChclose k s
  | .psend a b => Sys2Proof.Machine.execPsend a b s
  | .precv d a => Sys2Proof.Machine.execPrecv d a s
  | .vadd f => Sys2Proof.Machine.execVadd f s
  | .vsub f => Sys2Proof.Machine.execVsub f s
  | .vmul f => Sys2Proof.Machine.execVmul f s
  | .vfma f => Sys2Proof.Machine.execVfma f s
  | .vfms f => Sys2Proof.Machine.execVfms f s
  | .vdiv f => Sys2Proof.Machine.execVdiv f s
  | .vmin f => Sys2Proof.Machine.execVmin f s
  | .vmax f => Sys2Proof.Machine.execVmax f s
  | .vabs f => Sys2Proof.Machine.execVabs f s
  | .vneg f => Sys2Proof.Machine.execVneg f s
  | .vand f => Sys2Proof.Machine.execVand f s
  | .vor f => Sys2Proof.Machine.execVor f s
  | .vxor f => Sys2Proof.Machine.execVxor f s
  | .vandn f => Sys2Proof.Machine.execVandn f s
  | .vshl f => Sys2Proof.Machine.execVshl f s
  | .vshr f => Sys2Proof.Machine.execVshr f s
  | .vsar f => Sys2Proof.Machine.execVsar f s
  | .vcmp f => Sys2Proof.Machine.execVcmp f s
  | .vsel f => Sys2Proof.Machine.execVsel f s
  | .vclamp f => Sys2Proof.Machine.execVclamp f s
  | .vcvt f => Sys2Proof.Machine.execVcvt f s
  | .vscale f => Sys2Proof.Machine.execVscale f s
  | .vdot f => Sys2Proof.Machine.execVdot f s
  | .vred f => Sys2Proof.Machine.execVred f s
  | .vargmax f => Sys2Proof.Machine.execVargmax f s
  | .vgumbel f => Sys2Proof.Machine.execVgumbel f s
  | .vmov f => Sys2Proof.Machine.execVmov f s
  | .vbcast f => Sys2Proof.Machine.execVbcast f s
  | .vextr f => Sys2Proof.Machine.execVextr f s
  | .vins f => Sys2Proof.Machine.execVins f s
  | .vperm f => Sys2Proof.Machine.execVperm f s
  | .vslide f => Sys2Proof.Machine.execVslide f s
  | .vcomp f => Sys2Proof.Machine.execVcomp f s
  | .vexp2 f => Sys2Proof.Machine.execVexp2 f s
  | .vlog2 f => Sys2Proof.Machine.execVlog2 f s
  | .vrcp f => Sys2Proof.Machine.execVrcp f s
  | .vrsqrt f => Sys2Proof.Machine.execVrsqrt f s
  | .vsqrt f => Sys2Proof.Machine.execVsqrt f s
  | .vsin f => Sys2Proof.Machine.execVsin f s
  | .vcos f => Sys2Proof.Machine.execVcos f s
  | .vtanh f => Sys2Proof.Machine.execVtanh f s
  | .vsigm f => Sys2Proof.Machine.execVsigm f s
  | .vld f => Sys2Proof.Machine.execVld f s
  | .vst f => Sys2Proof.Machine.execVst f s
  | .vlds f => Sys2Proof.Machine.execVlds f s
  | .vsts f => Sys2Proof.Machine.execVsts f s
  | .vgather f => Sys2Proof.Machine.execVgather f s
  | .vscatter f => Sys2Proof.Machine.execVscatter f s
  | .mop f => Sys2Proof.Machine.execMop f s
  | .mpop f => Sys2Proof.Machine.execMpop f s
  | .mfirst f => Sys2Proof.Machine.execMfirst f s
  | .mset f => Sys2Proof.Machine.execMset f s
  | .vaddVi f => Sys2Proof.Machine.execVaddVi f s
  | .vsubVi f => Sys2Proof.Machine.execVsubVi f s
  | .vmulVi f => Sys2Proof.Machine.execVmulVi f s
  | .vdivVi f => Sys2Proof.Machine.execVdivVi f s
  | .vminVi f => Sys2Proof.Machine.execVminVi f s
  | .vmaxVi f => Sys2Proof.Machine.execVmaxVi f s
  | .vandVi f => Sys2Proof.Machine.execVandVi f s
  | .vorVi f => Sys2Proof.Machine.execVorVi f s
  | .vxorVi f => Sys2Proof.Machine.execVxorVi f s
  | .vandnVi f => Sys2Proof.Machine.execVandnVi f s
  | .vshlVi f => Sys2Proof.Machine.execVshlVi f s
  | .vshrVi f => Sys2Proof.Machine.execVshrVi f s
  | .vsarVi f => Sys2Proof.Machine.execVsarVi f s
  | .vaddLit f lit => Sys2Proof.Machine.execVaddLit f lit s
  | .vsubLit f lit => Sys2Proof.Machine.execVsubLit f lit s
  | .vmulLit f lit => Sys2Proof.Machine.execVmulLit f lit s
  | .vfmaLit f lit => Sys2Proof.Machine.execVfmaLit f lit s
  | .vfmsLit f lit => Sys2Proof.Machine.execVfmsLit f lit s
  | .vdivLit f lit => Sys2Proof.Machine.execVdivLit f lit s
  | .vminLit f lit => Sys2Proof.Machine.execVminLit f lit s
  | .vmaxLit f lit => Sys2Proof.Machine.execVmaxLit f lit s
  | .vabsLit f lit => Sys2Proof.Machine.execVabsLit f lit s
  | .vnegLit f lit => Sys2Proof.Machine.execVnegLit f lit s
  | .vandLit f lit => Sys2Proof.Machine.execVandLit f lit s
  | .vorLit f lit => Sys2Proof.Machine.execVorLit f lit s
  | .vxorLit f lit => Sys2Proof.Machine.execVxorLit f lit s
  | .vandnLit f lit => Sys2Proof.Machine.execVandnLit f lit s
  | .vshlLit f lit => Sys2Proof.Machine.execVshlLit f lit s
  | .vshrLit f lit => Sys2Proof.Machine.execVshrLit f lit s
  | .vsarLit f lit => Sys2Proof.Machine.execVsarLit f lit s
  | .vcmpLit f lit => Sys2Proof.Machine.execVcmpLit f lit s
  | .vselLit f lit => Sys2Proof.Machine.execVselLit f lit s
  | .vclampLit f lit => Sys2Proof.Machine.execVclampLit f lit s
  | .vcvtLit f lit => Sys2Proof.Machine.execVcvtLit f lit s
  | .vscaleLit f lit => Sys2Proof.Machine.execVscaleLit f lit s
  | .vdotLit f lit => Sys2Proof.Machine.execVdotLit f lit s
  | .vredLit f lit => Sys2Proof.Machine.execVredLit f lit s
  | .vargmaxLit f lit => Sys2Proof.Machine.execVargmaxLit f lit s
  | .vgumbelLit f lit => Sys2Proof.Machine.execVgumbelLit f lit s
  | .vmovLit f lit => Sys2Proof.Machine.execVmovLit f lit s
  | .vextrLit f lit => Sys2Proof.Machine.execVextrLit f lit s
  | .vpermLit f lit => Sys2Proof.Machine.execVpermLit f lit s
  | .vslideLit f lit => Sys2Proof.Machine.execVslideLit f lit s
  | .vcompLit f lit => Sys2Proof.Machine.execVcompLit f lit s
  | .cnew cd imm => Sys2Proof.Machine.execCnew cd imm s
  | .cfork cd cs => Sys2Proof.Machine.execCfork cd cs s
  | .cdrop cd => Sys2Proof.Machine.execCdrop cd s
  | .ctrim cd gs => Sys2Proof.Machine.execCtrim cd gs s
  | .clen gd cs => Sys2Proof.Machine.execClen gd cs s
  | .ctok gd cs gs => Sys2Proof.Machine.execCtok gd cs gs s
  | .cappt cd gs => Sys2Proof.Machine.execCappt cd gs s
  | .cinfo gd cs sel => Sys2Proof.Machine.execCinfo gd cs sel s
  | .csets cd gs sel => Sys2Proof.Machine.execCsets cd gs sel s
  | .csetx cd gs sel => Sys2Proof.Machine.execCsetx cd gs sel s
  | .cbind cd imm => Sys2Proof.Machine.execCbind cd imm s
  | .cappend cd gs imm => Sys2Proof.Machine.execCappend cd gs imm s
  | .cgen cd gd gs => Sys2Proof.Machine.execCgen cd gd gs s
  | .cscore gd cs gs imm => Sys2Proof.Machine.execCscore gd cs gs imm s
  | .cchoose cd gd gs imm => Sys2Proof.Machine.execCchoose cd gd gs imm s
  | .gli gd imm => Sys2Proof.Machine.execGli gd imm s
  | .glih gd imm => Sys2Proof.Machine.execGlih gd imm s
  | .gadd gd im gs imm => Sys2Proof.Machine.execGadd gd im gs imm s
  | .gsub gd im gs imm => Sys2Proof.Machine.execGsub gd im gs imm s
  | .gmul gd im gs imm => Sys2Proof.Machine.execGmul gd im gs imm s
  | .gcmp gd im gs imm cond => Sys2Proof.Machine.execGcmp gd im gs imm cond s
  | .gld gd gs w imm => Sys2Proof.Machine.execGld gd gs w imm s
  | .gst gd gs w imm => Sys2Proof.Machine.execGst gd gs w imm s
  | .gb sense imm => Sys2Proof.Machine.execGb sense imm s
  | .gj imm => Sys2Proof.Machine.execGj imm s
  | .gcall imm => Sys2Proof.Machine.execGcall imm s
  | .gsig gd gs imm => Sys2Proof.Machine.execGsig gd gs imm s
  | .gwait gd gs cond imm => Sys2Proof.Machine.execGwait gd gs cond imm s
  | .gpri imm => Sys2Proof.Machine.execGpri imm s
  | .ghalt gs => Sys2Proof.Machine.execGhalt gs s
  | .unassignedEncoding cause tval => Sys2Proof.Machine.execUnassignedEncoding cause tval s
  | .fetchFault cause va => Sys2Proof.Machine.execFetchFault cause va s
  | .agentIllegal cause tval under => Sys2Proof.Machine.execAgentIllegal cause tval under s
  | .linkCrcRetry corrected => Sys2Proof.Machine.execLinkCrcRetry corrected s
  | .memoryReply strand => Sys2Proof.Machine.execMemoryReply strand s
  | .pageWalk core va evict => Sys2Proof.Machine.execPageWalk core va evict s
  | .vectorBeat core => Sys2Proof.Machine.execVectorBeat core s
  | .matrixOpStart core array => Sys2Proof.Machine.execMatrixOpStart core array s
  | .arrayFree core => Sys2Proof.Machine.execArrayFree core s
  | .matrixOpComplete core slot => Sys2Proof.Machine.execMatrixOpComplete core slot s
  | .searchRetry strand => Sys2Proof.Machine.execSearchRetry strand s
  | .heldTaskEnter core => Sys2Proof.Machine.execHeldTaskEnter core s
  | .depDecrementArrive k => Sys2Proof.Machine.execDepDecrementArrive k s
  | .migrationArrive k => Sys2Proof.Machine.execMigrationArrive k s
  | .callArrive k => Sys2Proof.Machine.execCallArrive k s
  | .replyArrive k => Sys2Proof.Machine.execReplyArrive k s
  | .barrierPhaseComplete ctx bar => Sys2Proof.Machine.execBarrierPhaseComplete ctx bar s
  | .stageComplete launch stage => Sys2Proof.Machine.execStageComplete launch stage s
  | .groupRestart launch stage => Sys2Proof.Machine.execGroupRestart launch stage s
  | .launchRestart launch => Sys2Proof.Machine.execLaunchRestart launch s
  | .parameterBlockRead core ch => Sys2Proof.Machine.execParameterBlockRead core ch s
  | .copyJobStart core ch => Sys2Proof.Machine.execCopyJobStart core ch s
  | .copyTransfer core ch => Sys2Proof.Machine.execCopyTransfer core ch s
  | .gatherRowsArrive core ch owner => Sys2Proof.Machine.execGatherRowsArrive core ch owner s
  | .copyJobComplete core ch => Sys2Proof.Machine.execCopyJobComplete core ch s
  | .engineFaultRetry e => Sys2Proof.Machine.execEngineFaultRetry e s
  | .engineFaultExpiry e => Sys2Proof.Machine.execEngineFaultExpiry e s
  | .batchGrant launch stage => Sys2Proof.Machine.execBatchGrant launch stage s
  | .blockReconstruct launch stage => Sys2Proof.Machine.execBlockReconstruct launch stage s
  | .waitwRecheck strand => Sys2Proof.Machine.execWaitwRecheck strand s
  | .gwaitRecheck agent => Sys2Proof.Machine.execGwaitRecheck agent s
  | .stepPlan part => Sys2Proof.Machine.execStepPlan part s
  | .stepComplete part idle stall => Sys2Proof.Machine.execStepComplete part idle stall s
  | .stepFault part fault => Sys2Proof.Machine.execStepFault part fault s
  | .blockMove entry place => Sys2Proof.Machine.execBlockMove entry place s
  | .agentSwapIn agent out => Sys2Proof.Machine.execAgentSwapIn agent out s
  | .queueWalk => Sys2Proof.Machine.execQueueWalk s
  | .sliceExpiry thread => Sys2Proof.Machine.execSliceExpiry thread s
  | .queueWake qid => Sys2Proof.Machine.execQueueWake qid s
  | .packetRefetch thread => Sys2Proof.Machine.execPacketRefetch thread s
  | .queueTorn thread => Sys2Proof.Machine.execQueueTorn thread s
  | .nop h => Sys2Proof.Machine.execNop h s
  | .launch h desc sigaddr sigval => Sys2Proof.Machine.execLaunch h desc sigaddr sigval s
  | .waits h addr value cond timeout => Sys2Proof.Machine.execWaits h addr value cond timeout s
  | .waitsRecheck thread => Sys2Proof.Machine.execWaitsRecheck thread s
  | .waitsTimeout qsb => Sys2Proof.Machine.execWaitsTimeout qsb s
  | .signal h addr value op => Sys2Proof.Machine.execSignal h addr value op s
  | .cond h addr value cond target => Sys2Proof.Machine.execCond h addr value cond target s
  | .rearm h base size target => Sys2Proof.Machine.execRearm h base size target s
  | .copyh h src dst bytes sigaddr => Sys2Proof.Machine.execCopyh h src dst bytes sigaddr s
  | .copyhComplete k => Sys2Proof.Machine.execCopyhComplete k s
  | .ring h ringid vector entries base headaddr thresh timeout => Sys2Proof.Machine.execRing h ringid vector entries base headaddr thresh timeout s
  | .tstamp h addr => Sys2Proof.Machine.execTstamp h addr s
  | .fencePacket h => Sys2Proof.Machine.execFencePacket h s
  | .agentCreate h ceil record entry image => Sys2Proof.Machine.execAgentCreate h ceil record entry image s
  | .agentSuspend h ceil record entry image => Sys2Proof.Machine.execAgentSuspend h ceil record entry image s
  | .agentResume h ceil record entry image => Sys2Proof.Machine.execAgentResume h ceil record entry image s
  | .agentRemove h ceil record entry image => Sys2Proof.Machine.execAgentRemove h ceil record entry image s
  | .agentExport h ceil record entry image => Sys2Proof.Machine.execAgentExport h ceil record entry image s
  | .agentImport h ceil record entry image => Sys2Proof.Machine.execAgentImport h ceil record entry image s
  | .ctxnew h arg0 arg1 arg2 => Sys2Proof.Machine.execCtxnew h arg0 arg1 arg2 s
  | .ctxfree h arg0 arg1 arg2 => Sys2Proof.Machine.execCtxfree h arg0 arg1 arg2 s
  | .inval h arg0 arg1 arg2 => Sys2Proof.Machine.execInval h arg0 arg1 arg2 s
  | .invalComplete k => Sys2Proof.Machine.execInvalComplete k s
  | .qctlModel h arg0 arg1 arg2 => Sys2Proof.Machine.execQctlModel h arg0 arg1 arg2 s
  | .qctlMask h arg0 arg1 arg2 => Sys2Proof.Machine.execQctlMask h arg0 arg1 arg2 s
  | .qctlFreq h arg0 arg1 arg2 => Sys2Proof.Machine.execQctlFreq h arg0 arg1 arg2 s
  | .partition h arg0 arg1 arg2 => Sys2Proof.Machine.execPartition h arg0 arg1 arg2 s
  | .roleset h towers mode maps deadline evac => Sys2Proof.Machine.execRoleset h towers mode maps deadline evac s
  | .drainDeadline tower => Sys2Proof.Machine.execDrainDeadline tower s
  | .roleFlush tower => Sys2Proof.Machine.execRoleFlush tower s
  | .roleEnumerate tower => Sys2Proof.Machine.execRoleEnumerate tower s
  | .roleRun tower => Sys2Proof.Machine.execRoleRun tower s
  | .ringRecordWrite ring => Sys2Proof.Machine.execRingRecordWrite ring s
  | .ringInterruptTimeout ring => Sys2Proof.Machine.execRingInterruptTimeout ring s
  | .stepInstant deck => Sys2Proof.Machine.execStepInstant deck s
  | .powerLimit draw => Sys2Proof.Machine.execPowerLimit draw s
  | .thermalTrip tower => Sys2Proof.Machine.execThermalTrip tower s
  | .thermalPowerGate tower => Sys2Proof.Machine.execThermalPowerGate tower s
  | .ckptStart part => Sys2Proof.Machine.execCkptStart part s
  | .markerArrive part u im => Sys2Proof.Machine.execMarkerArrive part u im s
  | .unitEdge part u => Sys2Proof.Machine.execUnitEdge part u s
  | .ckptRelease part => Sys2Proof.Machine.execCkptRelease part s
  | .ckptRestore part => Sys2Proof.Machine.execCkptRestore part s
  | .attestRequest pa => Sys2Proof.Machine.execAttestRequest pa s
  | .perfReading value => Sys2Proof.Machine.execPerfReading value s
  | .perfClear n => Sys2Proof.Machine.execPerfClear n s
  | .debugRegisterWrite off value => Sys2Proof.Machine.execDebugRegisterWrite off value s
  | .registerWrite off value => Sys2Proof.Machine.execRegisterWrite off value s
  | .badPacket h code => Sys2Proof.Machine.execBadPacket h code s
  | .hostCoherentAccess x => Sys2Proof.Machine.execHostCoherentAccess x s
  | .remoteMemoryOperation x => Sys2Proof.Machine.execRemoteMemoryOperation x s
  | .region => Sys2Proof.Machine.execRegion s
  | .tend => Sys2Proof.Machine.execTend s
  | .eret => Sys2Proof.Machine.execEret s
  | .covctlReset => Sys2Proof.Machine.execCovctlReset s
  | .gret => Sys2Proof.Machine.execGret s
  | .gyield => Sys2Proof.Machine.execGyield s
  | .periodicReread => Sys2Proof.Machine.execPeriodicReread s
  | .powerOn => Sys2Proof.Machine.execPowerOn s
  | .dramTrained => Sys2Proof.Machine.execDramTrained s
  | .attestDone => Sys2Proof.Machine.execAttestDone s
  | .perfReadingDone => Sys2Proof.Machine.execPerfReadingDone s

end Sys2Proof.Machine
end

