-- ==== Sys2Proof/Machine/Turns.lean ====
section
/-!
DEFINITION. Turns of strands, agents and units: the fetch of an instruction's words (R94, R263, R265, R402), its decoding, and
its execution. The order of turns is the model's input.
-/

namespace Sys2Proof.Machine

/-! ## Fetching (R94) -/

/-- One instruction word of a strand, or the fault of its fetch. Of the values that R94 lets a fetch find in code that is stored to while
its launch runs, the one stored last is taken (DESIGN CHOICE, log 1). -/
def fetchWord (s : State) (k : Nat) (va : Word) : Except AccFault Nat :=
  match translate s (.core (coreOf k)) va.toNat 4 .fetch with
  | .error c => .error (c, va)
  | .ok h =>
    if (List.range 4).any (fun i => s.poison.contains (h.loc + i)) then .error (Cause.dataPoison, va)
    else .ok (Memory.readN s.mem h.loc 4)

/-- n instruction words from an address, the first lowest. -/
def fetchWords (s : State) (k : Nat) (va : Word) : Nat → Except AccFault Nat
  | 0 => .ok 0
  | n + 1 =>
    match fetchWord s k va with
    | .error e => .error e
    | .ok w =>
      match fetchWords s k (va + 4) n with
      | .error e => .error e
      | .ok v => .ok (w + 2 ^ 32 * v)

/-- The enabled breakpoint that an instruction address matches; bits 1:0 of BPPC do not count (R401, R402). -/
def breakHit (s : State) (k : Nat) : Option Nat :=
  let t := s.strand k
  match s.ctx (ctxOf (coreOf k)) with
  | none => none
  | some c => if t.exempt then none else
    (List.range 8).find? (fun n => dbgTask (Tbl.get c.dbg (0x218 + 16 * n) 0) t.taskid && (Tbl.get c.dbg (0x210 + 16 * n) 0).toNat / 4 = t.pc.toNat / 4)

/-- What a strand finds at its pc. -/
inductive Issue where
  | fault (cause : Byte) (va : Word)
  | breakpoint (n : Nat)
  | bad (d : Defect)
  | instr (i : Instr)

/-- The fetch and the decoding at the pc of a strand: first word, breakpoints, the other words, decoding. -/
def issueOf (s : State) (k : Nat) : Issue :=
  let pc := (s.strand k).pc
  match fetchWord s k pc with
  | .error e => .fault e.1 e.2
  | .ok w =>
    match breakHit s k with
    | some n => .breakpoint n
    | none =>
      match fetchWords s k (pc + 4) (lengthOf w / 4 - 1) with
      | .error e => .fault e.1 e.2
      | .ok v =>
        match decode (w + 2 ^ 32 * v) with
        | .ok i => .instr i
        | .error _ => .bad (defectOf (fun n => fmtWidth ((s.core (coreOf k)).fmtOf n.toNat)) (w + 2 ^ 32 * v))

/-! ## The turn of a strand -/

/-- The strand in focus is in rotation, and loses its exemption, as it issues. -/
def clearExempt (s : State) : State := s.setCur { s.cur with exempt := false, wait := .none }

/-- Whether a strand is held at its pc. -/
def Wait.isHeld : Wait → Bool
  | .held _ => true
  | .store _ => true
  | _ => false

/-- Whether a strand waits in a WAITB, whose end a relock may hold (R415). -/
def Wait.isBarrier : Wait → Bool
  | .waitb _ _ => true
  | _ => false

/-- Whether an instruction may take its strand out of rotation, although it has completed in the model, until a store of it or what it
waits for is accepted: a FENCE other than acq, and what R149 names (R67, R135, R145). -/
def isStore : Instr → Bool
  | .st _ _ _ _ | .stl _ _ _ _ _ | .vst _ | .vsts _ | .vscatter _ | .arrive _ _ _ | .rreply _ _ | .spawnr _ _ | .barcfg _ _ _
  | .region => true
  | .migrate _ _ => true
  | .fence kind _ => kind ≠ 0
  | _ => false

/-- An issue that was not held counts (R408), moves the rotation pointer (R66) and gives up the strand's place at a boundary;
`store` says whether it may keep the strand out of rotation although it has completed. -/
def countIssue (k : Nat) (store : Bool) (r : Res) : Res :=
  match r with
  | .next s =>
    let w := (s.strand k).wait
    if w.isHeld then .next s
    else
      let s0 := s.count (coreOf k) 1 1
      let s1 := if w.isBarrier then s0 else dropHeld s0 k
      let c := s1.core (coreOf k)
      let rest := c.accepting.filter (fun x => x ≠ slotOf k)
      .next (s1.setCore (coreOf k) { c with
        issues := (slotOf k :: c.issues).take 7, accepting := if store then slotOf k :: rest else rest })
  | r => r

/-- The strand in focus issues. A fetch fault and a breakpoint are no issue: nothing counts and the rotation pointer stays
(log 67). -/
def issueTurn (s : State) : Res :=
  match issueOf s s.fs with
  | .fault c va => execFetchFault c va (clearExempt s)
  | .breakpoint n => trap s Cause.breakpoint (.ofNat 64 (0x10000 + n))
  | .bad d => countIssue s.fs false (execUnassignedEncoding d.cause d.tval (clearExempt s))
  | .instr i => countIssue s.fs (isStore i) (exec i (clearExempt s))

/-- Slots of a core that the rotation examines before a slot: those after the pointer, in ascending order with wrap-around; none
while nothing has issued (R66). -/
def examinedBefore (c : Core) (slot : Nat) : List Nat :=
  match c.issues with
  | p :: _ => ((List.range 16).map (fun i => (p + 1 + i) % 16)).takeWhile (fun x => x ≠ slot)
  | [] => []

/-- Whether a slot has surely not issued in the last seven cycles, if another issues now: it is not among the core's last seven
issues, or its last issue came before that of the other. -/
def rested (issues : List Nat) (slot other : Nat) : Bool :=
  !(issues.contains slot) || (issues.contains other && issues.idxOf other < issues.idxOf slot)

/-- Whether a slot is ready beyond doubt if another issues now (R66, R67). -/
def surelyReady (s : State) (core slot other : Nat) : Bool :=
  let t := s.strand (core * 16 + slot)
  let c := s.core core
  t.active && !t.idle && t.wait = .none && !(c.accepting.contains slot) && rested c.issues slot other

/-- Whether the rotation would pass over a ready slot if a strand issued now (R66; log 67). -/
def passesOver (s : State) (k : Nat) : Bool :=
  (examinedBefore (s.core (coreOf k)) (slotOf k)).any (fun x => surelyReady s (coreOf k) x (slotOf k))

/-- The turn of a strand: it issues, searches for a task, or has nothing to do (R66, R67, R71). One that was held tries again. -/
def strandTurn (s : State) (k : Nat) : Res :=
  let t := s.strand k
  if !t.active || !(coreActs s (coreOf k)) then .next s
  else if t.idle then .next (seekTask s k)
  else if (t.wait = .none || t.wait.isHeld) && !(passesOver s k) then issueTurn { s with fs := k }
  else .next s

/-! ## The turn of an agent (R320, R321, R324) -/

/-- Whether an agent may issue: READY, resident, and the machine of its partition has not taken its edge. -/
def agentActs (s : State) (a : Agent) : Bool := a.st = stReady && a.resident && !(edged s (partOf s a) .machine)

/-- What an agent finds at its pc: a fault, an illegal word, an instruction. -/
def agentIssue (s : State) (id : Nat) (a : Agent) : Res :=
  match agentFetch s a a.pc with
  | .error e => execAgentIllegal e.1 e.2.1 (.ofNat 8 e.2.2) { s with fa := id }
  | .ok w =>
    match decodeAgent w with
    | none => execAgentIllegal Cause.agentIllegal (.ofNat 64 w) 0 { s with fa := id }
    | some i => exec i { s with fa := id }

/-- What an agent touches as it issues: the instruction's word and what this names. GLD, GST, GSIG and GWAIT correct what they
read themselves. -/
def agentTouch (s : State) (a : Agent) : Touch :=
  let who : Who := .ctx a.home
  let i := match agentFetch s a a.pc with | .ok w => decodeAgent w | .error _ => none
  let t := match i with | some x => issueTouch s a x | none => Touch.none
  { t with reads := (who, a.pc.toNat, 8) :: t.reads }

/-- An agent's turn; a relock holds its accesses, and, where it stops, that of its record (R415). -/
def agentTurn (s : State) (id : Nat) : Res :=
  match s.agent id with
  | none => .fault .noSuchUnit
  | some a =>
    if !(agentActs s a) then .next s
    else whenTouch s (agentSender id) (agentTouch s a) (fun s =>
      match agentIssue s id a with
      | .next t =>
        if (t.agent id).any (fun b => stSuspended ≤ b.st) then whenTouch s (agentSender id) (recordTouch s id a) (fun _ => .next t)
        else .next t
      | r => r)

/-! ## Turns -/

/-- The rows of the opcode table that a unit of the module, or the outside world, takes by itself. -/
def isEvent : Instr → Bool
  | .linkCrcRetry _ | .memoryReply _ | .pageWalk _ _ _ | .vectorBeat _ | .matrixOpStart _ _ | .arrayFree _
  | .matrixOpComplete _ _ | .searchRetry _ | .heldTaskEnter _ | .depDecrementArrive _ | .migrationArrive _
  | .callArrive _ | .replyArrive _ | .barrierPhaseComplete _ _ | .stageComplete _ _ | .groupRestart _ _
  | .launchRestart _ | .parameterBlockRead _ _ | .copyJobStart _ _ | .copyTransfer _ _ | .gatherRowsArrive _ _ _
  | .copyJobComplete _ _ | .engineFaultRetry _ | .engineFaultExpiry _ | .batchGrant _ _ | .blockReconstruct _ _
  | .waitwRecheck _ | .gwaitRecheck _ | .stepPlan _ | .stepComplete _ _ _ | .stepFault _ _ | .blockMove _ _
  | .agentSwapIn _ _ | .sliceExpiry _ | .queueWake _ | .packetRefetch _ | .queueTorn _ | .waitsRecheck _
  | .waitsTimeout _ | .copyhComplete _ | .invalComplete _ | .drainDeadline _ | .roleFlush _ | .roleEnumerate _
  | .roleRun _ | .ringRecordWrite _ | .ringInterruptTimeout _ | .stepInstant _ | .powerLimit _ | .thermalTrip _
  | .thermalPowerGate _ | .ckptStart _ | .markerArrive _ _ _ | .unitEdge _ _ | .ckptRelease _ | .ckptRestore _
  | .attestRequest _ | .perfReading _ | .perfClear _ | .debugRegisterWrite _ _ | .registerWrite _ _
  | .hostCoherentAccess _ | .remoteMemoryOperation _ | .queueWalk | .periodicReread | .powerOn | .dramTrained
  | .attestDone | .perfReadingDone => true
  | _ => false

/-- One turn. A row that is not an event has no turn of its own. -/
def runTurn (t : Turn) (s : State) : Res :=
  match t with
  | .strand k => strandTurn s k
  | .agent id => agentTurn s id
  | .thread t => threadTurn s t
  | .event i => if isEvent i then exec i s else .next s
  | .time n => .next (passTime n s)
  | .choose picks checks => .next { s with picks := picks, checks := checks }

/-! ## A place for one instruction -/

/-- Where withFetchWord places an instruction: cellar-tier byte 0x1_0000, mapped at the same virtual address. -/
def probePc : Nat := 0x10000
def probeBase : Nat := 5 * 2 ^ 48
/-- Core (0, 0) of context 1 and its strand 0. -/
def probeCore : Nat := 2048
def probeStrand : Nat := probeCore * 16

/-- A leaf of one gigabyte from the start of the cellar tier, held by the core's TLB. -/
def probeTlb : TlbEntry := { ctx := 1, base := 0, size := 2 ^ 30, leaf := .ofNat 64 (probeBase + 3), pa := probeBase }

def probeCtx : Ctx :=
  { root := 0, wlog := 0, hlog := 0, part := 0, priv := false, debug := false, place := [(0, 0)], bars := [], ctls := [], dbg := [] }

/-- A launch of one stage of one core with one strand. -/
def probeLaunch : Launch :=
  { ctx := 1, qsb := 0, prio := 0, pkt := 0, hdr := { len := 48, report := false, cont := false, tag := 0 }, sigaddr := 0, sigval := 0
    fpc := 0, sampling := false
    stages := [{ entry := .ofNat 64 probePc, a0 := 0, a1 := 0, a2 := 0, a3 := 0, x := 0, y := 0, w := 1, h := 1, mode := 0, count := 1
                 spaddr := 0, splen := 0, cov := none }]
    chans := [], sts := [.running], unconsumed := 0, discarded := 0, preempted := false, everPreempted := false, saved := []
    fault := none, covBound := false, covFault := none, displacer := none, ended := false, dump := none }

/-- The launch placed on core (0, 0) of context 1, its strand about to issue at the probe address. -/
def probe (s : State) : State :=
  { s with
    ctxs := Tbl.put s.ctxs 1 probeCtx
    cores := Tbl.put s.cores probeCore { Core.empty with launch := some 1, bound := true, count := 1 }
    strands := Tbl.put s.strands probeStrand { Strand.empty with
      pc := .ofNat 64 probePc, rgn := .ofNat 64 probePc, active := true, idle := false, taskid := 1 }
    launches := Tbl.put s.launches 1 probeLaunch
    tlbs := Tbl.put s.tlbs 0 [probeTlb]
    rounds := Tbl.del s.rounds 0
    poison := s.poison.filter (fun (a : Nat) => !(probeBase + probePc ≤ a && a < probeBase + probePc + 12))
    agenda := [], fs := probeStrand }

end Sys2Proof.Machine
end

