-- ==== Sys2Proof/Machine/Step.lean ====
section
/-!
DEFINITION. One step of the module: the first turn of the agenda, or, where the agenda is empty, the turn of the strand in
focus.
-/

namespace Sys2Proof.Machine

/-- One step. Each step has its own free values (log 6). -/
def step (s : State) : Host.Outcome State Fault Refusal :=
  let s0 := { s with fresh := s.fresh + 1 }
  match s.agenda with
  | [] => strandTurn s0 s0.fs
  | t :: r => runTurn t { s0 with agenda := r }

/-- The machine with one instruction placed where its next step fetches: the launch of `probe`, and twelve bytes of code
(log 20). -/
def State.withFetchWord (s : State) (nbits w : Nat) : State :=
  let s1 := probe s
  s1.setMem (Memory.writeN s1.mem (probeBase + probePc) 12 (w % 2 ^ nbits))

end Sys2Proof.Machine
end

