-- ==== Sys2Proof/Safety.lean ====
section
/-!
DEFINITION. What counts as a safe run: the machine goes on, it neither stops nor meets an instruction without a meaning.
-/

namespace Sys2Proof

open Sys2Proof.Machine

/-- The machine takes a next state. -/
def Goes (r : Host.Outcome State Fault Refusal) : Prop := ∃ s, r = .next s

/-- A run of n steps that never stops. -/
def SafeFor : Nat → State → Prop
  | 0, _ => True
  | n + 1, s => ∃ t, step s = .next t ∧ SafeFor n t

/-- A state from which every run is safe. -/
def Safe (s : State) : Prop := ∀ n, SafeFor n s

end Sys2Proof
end

