-- ==== Sys2Proof/WellFormed.lean ====
section
/-!
DEFINITION. Well-formed native instructions: those with an encoding whose selector fields are assigned (R115, order 3 of
R116) and whose reserved fields and values obey their descriptions (order 6). A narrow format's container width comes from
its FMT register, so the check takes the width of each.
-/

namespace Sys2Proof

/-- Whether an instruction has native words. -/
def encodable (i : Instr) : Bool := (encode i).isSome

/-- Whether its selector fields are assigned. -/
def selectorsOk (i : Instr) : Bool :=
  match encode i with
  | some w => (Machine.selector (w % 2 ^ 64)).isNone
  | none => false

/-- Whether its reserved fields and values are as its description asks. -/
def fieldsOk (cw : BitVec 3 → Option Nat) (i : Instr) : Bool := !(Machine.reserved cw i)

/-- A well-formed native instruction. -/
def wellFormed (cw : BitVec 3 → Option Nat) (i : Instr) : Bool := selectorsOk i && fieldsOk cw i

end Sys2Proof
end

