-- ==== Sys2Proof/Certificates/Slice0/Obligations.lean ====
section
/-!
DEFINITION. The statements for the provers, and the vocabulary they share (namespace Sys2Proof.Claim).
-/

open Sys2Proof Sys2Proof.Machine

namespace Sys2Proof.Claim

/-! ## What the statements share -/

/-- Nothing changed but the strand in focus. -/
def OnlyStrand (s t : State) : Prop :=
  t = { s with strands := t.strands } ∧ ∀ k, k ≠ s.fs → t.strand k = s.strand k

/-- A fixed-latency instruction of n bytes has written v to xd: xd holds v unless it is x0, every other register, flag and
piece of state is unchanged, and the pc is past the instruction (R117, R118). -/
def Wrote (s : State) (d : XReg) (v : Word) (n : Nat) (t : State) : Prop :=
  OnlyStrand s t
  ∧ (∀ r, t.readX r = if r = d ∧ r ≠ 0 then v else s.readX r)
  ∧ t.pc = s.pc + .ofNat 64 n
  ∧ { t.cur with pc := s.cur.pc, x := s.cur.x } = s.cur

/-- The same with flags ORed into FPC (R125, R187). -/
def WroteFlags (s : State) (d : XReg) (v : Word) (flags : Byte) (n : Nat) (t : State) : Prop :=
  OnlyStrand s t
  ∧ (∀ r, t.readX r = if r = d ∧ r ≠ 0 then v else s.readX r)
  ∧ t.pc = s.pc + .ofNat 64 n
  ∧ t.cur.fpc = s.cur.fpc ||| flags.setWidth 64
  ∧ { t.cur with pc := s.cur.pc, x := s.cur.x, fpc := s.cur.fpc } = s.cur

/-- An instruction completes with v in xd. -/
def Writes (i : Instr) (s : State) (d : XReg) (v : Word) (n : Nat) : Prop := ∃ t, exec i s = .next t ∧ Wrote s d v n t
def WritesFlags (i : Instr) (s : State) (d : XReg) (v : Word) (flags : Byte) (n : Nat) : Prop :=
  ∃ t, exec i s = .next t ∧ WroteFlags s d v flags n t

/-- An instruction raises a cause at the strand in focus. -/
def Traps (i : Instr) (s : State) (cause : Byte) (v : Word) : Prop := exec i s = .next (trapAt s s.fs cause v)

/-- An instruction only moves the pc, to p. -/
def MovesPc (i : Instr) (s : State) (p : Word) : Prop :=
  ∃ t, exec i s = .next t ∧ OnlyStrand s t ∧ t.pc = p ∧ { t.cur with pc := s.cur.pc } = s.cur

/-- The instruction passes orders 3 and 6 of R116 at the current core: assigned selectors, no reserved field or value. -/
abbrev Ok (i : Instr) (s : State) : Prop := wellFormed (fun n => fmtWidth (s.curCore.fmtOf n.toNat)) i = true

/-- The instructions with selector fields, reserved fields or reserved values. -/
def hasChecks (i : Instr) : Bool :=
  (vinsOf i).isSome || match i with
  | .br _ _ _ _ | .sext _ _ _ | .zext _ _ _ | .fcvt _ _ _ _ _ _ | .ld _ _ _ _ _ | .st _ _ _ _ | .lda _ _ _ _ _ _ | .stl _ _ _ _ _
  | .amoadd _ _ _ _ _ | .amoswap _ _ _ _ _ | .amoand _ _ _ _ _ | .amoor _ _ _ _ _ | .amoxor _ _ _ _ _ | .amomin _ _ _ _ _
  | .amomax _ _ _ _ _ | .amominn _ _ _ _ _ | .amomaxn _ _ _ _ _ | .cas _ _ _ _ _ | .fence _ _ | .depdec _ _ _
  | .arrive _ _ _ | .waitb _ _ _ | .barcfg _ _ _ | .waitw _ _ _ _ _ _ | .csrr _ _ | .csrw _ _ _ | .csrs _ _ _ | .csrc _ _ _
  | .tld _ _ _ | .tst _ _ _ | .tzero _ | .azero _ _ _ | .mma _ | .mdrain _ _ _ _ | .mdrainG _ _ _ _ _ | .mdrains _ _ _ _ _
  | .mslot _ _ | .cpy _ _ _ | .cvpt _ | .cvdone _ | .cvstat _ _ | .vxset _ _ | .hset _ _ _ | .vxadd _ _ | .chstat _ _ | .chclose _ => true
  | _ => false

/-- The instruction's own bits 63:0 (R116). -/
def bits (i : Instr) : Word := instrBits ((encode i).getD 0)

/-- The address, size and checks of a scalar memory instruction (R132, R139, R140, R171). -/
def scalarAccess (i : Instr) (s : State) : Option (Word × Nat × AccMode) :=
  match i with
  | .ld _ a off _ size => some (s.readX a + .ofInt 64 off.toInt, 2 ^ size.toNat, .load (2 ^ size.toNat = 8))
  | .lda _ a off _ _ size => some (s.readX a + .ofInt 64 off.toInt, 2 ^ size.toNat, .load (2 ^ size.toNat = 8))
  | .st _ a off size => some (s.readX a + .ofInt 64 off.toInt, 2 ^ size.toNat, .put (2 ^ size.toNat = 8))
  | .stl _ a off _ size => some (s.readX a + .ofInt 64 off.toInt, 2 ^ size.toNat, .put (2 ^ size.toNat = 8))
  | .amoadd _ a _ _ size | .amoswap _ a _ _ size | .amoand _ a _ _ size | .amoor _ a _ _ size | .amoxor _ a _ _ size
  | .amomin _ a _ _ size | .amomax _ a _ _ size | .amominn _ a _ _ size | .amomaxn _ a _ _ size =>
    some (s.readX a, 2 ^ size.toNat, .rmw true)
  | .cas d a _ _ size => some (s.readX a, 2 ^ size.toNat, .rmw (casHolds d a (2 ^ size.toNat) s))
  | .waitw _ a _ _ _ dbl =>
    some (s.readX a, if dbl then 8 else 4, { write := false, store := false, atomic := true, reads := true, dev := dbl, skip := [] })
  | _ => none

/-- An instruction is held at its pc by the boundaries of some decks, or by memory, until it issues again (R67, R149, R415). -/
def HoldsAs (i : Instr) (s : State) (w : Wait) (ds : List Nat) : Prop :=
  exec i s = .next (noteHeld (s.setCur { s.cur with exempt := true, wait := w }) s.fs ds)
abbrev Holds (i : Instr) (s : State) (memory : Bool) (ds : List Nat) : Prop := HoldsAs i s (.held memory) ds

/-- s(v) and u(v) of R120. -/
def sv (w : Word) : Int := w.toInt
def uv (w : Word) : Nat := w.toNat
/-- The low 64 bits of an exact result (R8). -/
def low (z : Int) : Word := .ofInt 64 z

end Sys2Proof.Claim

open Sys2Proof.Claim

/-! ## Integer instructions -/

/-- R120 for funct6 0 to 4 and 9 to 24: every result, and nothing else. -/
def Sys2Proof.Claim.IntegerRegisterResults : Prop :=
  ∀ (s : State) (d a b : XReg),
    let x := s.readX a
    let y := s.readX b
    let sh := uv y % 64
    Writes (.add d a b) s d (low (uv x + uv y)) 4
    ∧ Writes (.sub d a b) s d (low ((uv x : Int) - uv y)) 4
    ∧ Writes (.mul d a b) s d (low (uv x * uv y)) 4
    ∧ Writes (.mulh d a b) s d (low (sv x * sv y / 2 ^ 64)) 4
    ∧ Writes (.mulhn d a b) s d (low ((uv x * uv y / 2 ^ 64 : Nat) : Int)) 4
    ∧ Writes (.and d a b) s d (x &&& y) 4
    ∧ Writes (.or d a b) s d (x ||| y) 4
    ∧ Writes (.xor d a b) s d (x ^^^ y) 4
    ∧ Writes (.andn d a b) s d (x &&& ~~~y) 4
    ∧ Writes (.shl d a b) s d (low (uv x * 2 ^ sh)) 4
    ∧ Writes (.shr d a b) s d (low ((uv x / 2 ^ sh : Nat) : Int)) 4
    ∧ Writes (.sar d a b) s d (low (sv x / 2 ^ sh)) 4
    ∧ Writes (.min d a b) s d (if sv x ≤ sv y then x else y) 4
    ∧ Writes (.max d a b) s d (if sv x ≥ sv y then x else y) 4
    ∧ Writes (.minn d a b) s d (if uv x ≤ uv y then x else y) 4
    ∧ Writes (.maxn d a b) s d (if uv x ≥ uv y then x else y) 4
    ∧ Writes (.slt d a b) s d (if sv x < sv y then 1 else 0) 4
    ∧ Writes (.sltn d a b) s d (if uv x < uv y then 1 else 0) 4
    ∧ Writes (.clz d a) s d (if uv x = 0 then 64 else .ofNat 64 (63 - Nat.log2 (uv x))) 4
    ∧ (∃ n, Writes (.ctz d a) s d (.ofNat 64 n) 4 ∧ (uv x = 0 → n = 64)
        ∧ (uv x ≠ 0 → uv x % 2 ^ n = 0 ∧ uv x / 2 ^ n % 2 = 1))
    ∧ Writes (.popc d a) s d (.ofNat 64 ((List.range 64).filter x.getLsbD).length) 4

/-- R121: division truncates towards zero, a zero divisor gives all ones and the dividend, −2^63 by −1 wraps. -/
def Obligations.DivisionResults : Prop :=
  ∀ (s : State) (d a b : XReg),
    let x := s.readX a
    let y := s.readX b
    (y ≠ 0 → Writes (.div d a b) s d (low (Int.tdiv (sv x) (sv y))) 4
      ∧ Writes (.divn d a b) s d (.ofNat 64 (uv x / uv y)) 4
      ∧ Writes (.rem d a b) s d (low (sv x - sv y * Int.tdiv (sv x) (sv y))) 4
      ∧ Writes (.remn d a b) s d (.ofNat 64 (uv x % uv y)) 4)
    ∧ (y = 0 → Writes (.div d a b) s d 0xFFFFFFFFFFFFFFFF 4 ∧ Writes (.divn d a b) s d 0xFFFFFFFFFFFFFFFF 4
      ∧ Writes (.rem d a b) s d x 4 ∧ Writes (.remn d a b) s d x 4)
    ∧ (sv x = -(2 ^ 63) ∧ sv y = -1 → Writes (.div d a b) s d x 4 ∧ Writes (.rem d a b) s d 0 4)

/-- R120 for SEXT and ZEXT: the low 8, 16 or 32 bits extended, for the width codes 0, 1 and 2. -/
def Sys2Proof.Claim.ExtensionResults : Prop :=
  ∀ (s : State) (d a : XReg) (w : BitVec 3), w.toNat ≤ 2 →
    let n := 8 * 2 ^ w.toNat
    Writes (.sext d a w) s d (low (Int.bmod (uv (s.readX a)) (2 ^ n))) 4
    ∧ Writes (.zext d a w) s d (.ofNat 64 (uv (s.readX a) % 2 ^ n)) 4

/-- R116, orders 3 and 6, for every instruction that has selector fields or reserved values: an unassigned selector raises its
own cause, and otherwise a reserved field or value raises RESERVED_FIELD, both with instruction bits 63:0. -/
def Obligations.IllFormedInstructionsTrap : Prop :=
  ∀ (s : State) (i : Instr) (w : Nat), hasChecks i = true → encode i = some w →
    (∀ c, selector (w % 2 ^ 64) = some c → Traps i s c (bits i))
    ∧ (selector (w % 2 ^ 64) = none → reserved (fun n => fmtWidth (s.curCore.fmtOf n.toNat)) i = true →
        Traps i s Cause.reservedField (bits i))

/-- R122 and R123: the immediate instructions, LIL and ADDL. -/
def Sys2Proof.Claim.ImmediateResults : Prop :=
  ∀ (s : State) (d a : XReg) (imm : BitVec 17) (sh : BitVec 6) (lit : W32),
    let x := s.readX a
    Writes (.addi d a imm) s d (low (uv x + imm.toInt)) 4
    ∧ Writes (.andi d a imm) s d (x &&& low imm.toInt) 4
    ∧ Writes (.ori d a imm) s d (x ||| low imm.toInt) 4
    ∧ Writes (.xori d a imm) s d (x ^^^ low imm.toInt) 4
    ∧ Writes (.shli d a sh) s d (low (uv x * 2 ^ sh.toNat)) 4
    ∧ Writes (.shri d a sh) s d (low ((uv x / 2 ^ sh.toNat : Nat) : Int)) 4
    ∧ Writes (.sari d a sh) s d (low (sv x / 2 ^ sh.toNat)) 4
    ∧ Writes (.slti d a imm) s d (if sv x < imm.toInt then 1 else 0) 4
    ∧ Writes (.lih d a imm) s d (low (imm.toInt * 2 ^ 32 + uv x % 2 ^ 32)) 4
    ∧ Writes (.lil d lit) s d (low lit.toInt) 12
    ∧ Writes (.addl d a lit) s d (low (uv x + lit.toInt)) 12

/-- R120 to R123: the integer instructions, on registers (with the divisions of R121), with immediates and with literals. -/
def Obligations.IntegerResults : Prop := IntegerRegisterResults ∧ Obligations.DivisionResults ∧ ExtensionResults ∧ ImmediateResults

/-! ## Scalar floating point -/

/-- R126 to R130 for the operations of m10: the exact value of each, rounded once under the captured modes, written
zero-extended, its flags ORed into FPC. The exact operations (addV and the like), the rounding (roundTo) and the conversions
are the model's own functions of the operands. -/
def Sys2Proof.Claim.ScalarFloatValues : Prop :=
  ∀ (s : State) (d a b c : XReg) (dbl : Bool),
    let f := if dbl then fp64 else fp32
    let p (r : XReg) : Nat := (s.readX r).toNat % 2 ^ (if dbl then 64 else 32)
    let m := Mode.ofFpc s.cur.fpc
    let x := readF f m (p a)
    let y := readF f m (p b)
    let z := readF f m (p c)
    let once (i : Instr) (v : VRes) : Prop :=
      WritesFlags i s d (.ofNat 64 (roundTo f m false v.val).bits) ((roundTo f m false v.val).flags ||| v.flags) 4
    let cond (i : Instr) (h : Bool) (nv : Bool) : Prop := WritesFlags i s d (if h then 1 else 0) (if nv then 16 else 0) 4
    once (.fadd d a b dbl) (addV m x y)
    ∧ once (.fsub d a b dbl) (addV m x y.negate)
    ∧ once (.fmul d a b dbl) (mulV x y)
    ∧ once (.fdiv d a b dbl) (divV x y)
    ∧ once (.fma d a b c dbl) (fmaV m x y z)
    ∧ WritesFlags (.fsqrt d a dbl) s d (.ofNat 64 (sqrtRes f m x).bits) (sqrtRes f m x).flags 4
    ∧ (let r := minMaxV false x y
       WritesFlags (.fmin d a b dbl) s d (.ofNat 64 (roundTo f Mode.rne false r.val).bits)
         ((roundTo f Mode.rne false r.val).flags ||| r.flags) 4)
    ∧ (let r := minMaxV true x y
       WritesFlags (.fmax d a b dbl) s d (.ofNat 64 (roundTo f Mode.rne false r.val).bits)
         ((roundTo f Mode.rne false r.val).flags ||| r.flags) 4)
    ∧ cond (.feq d a b dbl) (eqV x y) (x.isSnan || y.isSnan)
    ∧ cond (.flt d a b dbl) (!x.isNan && !y.isNan && ltV x y) (x.isNan || y.isNan)
    ∧ cond (.fle d a b dbl) (!x.isNan && !y.isNan && !(ltV y x)) (x.isNan || y.isNan)
    ∧ cond (.funord d a b dbl) (x.isNan || y.isNan) (x.isSnan || y.isSnan)
    ∧ Writes (.fclass d a dbl) s d (.ofNat 64 (2 ^ fclassBit f (p a))) 4

/-- R129: FCVT under its own rounding selector, in its six forms. -/
def Obligations.ConversionResults : Prop :=
  ∀ (s : State) (d a : XReg) (rsel xc : BitVec 4) (sel : BitVec 2) (dbl : Bool), Ok (.fcvt d a rsel xc sel dbl) s →
    let f := if dbl then fp64 else fp32
    let m0 := Mode.ofFpc s.cur.fpc
    let m := if rsel = 1 then { m0 with rm := .rne } else if rsel = 2 then { m0 with rm := .rtz } else m0
    let v := s.readX a
    let i : Instr := .fcvt d a rsel xc sel dbl
    let x := readF f m (v.toNat % 2 ^ (if dbl then 64 else 32))
    (xc = 0 ∧ sel = 0 → let r := floatToInt m.rm (-(2 ^ 63)) (2 ^ 63 - 1) x; WritesFlags i s d (low r.1) r.2 4)
    ∧ (xc = 0 ∧ sel = 1 → let r := floatToInt m.rm 0 (2 ^ 64 - 1) x; WritesFlags i s d (.ofNat 64 r.1.toNat) r.2 4)
    ∧ (xc = 0 ∧ sel = 2 → let r := roundTo f m false (intVal (sv v)); WritesFlags i s d (.ofNat 64 r.bits) r.flags 4)
    ∧ (xc = 0 ∧ sel = 3 → let r := roundTo f m false (intVal (uv v)); WritesFlags i s d (.ofNat 64 r.bits) r.flags 4)
    ∧ (xc = 1 ∧ dbl = false → let r := convert fp32 fp64 m false (v.toNat % 2 ^ 32); WritesFlags i s d (.ofNat 64 r.bits) r.flags 4)
    ∧ (xc = 1 ∧ dbl = true → let r := convert fp64 fp32 m false v.toNat; WritesFlags i s d (.ofNat 64 r.bits) r.flags 4)

/-- R125 and R126: an arithmetic operation with a NaN operand writes the canonical NaN of its width, and sets NV exactly where
an operand is signalling (no operand here is infinite or zero in a way that is invalid by itself). -/
def Sys2Proof.Claim.NanResultsAreCanonical : Prop :=
  ∀ (s : State) (d a b : XReg) (dbl : Bool),
    let f := if dbl then fp64 else fp32
    let m := Mode.ofFpc s.cur.fpc
    let x := readF f m ((s.readX a).toNat % 2 ^ (if dbl then 64 else 32))
    let y := readF f m ((s.readX b).toNat % 2 ^ (if dbl then 64 else 32))
    let nan : Word := if dbl then 0x7FF8000000000000 else 0x7FC00000
    (x.isNan = true ∨ y.isNan = true →
      ∀ i ∈ [Instr.fadd d a b dbl, .fsub d a b dbl, .fmul d a b dbl, .fdiv d a b dbl],
        WritesFlags i s d nan (if x.isSnan || y.isSnan then 16 else 0) 4)
    ∧ (x.isNan = true → WritesFlags (.fsqrt d a dbl) s d nan (if x.isSnan then 16 else 0) 4)

/-- R125 to R130: scalar floating point, and its results on NaN operands. -/
def Obligations.ScalarFloatResults : Prop := ScalarFloatValues ∧ NanResultsAreCanonical

/-! ## Loads, stores, atomics -/

/-- The value of the low n bytes of v, sign-extended or zero-extended. -/
def Sys2Proof.Claim.ext (sx : Bool) (n v : Nat) : Word :=
  if sx then low (Int.bmod v (2 ^ (8 * n))) else .ofNat 64 (v % 2 ^ (8 * n))

/-- R132, R135 for LD and LDA: an aligned access that passes its checks. From the own-scratchpad window it completes; every
other load waits for its reply, with the value it will write. s1 is the state that the access's checks leave. -/
def Sys2Proof.Claim.LoadsComplete : Prop :=
  ∀ (s s1 : State) (ps : List Piece) (t a : XReg) (off : BitVec 11) (scope : BitVec 3) (sx : Bool) (size : BitVec 2),
    ∀ i ∈ [Instr.ld t a off sx size, .lda t a off scope sx size], Ok i s →
    let n := 2 ^ size.toNat
    let ea := s.readX a + low off.toInt
    uv ea % n = 0 → accessBytes s s.fs (uv ea) n (AccMode.load (n = 8)) = .ok s1 ps →
      let v := ext sx n (readOf s1 ps)
      let s2 := countPieces s1 (coreOf s.fs) false ps
      (uv ea / 2 ^ 44 = 0xFFE → ∃ u, exec i s = .next u ∧ Wrote s2 t v 4 u)
      ∧ (uv ea / 2 ^ 44 ≠ 0xFFE → exec i s = .next (s2.setCur { s2.cur with
          wait := .reply { len := 4, xw := [(t, v)], vw := none, decks := piecesDecks s1 (coreOf s.fs) ps } }))

/-- R67, R88, R137: a store that has issued and is held is left behind, with the registers it had, where its group is discarded; it
completes once nothing holds it, at the address and with the value that it had, and changes nothing of its strand; until then nothing
changes but its place at a boundary, and one whose access has come to fault has no effect (the model's reading, log 68). -/
def Sys2Proof.Claim.HeldStoresComplete : Prop :=
  (∀ (s : State) (k : Nat) (i : Instr), (s.strand k).wait = .store i →
    ((discardStrand s k).strand k).wait = .none ∧ ∃ l, (discardStrand s k).lates = s.lates ++ [l] ∧ l.id = s.sent ∧ l.strand = k ∧ l.instr = i
      ∧ l.saved = { s.strand k with batch := l.saved.batch } ∧ s.core (coreOf k) = { l.core with ctrs := (s.core (coreOf k)).ctrs })
  ∧ (∀ (s : State) (l : Late) (t a : XReg) (off : BitVec 11) (scope : BitVec 3) (size : BitVec 2),
    l.instr = .st t a off size ∨ l.instr = .stl t a off scope size → s.lates = [l] → (∀ r, (s.strand l.strand).wait ≠ .reply r) →
    let u := lateSetup s l
    let n := 2 ^ size.toNat
    let ea := l.saved.readX a + low off.toInt
    Ok l.instr u → uv ea % n = 0 →
      (∀ s1 ps, accessBytes u l.strand (uv ea) n (AccMode.put (n = 8)) = .ok s1 ps → ∃ p, ps = [p] ∧ (p.hit.device = false →
        ∃ v, exec (.memoryReply l.strand) s = .next v ∧ v.lates = []
          ∧ Memory.readN v.mem p.hit.loc n = uv (l.saved.readX t) % 2 ^ (8 * n)
          ∧ (∀ b, b < p.hit.loc ∨ p.hit.loc + n ≤ b → Memory.read v.mem b = Memory.read s.mem b)
          ∧ (∀ j, v.strand j = s.strand j) ∧ (∀ c, v.core c = s.core c)))
      ∧ (∀ ds, accessBytes u l.strand (uv ea) n (AccMode.put (n = 8)) = .wait ds →
        ∃ v, exec (.memoryReply l.strand) s = .next v ∧ v.lates = [l] ∧ v.mem = s.mem ∧ (∀ j, v.strand j = s.strand j) ∧ (∀ c, v.core c = s.core c))
      ∧ (∀ c x, accessBytes u l.strand (uv ea) n (AccMode.put (n = 8)) = .fault c x →
        ∃ v, exec (.memoryReply l.strand) s = .next v ∧ v.lates = [] ∧ v.mem = s.mem ∧ v.strands = s.strands ∧ v.cores = s.cores))

/-- R67, R88, R135, R137, R415: when a reply arrives, the strand that waits for it has its x registers written and goes on; of a vector
reply, the destination and the last-result file are written. A reply that crosses the boundary of a relocking deck is held there
(and so, in the model's reading, is one behind traffic that was held before it), and takes its place in the order. (The replies
are of a strand that left no store behind.) And a store that is held and left behind at a discard completes. -/
def Sys2Proof.Claim.RepliesAreWritten : Prop :=
  HeldStoresComplete ∧ ∀ (s : State) (k : Nat) (r : Reply), (s.strand k).wait = .reply r → (∀ l ∈ s.lates, l.strand ≠ k) →
    let t := (r.xw.foldl (fun (t : Strand) w => t.writeX w.1 w.2) (s.strand k))
    let s1 := (dropHeld s k).setStrand k { t with wait := .none, pc := (s.strand k).pc + .ofNat 64 r.len }
    let ds := heldAt s k r.decks
    (∀ d ∈ r.decks, (s.deck d).relock = true → d ∈ ds)
    ∧ (ds ≠ [] → exec (.memoryReply k) s = .next (noteHeld s k ds))
    ∧ (ds = [] → r.vw = none → exec (.memoryReply k) s = .next s1)
    ∧ (∀ d v, ds = [] → r.vw = some (d, v) → exec (.memoryReply k) s = .next (pushResult (regWrite s1 k d v) k v))

/-- R67, R132, R135: loads, and the replies that complete them. -/
def Obligations.LoadsAndReplies : Prop := LoadsComplete ∧ RepliesAreWritten

/-- R132, R135 for ST and STL: an aligned access that passes its checks writes the low n bytes of xt at one place and leaves
every other byte; the strand goes on, its registers unchanged. A store to a device register is that register's write. -/
def Obligations.StoresComplete : Prop :=
  ∀ (s s1 : State) (ps : List Piece) (t a : XReg) (off : BitVec 11) (scope : BitVec 3) (size : BitVec 2),
    ∀ i ∈ [Instr.st t a off size, .stl t a off scope size], Ok i s →
    let n := 2 ^ size.toNat
    let ea := s.readX a + low off.toInt
    uv ea % n = 0 → accessBytes s s.fs (uv ea) n (AccMode.put (n = 8)) = .ok s1 ps →
      ∃ p, ps = [p] ∧ p.n = n ∧ p.va = uv ea ∧
        (p.hit.device = true → exec i s = retire 4 (countPieces
          (devWrite s1 (p.hit.pa.getD 0 % 2 ^ 48) (.ofNat 64 (uv (s.readX t) % 2 ^ (8 * n)))) (coreOf s.fs) true ps))
        ∧ (p.hit.device = false → ∃ u, exec i s = .next u
          ∧ Memory.readN u.mem p.hit.loc n = uv (s.readX t) % 2 ^ (8 * n)
          ∧ (∀ b, b < p.hit.loc ∨ p.hit.loc + n ≤ b → Memory.read u.mem b = Memory.read s.mem b)
          ∧ u.strands = (s.setPc (s.pc + 4)).strands ∧ u.cores = s.cores
          ∧ u = { s with strands := u.strands, mem := u.mem, poison := u.poison, soft := u.soft, tags := u.tags, perf := u.perf })

/-- R117, R132, R252 in the own scratchpad, written out: an aligned load there takes the bytes at its offset and completes,
and an aligned store there leaves exactly its bytes changed. -/
def Obligations.OwnScratchpadAccess : Prop :=
  ∀ (s : State) (t a : XReg) (off : BitVec 11) (sx : Bool) (size : BitVec 2),
    let n := 2 ^ size.toNat
    let ea := s.readX a + low off.toInt
    let core := coreOf s.fs
    let o := uv ea % 2 ^ 44
    let loc := padLoc core o
    uv ea % n = 0 → uv ea / 2 ^ 44 = 0xFFE → o + n ≤ 0x1FF800 - 64 * (s.core core).chanSlots → (s.core core).jobs = [] →
    (∀ c, s.ctx (ctxOf core) = some c → c.dbg = []) →
      (Ok (.ld t a off sx size) s → (∀ i, i < n → loc + i ∉ s.poison ∧ loc + i ∉ s.soft) →
        Writes (.ld t a off sx size) s t (ext sx n (Memory.readN s.mem loc n)) 4)
      ∧ (Ok (.st t a off size) s → ∃ u, exec (.st t a off size) s = .next u
        ∧ Memory.readN u.mem loc n = uv (s.readX t) % 2 ^ (8 * n)
        ∧ (∀ b, b < loc ∨ loc + n ≤ b → Memory.read u.mem b = Memory.read s.mem b)
        ∧ u = { s with strands := u.strands, mem := u.mem, soft := u.soft } ∧ u.strands = (s.setPc (s.pc + 4)).strands)

/-- One atomic of R139 with its function f of the old value and the operand: old is read and f(old, b) written in one step, and
the strand waits for the reply that will write old, sign-extended. -/
def Sys2Proof.Claim.AmoDoes (i : Instr) (s : State) (d a b : XReg) (n : Nat) (f : Nat → Nat → Nat) : Prop :=
  ∀ s1 ps, Ok i s → uv (s.readX a) % n = 0 → accessBytes s s.fs (uv (s.readX a)) n (AccMode.rmw true) = .ok s1 ps →
    ∃ p u, ps = [p] ∧ p.n = n ∧ exec i s = .next u
      ∧ (let old := Memory.readN s.mem p.hit.loc n
         Memory.readN u.mem p.hit.loc n = f old (uv (s.readX b) % 2 ^ (8 * n)) % 2 ^ (8 * n)
         ∧ u.cur = { s.cur with
             wait := .reply { len := 4, xw := [(d, ext true n old)], vw := none, decks := piecesDecks s1 (coreOf s.fs) ps } })
      ∧ (∀ c, c < p.hit.loc ∨ p.hit.loc + n ≤ c → Memory.read u.mem c = Memory.read s.mem c)
      ∧ (∀ k, k ≠ s.fs → u.strand k = s.strand k)
      ∧ u = { s with strands := u.strands, mem := u.mem, poison := u.poison, soft := u.soft, tags := u.tags, perf := u.perf }

/-- The signed value of n bytes. -/
def Sys2Proof.Claim.sb (n v : Nat) : Int := Int.bmod v (2 ^ (8 * n))

/-- R139: the nine atomics, on words and doublewords. -/
def Sys2Proof.Claim.ArithmeticAtomics : Prop :=
  ∀ (s : State) (d a b : XReg) (scope : BitVec 3) (size : BitVec 4),
    let n := 2 ^ size.toNat
    AmoDoes (.amoadd d a b scope size) s d a b n (fun o x => o + x)
    ∧ AmoDoes (.amoswap d a b scope size) s d a b n (fun _ x => x)
    ∧ AmoDoes (.amoand d a b scope size) s d a b n (fun o x => o &&& x)
    ∧ AmoDoes (.amoor d a b scope size) s d a b n (fun o x => o ||| x)
    ∧ AmoDoes (.amoxor d a b scope size) s d a b n (fun o x => o ^^^ x)
    ∧ AmoDoes (.amomin d a b scope size) s d a b n (fun o x => if sb n o ≤ sb n x then o else x)
    ∧ AmoDoes (.amomax d a b scope size) s d a b n (fun o x => if sb n o ≥ sb n x then o else x)
    ∧ AmoDoes (.amominn d a b scope size) s d a b n (fun o x => min o x)
    ∧ AmoDoes (.amomaxn d a b scope size) s d a b n (fun o x => max o x)

/-- R140: CAS reads the old value; it writes the new one exactly where the old one equals the expected one, and the strand waits
for the reply that will write the old value, sign-extended. -/
def Sys2Proof.Claim.CompareAndSwapCompletes : Prop :=
  ∀ (s s1 : State) (ps : List Piece) (h : Hit) (d a b : XReg) (scope : BitVec 3) (size : BitVec 2), Ok (.cas d a b scope size) s →
    let n := 2 ^ size.toNat
    let ea := uv (s.readX a)
    let win := Memory.readN s.mem h.loc n = uv (s.readX d) % 2 ^ (8 * n)
    ea % n = 0 → translate s (.core (coreOf s.fs)) ea n .write = .ok h →
    accessBytes s s.fs ea n (AccMode.rmw (decide win)) = .ok s1 ps →
      ∃ u, exec (.cas d a b scope size) s = .next u
        ∧ (win → Memory.readN u.mem h.loc n = uv (s.readX b) % 2 ^ (8 * n)
            ∧ ∀ c, c < h.loc ∨ h.loc + n ≤ c → Memory.read u.mem c = Memory.read s.mem c)
        ∧ (¬ win → u.mem = s.mem)
        ∧ u.cur = { s.cur with wait := .reply { len := 4, xw := [(d, ext true n (Memory.readN s.mem h.loc n))], vw := none,
                                                  decks := piecesDecks s1 (coreOf s.fs) ps } }
        ∧ (∀ k, k ≠ s.fs → u.strand k = s.strand k)
        ∧ u = { s with strands := u.strands, mem := u.mem, poison := u.poison, soft := u.soft, tags := u.tags, perf := u.perf }

/-- R139, R140: the atomics. -/
def Obligations.AtomicsComplete : Prop := ArithmeticAtomics ∧ CompareAndSwapCompletes

/-- R144, R145: a FENCE moves past itself and changes nothing else: every access of the model has completed (log 1). -/
def Sys2Proof.Claim.FenceCompletes : Prop :=
  ∀ (s : State) (kind : BitVec 2) (scope : BitVec 3), Ok (.fence kind scope) s → MovesPc (.fence kind scope) s (s.pc + 4)

/-- R171: a WAITW whose read meets the condition writes the value and goes on; otherwise it waits, and reads again whenever
WAITW_RECHECK is its turn. Conditions eq, ne, lt, ge compare signed values and ltn, gen unsigned ones. -/
def Sys2Proof.Claim.WaitwCompletes : Prop :=
  ∀ (s s1 : State) (ps : List Piece) (d a b : XReg) (scope cond : BitVec 3) (dbl : Bool),
    let i : Instr := .waitw d a b scope cond dbl
    let n := if dbl then 8 else 4
    let m : AccMode := { write := false, store := false, atomic := true, reads := true, dev := dbl, skip := [] }
    uv (s.readX a) % n = 0 → accessBytes s s.fs (uv (s.readX a)) n m = .ok s1 ps →
      let v := readOf s1 ps
      let w := uv (s.readX b) % 2 ^ (8 * n)
      let c := cond.toNat
      let holds := (c = 0 ∧ v % 2 ^ (8 * n) = w) ∨ (c = 1 ∧ v % 2 ^ (8 * n) ≠ w) ∨ (c = 2 ∧ sb n v < sb n w) ∨ (c = 3 ∧ sb n w ≤ sb n v)
        ∨ (c = 4 ∧ v % 2 ^ (8 * n) < w) ∨ (c = 5 ∧ w ≤ v % 2 ^ (8 * n))
      let s2 := countPieces s1 (coreOf s.fs) false ps
      (holds → Ok i s → ∃ u, exec i s = .next u ∧ Wrote (s2.setCur { s2.cur with wait := .none }) d (ext true n v) 4 u)
      ∧ (¬ holds → c ≤ 5 → Ok i s → exec i s = .next (s2.setCur { s2.cur with wait := .waitw i }))
      ∧ (holds → s.cur.wait = .waitw i →
          ∀ f, ∃ u, exec (.waitwRecheck s.fs) { s with fs := f } = .next { u with fs := f }
            ∧ Wrote (s2.setCur { s2.cur with wait := .none }) d (ext true n v) 4 u)

/-- R144, R145, R171: FENCE and WAITW. -/
def Obligations.FencesAndWordWaits : Prop := FenceCompletes ∧ WaitwCompletes

/-- R67, R132, R139, R140, R171: before every other check, an address that is not a multiple of the access's size raises
MISALIGNED with the address; then a fault of the access's own checks traps with its cause, and the instruction has no effect. An
access that a copy footprint or a relock holds waits at its pc with no other effect (R275, R415); of a store or an atomic, which has
issued (R137, R143), the strand keeps which one it is. -/
def Obligations.MemoryFaultsTrap : Prop :=
  ∀ (s : State) (i : Instr) (ea : Word) (n : Nat) (m : AccMode), scalarAccess i s = some (ea, n, m) → Ok i s →
    (uv ea % n ≠ 0 → Traps i s Cause.misaligned ea)
    ∧ (uv ea % n = 0 → ∀ c v, accessBytes s s.fs (uv ea) n m = .fault c v → Traps i s c v)
    ∧ (uv ea % n = 0 → s.cur.wait = .none → ∀ ds, accessBytes s s.fs (uv ea) n m = .wait ds →
        HoldsAs i s (if m.write then .store i else .held true) ds)

/-! ## Branches, regions, tasks -/

/-- A jump to p: xd takes v (x0 nothing), and only registers and pc change. -/
def Sys2Proof.Claim.Jumps (i : Instr) (s : State) (d : XReg) (v p : Word) : Prop :=
  ∃ t, exec i s = .next t ∧ OnlyStrand s t ∧ (∀ r, t.readX r = if r = d ∧ r ≠ 0 then v else s.readX r) ∧ t.pc = p
    ∧ { t.cur with pc := s.cur.pc, x := s.cur.x } = s.cur

/-- R107, R151, R152: the targets of BR under its six conditions, of J and JAL, and of JR and JALR, whose target comes from xa as it was
before xd is written and must be a multiple of 4, or they raise MISALIGNED. The condition codes 6 and 7 of BR raise ILLEGAL_OP. -/
def Obligations.BranchesAndJumps : Prop :=
  ∀ (s : State) (d a b : XReg) (cond : BitVec 3) (off : BitVec 14) (far : BitVec 21) (imm : BitVec 17),
    let x := s.readX a
    let y := s.readX b
    let c := cond.toNat
    let holds := (c = 0 ∧ x = y) ∨ (c = 1 ∧ x ≠ y) ∨ (c = 2 ∧ sv x < sv y) ∨ (c = 3 ∧ sv x ≥ sv y) ∨ (c = 4 ∧ uv x < uv y)
      ∨ (c = 5 ∧ uv x ≥ uv y)
    let t := x + low imm.toInt
    (holds → MovesPc (.br a b cond off) s (s.pc + low (4 * off.toInt)))
    ∧ (¬ holds → c ≤ 5 → MovesPc (.br a b cond off) s (s.pc + 4))
    ∧ (6 ≤ c → Traps (.br a b cond off) s Cause.illegalOp (bits (.br a b cond off)))
    ∧ MovesPc (.j far) s (s.pc + low (4 * far.toInt))
    ∧ Jumps (.jal d far) s d (s.pc + 4) (s.pc + low (4 * far.toInt))
    ∧ (uv t % 4 = 0 → MovesPc (.jr a imm) s t ∧ Jumps (.jalr d a imm) s d (s.pc + 4) t)
    ∧ (uv t % 4 ≠ 0 → Traps (.jr a imm) s Cause.misaligned t ∧ Traps (.jalr d a imm) s Cause.misaligned t)

/-- R85, R149, R153, R154, R299: REGION writes x1 to x15 and TASKID to the save slot, sets RGN to its own address, empties the
staged work and goes on; TEND empties the staged work and makes the strand idle, and a batch it still holds returns to the
walker. Every other register of the strand is unchanged (but for what committing an end marker or a CVDONE notes: the closed
endpoints and the batch), as are the other strands and every byte outside the save slot. While the commit cannot be accepted both
are held. -/
def Sys2Proof.Claim.RegionsEnd : Prop :=
  ∀ s : State,
    (commitBlocked s s.fs = false →
      (∃ t, exec .region s = .next t
        ∧ t.cur = { s.cur with pc := s.pc + 4, rgn := s.pc, staged := [], closed := t.cur.closed, batch := t.cur.batch }
        ∧ (∀ k, k ≠ s.fs → t.strand k = s.strand k)
        ∧ (∀ r : XReg, r ≠ 0 → Memory.readN t.mem (saveLoc s.fs + 8 * (r.toNat - 1)) 8 = (s.readX r).toNat)
        ∧ Memory.readN t.mem (saveLoc s.fs + 120) 8 = s.cur.taskid.toNat
        ∧ (∀ b, b < saveLoc s.fs ∨ saveLoc s.fs + 128 ≤ b → Memory.read t.mem b = Memory.read s.mem b))
      ∧ (∃ t, exec .tend s = .next t ∧ t.mem = s.mem ∧ (∀ k, k ≠ s.fs → t.strand k = s.strand k)
        ∧ t.cur = { s.cur with idle := true, taskid := 0, staged := [], wait := .none, idleAt := s.reft.toNat
                               closed := t.cur.closed, batch := t.cur.batch }
        ∧ (∀ l st b cv, s.cur.staged = [] → s.groupOf s.fs = some (l, st) → s.cur.batch = some b →
            Tbl.look s.covs (stageKey l st) = some cv → t.cur.batch = none ∧ ∃ cv', Tbl.look t.covs (stageKey l st) = some cv'
              ∧ cv'.returned = cv.returned ++ [b] ∧ cv'.claimed = cv.claimed.filter (fun e => e.1 ≠ b))))
    ∧ (commitBlocked s s.fs = true → ∀ i ∈ [Instr.region, .tend], Holds i s false (commitDecks s s.fs))

/-- R70, R85, R212, R299: what the commit of a REGION makes of a single staged operation: a send joins the messages of its
receiver behind the others, a receive takes its message away, an end marker closes the strand's endpoint and its link, a decrement
is in flight, a spawned task is last in its home's queue, the held tasks for which there is room before it, a block whose CVDONE
commits is done and the batch no longer held, a copy request is a job behind the core's others, and a counter is armed. -/
def Sys2Proof.Claim.CommitEffects : Prop :=
  ∀ (s : State) (o : Staged), s.cur.staged = [o] → commitBlocked s s.fs = false →
    let core := coreOf s.fs
    ∃ t, exec .region s = .next t
      ∧ (∀ k m l, o = .send k m → linkOf s core k = some l → l.closed = false →
          inboxOf t l.receiver l.kr = inboxOf s l.receiver l.kr ++ [{ sender := core, ks := k, msg := m, taken := none }])
      ∧ (∀ k, o = .recv k → inboxOf t core k = dropTaken (slotOf s.fs) (inboxOf s core k))
      ∧ (∀ tc c n, o = .dec tc c n → t.decrs = s.decrs ++
          [{ id := s.sent, src := core, core := tc, c := c, amount := n, launch := (s.core core).launch.getD 0, stage := (s.core core).stage }])
      ∧ (∀ h k, o = .enqueue h k → coreTakes s h = true →
          (t.core h).queue = ((enterHeld s h 64).core h).queue ++ [{ k with enq := s.reft.toNat }]
          ∧ ((s.core h).held = [] → (t.core h).queue = (s.core h).queue ++ [{ k with enq := s.reft.toNat }]))
      ∧ (∀ h k, o = .enqueue h k → coreTakes s h = false → (t.core h).held = (s.core h).held ++ [{ k with enq := s.reft.toNat }])
      ∧ (∀ k, o = .endMark k → t.cur.closed = s.cur.closed ++ [k]
          ∧ ∀ l, linkOf s core k = some l → linkOf t core k = some { l with closed := true })
      ∧ (∀ b, o = .cvdone b → t.cur.batch = none ∧ ∀ l cv, (s.core core).launch = some l →
          Tbl.look s.covs (stageKey l (s.core core).stage) = some cv → ∃ cv', Tbl.look t.covs (stageKey l (s.core core).stage) = some cv'
            ∧ cv'.done = cv.done ++ cv.claimed.filter (fun e => e.1 = b) ∧ cv'.claimed = cv.claimed.filter (fun e => e.1 ≠ b))
      ∧ (∀ w0 w1 w2 w3, o = .copy w0 w1 w2 w3 → ∃ j, (t.core core).jobs = (s.core core).jobs ++ [j] ∧ j.w0 = w0 ∧ j.w1 = w1
          ∧ j.w2 = w2 ∧ j.w3 = w3 ∧ j.slot = slotOf s.fs ∧ j.started = false)
      ∧ (∀ c h k, o = .arm c 0 h k → (t.core core).ctr c = .free)
      ∧ (∀ c n h k, o = .arm c n h k → n ≠ 0 → (t.core core).ctr c = .armed n h k)

/-- R147 to R154: REGION and TEND, and what a commit does. -/
def Obligations.RegionsCommit : Prop := RegionsEnd ∧ CommitEffects

/-- R69, R72: what a descriptor's 64 bytes v make of a task under an id. -/
def Sys2Proof.Claim.TaskOf (v : Nat) (id : BitVec 48) (t : Task) : Prop :=
  t.entry = .ofNat 64 (v % 2 ^ 64) ∧ t.id = id ∧ t.fpc = none
  ∧ (∀ r : Nat, r < 16 → Vector.nth (n := 15) t.xs r = if 1 ≤ r ∧ r ≤ 4 then .ofNat 64 (v / 2 ^ (64 * r) % 2 ^ 64) else 0)

/-- R158, R159: SPAWN and SPAWNR on a valid descriptor with room at the home core stage the task, and DEPSET on a free counter
stages its arming and reserves it; xd takes the id: the descriptor's, or where that is 0 a new one from the core's coordinates and
count. -/
def Sys2Proof.Claim.SpawnsStage : Prop :=
  ∀ (s s1 : State) (ps : List Piece) (d a b : XReg) (c : BitVec 8),
    let xa := s.readX a
    let core := coreOf s.fs
    uv xa % 64 = 0 → accessBytes s s.fs (uv xa) 64 (.load false) = .ok s1 ps →
    let v := readPieces s1.mem ps
    let home := coreKey (ctxOf core) (v / 2 ^ 368 % 64) (v / 2 ^ 376 % 32)
    let id : BitVec 48 := if v / 2 ^ 320 % 2 ^ 48 ≠ 0 then .ofNat 48 (v / 2 ^ 320)
      else .ofNat 48 (xOf core * 2 ^ 42 + yOf core * 2 ^ 37 + (s.core core).ids % 2 ^ 37)
    v % 4 = 0 → v / 2 ^ 374 % 4 = 0 → v / 2 ^ 381 % 8 = 0 → v / 2 ^ 384 % 2 ^ 128 = 0 → stagedCount s.cur < 32 →
      let does (i : Instr) (P : State → Staged → Prop) : Prop := ∃ t o, exec i s = .next t ∧ t.cur.staged = s.cur.staged ++ [o] ∧ P t o
        ∧ (∀ r, t.readX r = if r = d ∧ r ≠ 0 then id.setWidth 64 else s.readX r) ∧ t.pc = s.pc + 4 ∧ t.mem = s.mem
        ∧ (∀ k, k ≠ s.fs → t.strand k = s.strand k)
      (queueRoom s core = true → does (.spawn d a) (fun _ o => ∃ k, o = .enqueue core k ∧ TaskOf v id k))
      ∧ (inOwnStage s home = true → sendHeld s home = [] → queueRoom s home = true → does (.spawnr d a) (fun _ o => ∃ k, o = .enqueue home k ∧ TaskOf v id k))
      ∧ (inOwnStage s home = true → (s.core core).ctr c.toNat = .free → uv (s.readX b) ≤ 0xFFFFFFFF →
          does (.depset d a b c) (fun t o => (∃ k, o = .arm c.toNat (uv (s.readX b)) home k ∧ TaskOf v id k)
            ∧ (t.core core).ctr c.toNat = .reserved (slotOf s.fs)))

/-- R86, R149, R158, R159: the traps of SPAWN, SPAWNR and DEPSET: a count past 32 bits, then a misaligned descriptor, then a
fault of its read, then an invalid descriptor, then a home core outside the stage, then a counter that is not free, then a full
stage, then a full queue. A relock on the way to the home core holds a SPAWNR. -/
def Sys2Proof.Claim.SpawnTraps : Prop :=
  ∀ (s : State) (d a b : XReg) (c : BitVec 8),
    let xa := s.readX a
    let xb := s.readX b
    (uv xb > 0xFFFFFFFF → Traps (.depset d a b c) s Cause.depCount xb)
    ∧ (uv xa % 64 ≠ 0 → Traps (.spawn d a) s Cause.misaligned xa ∧ Traps (.spawnr d a) s Cause.misaligned xa
        ∧ (uv xb ≤ 0xFFFFFFFF → Traps (.depset d a b c) s Cause.misaligned xa))
    ∧ (∀ e w, uv xa % 64 = 0 → accessBytes s s.fs (uv xa) 64 (.load false) = .fault e w →
        Traps (.spawn d a) s e w ∧ Traps (.spawnr d a) s e w ∧ (uv xb ≤ 0xFFFFFFFF → Traps (.depset d a b c) s e w))
    ∧ (∀ s1 ps, uv xa % 64 = 0 → accessBytes s s.fs (uv xa) 64 (.load false) = .ok s1 ps →
        let v := readPieces s1.mem ps
        let bad := v % 4 ≠ 0 ∨ v / 2 ^ 374 % 4 ≠ 0 ∨ v / 2 ^ 381 % 8 ≠ 0 ∨ v / 2 ^ 384 % 2 ^ 128 ≠ 0
        let home := coreKey (ctxOf (coreOf s.fs)) (v / 2 ^ 368 % 64) (v / 2 ^ 376 % 32)
        let fits := uv xb ≤ 0xFFFFFFFF
        (bad → Traps (.spawn d a) s Cause.taskInvalid xa ∧ Traps (.spawnr d a) s Cause.taskInvalid xa
          ∧ (fits → Traps (.depset d a b c) s Cause.taskInvalid xa))
        ∧ (¬ bad → inOwnStage s home = false → Traps (.spawnr d a) s Cause.noSuchCore xa
            ∧ (fits → Traps (.depset d a b c) s Cause.noSuchCore xa))
        ∧ (¬ bad → inOwnStage s home = true → fits → (s.core (coreOf s.fs)).ctr c.toNat ≠ .free →
            Traps (.depset d a b c) s Cause.depArmed (c.setWidth 64))
        ∧ (¬ bad → 32 ≤ stagedCount s.cur → Traps (.spawn d a) s Cause.stageFull 0
            ∧ (inOwnStage s home = true → Traps (.spawnr d a) s Cause.stageFull 0
              ∧ (fits → (s.core (coreOf s.fs)).ctr c.toNat = .free → Traps (.depset d a b c) s Cause.stageFull 0)))
        ∧ (¬ bad → stagedCount s.cur < 32 →
            (queueRoom s (coreOf s.fs) = false → Traps (.spawn d a) s Cause.taskqFull xa)
            ∧ (inOwnStage s home = true → sendHeld s home ≠ [] → Holds (.spawnr d a) s false (sendHeld s home))
            ∧ (inOwnStage s home = true → sendHeld s home = [] → queueRoom s home = false →
                Traps (.spawnr d a) s Cause.taskqFull xa)))

/-- R155 to R160: SPAWN and DEPSET, and their traps. -/
def Obligations.SpawnsAndDepset : Prop := SpawnsStage ∧ SpawnTraps

/-- R155, R160, R161, R162: DEPRD reads a free, an armed and a foreign reserved counter as state × 2^32 + value, through the
strand's own staged work; DEPDEC of a valid reference stages the decrement, on the own core where OWN is set, else on the core X, Y;
a reference with a bit above 19 set, or with OWN clear and a core X, Y that is in no stage of the launch, raises NO_SUCH_CORE. -/
def Sys2Proof.Claim.DecrementsStage : Prop :=
  ∀ (s : State) (d a : XReg) (c : BitVec 8) (scope : BitVec 3) (n : BitVec 10),
    let core := coreOf s.fs
    (s.cur.staged = [] →
      ((s.core core).ctr c.toNat = .free → Writes (.deprd d c) s d 0 4)
      ∧ (∀ v h t, (s.core core).ctr c.toNat = .armed v h t → Writes (.deprd d c) s d (.ofNat 64 (2 * 2 ^ 32 + v)) 4))
    ∧ (∀ k, (s.core core).ctr c.toNat = .reserved k → k ≠ slotOf s.fs → Writes (.deprd d c) s d (.ofNat 64 (2 ^ 32)) 4)
    ∧ (∀ v h t, s.cur.staged = [.arm c.toNat v h t] → (s.core core).ctr c.toNat = .reserved (slotOf s.fs) → 0 < v →
        Writes (.deprd d c) s d (.ofNat 64 (2 * 2 ^ 32 + v)) 4)
    ∧ (Ok (.depdec a scope n) s →
        let r := uv (s.readX a)
        let own := r / 2 ^ 19 % 2 = 1
        let k := if own then core else coreKey (ctxOf core) (r / 2 ^ 8 % 64) (r / 2 ^ 14 % 32)
        let valid := r < 2 ^ 20 ∧ (own ∨ ∃ l la st, (s.core core).launch = some l ∧ s.launch l = some la ∧ st < la.stages.length
          ∧ k ∈ s.coresOf l st)
        (¬ valid → Traps (.depdec a scope n) s Cause.noSuchCore (s.readX a))
        ∧ (valid → 32 ≤ stagedCount s.cur → Traps (.depdec a scope n) s Cause.stageFull 0)
        ∧ (valid → stagedCount s.cur < 32 → ∃ t, exec (.depdec a scope n) s = .next t ∧ OnlyStrand s t
            ∧ t.cur = { s.cur with pc := s.pc + 4, staged := s.cur.staged ++ [.dec k (r % 256) n.toNat] }))

/-- R157, R161, R415: a decrement that arrives, whichever in flight it is, subtracts its amount; at zero the counter is free and
the task enters its home's queue; a smaller counter, or one that is not armed, faults the group that holds the core. Where no
group holds the counter, because the core's stage has completed, the sender's group faults. A decrement that would cross the
boundary of a relocking deck, or comes to one behind held traffic, is held there, and so is the released task, as a task of the stage that holds the counter. -/
def Sys2Proof.Claim.DecrementsArrive : Prop :=
  ∀ (s : State) (n : Nat) (x : Decr) (r : List Decr), s.decrs[n]? = some x → r = s.decrs.take n ++ s.decrs.drop (n + 1) →
    let a := s.phys x.src
    let b := s.phys x.core
    let me := itemSender x.id
    let ds := heldAt s me (crossDecks a b)
    let s1 := dropHeld { s with decrs := r } me
    let y := (s.core x.core).ctr x.c
    let put (y : Ctr) := s1.setCore x.core { s.core x.core with ctrs := Tbl.put (s.core x.core).ctrs x.c y }
    let fault (l st : Nat) := groupFault s1 l st
      { cause := Cause.depUnderflow, inner := 0xFFFF, pc := 0, taskid := 0, core := x.core, slot := 0xFF, job := 0
        tval := .ofNat 64 (x.amount * 2 ^ 32 + yOf x.core * 2 ^ 14 + xOf x.core * 2 ^ 8 + x.c) }
    (deckOf a ≠ deckOf b → (s.deck (deckOf a)).relock = true ∨ (s.deck (deckOf b)).relock = true → ds ≠ [])
    ∧ (ds ≠ [] → exec (.depDecrementArrive n) s = .next (noteHeld s me ds))
    ∧ (ds = [] → holdsCounters s x.core x.launch = false → exec (.depDecrementArrive n) s = .next (fault x.launch x.stage))
    ∧ (ds = [] → holdsCounters s x.core x.launch = true →
        (∀ v h t, y = .armed v h t → x.amount < v → exec (.depDecrementArrive n) s = .next (put (.armed (v - x.amount) h t)))
        ∧ (∀ v h t, y = .armed v h t → x.amount = v →
            let next := itemSender s.sent
            let es := heldAt (put .free) next (crossDecks b (s.phys h))
            (es = [] → exec (.depDecrementArrive n) s = .next (enqueueTask (put .free) h t))
            ∧ (es ≠ [] → exec (.depDecrementArrive n) s = .next (noteHeld ((put .free).sendCall
                { id := 0, src := x.core, core := h, task := t, launch := (s.core x.core).launch.getD 0, stage := (s.core x.core).stage }) next es)))
        ∧ (∀ v h t, y = .armed v h t → v < x.amount →
            exec (.depDecrementArrive n) s = .next (fault ((s.core x.core).launch.getD 0) (s.core x.core).stage))
        ∧ ((∀ v h t, y ≠ .armed v h t) →
            exec (.depDecrementArrive n) s = .next (fault ((s.core x.core).launch.getD 0) (s.core x.core).stage)))

/-- R156 to R161: DEPDEC, and the arrival of decrements. -/
def Obligations.DependenceCounters : Prop := DecrementsStage ∧ DecrementsArrive

/-- R70, R81, R163: MIGRATE to another core of the own stage commits, and its task, with its registers, FPC, TASKID and next
address, is in that core's queue, or held there where there is no room; the strand becomes idle. To its own core it acts as a
REGION. An address with no destination core, and a target outside the stage, trap; what holds the commit or the message holds it. -/
def Sys2Proof.Claim.MigrateCompletes : Prop :=
  ∀ (s : State) (a : XReg) (imm : BitVec 17) (dest : Nat),
    let ea := s.readX a + low imm.toInt
    (∀ c, destCore s (coreOf s.fs) (uv ea) = .error c → Traps (.migrate a imm) s c ea)
    ∧ (destCore s (coreOf s.fs) (uv ea) = .ok dest →
    (inOwnStage s dest = false → Traps (.migrate a imm) s Cause.noSuchCore ea)
    ∧ (inOwnStage s dest = true → commitBlocked s s.fs = true ∨ sendHeld s dest ≠ [] →
        Holds (.migrate a imm) s false (commitDecks s s.fs ++ sendHeld s dest))
    ∧ (inOwnStage s dest = true → commitBlocked s s.fs = false → sendHeld s dest = [] →
        (dest = coreOf s.fs → exec (.migrate a imm) s = exec .region s)
        ∧ (dest ≠ coreOf s.fs → ∃ t, exec (.migrate a imm) s = .next t
            ∧ (let s1 := commit s s.fs
               let c := s1.core dest
               let task : Task := { entry := s.pc + 4, xs := s.cur.x, id := s.cur.taskid, fpc := some s.cur.fpc, enq := s.reft.toNat }
               let room := coreTakes s dest = true ∧ c.held = [] ∧ c.queue.length + reservedIn s1 dest < 64
               (room → t.core dest = { c with queue := c.queue ++ [task] })
               ∧ (¬ room → t.core dest = { c with held := c.held ++ [task] }))
            ∧ t.cur = { s.cur with idle := true, taskid := 0, staged := [], wait := .none, idleAt := s.reft.toNat
                                   closed := t.cur.closed, batch := t.cur.batch }
            ∧ (∀ k, k ≠ s.fs → t.strand k = s.strand k) ∧ t.mem = s.mem)))

/-- R82, R83, R149, R164, R165: RCALL sends a task with x1 to x4 and the continuation identifier in x5 and waits, and traps on a
misaligned entry, then on an address with no destination core, then on a core outside the stage; RREPLY with a valid identifier
sends the payload and goes on, and any other raises NO_SUCH_CORE. A relock on the way holds both. -/
def Sys2Proof.Claim.CallsAndReplies : Prop :=
  ∀ (s : State) (d a b : XReg) (dest : Nat),
    let core := coreOf s.fs
    let seq := s.cur.seq + 1
    let cont : Word := .ofNat 64 (xOf core * 2 ^ 26 + yOf core * 2 ^ 21 + slotOf s.fs * 2 ^ 17 + d.toNat * 2 ^ 13 + seq.toNat)
    (uv (s.readX a) % 4 ≠ 0 → Traps (.rcall d a b) s Cause.misaligned (s.readX a))
    ∧ (uv (s.readX a) % 4 = 0 → ∀ c, destCore s core (uv (s.readX b)) = .error c → Traps (.rcall d a b) s c (s.readX b))
    ∧ (uv (s.readX a) % 4 = 0 → destCore s core (uv (s.readX b)) = .ok dest → inOwnStage s dest = false →
        Traps (.rcall d a b) s Cause.noSuchCore (s.readX b))
    ∧ (uv (s.readX a) % 4 = 0 → destCore s core (uv (s.readX b)) = .ok dest → inOwnStage s dest = true → sendHeld s dest ≠ [] →
        Holds (.rcall d a b) s false (sendHeld s dest))
    ∧ (uv (s.readX a) % 4 = 0 → destCore s core (uv (s.readX b)) = .ok dest → inOwnStage s dest = true → sendHeld s dest = [] →
        ∃ t f, exec (.rcall d a b) s = .next t ∧ t.calls = s.calls ++ [f] ∧ f.src = core ∧ f.core = dest
          ∧ f.task = { entry := s.readX a, id := s.cur.taskid, fpc := none, enq := 0
                       xs := #v[0, s.readX 1, s.readX 2, s.readX 3, s.readX 4, cont, 0, 0, 0, 0, 0, 0, 0, 0, 0, 0] }
          ∧ t.cur = { s.cur with seq := seq, call := some seq, wait := .rcall cont }
          ∧ (∀ k, k ≠ s.fs → t.strand k = s.strand k) ∧ t.mem = s.mem)
    ∧ (let x := s.readX a
       let dst := contCore (ctxOf core) x
       let ok := uv x < 2 ^ 32 ∧ inOwnStage s dst = true ∧ uv x / 2 ^ 17 % 16 < (s.core dst).count
       (¬ ok → Traps (.rreply a b) s Cause.noSuchCore x)
       ∧ (ok → sendHeld s dst ≠ [] → Holds (.rreply a b) s false (sendHeld s dst))
       ∧ (ok → sendHeld s dst = [] → ∃ t r, exec (.rreply a b) s = .next t
            ∧ t.replies = s.replies ++ [r] ∧ r.src = core ∧ r.cont = x ∧ r.payload = s.readX b ∧ r.ctx = ctxOf core
            ∧ t.cur = { s.cur with pc := s.pc + 4 } ∧ t.mem = s.mem ∧ (∀ k, k ≠ s.fs → t.strand k = s.strand k)))

/-- R81 to R83, R163 to R165: MIGRATE, RCALL and RREPLY. -/
def Obligations.MigrationsAndCalls : Prop := MigrateCompletes ∧ CallsAndReplies

/-- R23, R70, R81, R82, R83: a call that arrives enters the core's queue, or is held there where 64 entries are taken, others are
held or the core's deck changes its role; the oldest held task, a migrated one among them, enters when there is room. A reply
wakes the caller that still waits for it, writing xd; any other is dropped and counted as stale. Whichever call or reply in flight
comes first, one that would cross the boundary of a relocking deck, or comes to one behind held traffic, is held there. -/
def Sys2Proof.Claim.TaskArrivals : Prop :=
  ∀ s : State,
    let room (core : Nat) := coreTakes s core = true ∧ (s.core core).queue.length + reservedIn s core < 64
    (∀ n f r, s.calls[n]? = some f → r = s.calls.take n ++ s.calls.drop (n + 1) →
      let c := s.core f.core
      let t := { f.task with enq := s.reft.toNat }
      let me := itemSender f.id
      let ds := heldAt s me (crossDecks (s.phys f.src) (s.phys f.core))
      let s1 := dropHeld { s with calls := r } me
      (relockHeld s (s.phys f.src) (s.phys f.core) = true → ds ≠ [])
      ∧ (ds ≠ [] → exec (.callArrive n) s = .next (noteHeld s me ds))
      ∧ (ds = [] →
          (room f.core ∧ c.held = [] → exec (.callArrive n) s = .next (s1.setCore f.core { c with queue := c.queue ++ [t] }))
          ∧ (¬ (room f.core ∧ c.held = []) → exec (.callArrive n) s = .next (s1.setCore f.core { c with held := c.held ++ [t] }))))
    ∧ (∀ core t r, (s.core core).held = t :: r → ∀ e, e = Instr.heldTaskEnter core ∨ e = .migrationArrive core ∧ t.fpc ≠ none →
        (room core → exec e s = .next (s.setCore core { s.core core with
          queue := (s.core core).queue ++ [{ t with enq := s.reft.toNat }], held := r }))
        ∧ (¬ room core → exec e s = .next s))
    ∧ (∀ n f r, s.replies[n]? = some f → r = s.replies.take n ++ s.replies.drop (n + 1) →
        let dst := contCore f.ctx f.cont
        let k := dst * 16 + contSlot f.cont
        let t := s.strand k
        let me := itemSender f.id
        let ds := heldAt s me (crossDecks (s.phys f.src) (s.phys dst))
        let s1 := dropHeld { s with replies := r } me
        (relockHeld s (s.phys f.src) (s.phys dst) = true → ds ≠ [])
        ∧ (ds ≠ [] → exec (.replyArrive n) s = .next (noteHeld s me ds))
        ∧ (ds = [] →
          (t.call = some (.ofNat 13 f.cont.toNat) → exec (.replyArrive n) s = .next (s1.setStrand k
            { t.writeX (.ofNat 4 (f.cont.toNat / 2 ^ 13)) f.payload with call := none, wait := .none, pc := t.pc + 4 }))
          ∧ (t.call ≠ some (.ofNat 13 f.cont.toNat) →
              exec (.replyArrive n) s = .next { s1 with stale := s.stale + 1 })))

/-- R71, R72: an idle strand that searches takes the first task of the first queue that has one, in the order of the search: its
own core's, then those of the other cores of its stage in its cluster in order of x + y × W, then those of its stage elsewhere in its
deck in order of distance. Its pc and RGN are at the task's entry, x1 to x15 the task's registers, its id, the registers in the save slot; a strand
that finds none stays as it is. -/
def Sys2Proof.Claim.IdleStrandsTakeTasks : Prop :=
  ∀ (s : State) (k : Nat), (s.strand k).active = true → (s.strand k).idle = true → coreActs s (coreOf k) = true →
    coreTakes s (coreOf k) = true →
    (∃ tail, searchOrder s (coreOf k) = coreOf k :: tail
      ∧ (∀ l, (s.core (coreOf k)).launch = some l → ∀ c, c ∈ tail ↔ c ∈ s.coresOf l (s.core (coreOf k)).stage ∧ c ≠ coreOf k
          ∧ deckOf (s.phys c) = deckOf (s.phys (coreOf k)))
      ∧ tail.Pairwise (fun a b =>
          let me := s.phys (coreOf k)
          let near (c : Nat) := unitOf 2 (s.phys c) = unitOf 2 me
          let far (c : Nat) : Nat :=
            let p := s.phys c
            (((p % 16 : Int) - (me % 16 : Nat)).natAbs + ((p / 16 % 8 : Int) - (me / 16 % 8 : Nat)).natAbs) * 128 + p % 128
          near a ∨ (¬ near b ∧ far a ≤ far b))
      ∧ (∀ l la d W, (s.core (coreOf k)).launch = some l → s.launch l = some la → la.stages[(s.core (coreOf k)).stage]? = some d →
          d.x + d.w ≤ min 64 W → d.y + d.h ≤ 32 →
          (tail.filter (fun c => unitOf 2 (s.phys c) = unitOf 2 (s.phys (coreOf k)))).Pairwise
            (fun a b => xOf a + yOf a * W < xOf b + yOf b * W)))
    ∧ (∀ pre c post t q, searchOrder s (coreOf k) = pre ++ c :: post → (∀ j ∈ pre, (s.core j).queue = []) →
        (s.core c).queue = t :: q → ∃ u, exec (.searchRetry k) s = .next u
      ∧ (u.core c).queue = q ∧ (∀ j, j ≠ c → u.core j = s.core j)
      ∧ (u.strand k).pc = t.entry ∧ (u.strand k).rgn = t.entry ∧ (u.strand k).taskid = t.id ∧ (u.strand k).idle = false
      ∧ (u.strand k).tActive = false ∧ (u.strand k).fpc = t.fpc.getD (s.strand k).fpc
      ∧ (∀ r, 1 ≤ r → r < 16 → Vector.nth (n := 15) (u.strand k).x r = Vector.nth (n := 15) t.xs r)
      ∧ Memory.readN u.mem (saveLoc k + 120) 8 = t.id.toNat
      ∧ (∀ b, b < saveLoc k ∨ saveLoc k + 128 ≤ b → Memory.read u.mem b = Memory.read s.mem b))
    ∧ ((∀ c ∈ searchOrder s (coreOf k), (s.core c).queue = []) → ∃ u, exec (.searchRetry k) s = .next u
        ∧ u = { s with perf := u.perf })

/-- R70 to R72, R81 to R83: how tasks enter queues and strands take them. -/
def Obligations.TasksMove : Prop := TaskArrivals ∧ IdleStrandsTakeTasks

/-! ## Barriers, CSRs, traps -/

/-- R168, R270: an ARRIVE counts its group in the first of the phases p and p + 1 that is not full, writes that phase to xd, and for
barrier 0 records q + 1 as the arrive epoch of the scope. A relock holds one whose barrier lies outside the deck (R415). -/
def Sys2Proof.Claim.ArriveCounts : Prop :=
  ∀ (s : State) (d : XReg) (scope : BitVec 3) (id : BitVec 10), Ok (.arrive d scope id) s →
    let ctx := ctxOf (coreOf s.fs)
    let key := barOf s scope id
    let b := s.bar ctx key
    let v : Word := .ofNat 64 (scope.toNat * 256 + id.toNat)
    (b.n = 0 → Traps (.arrive d scope id) s Cause.barConfig v)
    ∧ (b.n ≠ 0 → barHeld s s.fs scope.toNat ≠ [] → Holds (.arrive d scope id) s false (barHeld s s.fs scope.toNat))
    ∧ (∀ l st, s.groupOf s.fs = some (l, st) → b.n ≠ 0 → barHeld s s.fs scope.toNat = [] →
        let g := stageKey l st
        let does (q : Half) (b1 : Barrier) : Prop := ∃ t, exec (.arrive d scope id) s = .next t ∧ t.bar ctx key = b1
          ∧ (∀ r, t.readX r = if r = d ∧ r ≠ 0 then q.setWidth 64 else s.readX r) ∧ t.pc = s.pc + 4
          ∧ (id ≠ 0 → t.cur.epochs = s.cur.epochs)
          ∧ (id = 0 → t.cur.epoch scope.toNat = (q + 1, (s.cur.epoch scope.toNat).2))
          ∧ { t.cur with pc := s.cur.pc, x := s.cur.x, epochs := s.cur.epochs } = s.cur
          ∧ t = { s with strands := t.strands, ctxs := t.ctxs } ∧ ∀ k, k ≠ s.fs → t.strand k = s.strand k
        (b.cur.length < b.n.toNat → does b.p { b with cur := b.cur ++ [g] })
        ∧ (b.n.toNat ≤ b.cur.length → b.nxt.length < b.n.toNat → does (b.p + 1) { b with nxt := b.nxt ++ [g] })
        ∧ (b.n.toNat ≤ b.cur.length → b.n.toNat ≤ b.nxt.length →
            Traps (.arrive d scope id) s Cause.barOverrun v))

/-- R169, R270, R415: WAITB ends at once where phase w has completed, and otherwise waits, changing nothing else; a relock of the
strand's deck holds an end that comes from outside it. For barrier 0 the wait epoch of the scope becomes w + 1, unless it is later
already. -/
def Sys2Proof.Claim.WaitbCompletes : Prop :=
  ∀ (s : State) (a : XReg) (scope : BitVec 3) (id : BitVec 10), Ok (.waitb a scope id) s →
    let key := barOf s scope id
    let w : Half := (s.readX a).setWidth 16
    let ahead := ((s.bar (ctxOf (coreOf s.fs)) key).p - w).toNat
    let ds := barHeld s s.fs scope.toNat
    (1 ≤ ahead → ahead ≤ 32767 → ds = [] → ∃ t, exec (.waitb a scope id) s = .next t ∧ OnlyStrand s t ∧ t.pc = s.pc + 4 ∧ t.cur.wait = .none
      ∧ { t.cur with pc := s.cur.pc, wait := s.cur.wait, epochs := s.cur.epochs } = s.cur
      ∧ (id ≠ 0 → t.cur.epochs = s.cur.epochs)
      ∧ (id = 0 → s.phys (coreOf s.fs) < 2048 → t.cur.epoch scope.toNat =
          ((s.cur.epoch scope.toNat).1, let c := (s.cur.epoch scope.toNat).2
            let early := (c - (w + 1)).toNat
            if 1 ≤ early ∧ early ≤ 32767 then c else w + 1)))
    ∧ (1 ≤ ahead → ahead ≤ 32767 → ds ≠ [] →
        exec (.waitb a scope id) s = .next ((noteHeld s s.fs ds).setCur { s.cur with wait := .waitb key w }))
    ∧ (ahead = 0 ∨ 32767 < ahead → exec (.waitb a scope id) s = .next (s.setCur { s.cur with wait := .waitb key w }))

/-- R170: BARCFG sets the participant count of a barrier without arrivals, and otherwise raises BAR_CONFIG; a relock holds one whose
barrier lies outside the deck (R415). -/
def Sys2Proof.Claim.BarcfgCompletes : Prop :=
  ∀ (s : State) (b : XReg) (scope : BitVec 3) (id : BitVec 10), Ok (.barcfg b scope id) s →
    let ctx := ctxOf (coreOf s.fs)
    let key := barOf s scope id
    let x := s.bar ctx key
    (barHeld s s.fs scope.toNat ≠ [] → Holds (.barcfg b scope id) s false (barHeld s s.fs scope.toNat))
    ∧ (barHeld s s.fs scope.toNat = [] →
    (x.cur = [] → x.nxt = [] → (∃ c, s.ctx ctx = some c) → ∃ t, exec (.barcfg b scope id) s = .next t
      ∧ t.bar ctx key = { x with n := (s.readX b).setWidth 16 } ∧ t.cur = { s.cur with pc := s.pc + 4 }
      ∧ t = { s with strands := t.strands, ctxs := t.ctxs } ∧ (∀ k, k ≠ s.fs → t.strand k = s.strand k)
      ∧ (∀ c j, (c, j) ≠ (ctx, key) → t.bar c j = s.bar c j))
    ∧ (x.cur ≠ [] ∨ x.nxt ≠ [] → ∃ v, Traps (.barcfg b scope id) s Cause.barConfig v))

/-- R168, R170, R270: ARRIVE and BARCFG. -/
def Obligations.BarriersCount : Prop := ArriveCounts ∧ BarcfgCompletes

/-- R166, R415: a full phase completes: p moves on, the counts move up, and exactly the strands of the context that wait on a phase of
this barrier that is now past theirs go on; of a barrier of tower or package scope not those whose deck relocks, which go on later. -/
def Sys2Proof.Claim.PhasesComplete : Prop :=
  ∀ (s : State) (ctx key : Nat),
    let b := s.bar ctx key
    let full := b.n ≠ 0 ∧ b.n.toNat ≤ b.cur.length
    let p := if full then b.p + 1 else b.p
    let deck (k : Nat) := deckOf (s.phys (coreOf k))
    ∃ t, exec (.barrierPhaseComplete ctx key) s = .next t
      ∧ t.bar ctx key = (if full then { b with p := p, cur := b.nxt, nxt := [] } else b)
      ∧ (∀ k w, (s.strand k).wait = .waitb key w → ctxOf (coreOf k) = ctx → 1 ≤ (p - w).toNat → (p - w).toNat ≤ 32767 →
          (barScope key < 4 ∨ ((s.deck (deck k)).relock = false ∧ ∀ e ∈ s.crossing, deck k ∉ e.2) →
            (t.strand k).wait = .none ∧ (t.strand k).pc = (s.strand k).pc + 4 ∧ (t.strand k).x = (s.strand k).x)
          ∧ (4 ≤ barScope key → (s.deck (deck k)).relock = true → t.strand k = s.strand k))
      ∧ (∀ k, (∀ w, (s.strand k).wait = .waitb key w → ctxOf (coreOf k) = ctx →
            (p - w).toNat = 0 ∨ 32767 < (p - w).toNat) → t.strand k = s.strand k)
      ∧ t = { s with strands := t.strands, ctxs := t.ctxs, crossing := t.crossing }

/-- R166, R169: WAITB, and the completion of phases. -/
def Obligations.BarriersRelease : Prop := WaitbCompletes ∧ PhasesComplete

/-- The bits of an RW CSR that a write reaches (R113 and the rules it refers to). -/
def Sys2Proof.Claim.csrBits (n : Nat) : Word :=
  if n = 0x001 then 0xFFFFFFFF00000F1F
  else if n = 0x002 ∨ n = 0x003 ∨ n = 0x074 ∨ n = 0x075 then 0xFFFF
  else if 0x010 ≤ n ∧ n ≤ 0x017 then 0xFFFFFFFF00FFFFFF
  else if 0x018 ≤ n ∧ n ≤ 0x01F then 0xCFFFF
  else if n = 0x020 then 3
  else if n = 0x040 then 0xFF
  else if n = 0x041 ∨ n = 0x043 then 0xFFFFFFFFFFFFFFFC
  else if n = 0x042 ∨ n = 0x070 ∨ n = 0x071 then 0xFFFFFFFFFFFFFFFF
  else if n = 0x072 then 0x1FFFFFFFF
  else if n = 0x078 then 0x3F
  else 0

/-- R113, R172, R173: a CSR instruction writes the old value to xd. CSRW puts xa, CSRS the old value or xa, CSRC the old value and
not xa into the writable bits of its CSR, RO bits and RO CSRs keep their value, and no other CSR changes. -/
def Obligations.CsrAccess : Prop :=
  ∀ (s : State) (d a : XReg) (csr : BitVec 12),
    let n := csr.toNat
    let old := readCsr s n
    let does (i : Instr) (v : Word) : Prop := Ok i s → ∃ t, exec i s = .next t
      ∧ (∀ r, t.readX r = if r = d ∧ r ≠ 0 then old else s.readX r) ∧ t.pc = s.pc + 4
      ∧ readCsr t n = (v &&& csrBits n) ||| (old &&& (if csrBits n = 0 then 0xFFFFFFFFFFFFFFFF else if n = 0x040 then 0x8000000000000000 else 0))
      ∧ (∀ j, j ≠ n → readCsr t j = readCsr s j) ∧ t.mem = s.mem ∧ (∀ k, k ≠ s.fs → t.strand k = s.strand k)
      ∧ t = { s with strands := t.strands, cores := t.cores, covResets := t.covResets }
    (Ok (.csrr d csr) s → Writes (.csrr d csr) s d old 4)
    ∧ does (.csrw d a csr) (s.readX a) ∧ does (.csrs d a csr) (old ||| s.readX a) ∧ does (.csrc d a csr) (old &&& ~~~(s.readX a))

/-- R174, R388, R390: a cause at a strand with a handler, outside it, saves cause, value and pc, makes the handler active and goes to
TVEC, and changes nothing else; so do TRAP and BRK with their number, PSEND and PRECV with NOT_TRANSLATED and the instruction's
bits (R175), a word that is no instruction with the decoder's cause, a failed fetch with the address of its word (R389). ERET
clears ACTIVE and goes to TPC. -/
def Sys2Proof.Claim.TrapEntryAndReturn : Prop :=
  ∀ (s : State) (n : BitVec 16) (a b : XReg) (c : Byte) (v : Word),
    let entry (i : Instr) (c : Byte) (v : Word) : Prop := ∃ t, exec i s = .next t ∧ OnlyStrand s t
      ∧ t.cur = { s.cur with tActive := true, tCode := c, tpc := s.pc, tval := v, pc := s.cur.tvec, wait := .none }
    (s.cur.tActive = false → s.cur.tvec ≠ 0 →
      entry (.trap n) Cause.trapInstr (.ofNat 64 n.toNat) ∧ entry (.brk n) Cause.breakpoint (.ofNat 64 n.toNat)
      ∧ entry (.psend a b) Cause.notTranslated (bits (.psend a b)) ∧ entry (.precv a b) Cause.notTranslated (bits (.precv a b))
      ∧ entry (.unassignedEncoding c v) c v ∧ entry (.fetchFault c v) c v)
    ∧ (∃ t, exec .eret s = .next t ∧ OnlyStrand s t ∧ t.cur = { s.cur with tActive := false, pc := s.cur.tpc, exempt := true })

/-- R388, R391: a trap without a handler, and one inside a handler (as DOUBLE_TRAP), is a group fault: the first of its launch is
recorded with its cause and ends every stage; a later one, and one after the packet has completed, changes nothing. -/
def Sys2Proof.Claim.TrapsWithoutHandlerEndTheLaunch : Prop :=
  ∀ (s : State) (l st : Nat) (la : Launch) (n : BitVec 16), s.groupOf s.fs = some (l, st) → s.launch l = some la →
    let ends (c : Byte) : Prop := ∃ t la1, exec (.trap n) s = .next t ∧ t.launch l = some la1 ∧ la1.fault = some c
      ∧ (∀ j, j < la.stages.length → j < la.sts.length → la1.sts[j]? = some .ended)
      ∧ (∀ a ∈ t.asyncs, a.kind ≠ .launch l) ∧ (∀ k ∈ t.links, k.launch ≠ l)
    (la.fault = none → la.ended = false → s.cur.tActive = true → ends Cause.doubleTrap)
    ∧ (la.fault = none → la.ended = false → s.cur.tActive = false → s.cur.tvec = 0 → ends Cause.trapInstr)
    ∧ (la.fault ≠ none ∨ la.ended = true → (s.cur.tActive = true ∨ s.cur.tvec = 0) → exec (.trap n) s = .next s)

/-- R174, R175, R388 to R391: traps with a handler, without one and inside one, and ERET. -/
def Obligations.TrapEffects : Prop := TrapEntryAndReturn ∧ TrapsWithoutHandlerEndTheLaunch

/-! ## The matrix engine -/

/-- The strand issued a matrix operation and waits: the operation is pending, last of its core, with the core's descriptions and
the strand's FPC captured, with the rows of memory it moves, their addresses and the decks on the way, or the shape it fills. -/
def Sys2Proof.Claim.MatrixIssued (i : Instr) (s : State) (array : Bool) (xa : Word) (rows : List (List Nat)) (span : List (Nat × Nat))
    (decks : List Nat) (shape : Option Shape) : Prop :=
  ∃ t o, exec i s = .next t ∧ t.curCore = { s.curCore with mx := s.curCore.mx ++ [o] } ∧ o.instr = i ∧ o.array = array
    ∧ o.slot = slotOf s.fs ∧ o.tcfg = s.curCore.tcfg ∧ o.fmts = s.curCore.fmt ∧ o.mcfg = s.curCore.mcfg ∧ o.fpc = s.cur.fpc
    ∧ o.key = s.curCore.smpkey ∧ o.pos = s.curCore.smppos ∧ o.temp = s.curCore.smptemp ∧ o.running = false ∧ o.xa = xa
    ∧ o.rows = rows ∧ o.span = span ∧ o.decks = decks ∧ o.shape = shape ∧ o.crossing = false ∧ o.freed = false
    ∧ t.cur = { s.cur with wait := .mx } ∧ t.mem = s.mem ∧ ∀ k, k ≠ s.fs → t.strand k = s.strand k

/-- R237, R240 to R248: every matrix instruction whose checks pass becomes a pending operation, and its strand waits; a copy
footprint holds a transfer at its issue (R275). A transfer moves one row of its tile after another, row q at the sectors from
xa + off + q × STRIDE on; a drain to a shape takes the record that the register H names. -/
def Sys2Proof.Claim.MatrixInstructionsIssue : Prop :=
  ∀ (s s1 : State) (ps : List Piece) (t : BitVec 3) (a : XReg) (off : BitVec 11) (acc : BitVec 2) (sr : BitVec 3) (int : Bool) (f : M64)
    (r0 : BitVec 5) (n : BitVec 4) (d : Spec),
    let cfg := Vector.nth (n := 7) s.curCore.tcfg t.toNat
    let ea := s.readX a + low off.toInt
    let rows := (rowSectors cfg ea).flatten
    let cut := cutEvery ((tcfgRowBytes cfg + 31) / 32) (tcfgRows cfg) (ps.map (fun p => p.hit.loc))
    let decks := piecesDecks s (coreOf s.fs) ps
    let shape := if tierOf d = .shape then
      some (readShape s (coreOf s.fs) (Vector.nth (n := 15) s.curCore.h (d.toNat % 16)).toNat).1 else none
    (tcfgValid cfg = true → uv ea % 32 = 0 → tcfgStride cfg % 32 = 0 →
      (Ok (.tld t a off) s → accessIssue s s.fs (.load false) rows rows = .ok s1 ps →
        MatrixIssued (.tld t a off) s false 0 cut rows decks none)
      ∧ (Ok (.tst t a off) s → accessIssue s s.fs (.put false) rows rows = .ok s1 ps →
        MatrixIssued (.tst t a off) s false 0 cut rows decks none)
      ∧ (∀ q, q < tcfgRows cfg → (rowSectors cfg ea).getD q [] =
          sectorsOf (uv (ea + .ofNat 64 q * .ofInt 64 (tcfgStride cfg))) (tcfgRowBytes cfg) 5)
      ∧ (Ok (.tld t a off) s → ∀ ds, accessIssue s s.fs (.load false) rows rows = .wait ds → Holds (.tld t a off) s true ds)
      ∧ (Ok (.tst t a off) s → ∀ ds, accessIssue s s.fs (.put false) rows rows = .wait ds → Holds (.tst t a off) s true ds))
    ∧ (Ok (.tzero t) s → MatrixIssued (.tzero t) s false 0 [] [] [] none)
    ∧ (Ok (.azero acc sr int) s → MatrixIssued (.azero acc sr int) s true 0 [] [] [] none)
    ∧ (Ok (.mma f) s → mmaFault s f = none → MatrixIssued (.mma f) s true 0 [] [] [] none)
    ∧ (Ok (.mdrain acc r0 n d) s → drainFault s .plain acc (n.toNat + 1) d 0 = none →
        MatrixIssued (.mdrain acc r0 n d) s true 0 [] [] [] shape)
    ∧ (Ok (.mdrainG acc r0 n d a) s → drainFault s .noise acc (n.toNat + 1) d (s.readX a) = none →
        MatrixIssued (.mdrainG acc r0 n d a) s true (s.readX a) [] [] [] shape)
    ∧ (Ok (.mdrains acc r0 n d a) s → drainFault s .scaled acc (n.toNat + 1) d (s.readX a) = none →
        MatrixIssued (.mdrains acc r0 n d a) s true (s.readX a) [] [] [] shape)

/-- R236, R238, R240, R245 to R248: the traps of the matrix instructions: an invalid description, a misaligned address or stride, a
fault of the transfer, and the first fault of an MMA or of each kind of drain; an accumulator without a tag is one, and for
MDRAIN.g and MDRAINS an integer one, a scale block that is misaligned or reaches past the scratchpad, and, for all, an array turned
over to other strands by the slot table. -/
def Sys2Proof.Claim.MatrixTraps : Prop :=
  ∀ (s : State) (t : BitVec 3) (a : XReg) (off : BitVec 11) (acc : BitVec 2) (f : M64) (r0 : BitVec 5) (n : BitVec 4) (d : Spec),
    let cfg := Vector.nth (n := 7) s.curCore.tcfg t.toNat
    let ea := s.readX a + low off.toInt
    let tag := (Vector.nth (n := 3) s.curCore.accs acc.toNat).tag
    (∀ i ∈ [Instr.tld t a off, .tst t a off], Ok i s →
      (tcfgValid cfg = false → Traps i s Cause.tileConfig (t.setWidth 64))
      ∧ (tcfgValid cfg = true → (uv ea % 32 ≠ 0 ∨ tcfgStride cfg % 32 ≠ 0) → Traps i s Cause.misaligned ea))
    ∧ (∀ c v, Ok (.tld t a off) s → tcfgValid cfg = true → uv ea % 32 = 0 → tcfgStride cfg % 32 = 0 →
        accessIssue s s.fs (.load false) (rowSectors cfg ea).flatten (rowSectors cfg ea).flatten = .fault c v → Traps (.tld t a off) s c v)
    ∧ (∀ c v, Ok (.tst t a off) s → tcfgValid cfg = true → uv ea % 32 = 0 → tcfgStride cfg % 32 = 0 →
        accessIssue s s.fs (.put false) (rowSectors cfg ea).flatten (rowSectors cfg ea).flatten = .fault c v → Traps (.tst t a off) s c v)
    ∧ (∀ c v, Ok (.mma f) s → mmaFault s f = some (c, v) → Traps (.mma f) s c v)
    ∧ (∀ c v, Ok (.mdrain acc r0 n d) s → drainFault s .plain acc (n.toNat + 1) d 0 = some (c, v) → Traps (.mdrain acc r0 n d) s c v)
    ∧ (∀ c v, Ok (.mdrainG acc r0 n d a) s → drainFault s .noise acc (n.toNat + 1) d (s.readX a) = some (c, v) →
        Traps (.mdrainG acc r0 n d a) s c v)
    ∧ (∀ c v, Ok (.mdrains acc r0 n d a) s → drainFault s .scaled acc (n.toNat + 1) d (s.readX a) = some (c, v) →
        Traps (.mdrains acc r0 n d a) s c v)
    ∧ (Ok (.mdrain acc r0 n 0xA0) s → tag = none → Traps (.mdrain acc r0 n 0xA0) s Cause.tileConfig (.ofNat 64 (8 + acc.toNat)))
    ∧ (Ok (.mdrains acc r0 n 0xA0 a) s → (∀ sr, tag ≠ some (true, sr)) →
        Traps (.mdrains acc r0 n 0xA0 a) s Cause.tileConfig (.ofNat 64 (8 + acc.toNat)))
    ∧ (Ok (.mdrainG acc r0 n 0xA0 a) s → invTemp s.curCore.smptemp ≠ .invalid → (∀ sr, tag ≠ some (true, sr)) →
        Traps (.mdrainG acc r0 n 0xA0 a) s Cause.tileConfig (.ofNat 64 (8 + acc.toNat)))
    ∧ (∀ sr, Ok (.mdrains acc r0 n d a) s → tag = some (true, sr) → tierOf d = .qreg → d.toNat - 0x88 + 2 * (n.toNat + 1) ≤ 8 →
        (uv (s.readX a) % 32 ≠ 0 → Traps (.mdrains acc r0 n d a) s Cause.misaligned (s.readX a))
        ∧ (uv (s.readX a) % 32 = 0 → 0x1FF800 - 64 * s.curCore.chanSlots < uv (s.readX a) + 128 →
            Traps (.mdrains acc r0 n d a) s Cause.bounds (s.readX a)))
    ∧ (∀ tag', Ok (.mdrain acc r0 n d) s → tag = some tag' → tierOf d = .qreg → d.toNat - 0x88 + 2 * (n.toNat + 1) ≤ 8 →
        s.curCore.mcfg.getLsbD 0 = true → (∀ j : Fin 32, s.curCore.slots[j] ≠ .ofNat 4 (slotOf s.fs)) →
        Traps (.mdrain acc r0 n d) s Cause.modeConflict (.ofNat 64 (slotOf s.fs)))

/-- R250: MSLOT writes 16 entries of the slot table from the sixteen 4-bit fields of xa, and no other. -/
def Sys2Proof.Claim.SlotTableWritten : Prop :=
  ∀ (s : State) (half : Bool) (a : XReg), Ok (.mslot half a) s →
    ∃ t, exec (.mslot half a) s = .next t ∧ t.cur = { s.cur with pc := s.pc + 4 }
      ∧ (∀ j : Fin 32, t.curCore.slots[j] =
          if half = decide (16 ≤ j.val) then .ofNat 4 (uv (s.readX a) / 16 ^ (j.val % 16)) else s.curCore.slots[j])
      ∧ t.curCore = { s.curCore with slots := t.curCore.slots } ∧ t.mem = s.mem ∧ ∀ k, k ≠ s.fs → t.strand k = s.strand k

/-- R236 to R250: the matrix instructions at their issue. -/
def Obligations.MatrixInstructions : Prop := MatrixInstructionsIssue ∧ MatrixTraps ∧ SlotTableWritten

/-- R246 to R248: what a drain that starts leaves at its destination, half row by half row: at registers, in the Q registers or as
sends of the strand's region, with memory as it was; or in the elements of a shape, row i in elements 32i to 32i + 31, with every byte
of no element, and every strand, as it was (of elements that share bytes the last one stands). The elements are those that its kind
makes of the accumulator's, MDRAIN's the accumulator's own. -/
def Sys2Proof.Claim.Drained (s t : State) (core : Nat) (o : MxOp) (kind : DrainKind) (acc : BitVec 2) (r0 n : Nat) (d : Spec) : Prop :=
  let k := core * 16 + o.slot
  let a := Vector.nth (n := 3) (s.core core).accs acc.toNat
  let old (i j : Nat) : Nat := (Vector.nth (n := 31) a.rows (r0 + i)).toNat / 2 ^ (32 * j) % 2 ^ 32
  let new (i j : Nat) : Nat := if kind = .plain then old i j else (drainElem s core o kind (r0 + i) j (old i j)).bits
  let half (i h : Nat) : V512 := .ofNat 512 (packElems 32 ((List.range 16).map (fun j => new i (16 * h + j))))
  (∀ h, o.shape = some h →
    let at_ (e : Nat) : Nat := padLoc core (h.addr 32 e).toNat
    (∀ i j, i < n → j < 32 → 32 * i + j < h.count → (∀ e, 32 * i + j < e → e < 32 * n → at_ e + 4 ≤ at_ (32 * i + j) ∨ at_ (32 * i + j) + 4 ≤ at_ e) →
        Memory.readN t.mem (at_ (32 * i + j)) 4 = new i j % 2 ^ 32)
    ∧ (∀ b, (∀ e, e < 32 * n → b < at_ e ∨ at_ e + 4 ≤ b) → Memory.read t.mem b = Memory.read s.mem b)
    ∧ t.strands = s.strands)
  ∧ (o.shape = none → t.mem = s.mem
  ∧ (tierOf d = .vreg → 0 ≤ regIndex (s.strand k).vx d → ∀ i h, i < n → h < 2 →
      Tbl.get (t.core core).vf (physReg s k (regIndex (s.strand k).vx d + (2 * i + h : Nat)).toNat) 0 = half i h)
  ∧ (tierOf d = .qreg → d.toNat - 0x88 + 2 * n ≤ 8 → ∀ i h, i < n → h < 2 →
      Vector.nth (n := 7) (t.strand k).q (d.toNat - 0x88 + (2 * i + h)) = half i h)
  ∧ (tierOf d = .chan → (t.strand k).staged = (s.strand k).staged ++
      (List.range n).flatMap (fun i => [.send (d.toNat % 16) (half i 0), .send (d.toNat % 16) (half i 1)])))

/-- R237 to R248: a free tile unit starts the first eligible operation and its effect is performed: TZERO clears its tile, TLD
fills the rows of its tile from memory and zeroes the rest, TST writes the rows of its tile to memory; a free array starts AZERO,
which fills its accumulator with the identity of its semiring and sets its tag, MMA, which makes its accumulator the one that
IntegerMmaIsAProduct speaks of, tagged with its type and semiring, and a drain, which fills its destination. An operation with a row
held at a boundary, or that a copy's footprint holds, starts without its effect (R239, R275, R415). -/
def Obligations.MatrixOperationsStart : Prop :=
  ∀ (s : State) (core : Nat) (o : MxOp) (array : Bool), unitFree (s.core core) array = true → mxPick s core array = some o →
    let ds := heldAt s (core * 16 + o.slot) o.decks
    let held := ds ≠ [] ∨ mxBlocked s core o = true
    (held → ∃ t, exec (.matrixOpStart core array) s = .next t ∧ t.mem = s.mem ∧ t.strands = s.strands
      ∧ (t.core core).tiles = (s.core core).tiles ∧ (t.core core).accs = (s.core core).accs
      ∧ (t.core core).mx = (s.core core).mx.filter (fun p => p.slot ≠ o.slot) ++ [{ o with running := true, crossing := true, flags := 0 }])
    ∧ (¬ held → ∃ t, exec (.matrixOpStart core array) s = .next t
      ∧ (∀ i, o.instr = .tzero i → ∀ r : Fin 8, (t.core core).tiles[r] =
          if r.val = i.toNat then Vector.replicate 32 0 else (s.core core).tiles[r])
      ∧ (∀ i a off, o.instr = .tld i a off → ∀ r : Fin 8, (t.core core).tiles[r] =
          if r.val = i.toNat then Vector.ofFn (fun (q : Fin 32) =>
            .ofNat 1024 (readRow s.mem (tcfgRowBytes (Vector.nth (n := 7) o.tcfg i.toNat)) (o.rows.getD q.val [])))
          else (s.core core).tiles[r])
      ∧ (∀ i a off, o.instr = .tst i a off → t.mem = (writeRows s (tcfgRowBytes (Vector.nth (n := 7) o.tcfg i.toNat)) o.rows
            (Vector.nth (n := 7) (s.core core).tiles i.toNat).toList).mem ∧ (t.core core).tiles = (s.core core).tiles)
      ∧ (∀ n sr int, o.instr = .azero n sr int → ∀ r : Fin 4, r.val = n.toNat →
          ((t.core core).accs[r]).tag = some (!int, sr.toNat)
          ∧ ∀ q : Fin 32, ∀ j, j < 32 → (((t.core core).accs[r]).rows[q]).toNat / 2 ^ (32 * j) % 2 ^ 32 =
              (if sr = 0 ∨ sr = 4 then 0 else if int then (if sr = 1 then 0x7FFFFFFF else if sr = 2 ∨ sr = 3 then 0x80000000 else 0)
               else if sr = 1 then 0x7F800000 else if sr = 2 ∨ sr = 3 then 0xFF800000 else 0))
      ∧ (∀ f, o.instr = .mma f →
          ((t.core core).accs[f.acc.toNat]'(by have := f.acc.isLt; simpa using this)) = (mmaRun (s.core core) o f).1
          ∧ (mmaRun (s.core core) o f).1.tag = some (!(mmaIsInt f), f.semiring.toNat)
          ∧ (∀ r : Fin 4, r.val ≠ f.acc.toNat → (t.core core).accs[r] = (s.core core).accs[r]) ∧ (t.core core).tiles = (s.core core).tiles)
      ∧ (∀ acc r0 n d, o.instr = .mdrain acc r0 n d → Drained s t core o .plain acc r0.toNat (n.toNat + 1) d)
      ∧ (∀ acc r0 n d a, o.instr = .mdrainG acc r0 n d a → Drained s t core o .noise acc r0.toNat (n.toNat + 1) d)
      ∧ (∀ acc r0 n d a, o.instr = .mdrains acc r0 n d a → Drained s t core o .scaled acc r0.toNat (n.toNat + 1) d)
      ∧ (∃ fl, (t.core core).mx = (s.core core).mx.filter (fun p => p.slot ≠ o.slot) ++ [{ o with running := true, crossing := false, flags := fl }]
          ∧ (∀ f, o.instr = .mma f → fl = (mmaRun (s.core core) o f).2)
          ∧ (∀ acc r0 n d, o.instr = .mdrain acc r0 n d → fl = 0)))

/-- R239, R246, R415: among whatever operations the engine holds, one of them a strand's, that one completes when it runs: an MMA
once it has freed the array and when no MMA that started before it runs on, so that MMAs complete in order; one with a row or a
reply held at a boundary once none is; and one that began held, with its effect then, once no copy's footprint holds it either. It
leaves the engine, its strand goes on past the instruction, and its flags are ORed into FPC. ARRAY_FREE marks the running MMAs. -/
def Obligations.MatrixOperationsComplete : Prop :=
  ∀ (s : State) (core slot : Nat) (o : MxOp) (pre post : List MxOp), slot < 16 →
    (s.core core).mx = pre ++ o :: post → o.slot = slot → (∀ p ∈ pre ++ post, p.slot ≠ slot) →
      let k := core * 16 + slot
      let first := ∀ p ∈ pre, p.running = true → isMma p.instr = false
      let done := ∀ f, o.instr = .mma f → o.freed = true ∧ first
      let ds := heldAt s k o.decks
      let blocked := o.crossing = true ∧ mxBlocked s core o = true
      let out (s0 : State) (fl : Byte) (t : State) : Prop := exec (.matrixOpComplete core slot) s = .next t
        ∧ (t.core core).mx = pre ++ post ∧ (t.strand k).wait = .none
        ∧ (t.strand k).pc = (s.strand k).pc + (if isMma o.instr then 8 else 4)
        ∧ (t.strand k).fpc = (s.strand k).fpc ||| fl.setWidth 64
        ∧ t.mem = s0.mem ∧ (t.core core).tiles = (s0.core core).tiles ∧ (t.core core).accs = (s0.core core).accs
        ∧ ∀ j, j ≠ k → t.strand j = s.strand j
      (o.running = false ∨ ¬ done ∨ blocked → exec (.matrixOpComplete core slot) s = .next s)
      ∧ (o.running = true → done → ¬ blocked → ds ≠ [] → exec (.matrixOpComplete core slot) s = .next (noteHeld s k ds))
      ∧ (o.running = true → done → ds = [] → o.crossing = false → ∃ t, out s o.flags t)
      ∧ (o.running = true → done → ds = [] → o.crossing = true → mxBlocked s core o = false →
          ∃ t, out (mxEffect s core o).1 (mxEffect s core o).2 t)
      ∧ exec (.arrayFree core) s = .next (s.setCore core { s.core core with
          mx := (s.core core).mx.map (fun p => if p.running = true ∧ isMma p.instr = true then { p with freed := true } else p) })

/-- R194, R244, R245 for integers under plus-times: element (i, j) of the accumulator becomes, mod 2^32, its old value (0 with ow) plus
the products of the k elements of row i of tile A and row j of tile B from their offsets on; rows past either tile keep that start. -/
def Obligations.IntegerMmaIsAProduct : Prop :=
  ∀ (c : Core) (o : MxOp) (f : M64) (i j : Fin 32), mmaIsInt f = true → f.semiring = 0 →
    let ca := Vector.nth (n := 7) o.tcfg f.tileA.toNat
    let cb := Vector.nth (n := 7) o.tcfg f.tileB.toNat
    let row (t : BitVec 3) (r : Nat) : Nat := (Vector.nth (n := 31) (Vector.nth (n := 7) c.tiles t.toNat) r).toNat
    let at_ (w : Nat) (sgn : Bool) (v q : Nat) : Int := intElem w sgn (elemOf w v q)
    let old : Int := if f.ow then 0 else ((Vector.nth (n := 31) (Vector.nth (n := 3) c.accs f.acc.toNat).rows i.val).toNat / 2 ^ (32 * j.val) % 2 ^ 32 : Nat)
    let sum : Int := ((List.range (f.ksteps.toNat + 1)).map (fun q =>
      at_ (tcfgW ca) f.sgnA (row f.tileA i.val) (tcfgKoff ca + q) * at_ (tcfgW cb) f.sgnB (row f.tileB j.val) (tcfgKoff cb + q))).sum
    let new : Int := if tcfgRows ca ≤ i.val ∨ tcfgRows cb ≤ j.val then old else old + sum
    (((mmaRun c o f).1.rows[i]).toNat / 2 ^ (32 * j.val) % 2 ^ 32 : Nat) = new % 2 ^ 32
    ∧ (mmaRun c o f).2 = 0

/-! ## Vectors -/

/-- The instructions of n0 to n4 and n7 but VEXTR, and their literal and immediate forms. -/
def Sys2Proof.Claim.isLanes (op : VOp) : Bool :=
  match op with
  | .vextr | .vld | .vst | .vlds | .vsts | .vgather | .vscatter | .mop | .mpop | .mfirst | .mset => false
  | _ => true

/-- The pipe has taken a beat of the strand in focus: its rotation pointer stands at the strand's slot, and the beat is counted (R68,
R408). -/
def Sys2Proof.Claim.Took (s u : State) : Prop :=
  u = { s with cores := Tbl.put s.cores (coreOf s.fs) { s.curCore with rotPipe := slotOf s.fs }, perf := u.perf }

/-- An instruction of the pipe completes with v in xd. -/
def Sys2Proof.Claim.PipeWrites (i : Instr) (s : State) (d : XReg) (v : Word) (n : Nat) : Prop :=
  ∃ u t, Took s u ∧ exec i s = .next t ∧ Wrote (u.setCur { u.cur with wait := .none }) d v n t

/-- An instruction of the pipe has issued: SRSTATE is past its draws (R189). -/
def Sys2Proof.Claim.srIssued (s : State) (v : VIns) (r : VecRun) : State :=
  if v.f.rnd = 3 then s.setCur { s.cur with fpc := srAdvance s.cur.fpc (v.draws r) } else s

/-- The pipe takes the beat of no other strand before that of the strand in focus (R68). -/
def Sys2Proof.Claim.pipeFree (s : State) : Prop := pipeAhead s (coreOf s.fs) (slotOf s.fs) = false

/-- The first failing check of a lane instruction: its own checks, then poison in what its shaped sources read (R265). -/
def Sys2Proof.Claim.laneFaults (s : State) (i : Instr) (v : VIns) : Option (Byte × Word) :=
  (vissueFaults s v (vrun s i v).beats).or (padPoison s (coreOf s.fs) ((vrun s i v).reads v))

/-- What an unshaped beat without channels computes, from the registers of a strand. -/
def Sys2Proof.Claim.laneVal (s : State) (k : Nat) (r : VecRun) (v : VIns) : BeatVal :=
  let n := v.lanes r.fmtA r.fmtB
  let b := match v.form with | .vi imm => immValue v.etype (v.ws r.fmtA) v.f.sgnB imm | _ => srcValue s k v r n 2 v.f.b
  beatVal { v := v, run := r, t := 0, n := n, act := fun i => maskLane ((s.strand k).mask v.f.mask.toNat) n i && decide (i < 512)
            a := srcValue s k v r n 1 v.f.a, b := b, c := srcValue s k v r n 3 v.f.c, cm := (s.strand k).mask (v.f.c.toNat - 0xB0)
            d := (regRead s k v.f.d).toNat, x := (s.strand k).readX (.ofNat 4 (if v.op = .vargmax then v.f.c.toNat else v.f.a.toNat)) }

/-- R199, R208, R213 for every vector instruction of n0 to n4 and n7, with its literal and immediate forms, whose checks pass:
without shapes and channels it writes its result where the lanes are active, pushes it into the last-result file (VCMP does not),
ORs its flags and goes on, nothing else changed but the pipe's rotation pointer; with a shape or a channel its strand waits and it
runs beat by beat; and so does one that finds another strand's beat before its own (R68). -/
def Obligations.VectorInstructionsComplete : Prop :=
  ∀ (s : State) (i : Instr) (v : VIns), vinsOf i = some v → isLanes v.op = true → Ok i s →
    let r := vrun s i v
    let core := coreOf s.fs
    let d := v.f.d
    let fpc := if v.f.rnd = 3 then srAdvance s.cur.fpc (v.draws r) else s.cur.fpc
    laneFaults s i v = none →
      (v.endpoints ≠ [] ∨ v.shapedOps s.curCore ≠ [] → ∃ soft perf,
          exec i s = .next { s.setCur { s.cur with fpc := fpc, wait := .vec r } with soft := soft, perf := perf }
          ∧ (s.soft = [] → soft = [] ∧ perf = s.perf))
      ∧ (v.endpoints = [] → v.shapedOps s.curCore = [] → ¬ pipeFree (srIssued s v r) →
          exec i s = .next (s.setCur { s.cur with fpc := fpc, wait := .vec r }))
      ∧ (v.endpoints = [] → v.shapedOps s.curCore = [] → pipeFree (srIssued s v r) →
          let o := laneVal s s.fs r v
          let image : V512 := .ofNat 512 (imageOf o (if tierOf d = .vreg ∨ tierOf d = .qreg then (regRead s s.fs d).toNat else 0))
          ∃ t, exec i s = .next t
            ∧ t.pc = s.pc + .ofNat 64 v.len ∧ t.cur.wait = .none ∧ t.cur.x = s.cur.x
            ∧ t.cur.fpc = fpc ||| o.flags.setWidth 64
            ∧ (v.op ≠ .vcmp → t.cur.l0 = image ∧ t.cur.l1 = s.cur.l0) ∧ (v.op = .vcmp → t.cur.l0 = s.cur.l0 ∧ t.cur.l1 = s.cur.l1)
            ∧ (t.core core).vf = (if tierOf d = .vreg then
                Tbl.put (s.core core).vf (physReg s s.fs (regIndex s.cur.vx d).toNat) image else (s.core core).vf)
            ∧ t.cur.q = (if tierOf d = .qreg then Vector.upd s.cur.q (d.toNat - 0x88) image else s.cur.q)
            ∧ t.cur.m = (if tierOf d = .mask then (s.cur.setMask (d.toNat - 0xB0) (image.setWidth 128)).m else s.cur.m)
            ∧ { t.cur with pc := s.cur.pc, wait := s.cur.wait, fpc := s.cur.fpc, l0 := s.cur.l0, l1 := s.cur.l1, q := s.cur.q, m := s.cur.m } = s.cur
            ∧ (t.core core).rotPipe = slotOf s.fs ∧ (∀ k, k ≠ core → t.core k = s.core k)
            ∧ { t.core core with vf := (s.core core).vf, rotPipe := (s.core core).rotPipe } = s.core core
            ∧ t = { s with strands := t.strands, cores := t.cores, perf := t.perf } ∧ ∀ k, k ≠ s.fs → t.strand k = s.strand k)

/-- R116, R181, R207, R209, R214, R231, R265: a vector instruction of n0 to n4 and n7, or of n5, whose first failing check names a
cause raises it; for every vector instruction a failing specifier check does. Then the accesses of n5 without a channel, once the
pipe takes no other beat first (R68): a VLD or VST whose address is no multiple of 64 raises MISALIGNED with it; the first active
lane of the others that is misaligned raises it with the lane's address, unless a check of an earlier lane fails; a fault of the
accesses raises its cause, a VST's with the lowest active lane of the sector that fails, for COV_PENDING one with a byte in a pending cell, a race's
with the sector; and an access that a copy footprint or a relock holds waits at its pc. -/
def Sys2Proof.Claim.VectorFaultsTrap : Prop :=
  ∀ (s : State) (i : Instr) (v : VIns) (c : Byte) (x : Word), vinsOf i = some v → Ok i s →
    (isLanes v.op = true → laneFaults s i v = some (c, x) → Traps i s c x)
    ∧ (v.op ∈ [.vld, .vst, .vlds, .vsts, .vgather, .vscatter] → vissueFaults s v 1 = some (c, x) → Traps i s c x)
    ∧ (v.specFaults s.curCore.mode s.cur.vx = some (c, x) → Traps i s c x)
    ∧ (v.op ∈ [.vld, .vst, .vlds, .vsts, .vgather, .vscatter] → vissueFaults s v 1 = none → v.endpoints = [] → pipeFree s →
        let w := v.ws (s.curCore.fmtOf v.f.fmtA.toNat)
        let mask := s.cur.mask v.f.mask.toNat
        let ea (r : Spec) : Word := s.readX (.ofNat 4 r.toNat) + low (64 * v.f.b.toInt)
        let idx := match v.op with | .vgather | .vscatter => srcValue s s.fs v (vrun s i v) (512 / w) 1 v.f.b | _ => 0
        let as := ((List.range (memLanes v w)).filter (maskLane mask (512 / w))).map (laneAddr s s.fs v w idx)
        let bytes := (List.range 64).filter (fun q => (List.range 8).any (fun j => maskLane mask (512 / w) ((8 * q + j) / w)))
        let secs := ([0, 32].filter (fun o => bytes.any (fun q => q / 32 * 32 = o))).map (fun (o : Nat) => (uv (ea v.f.d) + o, 32))
        let off := ((List.range 64).filter (fun q => !(bytes.contains q))).map (fun q => uv (ea v.f.d) + q)
        let vst := accessParts s s.fs { AccMode.put false with skip := off } secs (bytes.map (fun (q : Nat) => (uv (ea v.f.d) + q, 1)))
        (v.op = .vld →
          (uv (ea v.f.a) % 64 ≠ 0 → Traps i s Cause.misaligned (ea v.f.a))
          ∧ (uv (ea v.f.a) % 64 = 0 →
              (∀ e y, accessBytes s s.fs (uv (ea v.f.a)) 64 (.load false) = .fault e y → Traps i s e y)
              ∧ (∀ ds, accessBytes s s.fs (uv (ea v.f.a)) 64 (.load false) = .wait ds → Holds i s true ds)))
        ∧ (v.op = .vst →
          (uv (ea v.f.d) % 64 ≠ 0 → Traps i s Cause.misaligned (ea v.f.d))
          ∧ (uv (ea v.f.d) % 64 = 0 → (∀ e y, vst = .fault e y → Traps i s e (if e = Cause.mmRace then y else .ofNat 64 (firstLane s (coreOf s.fs) w (uv (ea v.f.d)) bytes e (uv y))))
              ∧ (∀ ds, vst = .wait ds → HoldsAs i s (.store i) ds)))
        ∧ (∀ m, (v.op ∈ [.vlds, .vgather] ∧ m = AccMode.load false) ∨ (v.op ∈ [.vsts, .vscatter] ∧ m = AccMode.put false) →
          (∀ pre y post, as = pre ++ y :: post → (∀ q ∈ pre, q % (w / 8) = 0) → y % (w / 8) ≠ 0 →
              (∀ e, checkPieces s s.fs m (pre.map (fun q => (q, w / 8))) ≠ .error e) → Traps i s Cause.misaligned (.ofNat 64 y))
          ∧ (∀ e y, lanesAccess s s.fs m w as = .fault e y → Traps i s e y)
          ∧ (∀ ds, lanesAccess s s.fs m w as = .wait ds → HoldsAs i s (if m.write then .store i else .held true) ds)))

/-- R197, R213, R217, R218, written out: integer VADD, VSUB, VMUL and the bitwise instructions on main registers. Lane i of the
destination is the wrapped sum, difference, product or bitwise value of lane i of the sources where the mask has the lane, and as before
elsewhere. -/
def Obligations.IntegerLanes : Prop :=
  ∀ (s : State) (f : V64), isInt f.etype.toNat = true → f.sat = false → f.d.toNat < 0x80 → f.a.toNat < 0x80 → f.b.toNat < 0x80 →
    let w := [4, 8, 16, 32, 64].getD f.etype.toNat 8
    let reg (t : State) (b : Spec) (j : Nat) : Nat := (regRead t s.fs b).toNat / 2 ^ (w * j) % 2 ^ w
    let does (i : Instr) (g : Nat → Nat → Nat) : Prop := Ok i s → vissueFaults s ((vinsOf i).getD (.of .vadd f)) 1 = none →
      pipeFree (srIssued s ((vinsOf i).getD (.of .vadd f)) (vrun s i ((vinsOf i).getD (.of .vadd f)))) →
      ∃ t, exec i s = .next t ∧ (∀ j, j < 512 / w → reg t f.d j =
        if maskLane (s.cur.mask f.mask.toNat) (512 / w) j then g (reg s f.a j) (reg s f.b j) % 2 ^ w else reg s f.d j)
        ∧ (∀ b : Spec, b.toNat < 0x80 → b ≠ f.d → regRead t s.fs b = regRead s s.fs b)
    does (.vadd f) (fun a b => a + b) ∧ does (.vsub f) (fun a b => a + (2 ^ w - b)) ∧ does (.vmul f) (fun a b => a * b)
    ∧ does (.vand f) (fun a b => a &&& b) ∧ does (.vor f) (fun a b => a ||| b) ∧ does (.vxor f) (fun a b => a ^^^ b)
    ∧ does (.vandn f) (fun a b => a &&& (2 ^ w - 1 - b))

/-- The strand is past an instruction of 8 bytes. -/
def Sys2Proof.Claim.past8 (s t : State) : Prop := t.pc = s.pc + 8 ∧ t.cur.wait = .none ∧ t.cur.x = s.cur.x ∧ t.cur.fpc = s.cur.fpc

/-- R68, R230 to R232: a vector load or store whose checks pass. VLD reads 64 bytes: from the own-scratchpad window it completes, else
its reply will write them; VLDS and VGATHER wait for the reply of their active lanes; VST writes the bytes of its active lanes, and
VSTS and VSCATTER their active lanes, under any mask, and go on. With a channel operand, or where the pipe takes another strand's
beat first, the instruction waits for the pipe. -/
def Obligations.VectorMemoryCompletes : Prop :=
  ∀ (s s1 : State) (ps : List Piece) (f : V64),
    let d := f.d
    let r (i : Instr) := vrun s i ((vinsOf i).getD (.of .vld f))
    let go (i : Instr) (op : VOp) : Prop := Ok i s ∧ vissueFaults s (.of op f) 1 = none ∧ (VIns.of op f).endpoints = [] ∧ pipeFree s
    let w := (VIns.of .vlds f).ws (s.curCore.fmtOf f.fmtA.toNat)
    let mask := s.cur.mask f.mask.toNat
    let act (op : VOp) := (List.range (memLanes (.of op f) w)).filter (maskLane mask (512 / w))
    let idx (i : Instr) (op : VOp) := srcValue s s.fs (.of op f) (r i) (512 / w) 1 f.b
    let src (i : Instr) (op : VOp) := srcValue s s.fs (.of op f) (r i) (512 / w) 1 f.a
    let elem (op : VOp) := (VIns.of op f).elem (s.curCore.fmtOf f.fmtA.toNat)
    let old := if tierOf d = .vreg ∨ tierOf d = .qreg then (regRead s s.fs d).toNat else 0
    let stores (i : Instr) (m : List Host.Cell) : Prop := ∃ t, exec i s = .next t ∧ past8 s t ∧ t.mem = m
      ∧ (∀ k, k ≠ s.fs → t.strand k = s.strand k)
      ∧ t.cores = Tbl.put s.cores (coreOf s.fs) { s.curCore with rotPipe := slotOf s.fs }
    let replies (i : Instr) (v : Nat) : Prop := ∃ t, exec i s = .next t ∧ t.mem = s.mem
      ∧ t.cur = { s.cur with
          wait := .reply { len := 8, xw := [], vw := some (d, .ofNat 512 v), decks := piecesDecks s (coreOf s.fs) ps } }
    let ea (x : Nat) : Nat := uv (s.readX (.ofNat 4 x) + low (64 * f.b.toInt))
    (go (.vld f) .vld → ea f.a.toNat % 64 = 0 → accessBytes s s.fs (ea f.a.toNat) 64 (.load false) = .ok s1 ps →
        let v := readPieces s.mem ps
        (ea f.a.toNat / 2 ^ 44 ≠ 0xFFE → replies (.vld f) v)
        ∧ (ea f.a.toNat / 2 ^ 44 = 0xFFE → ∃ t, exec (.vld f) s = .next t ∧ past8 s t ∧ t.mem = s.mem
            ∧ t.cur.l0 = .ofNat 512 v ∧ t.cur.l1 = s.cur.l0 ∧ (tierOf d = .vreg ∨ tierOf d = .qreg → regRead t s.fs d = .ofNat 512 v)))
    ∧ (go (.vst f) .vst → ea d.toNat % 64 = 0 →
        let bytes := (List.range 64).filter (fun q => (List.range 8).any (fun j => maskLane mask (512 / w) ((8 * q + j) / w)))
        let off := ((List.range 64).filter (fun q => !(bytes.contains q))).map (fun q => ea d.toNat + q)
        accessParts s s.fs { AccMode.put false with skip := off } (([0, 32].filter (fun o => bytes.any (fun q => q / 32 * 32 = o))).map (fun (o : Nat) => (ea d.toNat + o, 32)))
          (bytes.map (fun (j : Nat) => (ea d.toNat + j, 1))) = .ok s1 ps →
        stores (.vst f) (storeSectors s mask ((VIns.of .vst f).ws (s.curCore.fmtOf f.fmtA.toNat)) (src (.vst f) .vst) (ea d.toNat) ps).mem)
    ∧ (go (.vlds f) .vlds → lanesAccess s s.fs (.load false) w ((act .vlds).map (laneAddr s s.fs (.of .vlds f) w 0)) = .ok s1 ps →
        replies (.vlds f) (loadImage s.mem w old (elem .vlds) (act .vlds) ps))
    ∧ (go (.vgather f) .vgather →
        lanesAccess s s.fs (.load false) w ((act .vgather).map (laneAddr s s.fs (.of .vgather f) w (idx (.vgather f) .vgather))) = .ok s1 ps →
        replies (.vgather f) (loadImage s.mem w old (elem .vgather) (act .vgather) ps))
    ∧ (go (.vsts f) .vsts → lanesAccess s s.fs (.put false) w ((act .vsts).map (laneAddr s s.fs (.of .vsts f) w 0)) = .ok s1 ps →
        stores (.vsts f) (storeLanes s ps ((act .vsts).map (fun q => elem .vsts (elemOf w (src (.vsts f) .vsts) q)))).mem)
    ∧ (go (.vscatter f) .vscatter →
        lanesAccess s s.fs (.put false) w ((act .vscatter).map (laneAddr s s.fs (.of .vscatter f) w (idx (.vscatter f) .vscatter))) = .ok s1 ps →
        stores (.vscatter f) (storeLanes s ps ((act .vscatter).map (fun q => elem .vscatter (elemOf w (src (.vscatter f) .vscatter) q)))).mem)
    ∧ (∀ op ∈ [VOp.vld, .vst, .vlds, .vsts, .vgather, .vscatter], ∀ i, vinsOf i = some (.of op f) → Ok i s →
        vissueFaults s (.of op f) 1 = none → (VIns.of op f).endpoints ≠ [] ∨ ¬ pipeFree s → exec i s = .next (s.setCur { s.cur with wait := .vec (r i) }))

/-- R180, R227, R233: VEXTR writes the lane of its index, without the bits of its container above a narrow format, sign-extended where
sgnA is set; MOP, MPOP, MFIRST and MSET write the mask or the register their rules give, m0 reading as all ones and discarding
writes. Each counts as a beat of the pipe, and waits where the pipe takes another strand's beat first (R68). -/
def Sys2Proof.Claim.MaskAndExtractResults : Prop :=
  ∀ (s : State) (f : V64),
    let d : XReg := .ofNat 4 f.d.toNat
    let mk (b : Spec) : Mask := if b.toNat % 8 = 0 then BitVec.allOnes 128 else Vector.nth (n := 7) s.cur.m (b.toNat % 8)
    let wr (i : Instr) (m : Mask) : Prop := ∃ u t, Took s u ∧ exec i s = .next t ∧ OnlyStrand u t ∧ t.pc = s.pc + 8 ∧ t.cur.wait = .none
      ∧ (∀ j : Fin 8, t.cur.m[j] = if j.val = f.d.toNat % 8 ∧ j.val ≠ 0 then m else s.cur.m[j])
      ∧ { t.cur with pc := s.cur.pc, m := s.cur.m, wait := s.cur.wait } = s.cur
    let sp (op : VOp) := (VIns.of op f).specFaults s.curCore.mode s.cur.vx = none
    let w := (VIns.of .vextr f).ws (s.curCore.fmtOf f.fmtA.toNat)
    let e0 := (regRead s s.fs f.a).toNat / 2 ^ (w * f.c.toNat) % 2 ^ w
    let e := if f.etype = 9 then e0 % 2 ^ (narrowFmt (s.curCore.fmtOf f.fmtA.toNat)).bits else e0
    (∀ v, (v ∈ [VIns.of .mop f, .of .mpop f, .of .mfirst f, .of .mset f] ∨ (v = .of .vextr f ∨ ∃ lit, v = .ofLit .vextr f lit) ∧ fmtFaults s.curCore v = none) →
      ∀ i, vinsOf i = some v → Ok i s → v.specFaults s.curCore.mode s.cur.vx = none → ¬ pipeFree s →
        exec i s = .next (s.setCur { s.cur with wait := .vec (vrun s i v) }))
    ∧ (pipeFree s →
    (Ok (.vextr f) s → sp .vextr → fmtFaults s.curCore (.of .vextr f) = none →
        PipeWrites (.vextr f) s d (low (if f.sgnA ∧ 2 ^ (w - 1) ≤ e then (e : Int) - 2 ^ w else e)) 8)
    ∧ (∀ lit, Ok (.vextrLit f lit) s → (VIns.ofLit .vextr f lit).specFaults s.curCore.mode s.cur.vx = none →
        fmtFaults s.curCore (.ofLit .vextr f lit) = none → f.etype = 3 → f.a = 0xFF →
        PipeWrites (.vextrLit f lit) s d (if f.sgnA then low lit.toInt else .ofNat 64 lit.toNat) 12)
    ∧ (Ok (.mop f) s → sp .mop →
        let a := mk f.a
        let b := mk f.b
        wr (.mop f) (if f.c = 0 then a &&& b else if f.c = 1 then a ||| b else if f.c = 2 then a ^^^ b else if f.c = 3 then a &&& ~~~b else ~~~a))
    ∧ (Ok (.mpop f) s → sp .mpop → PipeWrites (.mpop f) s d (.ofNat 64 ((List.range 128).filter (mk f.a).getLsbD).length) 8)
    ∧ (Ok (.mfirst f) s → sp .mfirst → PipeWrites (.mfirst f) s d (.ofNat 64 (((List.range 128).find? (mk f.a).getLsbD).getD 128)) 8)
    ∧ (Ok (.mset f) s → sp .mset →
        let n := if f.c = 0 then f.b.toNat else uv (s.readX (.ofNat 4 f.b.toNat))
        wr (.mset f) (.ofNat 128 (2 ^ min n 128 - 1))))

/-- What a beat of a lane instruction computes, from the sources that the beat finds: main registers, messages, the elements of shapes. -/
def Sys2Proof.Claim.beatDoes (s : State) (k : Nat) (r : VecRun) (v : VIns) : BeatVal :=
  let n := v.lanes r.fmtA r.fmtB
  let cnt := match r.shapes.find? Option.isSome with | some (some h) => h.count | _ => 512
  let b := match v.form with | .vi imm => immValue v.etype (v.ws r.fmtA) v.f.sgnB imm | _ => srcValue s k v r n 2 v.f.b
  beatVal { v := v, run := r, t := r.beat, n := n
            act := fun i => maskLane ((s.strand k).mask v.f.mask.toNat) n i && decide (r.beat * n + i < cnt)
            a := srcValue s k v r n 1 v.f.a, b := b, c := srcValue s k v r n 3 v.f.c, cm := (s.strand k).mask (v.f.c.toNat - 0xB0)
            d := (regRead s k v.f.d).toNat, x := (s.strand k).readX (.ofNat 4 (if v.op = .vargmax then v.f.c.toNat else v.f.a.toNat)) }

/-- R199, R206 to R211, R213: what a beat of a lane instruction leaves. The result goes to its destination, with VRED's last beat only:
in a shape, element beat × n + i takes lane i where the lane is written and in the shape, every other element and byte is as it was
(of elements that share storage the last one stands), and no other destination touches memory; a channel's is staged behind the oldest message
of each source endpoint, which the strand has taken; a register's is in the register. The flags are ORed; the last beat pushes the
result into the last-result file, VCMP's excepted. -/
def Sys2Proof.Claim.BeatLeaves (s : State) (k : Nat) (r : VecRun) (v : VIns) (t : State) : Prop :=
  let core := coreOf k
  let n := v.lanes r.fmtA r.fmtB
  let d := v.f.d
  let o := beatDoes s k r v
  let u := s.strand k
  let last := r.beat + 1 = r.beats
  let now := v.op ≠ .vred ∨ last
  let old : Nat := if tierOf d = .vreg ∨ tierOf d = .qreg then (regRead s k d).toNat else 0
  let image : V512 := .ofNat 512 (imageOf o old)
  let srcs := (v.endpoints.filter (fun e => !e.2)).map (fun e => e.1)
  (∀ h, now → tierOf d = .shape → r.shapes.getD 0 none = some h →
      let at_ (e : Nat) : Nat := (h.addr o.w e).toNat
      let put (e : Nat) : Prop := e < h.count ∧ r.beat * n ≤ e ∧ (o.res.getD (e - r.beat * n) none).isSome = true
      let apart (e e' : Nat) : Prop := at_ e + unitSize o.w ≤ at_ e' ∨ at_ e' + unitSize o.w ≤ at_ e
      (∀ e x, put e → o.res.getD (e - r.beat * n) none = some x → (∀ e', put e' → e < e' → apart e e') → shapeGet t core h o.w e = x % 2 ^ o.w)
      ∧ (∀ e, (∀ e', put e' → apart e e') → shapeGet t core h o.w e = shapeGet s core h o.w e)
      ∧ (∀ b, (∀ e, put e → b < padLoc core (shapeBytes h o.w e).1 ∨ padLoc core (shapeBytes h o.w e).1 + (shapeBytes h o.w e).2 ≤ b) →
          Memory.read t.mem b = Memory.read s.mem b))
  ∧ (¬ now ∨ tierOf d ≠ .shape → t.mem = s.mem)
  ∧ (t.strand k).staged = u.staged ++ srcs.map .recv ++ (if now ∧ tierOf d = .chan then [.send (d.toNat % 16) image] else [])
  ∧ (∀ e ∈ srcs, inboxOf t core e = takeMsg (slotOf k) (inboxOf s core e))
  ∧ (∀ q, (∀ e ∈ srcs, q ≠ inboxKey core e) → Tbl.get t.inbox q [] = Tbl.get s.inbox q [])
  ∧ (t.core core).vf = (if now ∧ tierOf d = .vreg then
      Tbl.put (s.core core).vf (physReg s k (regIndex u.vx d).toNat) image else (s.core core).vf)
  ∧ (t.strand k).q = (if now ∧ tierOf d = .qreg then Vector.upd u.q (d.toNat - 0x88) image else u.q)
  ∧ (t.strand k).m = (if now ∧ tierOf d = .mask then (u.setMask (d.toNat - 0xB0) (image.setWidth 128)).m else u.m)
  ∧ (t.strand k).fpc = u.fpc ||| o.flags.setWidth 64 ∧ (t.strand k).x = u.x
  ∧ (last ∧ v.op ≠ .vcmp → (t.strand k).l0 = image ∧ (t.strand k).l1 = u.l0)
  ∧ (¬ last ∨ v.op = .vcmp → (t.strand k).l0 = u.l0 ∧ (t.strand k).l1 = u.l1)
  ∧ (¬ last → (t.strand k).wait = .vec { r with beat := r.beat + 1, acc := o.acc })
  ∧ (∀ j, j ≠ k → t.strand j = s.strand j) ∧ (∀ c, c ≠ core → t.core c = s.core c)

/-- R68, R208, R210, R415: the pipe takes a beat of the first strand, in rotation order from the slot after its pointer, whose
operation is not blocked: a faulting beat traps, a first one with SRSTATE as the instruction found it; a beat of a lane instruction leaves what
its operation computes, one that is not the last leaves the operation at the next beat, the last one lets the strand go on, and the
pointer stands at the slot. Where the beats of all are blocked, nothing changes
but that a strand held at a boundary has its place there. -/
def Sys2Proof.Claim.VectorBeatsRun : Prop :=
  ∀ (s : State) (core slot : Nat) (pre post : List Nat) (r : VecRun) (v : VIns),
    (List.range 16).map (fun i => ((s.core core).rotPipe + 1 + i) % 16) = pre ++ slot :: post →
    (∀ j ∈ pre, pipeBeat s (core * 16 + j) = .blocked []) →
    let k := core * 16 + slot
    (s.strand k).wait = .vec r → vinsOf r.instr = some v →
      let turn (t : State) : State := t.setCore core { t.core core with rotPipe := slot }
      (∀ ds, pipeBeat s k = .blocked ds → (∀ j ∈ post, ∀ q, (s.strand (core * 16 + j)).wait ≠ .vec q) →
          exec (.vectorBeat core) s = .next (noteHeld s k ds))
      ∧ (∀ c x, pipeBeat s k = .fault c x → exec (.vectorBeat core) s = .next (turn (trapAt (rewindSr (dropHeld s k) k) k c x))
          ∧ (r.beat = 0 → ((rewindSr (dropHeld s k) k).strand k).fpc.toNat / 2 ^ 32 = r.fpc.toNat / 2 ^ 32))
      ∧ (∀ t, pipeBeat s k = .done t → exec (.vectorBeat core) s = .next (turn ((dropHeld t k).count core 2 1))
          ∧ (isLanes v.op = true → BeatLeaves s k r v t)
          ∧ (isLanes v.op = true → r.beat + 1 = r.beats → (t.strand k).wait = .none ∧ (t.strand k).pc = (s.strand k).pc + .ofNat 64 v.len)
          ∧ (v.op ∈ [.vextr, .mop, .mpop, .mfirst, .mset] → (t.strand k).wait = .none ∧ (t.strand k).pc = (s.strand k).pc + .ofNat 64 v.len)
          ∧ (isLanes v.op = true → r.beat + 1 ≠ r.beats → ∃ acc, (t.strand k).wait = .vec { r with beat := r.beat + 1, acc := acc }
              ∧ (t.strand k).pc = (s.strand k).pc))

/-- R68, R116, R181, R207 to R210, R214: faults of vector instructions, and the beats of the pipe. -/
def Obligations.VectorFaultsAndBeats : Prop := VectorFaultsTrap ∧ VectorBeatsRun

/-- R202, R203, R211, R212: VXSET, HSET and VXADD write their sums, CHSTAT the state of an endpoint, CHCLOSE stages the end marker. -/
def Sys2Proof.Claim.IndexAndChannelInstructions : Prop :=
  ∀ (s : State) (d a : XReg) (h k : BitVec 4 ) (hx : XReg) (imm : Half) (far : BitVec 17),
    let x := s.readX a
    let vx (i : Instr) (v : Half) : Prop := Ok i s → ∃ t, exec i s = .next t ∧ OnlyStrand s t ∧ t.cur = { s.cur with pc := s.pc + 4, vx := v }
    vx (.vxset a imm) (.ofNat 16 (uv x + imm.toNat))
    ∧ vx (.vxadd a far) (.ofInt 16 ((s.cur.vx.toInt + x.toInt + far.toInt) % (if s.cur.vxw = 0 then 2 ^ 16 else (s.cur.vxw.toNat : Int))))
    ∧ (Ok (.hset hx a imm) s →
        let v := uv x + imm.toNat
        (2 ^ 21 ≤ v → Traps (.hset hx a imm) s Cause.bounds (.ofNat 64 v))
        ∧ (v < 2 ^ 21 → v % 32 ≠ 0 → Traps (.hset hx a imm) s Cause.misaligned (.ofNat 64 v))
        ∧ (v < 2 ^ 21 → v % 32 = 0 → ∃ t, exec (.hset hx a imm) s = .next t ∧ t.cur = { s.cur with pc := s.pc + 4 }
            ∧ (∀ j : Fin 16, t.curCore.h[j] = if j.val = hx.toNat then .ofNat 21 v else s.curCore.h[j])
            ∧ t.curCore = { s.curCore with h := t.curCore.h } ∧ t.mem = s.mem))
    ∧ (Ok (.chstat d k) s → ∃ v, Writes (.chstat d k) s d v 4
        ∧ (Tbl.look s.curCore.ends k.toNat = none → v = 0)
        ∧ (∀ e, Tbl.look s.curCore.ends k.toNat = some e → uv v / 2 ^ 17 = (if e.send then 3 else 2)
            ∧ (e.send = false → uv v % 2 ^ 10 = (receivable s (coreOf s.fs) k.toNat).length % 2 ^ 10
                ∧ (uv v / 2 ^ 16 % 2 = 1 ↔ recvClosed s (coreOf s.fs) k.toNat = true))
            ∧ (e.send = true → uv v % 2 ^ 10 = unitsLeft s (coreOf s.fs) k.toNat % 2 ^ 10
                ∧ (uv v / 2 ^ 16 % 2 = 1 ↔ hasClosed s.cur k.toNat = true))))
    ∧ (Ok (.chclose h) s →
        (chanDir s (coreOf s.fs) h.toNat true = true → Traps (.chclose h) s Cause.chanDir (.ofNat 64 h.toNat))
        ∧ (chanDir s (coreOf s.fs) h.toNat true = false → hasClosed s.cur h.toNat = true → ∃ w, Traps (.chclose h) s Cause.chanClosed w)
        ∧ (chanDir s (coreOf s.fs) h.toNat true = false → hasClosed s.cur h.toNat = false → 32 ≤ stagedCount s.cur →
            Traps (.chclose h) s Cause.stageFull 0)
        ∧ (chanDir s (coreOf s.fs) h.toNat true = false → hasClosed s.cur h.toNat = false → stagedCount s.cur < 32 →
            ∃ t, exec (.chclose h) s = .next t ∧ OnlyStrand s t
              ∧ t.cur = { s.cur with pc := s.pc + 4, staged := s.cur.staged ++ [.endMark h.toNat] }))

/-- R202, R203, R211, R212, R225 to R229: masks, extraction, index registers and endpoints. -/
def Obligations.MaskIndexAndChannelInstructions : Prop := MaskAndExtractResults ∧ IndexAndChannelInstructions

/-! ## Copy engines -/

/-- R280 to R283: CPY with a valid request and room in the FIFO stages it and writes 0 to xd; with the FIFO full of entries some of
which are committed, the non-blocking form writes 1 and the other is held, with only staged ones it writes 2 and the other raises
STAGE_FULL; an invalid request traps. CPWAIT writes the channel's count once it has reached xb, and waits until then. -/
def Obligations.CopyInstructions : Prop :=
  ∀ (s : State) (d a b : XReg) (nb : Bool) (ch : BitVec 2),
    let q := [s.readX a, s.readX (a + 1), s.readX (a + 2), s.readX (a + 3)]
    let fault := copyFault s (q.getD 0 0) (q.getD 1 0) (q.getD 2 0) (q.getD 3 0)
    let full := 16 ≤ fifoCount s (coreOf s.fs)
    let onlyStaged := stagedCopies s (coreOf s.fs) = fifoCount s (coreOf s.fs)
    (Ok (.cpy d a nb) s →
      (∀ c v, fault = some (c, v) → Traps (.cpy d a nb) s c v)
      ∧ (fault = none → ¬ full → ∃ t, exec (.cpy d a nb) s = .next t ∧ OnlyStrand s t ∧ t.pc = s.pc + 4
          ∧ (∀ r, t.readX r = if r = d ∧ r ≠ 0 then 0 else s.readX r)
          ∧ t.cur.staged = s.cur.staged ++ [.copy (q.getD 0 0) (q.getD 1 0) (q.getD 2 0) (q.getD 3 0)])
      ∧ (fault = none → full → nb = true → Writes (.cpy d a nb) s d (if onlyStaged then 2 else 1) 4)
      ∧ (fault = none → full → nb = false → ¬ onlyStaged → Holds (.cpy d a nb) s false [])
      ∧ (fault = none → full → nb = false → onlyStaged → Traps (.cpy d a nb) s Cause.stageFull 0))
    ∧ (let n := Vector.nth (n := 3) s.curCore.cpwp ch.toNat
       (uv (s.readX b) ≤ uv n → Writes (.cpwait d b ch) s d n 4)
       ∧ (uv n < uv (s.readX b) → exec (.cpwait d b ch) s = .next (s.setCur { s.cur with wait := .cpwait (.cpwait d b ch) })))

/-- R274, R276, R278, R279, R284, R286 for a core with one committed job: its parameter block is read, it starts, a plain copy delivers
the bytes of up to one sector from its source to its destination and the channel's count advances by as many, and when all are
delivered its entry is released and its counter decremented unless NOCTR is set. A fault of the source suspends the job where it is
a fault of translation (R393), and else ends it. A row of a gather may arrive by itself, in one step where it lies in one sector; one whose owner is not in the torus faults
(R261). The boundary of a relocking deck holds the transfer (R415); after the core's edge of a round nothing moves (R419). -/
def Sys2Proof.Claim.CopyJobsMove : Prop :=
  ∀ (s : State) (core : Nat) (ch : BitVec 2) (j : Job), (s.core core).jobs = [j] → j.channel = ch.toNat → j.susp = none →
    let jobs (t : State) : List Job := (t.core core).jobs
    let held (ps : List Piece) : List Nat := heldAt s (copySender core ch.toNat) (piecesDecks s core ps)
    (coreFrozen s core = true → ∀ e ∈ [Instr.parameterBlockRead core ch, .copyJobStart core ch, .copyTransfer core ch, .copyJobComplete core ch],
      exec e s = .next s)
    ∧ (coreFrozen s core = false →
    (∀ ps, 1 ≤ j.kind → j.kind ≤ 3 → j.block = none → engPieces s core .read (sectorsOf j.w3.toNat 64 3) = .ok ps →
      held ps = [] →
      let b : V512 := .ofNat 512 (readPieces s.mem ps)
      blockBad j b = false → ∃ t, exec (.parameterBlockRead core ch) s = .next t ∧ jobs t = [{ j with block := some b }] ∧ t.mem = s.mem)
    ∧ (j.kind = 0 ∨ j.kind = 4 ∨ j.kind = 5 → j.started = false → ∃ t, exec (.copyJobStart core ch) s = .next t
        ∧ jobs t = [{ j with started := true, idx := [] }] ∧ t.mem = s.mem)
    ∧ (∀ rs ws, j.kind = 0 → j.started = true → j.done < uv j.w3 →
        let src := uv j.w1 + j.done
        let dst := uv j.w2 + j.done
        let n := min (uv j.w3 - j.done) (32 - dst % 32)
        engPieces s core .read (sectorsOf src n (n + 1)) = .ok rs → engPieces s core .write (sectorsOf dst n (n + 1)) = .ok ws →
        (held (rs ++ ws) ≠ [] → exec (.copyTransfer core ch) s = .next (noteHeld s (copySender core ch.toNat) (held (rs ++ ws))))
        ∧ (held (rs ++ ws) = [] → ∃ t, exec (.copyTransfer core ch) s = .next t ∧ t.mem = (writePieces s ws (readPieces s.mem rs)).mem
          ∧ jobs t = [{ j with done := j.done + n }]
          ∧ ((s.core core).launch = some j.launch → ∀ c : Fin 4,
              (t.core core).cpwp[c] = if c.val = ch.toNat then (s.core core).cpwp[c] + .ofNat 64 n else (s.core core).cpwp[c])))
    ∧ (∀ c v, j.kind = 0 → j.started = true → j.done < uv j.w3 →
        let src := uv j.w1 + j.done
        let n := min (uv j.w3 - j.done) (32 - (uv j.w2 + j.done) % 32)
        engPieces s core .read (sectorsOf src n (n + 1)) = .error (c, v) →
        (c.toNat / 32 = 4 → ∃ t x, exec (.copyTransfer core ch) s = .next t ∧ jobs t = [{ j with susp := some x }] ∧ x.cause = c ∧ x.va = v
          ∧ x.since = s.reft.toNat ∧ t.mem = s.mem)
        ∧ (c.toNat / 32 ≠ 4 → exec (.copyTransfer core ch) s = .next (failJob s core 0 j c.toNat)))
    ∧ (j.started = true → j.total ≤ j.done → ∃ t, exec (.copyJobComplete core ch) s = .next t ∧ jobs t = [] ∧ t.mem = s.mem
        ∧ t.decrs = s.decrs ++ (if j.noctr then [] else [{ jobDecr core j with id := s.sent }]))
    ∧ (∀ b owner rs ws, j.kind = 2 → j.started = true → j.block = some b → blkCount b = 1 → 0 < blkRowb b → j.done = 0 → j.rows = [] →
        badIndex j 0 = false →
        let src := uv j.w1 + j.idx.getD 0 0 * blkRowb b
        let dst := uv j.w2
        src % 32 + blkRowb b ≤ 32 → dst % 32 + blkRowb b ≤ 32 → destCore s core src = .ok owner →
        engPieces s core .read [(src, blkRowb b)] = .ok rs → engPieces s core .write [(dst, blkRowb b)] = .ok ws →
        (held (rs ++ ws) ≠ [] → exec (.gatherRowsArrive core ch owner) s = .next (noteHeld s (copySender core ch.toNat) (held (rs ++ ws))))
        ∧ (held (rs ++ ws) = [] → ∃ t, exec (.gatherRowsArrive core ch owner) s = .next t
          ∧ t.mem = (writePieces s ws (readPieces s.mem rs)).mem ∧ jobs t = [{ j with done := blkRowb b }]))
    ∧ (∀ b c, j.kind = 2 → j.started = true → j.block = some b → blkCount b = 1 → 0 < blkRowb b → j.done = 0 → j.rows = [] →
        badIndex j 0 = false → destCore s core (j.piece 0).1 = .error c →
        exec (.gatherRowsArrive core ch core) s = .next (jobFault s core 0 j c (.ofNat 64 (j.piece 0).1) 0)))

/-- R393: a suspended access is tried again when it is due, and where its fault has persisted for its time and a last try meets a fault
again the job ends by it; before that nothing happens. A try whose own access succeeds and which meets a fault in another one starts
the time of that fault anew. The reconstruction unit's suspended access does the same. After the core's edge
of a round a copy job's access is not tried (R419). -/
def Sys2Proof.Claim.SuspendedAccesses : Prop :=
  ∀ (s : State) (core : Nat) (ch : BitVec 2) (j : Job) (x : Susp) (l st : Nat) (c : Cov),
    ((s.core core).jobs = [j] → j.channel = ch.toNat → j.susp = some x → coreFrozen s core = true →
      ∀ e ∈ [Instr.engineFaultRetry (.copy core ch), .engineFaultExpiry (.copy core ch)], exec e s = .next s)
    ∧ ((s.core core).jobs = [j] → j.channel = ch.toNat → j.susp = some x → coreFrozen s core = false →
      let s1 := jobStep s core 0 j
      let again (c : Byte) : Prop := ∃ j1 y, (s1.core core).jobs = [j1] ∧ j1.susp = some y ∧ y.lastTry = s.reft.toNat ∧ y.since = x.since
        ∧ y.cause = c
      let due := x.due = true ∨ x.lastTry + 10 ^ 6 ≤ s.reft.toNat
      (due → exec (.engineFaultRetry (.copy core ch)) s = .next (jobStep s core 0 j))
      ∧ (x.due = false → s.reft.toNat < x.lastTry + 10 ^ 6 → exec (.engineFaultRetry (.copy core ch)) s = .next s)
      ∧ (x.since + 10 ^ 9 ≤ s.reft.toNat →
          (∀ c, again c → exec (.engineFaultExpiry (.copy core ch)) s = .next (failJob s core 0 j c.toNat))
          ∧ ((∀ c, ¬ again c) → (s1.core core).jobs.length ≤ 1 → exec (.engineFaultExpiry (.copy core ch)) s = .next s1))
      ∧ (s.reft.toNat < x.since + 10 ^ 9 → exec (.engineFaultExpiry (.copy core ch)) s = .next s)
      ∧ (∀ e v, due → j.kind = 0 → j.started = true → j.done < uv j.w3 → (e : Byte).toNat / 32 = 4 →
          let src := uv j.w1 + j.done
          let n := min (uv j.w3 - j.done) (32 - (uv j.w2 + j.done) % 32)
          engPieces s core .read (sectorsOf src n (n + 1)) = .error (e, v) →
          ∃ t y, exec (.engineFaultRetry (.copy core ch)) s = .next t ∧ (t.core core).jobs = [{ j with susp := some y }] ∧ y.cause = e
            ∧ y.va = v ∧ y.lastTry = s.reft.toNat ∧ y.due = false ∧ y.since = (if v = x.va then x.since else s.reft.toNat))
      ∧ exec (.copyTransfer core ch) s = .next s)
    ∧ (Tbl.look s.covs (stageKey l st) = some c → c.susp = some x →
        (x.due = true ∨ x.lastTry + 10 ^ 6 ≤ s.reft.toNat → exec (.engineFaultRetry (.recon l st)) s = .next (reconStep s l st c))
        ∧ (∀ e r y, c.done = e :: r → x.since + 10 ^ 9 ≤ s.reft.toNat → reconBlock s ((s.coresOf l st).headD 0) c e = .error y → y.1.2 = x.va →
            exec (.engineFaultExpiry (.recon l st)) s = .next (covFault s l st c y.1.1 y.2)))

/-- R274 to R286, R393: the copy engine's jobs, and suspended accesses. -/
def Obligations.CopyJobsRun : Prop := CopyJobsMove ∧ SuspendedAccesses

/-! ## Coverage -/

/-- R295, R296, R297, R299, R309: CVPT commits as a REGION and asks the walker, or is held while its commit is; CVDONE of the held
batch's word stages its end, a wrong word raises COV_BATCH and a full stage STAGE_FULL; CVSTAT reads the controller of CTLSEL; a
write of COVCTL with RESET set sends a reset for the controller of the CTLSEL that it writes, one with RESET clear sends none, and a
reset clears the controller when it arrives. -/
def Obligations.CoverageInstructions : Prop :=
  ∀ (s : State) (d a : XReg) (sel : BitVec 3) (key : Nat) (c : Cov),
    (covOf s s.fs = none → (Ok (.cvpt d) s → Traps (.cvpt d) s Cause.covBatch 0)
      ∧ (Ok (.cvdone a) s → Traps (.cvdone a) s Cause.covBatch (s.readX a)))
    ∧ (covOf s s.fs = some (key, c) →
        (Ok (.cvpt d) s → s.cur.batch = none → s.cur.staged = [] → commitBlocked s s.fs = false →
          ∃ t, exec (.cvpt d) s = .next t ∧ t.cur.wait = .batch d ∧ t.cur.rgn = s.pc ∧ t.pc = s.pc
            ∧ Tbl.look t.covs key = some { c with requests := c.requests ++ [s.fs] }
            ∧ (∀ b, b < saveLoc s.fs ∨ saveLoc s.fs + 128 ≤ b → Memory.read t.mem b = Memory.read s.mem b))
        ∧ (Ok (.cvpt d) s → s.cur.batch = none ∨ doneStaged s.cur = true → commitBlocked s s.fs = true →
            Holds (.cvpt d) s false (commitDecks s s.fs))
        ∧ (∀ b, Ok (.cvdone a) s → s.cur.batch = some b → doneStaged s.cur = false → s.readX a = batchWord c b →
            32 ≤ stagedCount s.cur → Traps (.cvdone a) s Cause.stageFull 0)
        ∧ (∀ b, Ok (.cvpt d) s → s.cur.batch = some b → doneStaged s.cur = false → Traps (.cvpt d) s Cause.covBatch 1)
        ∧ (∀ b, Ok (.cvdone a) s → s.cur.batch = some b → doneStaged s.cur = false → stagedCount s.cur < 32 →
            (s.readX a = batchWord c b → ∃ t, exec (.cvdone a) s = .next t ∧ OnlyStrand s t
              ∧ t.cur = { s.cur with pc := s.pc + 4, staged := s.cur.staged ++ [.cvdone b] })
            ∧ (s.readX a ≠ batchWord c b → Traps (.cvdone a) s Cause.covBatch (s.readX a))))
    ∧ (let v := (s.ctl (ctxOf (coreOf s.fs)) (uv s.curCore.covctl % 2 ^ 6)).stat sel.toNat
       Ok (.cvstat d sel) s → exec (.cvstat d sel) s =
         .next (s.setCur { s.cur with wait := .reply { len := 4, xw := [(d, v)], vw := none, decks := [] } }))
    ∧ (let old := readCsr s 0x078
       let sent (i : Instr) (v : Word) : Prop := Ok i s → ∃ t, exec i s = .next t
         ∧ t.covResets = s.covResets ++ (if v.getLsbD 8 then [(ctxOf (coreOf s.fs), uv v % 2 ^ 6)] else [])
       sent (.csrw d a 0x078) (s.readX a) ∧ sent (.csrs d a 0x078) (old ||| s.readX a) ∧ sent (.csrc d a 0x078) (old &&& ~~~(s.readX a)))
    ∧ (∀ ctx id r x, s.covResets = (ctx, id) :: r → s.ctx ctx = some x → ∃ t, exec .covctlReset s = .next t ∧ t.covResets = r
        ∧ t.ctl ctx id = { s.ctl ctx id with inuse := false, streak := 0, phase := 0, errsum := 0, errmax := 0, count := 0, lastmean := 0 }
        ∧ (∀ j, j ≠ id → t.ctl ctx j = s.ctl ctx j))

/-- R297, R298: the walker answers the oldest request with the lowest returned block or, with none returned, the next one: its origins,
the masks of its lattice points and of its audited points, and its level and phase, in four registers from xd on; the block is
claimed by the strand. With no block left xd takes bit 63 and the other three 0. The level is the controller's in the stage's
range; after an error above BOUND with BFULL a level 0 stands as it is (the model's choice, log 65). -/
def Sys2Proof.Claim.BatchesAreGranted : Prop :=
  ∀ (s : State) (l st k : Nat) (r : List Nat) (d : XReg) (c : Cov), Tbl.look s.covs (stageKey l st) = some c → c.requests = k :: r →
    (s.strand k).wait = .batch d → (d = 4 ∨ d = 8 ∨ d = 12) →
      let level := (s.ctl c.ctx c.ctl).level
      let lv := if c.bound = true ∧ covBfull c.record = true ∧ level = 0 then 0 else max c.minLevel (min level c.maxLevel)
      let ph := (covPhase c + (if covAutoph c.record then (s.ctl c.ctx c.ctl).phase else 0)) % 16
      let granted (t : State) (c1 : Cov) (m : Nat) : Prop := exec (.batchGrant l st) s = .next t
        ∧ Tbl.look t.covs (stageKey l st) = some c1 ∧ c1.requests = r ∧ (t.strand k).batch = some m
        ∧ c1.claimed = c.claimed ++ [(m, lv, ph)]
        ∧ (t.strand k).readX d = .ofNat 64 (covOrigin c m 0 + 2 ^ 16 * covOrigin c m 1 + 2 ^ 32 * covOrigin c m 2)
        ∧ (∀ p, p < 64 → ((t.strand k).readX (d + 1)).getLsbD p = covLattice c m p lv ph
            ∧ ((t.strand k).readX (d + 2)).getLsbD p = covAudited c m p lv ph)
        ∧ (t.strand k).readX (d + 3) = .ofNat 64 (lv + 16 * ph)
        ∧ (t.strand k).wait = .none ∧ (t.strand k).pc = (s.strand k).pc + 4
      (c.returned ≠ [] → ∃ t c1 m, granted t c1 m ∧ m ∈ c.returned ∧ (∀ x ∈ c.returned, m ≤ x)
          ∧ c1.returned = c.returned.filter (fun x => x ≠ m))
      ∧ (c.returned = [] → covTotal c ≤ c.next → ∃ t, exec (.batchGrant l st) s = .next t
        ∧ (t.strand k).readX d = 0x8000000000000000 ∧ (t.strand k).readX (d + 1) = 0 ∧ (t.strand k).readX (d + 2) = 0
        ∧ (t.strand k).readX (d + 3) = 0 ∧ (t.strand k).wait = .none ∧ (t.strand k).pc = (s.strand k).pc + 4)
      ∧ (c.returned = [] → c.next < covTotal c → ∃ t c1, granted t c1 c.next ∧ c1.next = c.next + 1)

/-- R301, R304, R307: the unit takes the block that became done first; where its cells can be read and written the block is
reconstructed, the controller counts its computed, audited and skipped points, and its values wait for the stage's completion:
memory does not change. Where the stage no longer runs they stand at once (R391). -/
def Sys2Proof.Claim.BlocksAreReconstructed : Prop :=
  ∀ (s : State) (l st : Nat) (c c1 : Cov) (x : Ctl) (e : Nat × Nat × Nat) (r : List (Nat × Nat × Nat)) (y : Ctx),
    Tbl.look s.covs (stageKey l st) = some c → c.susp = none → c.done = e :: r → s.ctx c.ctx = some y →
    reconBlock s ((s.coresOf l st).headD 0) c e = .ok (c1, x) →
      ∃ t, exec (.blockReconstruct l st) s = .next t ∧ t.strands = s.strands
        ∧ (stageLive s (stageKey l st) = true → t.mem = s.mem ∧ Tbl.look t.covs (stageKey l st) = some c1)
        ∧ (stageLive s (stageKey l st) = false → t.mem = c1.values.foldl (fun m v => Memory.write m v.1 v.2) s.mem
            ∧ Tbl.look t.covs (stageKey l st) = some { c1 with values := [] })
        ∧ c1.reconstructed = c.reconstructed ++ [e]
        ∧ (∀ d ∈ c1.done, d.1 ≠ e.1)
        ∧ t.ctl c.ctx c.ctl = x
        ∧ x.computed = (s.ctl c.ctx c.ctl).computed + ((List.range 64).filter (fun p => covLattice c e.1 p e.2.1 e.2.2)).length
        ∧ x.audited = (s.ctl c.ctx c.ctl).audited + ((List.range 64).filter (fun p => covAudited c e.1 p e.2.1 e.2.2)).length
        ∧ x.recon = (s.ctl c.ctx c.ctl).recon + (covSkipped c e).length

/-- R297 to R307: batches and reconstruction. -/
def Obligations.CoverageBlocks : Prop := BatchesAreGranted ∧ BlocksAreReconstructed

/-! ## Launches and groups -/

/-- R62, R72, R74, R77, R376, R415: a LAUNCH of a valid descriptor of one stage whose cores are free starts it: its cores are bound to the new
launch's stage in their mode, strand slots 0 to c − 1 of each run at the entry with x1 to x4 from the descriptor and every other x
register 0, RGN at the entry, and its packet is incomplete. Where a relock of its deck holds the stage (R415), it is bound and released
later (the model's choice, log 76). A context whose core table names no core for it completes the packet with CAPACITY (R19). -/
def Sys2Proof.Claim.LaunchStarts : Prop :=
  ∀ (s : State) (h : Hdr) (desc sigaddr sigval : Word) (c : Ctx) (p : Pipeline) (d : StageDesc) (images : List Nat),
    let q := s.fq
    let ctx := qCtx s q
    let need := (coresOfStages ctx p.stages).map s.phys
    s.ctx ctx = some c → ctx ≠ 0 → (partDecks s c.part).any (deckCompute s) = true →
    readPipeline s (whoOf ctx) c desc.toNat = .ok (some p) → p.stages = [d] → ownRecord p = none → coverageOk s (whoOf ctx) p = true →
    readImages s (whoOf ctx) p.stages = .ok images → images.length = 1 → d.count ≤ 16 →
    ((∃ k ∈ stageCores ctx d, Tbl.look c.place (k % 2048) = none) →
      exec (.launch h desc sigaddr sigval) s = .next (fail s q h Status.capacity))
    ∧ ((∀ k ∈ stageCores ctx d, Tbl.look c.place (k % 2048) ≠ none) →
    tableHeld s c = false → (s.round c.part).active = false → need.any (stepPhys s).contains = false →
    need.all (coreServes s c.part) = true → waitsAhead s (queuePrio s q) need = false → occupants s need = [] →
      ((∃ x ∈ need, (s.deck (deckOf x)).relock = true) → ∃ t la, exec (.launch h desc sigaddr sigval) s = .next t
        ∧ t.launch s.nextId = some la ∧ la.stages = [d] ∧ la.sts = [.held])
      ∧ ((∀ x ∈ need, (s.deck (deckOf x)).relock = false ∧ ∀ e ∈ s.crossing, deckOf x ∉ e.2) →
      ∃ t la, exec (.launch h desc sigaddr sigval) s = .next t ∧ t.launch s.nextId = some la ∧ la.stages = [d] ∧ la.sts = [.running]
        ∧ la.ctx = ctx ∧ la.sigaddr = sigaddr ∧ la.sigval = sigval ∧ la.fault = none
        ∧ (∃ a ∈ t.asyncs, a.kind = .launch s.nextId ∧ a.qsb = q)
        ∧ (∀ k ∈ stageCores ctx d, (t.core k).launch = some s.nextId ∧ (t.core k).stage = 0 ∧ (t.core k).bound = true
            ∧ (t.core k).mode = d.mode ∧ (t.core k).count = d.count
            ∧ ∀ i, i < d.count → let u := t.strand (k * 16 + i)
                u.active = true ∧ u.idle = false ∧ u.pc = d.entry ∧ u.rgn = d.entry ∧ u.wait = .none ∧ u.fpc = p.fpc
                ∧ (∀ r : XReg, u.readX r = if r = 1 then d.a0 else if r = 2 then d.a1 else if r = 3 then d.a2 else if r = 4 then d.a3 else 0))))

/-- R78, R308, R373, R380: the only stage of a launch completes when its strands are idle with nothing staged, its queues are empty and
nothing of it is in flight; the launch then leaves its cores, its links are gone and its packet completes, at once where nothing
holds the add that it owes at SIGADDR. Before that nothing happens. -/
def Sys2Proof.Claim.StagesComplete : Prop :=
  ∀ (s : State) (l : Nat) (la : Launch), s.launch l = some la → la.stages.length = 1 → la.sts = [.running] →
    (stageDone s l 0 = true → ∃ t la1, exec (.stageComplete l 0) s = .next t ∧ t.launch l = some la1 ∧ la1.sts = [.complete])
    ∧ (stageDone s l 0 = true → la.sigaddr = 0 ∨ (s.crossing = [] ∧ ∀ d, (s.deck d).relock = false) → ∃ t la1, exec (.stageComplete l 0) s = .next t ∧ t.launch l = some la1 ∧ la1.sts = [.complete]
      ∧ (∀ k ∈ s.coresOf l 0, (s.core k).launch = some l → (t.core k).bound = false) ∧ (∀ a ∈ t.asyncs, a.kind ≠ .launch l) ∧ (∀ k ∈ t.links, k.launch ≠ l)
      ∧ (∀ d ∈ t.decrs, d.launch ≠ l) ∧ la1.ended = true)
    ∧ (stageDone s l 0 = false → exec (.stageComplete l 0) s = .next s)

/-- R62, R72 to R78, R308, R376, R380: LAUNCH, and the completion of a stage. -/
def Obligations.Launches : Prop := LaunchStarts ∧ StagesComplete

/-- R88, R90, R234: the discard of a running group: its strands' staged work and waits are gone, its cores' tiles and accumulators are
zero and their matrix operations gone, messages its regions had taken are back, its arrivals in the phases of the context's barriers
that are not full are withdrawn, memory and the x registers are unchanged, and the group is discarded. -/
def Sys2Proof.Claim.DiscardedGroups : Prop :=
  ∀ (s : State) (l st : Nat) (la : Launch), s.launch l = some la → la.sts[st]? = some .running →
    ∃ la1, let t := discardGroup s l st
      t.launch l = some la1 ∧ la1.sts[st]? = some .discarded ∧ t.mem = s.mem
      ∧ (∀ k ∈ s.strandsOf l st, (t.strand k).staged = [] ∧ (t.strand k).wait = .none ∧ (t.strand k).call = none
          ∧ (t.strand k).x = (s.strand k).x ∧ (t.strand k).rgn = (s.strand k).rgn ∧ (t.strand k).pc = (s.strand k).pc)
      ∧ (∀ k, k ∉ s.strandsOf l st → t.strand k = s.strand k)
      ∧ (∀ c ∈ s.coresOf l st, (t.core c).mx = [] ∧ (t.core c).tiles = Vector.replicate 8 (Vector.replicate 32 0)
          ∧ (∀ a : Fin 4, ((t.core c).accs[a]).tag = none ∧ ((t.core c).accs[a]).rows = Vector.replicate 32 0))
      ∧ (∀ key, let b := s.bar la.ctx key
          let left (l' : List Nat) := if l'.length < b.n.toNat then l'.filter (fun g => g ≠ stageKey l st) else l'
          t.bar la.ctx key = { b with cur := left b.cur, nxt := left b.nxt })
      ∧ (∀ ctx key, ctx ≠ la.ctx → t.bar ctx key = s.bar ctx key)
      ∧ (∀ e ∈ t.inbox, ∀ m ∈ e.2, ∀ i, i < 16 → m.taken = some i → (e.1 / 16) * 16 + i ∉ s.strandsOf l st)

/-- R89, R390, R415: a discarded group whose cores serve restarts: a strand with a task resumes at its RGN with x1 to x15 and TASKID from its save
slot, an idle one stays idle; FPC is the launch's, ACTIVE 0, the main vector, queue, last-result, mask and index registers of its
strands are zero, and memory is unchanged. A relock of a deck of the stage holds its release (R415), and so does a stage of higher index that its
launch has not released yet (R77). -/
def Sys2Proof.Claim.DiscardedGroupsRestart : Prop :=
  (∀ (s : State) (l st j : Nat) (la : Launch), s.launch l = some la → la.sts[st]? = some .held → st < j → la.sts[j]? = some .held →
    exec (.groupRestart l st) s = .next s)
  ∧ ∀ (s : State) (l st : Nat) (la : Launch), s.launch l = some la → la.sts[st]? = some .discarded → la.preempted = false → la.fault = none →
    let ds := heldAt s (stageSender l st) (stageDecks s l st)
    (stageServes s la st = true → ds ≠ [] → exec (.groupRestart l st) s = .next (noteHeld s (stageSender l st) ds))
    ∧ (stageServes s la st = true → ds = [] → ∃ t la1, exec (.groupRestart l st) s = .next t ∧ t.launch l = some la1 ∧ la1.sts[st]? = some .running
      ∧ t.mem = s.mem
      ∧ (∀ k ∈ s.strandsOf l st, let u := t.strand k
          u.idle = (s.strand k).idle ∧ u.wait = .none ∧ u.staged = [] ∧ u.fpc = la.fpc ∧ u.tActive = false ∧ u.vx = 0 ∧ u.vxw = 0
          ∧ u.l0 = 0 ∧ u.l1 = 0 ∧ u.tCode = (s.strand k).tCode ∧ u.tpc = (s.strand k).tpc ∧ u.tvec = (s.strand k).tvec
          ∧ (∀ j : Fin 8, u.q[j] = 0 ∧ u.m[j] = 0)
          ∧ (∀ i, i < allocOf (s.core (coreOf k)).mode → Tbl.get (t.core (coreOf k)).vf (physReg s k i) 0 = 0)
          ∧ ((s.strand k).idle = true → u.pc = (s.strand k).pc)
          ∧ ((s.strand k).idle = false → u.pc = (s.strand k).rgn
              ∧ (∀ r : XReg, r ≠ 0 → u.readX r = .ofNat 64 (Memory.readN s.mem (saveLoc k + 8 * (r.toNat - 1)) 8))
              ∧ u.taskid = .ofNat 48 (Memory.readN s.mem (saveLoc k + 120) 8)))
      ∧ (∀ k, k ∉ s.strandsOf l st → t.strand k = s.strand k))
    ∧ (stageServes s la st = false → exec (.groupRestart l st) s = .next s)

/-- R396: a pre-empted launch for which no core of its context's core table is held by another launch or by a step, whose own cores
serve, and whose displacing LAUNCH no longer waits, takes its cores back: its groups run again, where nothing holds their release at a
deck's boundary (R415). While the displacing LAUNCH waits, or once the launch has ended, it does not. -/
def Sys2Proof.Claim.PreemptedLaunchesRestart : Prop :=
  ∀ (s : State) (l : Nat) (la : Launch), s.launch l = some la → la.preempted = true →
    (displacerWaits s la = true ∨ la.ended = true → exec (.launchRestart l) s = .next s)
    ∧ (la.ended = false → (occupants s (tablePhys s l)).all (fun o => o = l) = true → (tablePhys s l).any (stepPhys s).contains = false →
      displacerWaits s la = false → (∀ st, st < la.stages.length → stageServes s la st = true) →
      ∃ t la1, exec (.launchRestart l) s = .next t ∧ t.launch l = some la1 ∧ la1.preempted = false ∧ la1.saved = []
        ∧ ((∀ st, st < la.stages.length → ∀ k ∈ s.coresOf l st,
              (s.deck (deckOf (s.phys k))).relock = false ∧ ∀ e ∈ s.crossing, deckOf (s.phys k) ∉ e.2) →
            ∀ st, st < la.stages.length → la.sts[st]? = some .discarded → la1.sts[st]? = some .running))

/-- R88 to R90, R234, R390, R396: groups discarded and restarted. -/
def Obligations.GroupsRestart : Prop := DiscardedGroups ∧ DiscardedGroupsRestart ∧ PreemptedLaunchesRestart

/-! ## Agents -/

/-- The instruction ends: of the machine only the agent in focus changes, to a1, with its pc past the instruction. -/
def Sys2Proof.Claim.AgentEnds (i : Instr) (s : State) (a1 : Agent) : Prop :=
  exec i s = .next { s with agents := Tbl.put s.agents s.fa { a1 with pc := a1.pc + 8 } }
/-- The agent in focus faults (R321). -/
def Sys2Proof.Claim.AgentTraps (i : Instr) (s : State) (c : Byte) (v : Word) (under : Nat) : Prop :=
  exec i s = .next (agentFault s s.fa c v under)
/-- An agent with one register written. -/
def Sys2Proof.Claim.withG (a : Agent) (r : BitVec 3) (v : Word) : Agent := { a with g := Vector.upd a.g r.toNat v }

/-- R322, R323, R325, R343: the results of the scalar and control instructions of an agent, GYIELD apart, and the faults that GCMP, GCALL,
GRET and GPRI may take. -/
def Obligations.AgentScalarResults : Prop :=
  ∀ (s : State) (a : Agent) (d g : BitVec 3) (i : Bool) (imm : W32) (cond : BitVec 3) (sense : Bool), s.agent s.fa = some a →
    let x := Vector.nth (n := 7) a.g d.toNat
    let y : Word := if i then imm.signExtend 64 else Vector.nth (n := 7) a.g g.toNat
    let c := cond.toNat
    let holds := (c = 0 ∧ x = y) ∨ (c = 1 ∧ x ≠ y) ∨ (c = 2 ∧ sv x < sv y) ∨ (c = 3 ∧ sv x ≥ sv y) ∨ (c = 4 ∧ uv x < uv y)
      ∨ (c = 5 ∧ uv x ≥ uv y)
    let goes (j : Instr) (p : Word) : Prop := exec j s = .next { s with agents := Tbl.put s.agents s.fa { a with pc := p } }
    let target := a.pc + 8 * imm.signExtend 64
    AgentEnds (.gli d imm) s (withG a d (imm.signExtend 64))
    ∧ AgentEnds (.glih d imm) s (withG a d (.ofNat 64 (imm.toNat * 2 ^ 32 + uv x % 2 ^ 32)))
    ∧ AgentEnds (.gadd d i g imm) s (withG a d (low (uv x + uv y)))
    ∧ AgentEnds (.gsub d i g imm) s (withG a d (low ((uv x : Int) - uv y)))
    ∧ AgentEnds (.gmul d i g imm) s (withG a d (low (uv x * uv y)))
    ∧ (holds → AgentEnds (.gcmp d i g imm cond) s { a with flag := true })
    ∧ (¬ holds → c ≤ 5 → AgentEnds (.gcmp d i g imm cond) s { a with flag := false })
    ∧ (6 ≤ c → AgentTraps (.gcmp d i g imm cond) s Cause.agentIllegal (.ofNat 64 ((encodeAgent (.gcmp d i g imm cond)).getD 0)) 0)
    ∧ (a.flag = sense → goes (.gb sense imm) target) ∧ (a.flag ≠ sense → goes (.gb sense imm) (a.pc + 8))
    ∧ goes (.gj imm) target
    ∧ (a.stack.length < 8 → exec (.gcall imm) s =
        .next { s with agents := Tbl.put s.agents s.fa { a with pc := target, stack := a.stack ++ [a.pc + 8] } })
    ∧ (8 ≤ a.stack.length → AgentTraps (.gcall imm) s Cause.agentStack a.pc 0)
    ∧ (∀ r p, a.stack = r ++ [p] → exec .gret s = .next { s with agents := Tbl.put s.agents s.fa { a with pc := p, stack := r } })
    ∧ (a.stack = [] → AgentTraps .gret s Cause.agentStack a.pc 0)
    ∧ (imm.toNat < 2 ^ 16 → imm.toNat / 8 % 32 = 0 →
        (imm.toNat / 256 ≠ 0 → AgentEnds (.gpri imm) s { a with prio := min (imm.toNat % 8) a.ceil, weight := imm.toNat / 256 })
        ∧ (imm.toNat / 256 = 0 → AgentTraps (.gpri imm) s Cause.ctxRange (imm.setWidth 64) 0))

/-- R263, R265, R324, R325, R383: loads, stores, signals and waits of an agent at an address that passes its checks; a check that fails
faults the agent with AGENT_ADDR, the address and the underlying cause: misalignment, translation and permission, a checked page,
a poisoned byte that is read, region 8 where no register of eight bytes is reached. What is read is corrected (R265). The read of a
waiting agent that comes to the boundary of a relocking deck is held there (R415). -/
def Obligations.AgentMemory : Prop :=
  ∀ (s : State) (a : Agent) (d g cond : BitVec 3) (w : Bool) (imm : W32) (h : Hit), s.agent s.fa = some a →
    let ea := uv (Vector.nth (n := 7) a.g g.toNat + imm.signExtend 64)
    let n := if w then 4 else 8
    let x := Vector.nth (n := 7) a.g d.toNat
    let v := Memory.readN s.mem h.loc
    let clean (k : Nat) : Prop := ∀ i, i < k → h.loc + i ∉ s.poison
    let wrote (t : State) (k val : Nat) : Prop := Memory.readN t.mem h.loc k = val
      ∧ (∀ b, b < h.loc ∨ h.loc + k ≤ b → Memory.read t.mem b = Memory.read s.mem b)
      ∧ t.agent s.fa = some { a with pc := a.pc + 8 } ∧ t = { s with agents := t.agents, mem := t.mem, poison := t.poison, soft := t.soft, perf := t.perf }
    let c := cond.toNat
    let y := v 8
    let holds := (c = 0 ∧ y = uv x) ∨ (c = 1 ∧ y ≠ uv x) ∨ (c = 2 ∧ sb 8 y < sv x) ∨ (c = 3 ∧ sb 8 y ≥ sv x) ∨ (c = 4 ∧ y < uv x)
      ∨ (c = 5 ∧ y ≥ uv x)
    let seen (i : Instr) (s0 : State) (a1 : Agent) (q : List Nat) : Prop := ∃ soft perf, exec i s0 =
        .next { s0 with soft := soft, perf := perf, agents := Tbl.put s.agents s.fa a1, slotQueue := q } ∧ (s.soft = [] → soft = [] ∧ perf = s.perf)
    let ends (i : Instr) (a1 : Agent) : Prop := seen i s { a1 with pc := a1.pc + 8 } s.slotQueue
    let bad (i : Instr) (k : Byte) : Prop := AgentTraps i s Cause.agentAddr (.ofNat 64 ea) k.toNat
    let gets (acc : AccKind) (k : Nat) : Prop := ea % k = 0 ∧ translate s (.ctx a.home) ea k acc = .ok h
    let wait := Instr.gwait d g cond imm
    (agentHit s a.home ea n .read = .ok h → clean n →
      ends (.gld d g w imm) (withG a d (if w then ext true 4 (v 4) else .ofNat 64 (v 8))))
    ∧ (agentHit s a.home ea n .write = .ok h → ∃ t, exec (.gst d g w imm) s = .next t ∧ wrote t n (uv x % 2 ^ (8 * n)))
    ∧ (agentHit s a.home ea 8 .write = .ok h → clean 8 →
        ∃ t, exec (.gsig d g imm) s = .next t ∧ wrote t 8 ((v 8 + uv x) % 2 ^ 64))
    ∧ (agentHit s a.home ea 8 .read = .ok h → clean 8 →
        (holds → ends wait (withG { a with st := stReady, cur := none } d (.ofNat 64 y)))
        ∧ (¬ holds → c ≤ 5 → seen wait s { a with st := stWait, cur := some wait } s.slotQueue)
        ∧ (a.st = stWait → a.cur = some wait → edged s (partOf s a) .machine = false → ∀ f,
            let ds := touchHeld s (agentSender s.fa) { reads := [], rest := [(.ctx a.home, ea, 8)] }
            (ds ≠ [] → exec (.gwaitRecheck s.fa) { s with fa := f } = .next { noteHeld s (agentSender s.fa) ds with fa := f })
            ∧ (ds = [] → holds → ∃ soft perf, exec (.gwaitRecheck s.fa) { s with fa := f } = .next { dropHeld s (agentSender s.fa) with
                  fa := f, soft := soft, perf := perf
                  agents := Tbl.put s.agents s.fa { withG { a with st := stReady, cur := none } d (.ofNat 64 y) with pc := a.pc + 8 }
                  slotQueue := if a.resident = true ∨ s.fa ∈ s.slotQueue then s.slotQueue else s.slotQueue ++ [s.fa] }
                ∧ (s.soft = [] → soft = [] ∧ perf = s.perf))))
    ∧ (a.cur = some wait → edged s (partOf s a) .machine = true → exec (.gwaitRecheck s.fa) s = .next s)
    ∧ (6 ≤ c → AgentTraps wait s Cause.agentIllegal (.ofNat 64 ((encodeAgent wait).getD 0)) 0)
    ∧ (ea % n ≠ 0 → bad (.gld d g w imm) Cause.misaligned ∧ bad (.gst d g w imm) Cause.misaligned)
    ∧ (ea % 8 ≠ 0 → bad (.gsig d g imm) Cause.misaligned ∧ (c ≤ 5 → bad wait Cause.misaligned))
    ∧ (∀ k, (ea % n = 0 → translate s (.ctx a.home) ea n .read = .error k → bad (.gld d g w imm) k)
        ∧ (ea % n = 0 → translate s (.ctx a.home) ea n .write = .error k → bad (.gst d g w imm) k)
        ∧ (ea % 8 = 0 → translate s (.ctx a.home) ea 8 .write = .error k → bad (.gsig d g imm) k)
        ∧ (ea % 8 = 0 → translate s (.ctx a.home) ea 8 .read = .error k → c ≤ 5 → bad wait k))
    ∧ (h.checked.isSome = true → (gets .read n → bad (.gld d g w imm) Cause.mmRace)
        ∧ (gets .write n → bad (.gst d g w imm) Cause.mmRace) ∧ (gets .write 8 → bad (.gsig d g imm) Cause.mmRace)
        ∧ (gets .read 8 → c ≤ 5 → bad wait Cause.mmRace))
    ∧ (agentHit s a.home ea n .read = .ok h → ¬ clean n → bad (.gld d g w imm) Cause.dataPoison)
    ∧ (agentHit s a.home ea 8 .write = .ok h → ¬ clean 8 → bad (.gsig d g imm) Cause.dataPoison)
    ∧ (agentHit s a.home ea 8 .read = .ok h → ¬ clean 8 → c ≤ 5 → bad wait Cause.dataPoison)
    ∧ (h.device = true → h.checked = none → (gets .write 8 → bad (.gsig d g imm) Cause.paAbsent)
        ∧ (w = true → (gets .read 4 → bad (.gld d g w imm) Cause.paAbsent) ∧ (gets .write 4 → bad (.gst d g w imm) Cause.paAbsent))
        ∧ (∀ pa, w = false → h.pa = some pa →
            (gets .read 8 → ends (.gld d g w imm) (withG a d (devRead s (pa % 2 ^ 48))))
            ∧ (gets .write 8 → exec (.gst d g w imm) s = .next ((devWrite s (pa % 2 ^ 48) x).setAgent s.fa { a with pc := a.pc + 8 }))))

/-- R314, R321 to R323: an agent fault leaves the agent FAULTED with its cause and TVAL, GHALT leaves it HALTED past the instruction with
no contexts: out of the planner's ring, of a step to be planned again and of the queue for a slot, with DEFICIT 0 and everything else of it
as before. No AGENT packet waits for it here. -/
def Sys2Proof.Claim.AgentsStop : Prop :=
  ∀ (s : State) (a : Agent) (g : BitVec 3) (c under : Byte) (v : Word), s.agent s.fa = some a → (∀ x ∈ s.asyncs, ∀ d, x.kind ≠ .agent s.fa d) →
    let part := partOf s a
    let out (t : State) : Prop := s.fa ∉ (t.planner part).ring ∧ s.fa ∉ t.slotQueue
      ∧ (∀ st, (t.planner part).replan = some st → ∀ p ∈ st.plans, p.agent ≠ s.fa)
    (∃ t, exec (.agentIllegal c v under) s = .next t ∧ out t
      ∧ t.agent s.fa = some { a with st := stFaulted, cause := c, tval := v, deficit := 0, suspendReq := false })
    ∧ (∃ t, exec (.ghalt g) s = .next t ∧ out t
      ∧ t.agent s.fa = some { a with st := stHalted, pc := a.pc + 8, ctxs := Vector.replicate 16 0, deficit := 0, suspendReq := false }
      ∧ (∀ r : Fin 16, a.ctxs[r] ≠ 0 → t.tok a.ctxs[r] = none))

/-- R343: GYIELD gives up the rest of the quantum: DEFICIT 0, and the agent is last in its planner's ring, the others in their order. -/
def Sys2Proof.Claim.AgentYields : Prop :=
  ∀ (s : State) (a : Agent), s.agent s.fa = some a →
    let p := s.planner (partOf s a)
    ∃ t, exec .gyield s = .next t ∧ t.agent s.fa = some { a with pc := a.pc + 8, deficit := 0 } ∧ t.mem = s.mem
      ∧ (s.fa ∈ p.ring → (t.planner (partOf s a)).ring = p.ring.filter (fun x => x ≠ s.fa) ++ [s.fa])
      ∧ (s.fa ∉ p.ring → t.planner (partOf s a) = p)

/-- R314, R321 to R323, R343: agents that fault, halt and yield. -/
def Obligations.AgentsStopAndYield : Prop := AgentsStop ∧ AgentYields

/-- R315, R322, R326 to R329, R355, R358: the instructions on token contexts. A ctx register without a context raises CTX_EMPTY, a field
code that is not in the table AGENT_ILLEGAL, and a context or block beyond the machine's CTX_EXHAUSTED. CNEW gives a
context with the defaults, CFORK one with the same tokens, parameters and blocks and no draft state; CDROP drops, CTRIM cuts the
tokens to the first m, CLEN and CTOK read, CAPPT appends a pending token, CBIND rebinds with every position pending, CSETS and
CSETX write one field in its limits. -/
def Obligations.TokenContextInstructions : Prop :=
  ∀ (s : State) (a : Agent) (d g sel : BitVec 3) (cd cs : BitVec 4) (imm : W32), s.agent s.fa = some a →
    let hd := Vector.nth (n := 15) a.ctxs cd.toNat
    let hs := Vector.nth (n := 15) a.ctxs cs.toNat
    let x := Vector.nth (n := 7) a.g g.toNat
    let part := partOf s a
    let made (i : Instr) (u : TokCtx) : Prop := ∃ t, exec i s = .next t ∧ t.tok s.nextId = some u ∧ t.nextId = s.nextId + 1
      ∧ t.agent s.fa = some { a with pc := a.pc + 8, ctxs := Vector.upd a.ctxs cd.toNat s.nextId } ∧ t.mem = s.mem
    let keeps (i : Instr) (u : TokCtx) : Prop := ∃ t, exec i s = .next t ∧ t.tok hd = some u ∧ (∀ h, h ≠ hd → t.tok h = s.tok h)
      ∧ t.agent s.fa = some { a with pc := a.pc + 8 } ∧ t.mem = s.mem
    (∀ m, modelOf s part imm.toNat = some m → imm.toNat ≤ 4095 → s.toks.length < 2 ^ 20 → hd < s.nextId → made (.cnew cd imm)
      { model := imm.toNat, toks := [], pending := 0, blocks := [], last := none, key := 0, temp := 0x3F800000, endtok := 0xFFFFFFFF,
        mask := 0xFFFFFFFF, stops := 0, hold := true, pos := 0, ring := 0, depmin := 1, depmax := 1, spec := 0, thresh := 0x3F000000,
        depth := 1, window := none, history := [], jacobi := 0 })
    ∧ (modelOf s part imm.toNat = none → imm.toNat ≤ 4095 → AgentTraps (.cnew cd imm) s Cause.modelAbsent (imm.setWidth 64) 0)
    ∧ (hd = 0 ∨ s.tok hd = none → (∀ i ∈ [Instr.cdrop cd, .ctrim cd g, .cappt cd g, .cbind cd imm],
        AgentTraps i s Cause.ctxEmpty (cd.setWidth 64) 0)
        ∧ (sel ≠ 7 → AgentTraps (.csets cd g sel) s Cause.ctxEmpty (cd.setWidth 64) 0)
        ∧ (sel.toNat ≤ 4 → AgentTraps (.csetx cd g sel) s Cause.ctxEmpty (cd.setWidth 64) 0)
        ∧ (2 ^ 20 ≤ s.toks.length → (∀ m, modelOf s part imm.toNat = some m → imm.toNat ≤ 4095 →
              AgentTraps (.cnew cd imm) s Cause.ctxExhausted 0 0)
            ∧ (∀ u, hs ≠ 0 → s.tok hs = some u → AgentTraps (.cfork cd cs) s Cause.ctxExhausted 0 0)))
    ∧ (hs = 0 ∨ s.tok hs = none → ∀ i ∈ [Instr.cfork cd cs, .clen d cs, .ctok d cs g, .cinfo d cs sel],
        AgentTraps i s Cause.ctxEmpty (cs.setWidth 64) 0)
    ∧ (sel = 7 → AgentTraps (.csets cd g sel) s Cause.agentIllegal (.ofNat 64 ((encodeAgent (.csets cd g sel)).getD 0)) 0)
    ∧ (5 ≤ sel.toNat → AgentTraps (.csetx cd g sel) s Cause.agentIllegal (.ofNat 64 ((encodeAgent (.csetx cd g sel)).getD 0)) 0)
    ∧ (∀ u, hs ≠ 0 → s.tok hs = some u →
        (s.toks.length < 2 ^ 20 → hd < s.nextId → made (.cfork cd cs) { u with depth := u.depmin, window := none, history := [], jacobi := 0 })
        ∧ AgentEnds (.clen d cs) s (withG a d (.ofNat 64 u.toks.length))
        ∧ (∀ v, u.toks[uv x]? = some v → AgentEnds (.ctok d cs g) s (withG a d (.ofNat 64 v)))
        ∧ (u.toks.length ≤ uv x → AgentTraps (.ctok d cs g) s Cause.ctxRange x 0)
        ∧ (∃ v, AgentEnds (.cinfo d cs sel) s (withG a d v) ∧ (sel = 0 → v = .ofNat 64 u.model) ∧ (sel = 1 → v = .ofNat 64 ((u.toks.length + 15) / 16))
            ∧ (sel = 2 → v = .ofNat 64 ((u.blocks ++ u.last.toList).filter (fun b => !(inCellar s b))).length)
            ∧ (sel = 3 → v = .ofNat 64 ((u.blocks ++ u.last.toList).filter (fun b => 1 < blockCount s b)).length)
            ∧ (sel = 4 → v = .ofNat 64 u.pending) ∧ (sel = 5 → v = u.pos) ∧ (sel = 7 → v = .ofNat 64 (2 ^ 20 - u.toks.length))))
    ∧ (∀ u, hd ≠ 0 → s.tok hd = some u →
        (∃ t, exec (.cdrop cd) s = .next t ∧ t.tok hd = none ∧ (∀ h, h ≠ hd → t.tok h = s.tok h)
          ∧ t.agent s.fa = some { a with pc := a.pc + 8, ctxs := Vector.upd a.ctxs cd.toNat 0 })
        ∧ (let used (s : State) := blocksKept s (flightBlocks s)
           let cut := blocksKept (trimCtx s part u (uv x)).1 (flightBlocks s)
           (Config.kvBlocks < cut + reservedBlocks s → used s < cut → AgentTraps (.ctrim cd g) s Cause.ctxExhausted 0 0)
           ∧ (cut + reservedBlocks s ≤ Config.kvBlocks ∨ cut ≤ used s → ∃ w, keeps (.ctrim cd g) w ∧ w.toks = u.toks.take (uv x) ∧ w.model = u.model ∧ w.key = u.key
            ∧ (u.pending ≤ u.toks.length → w.pending = w.toks.length - min (u.toks.length - u.pending) w.toks.length)))
        ∧ (∀ m, modelOf s part u.model = some m →
            (uv x < m.v → u.toks.length < 2 ^ 20 → keeps (.cappt cd g) { u with toks := u.toks ++ [uv x], pending := u.pending + 1 })
            ∧ (m.v ≤ uv x → AgentTraps (.cappt cd g) s Cause.ctxRange x 0))
        ∧ (∀ m, modelOf s part imm.toNat = some m → imm.toNat ≤ 4095 → (modelOf s part u.model = none ∨ ∃ k, modelOf s part u.model = some k ∧ k.v = m.v) →
            keeps (.cbind cd imm) { u with model := imm.toNat, pending := u.toks.length, blocks := [], last := none })
        ∧ (sel.toNat ≤ 6 → (∀ w, setSampling u (vocab s a u) x sel.toNat = some w → keeps (.csets cd g sel) w)
            ∧ (setSampling u (vocab s a u) x sel.toNat = none → AgentTraps (.csets cd g sel) s Cause.ctxRange x 0))
        ∧ (sel.toNat ≤ 4 → (∀ w, setExtension u x sel.toNat = some w → keeps (.csetx cd g sel) w)
            ∧ (setExtension u x sel.toNat = none → AgentTraps (.csetx cd g sel) s Cause.ctxRange x 0)))

/-! ## Long instructions and steps -/

/-- R327, R332 to R336: a long instruction with work makes its agent LONG with PROGRESS from the start, and the planner's ring
takes it; one without work ends at once: CAPPEND and CSCORE of an empty string, CGEN of nothing (FLAG 0). A count that does not
fit and an empty ctx register fault. -/
def Obligations.LongInstructionsStart : Prop :=
  ∀ (s : State) (a : Agent) (cd : BitVec 4) (d g : BitVec 3) (imm : W32) (u : TokCtx), s.agent s.fa = some a →
    let h := Vector.nth (n := 15) a.ctxs cd.toNat
    let x := Vector.nth (n := 7) a.g g.toNat
    let va : Word := x + imm.signExtend 64
    let part := partOf s a
    let enters (i : Instr) (s1 : State) (p : Progress) (stops : List (List Nat)) : Prop := exec i s = .next (refreshRing
      { s1 with agents := Tbl.put s.agents s.fa { a with st := stLong, cur := some i, prog := p, stops := stops, held := [] } } part)
    let start (total addr : Nat) : Progress :=
      { done := 0, total := total, cand := 0, psum := 0, best := 0, bscore := 0, addr := .ofNat 64 addr, scored := [] }
    (h = 0 ∨ s.tok h = none → ∀ i ∈ [Instr.cappend cd g imm, .cgen cd d g, .cscore d cd g imm, .cchoose cd d g imm],
      AgentTraps i s Cause.ctxEmpty (cd.setWidth 64) 0)
    ∧ (h ≠ 0 → s.tok h = some u →
        (∀ c, readId s a (uv va) = .ok c →
          (u.toks.length + c ≤ 2 ^ 20 → c ≠ 0 → enters (.cappend cd g imm) s (start c (uv va)) [])
          ∧ (2 ^ 20 < u.toks.length + c → AgentTraps (.cappend cd g imm) s Cause.ctxRange (.ofNat 64 c) 0)
          ∧ (c ≠ 0 → enters (.cscore d cd g imm) s (start c (uv va)) [])
          ∧ (c = 0 → AgentEnds (.cscore d cd g imm) s (withG a d 0)
              ∧ (u.toks.length ≤ 2 ^ 20 → AgentEnds (.cappend cd g imm) s a))
          ∧ (1 ≤ c → c ≤ 65536 → allEmpty s a c (uv va + 4) = false → enters (.cchoose cd d g imm) s (start c (uv va + 4)) [])
          ∧ (c = 0 ∨ 65536 < c → AgentTraps (.cchoose cd d g imm) s Cause.ctxRange (.ofNat 64 c) 0))
        ∧ (∀ f, readId s a (uv va) = .error f → AgentTraps (.cappend cd g imm) s f.1 f.2.1 f.2.2)
        ∧ (∀ f, readId s a (uv va) = .error f → AgentTraps (.cscore d cd g imm) s f.1 f.2.1 f.2.2
            ∧ AgentTraps (.cchoose cd d g imm) s f.1 f.2.1 f.2.2)
        ∧ (modelOf s part u.model = none → AgentTraps (.cgen cd d g) s Cause.modelAbsent (.ofNat 64 u.model) 0)
        ∧ (∀ m, modelOf s part u.model = some m →
            (∀ f, readStops s a m.v u.stops = .error f → AgentTraps (.cgen cd d g) s f.1 f.2.1 f.2.2)
            ∧ (∀ stops, readStops s a m.v u.stops = .ok stops →
                (uv x ≠ 0 → u.toks.length < 2 ^ 20 →
                  enters (.cgen cd d g) { s with toks := Tbl.put s.toks h { u with depth := u.depmin, window := none } }
                    { start (min (uv x) (2 ^ 32 - 1)) 0 with addr := 0 } stops)
                ∧ (uv x = 0 ∨ 2 ^ 20 ≤ u.toks.length → AgentEnds (.cgen cd d g) s { withG a d 0 with flag := false })))
        ∧ (∀ c, readId s a (uv va) = .ok c → 1 ≤ c → c ≤ 65536 → allEmpty s a c (uv va + 4) = true →
            AgentEnds (.cchoose cd d g imm) s (withG a d 0)))

/-- R19, R330, R337, R419: while a partition has a step in flight, its machine frozen, a round running or no serving compute deck,
no step is planned, and what one had held at a boundary gives up its place; a partition whose ring is and stays empty plans none,
and one that faulted waits until its agents are ready. -/
def Sys2Proof.Claim.StepsArePlanned : Prop :=
  ∀ (s : State) (part : Nat), let p := s.planner part
    ((∃ f, p.flight = some f) → exec (.stepPlan part) s = .next s)
    ∧ (p.flight = none → edged s part .machine = true ∨ (s.round part).active = true ∨ (∀ d ∈ partDecks s part, deckServes s d = false) →
        exec (.stepPlan part) s = .next (dropHeld s (plannerSender part)))
    ∧ (p.flight = none → edged s part .machine = false → (s.round part).active = false → (partDecks s part).any (deckServes s) = true →
        ∀ st, ((refreshRing s part).planner part).replan = some st → (∃ x ∈ st.plans, readyToPlan (refreshRing s part) x.agent = false) →
          exec (.stepPlan part) s = .next (dropHeld (refreshRing s part) (plannerSender part)))
    ∧ (p.flight = none → p.replan = none → s.agents = [] → ∃ t, exec (.stepPlan part) s = .next t ∧ (t.planner part).flight = none
        ∧ t.mem = s.mem)

/-- R343: a visit of the ring adds 16 × W × 2^PRIO to DEFICIT unless the head's visit goes on, takes what DEFICIT, demand and room
allow, and ends, the agent to the tail, with no demand or no DEFICIT left. -/
def Sys2Proof.Claim.RingVisits : Prop :=
  ∀ (s : State) (f : Forming) (id : Nat) (r : List Nat) (a : Agent), f.ring = id :: r → s.agent id = some a →
    let d := Tbl.get f.defs id 0 + (if f.visiting then 0 else 16 * a.weight * 2 ^ a.prio)
    let demand := demandOf s id - Tbl.get f.planned id 0
    let k := min d (min demand f.room)
    let g := visitRing s f
    g.room = f.room - k ∧ Tbl.get g.planned id 0 = Tbl.get f.planned id 0 + k ∧ Tbl.get g.defs id 0 = (if k = demand then 0 else d - k)
    ∧ (∀ x, x ≠ id → Tbl.get g.planned x 0 = Tbl.get f.planned x 0 ∧ Tbl.get g.defs x 0 = Tbl.get f.defs x 0)
    ∧ (k = demand ∨ k = d → g.ring = r ++ [id] ∧ g.visiting = false) ∧ (k ≠ demand → k ≠ d → g.ring = f.ring ∧ g.visiting = true)

/-- R330, R343: the positions of a new step: of agents of the ring, at least one and at most its demand of each, at most 4,096
together, and the ring's whole demand where that is less. Weights are at least 1 (GPRI, CREATE). -/
def Sys2Proof.Claim.StepsAreFilled : Prop :=
  ∀ (s : State) (part : Nat), let q := s.planner part
    let f := formNew s part
    let total := (f.plans.map (fun x => x.count)).foldl (· + ·) 0
    q.ring.Nodup → (∀ id ∈ q.ring, ∃ a, s.agent id = some a ∧ 1 ≤ a.weight) →
    (q.visiting = true → ∀ id a, q.ring.head? = some id → s.agent id = some a → a.deficit ≠ 0) →
    total ≤ 4096 ∧ (f.plans.map (fun x => x.agent)).Nodup ∧ f.retry = false
    ∧ (∀ x ∈ f.plans, x.agent ∈ q.ring ∧ 1 ≤ x.count ∧ x.count ≤ demandOf s x.agent)
    ∧ (total = 4096 ∨ ∀ id ∈ q.ring, 1 ≤ demandOf s id → ∃ x ∈ f.plans, x.agent = id ∧ x.count = demandOf s id)
    ∧ (∀ x ∈ f.plans, x.count = demandOf s x.agent → ∃ a, f.st.agent x.agent = some a ∧ a.deficit = 0)

/-- R316, R322, R330, R337, R343, R363: a step goes in flight with its positions: those that the ring gives, or again those of the
step whose launch faulted, read anew. Its launch takes free cores of the contexts of its models, those picked where any are
picked; a launch of priority 7 there holds it off, and so do the boundaries of relocking decks, for the cores and for what the
step reads in them (R415). Agents without room for their blocks have left it. -/
def Sys2Proof.Claim.StepsFly : Prop :=
  ∀ (s : State) (part : Nat) (f : Formed), let s1 := refreshRing s part
    let q := s1.planner part
    let table := stepTable f.st part f.plans
    let free := table.filter (fun k => coreServes s1 part (s1.phys k))
    let picked := free.filter (fun k => k ∈ s.picks)
    let cores := if picked = [] then free else picked
    let phys := cores.map s1.phys
    let me := plannerSender part
    let touch := planTouches (planTouch f.st part) f.plans
    let ds := heldAt s1 me (touchDecks f.st touch ++ phys.map deckOf).eraseDups
    let st := touchSeen (dropHeld f.st me) touch
    let r := allocate st (flightBlocks st) (reservedBlocks st) f.plans
    (s.planner part).flight = none → edged s part .machine = false → (s.round part).active = false →
    (partDecks s part).any (deckServes s) = true → f.plans ≠ [] →
    (q.replan = none ∧ f = formNew s1 part)
      ∨ (∃ st, q.replan = some st ∧ (∀ x ∈ st.plans, readyToPlan s1 x.agent = true) ∧ f.st = s1.setPlanner part { q with replan := none }
          ∧ f.retry = true ∧ f.plans = st.plans.map (fun x => planFor s1 part x.agent (min x.count (demandOf s1 x.agent)))) →
    (free = [] → table = []) →
    (ds ≠ [] → exec (.stepPlan part) s = .next (noteHeld s1 me ds))
    ∧ (ds = [] → occupants s1 phys = [] → (∀ x ∈ phys, x ∉ stepPhys s1) →
      ∃ t, exec (.stepPlan part) s = .next t
        ∧ (t.planner part).flight = (if r.2 = [] then none else some { plans := r.2, retry := f.retry, cores := cores })
        ∧ (t.planner part).replan = (if f.retry then none else q.replan))
    ∧ (ds = [] → (∃ l ∈ occupants s1 phys, 7 ≤ prioOf s1 l) → exec (.stepPlan part) s = .next (dropHeld s1 me))

/-- R331, R334: a step that computes the last positions of a CAPPEND of the machine's only agent: the context has the tokens,
computed, and the agent is READY past the instruction with PROGRESS zero; no step is in flight. Where no step is in flight nothing
happens. -/
def Sys2Proof.Claim.StepsComplete : Prop :=
  ∀ (s : State) (part idle stall : Nat),
    ((s.planner part).flight = none → exec (.stepComplete part idle stall) s = .next s)
    ∧ (∀ id a h u m f pl cd g imm, s.agents = [(id, a)] → a.cur = some (.cappend cd g imm) → longCtx s a = some (h, u) → u.pending = 0 → u.spec = 0 →
        modelOf s part u.model = some m → (s.planner part).flight = some f → f.plans = [pl] → pl.agent = id → pl.fault = none →
        pl.count = pl.ids.length → pl.ids ≠ [] → a.prog.total ≤ a.prog.done + pl.ids.length → a.suspendReq = false → partOf s a = part →
        ∃ t b w, exec (.stepComplete part idle stall) s = .next t ∧ (t.planner part).flight = none ∧ t.agent id = some b ∧ t.tok h = some w
          ∧ b.st = stReady ∧ b.pc = a.pc + 8 ∧ b.prog = Progress.zero ∧ b.cur = none ∧ b.g = a.g ∧ b.ctxs = a.ctxs ∧ b.flag = a.flag
          ∧ w.toks = u.toks ++ pl.ids ∧ w.pending = 0 ∧ w.key = u.key ∧ t.mem = s.mem)

/-- R314, R331, R337, R396: a step whose launch faults is planned once more, with the same positions (none of which the pantry
gives here), where its agents are LONG, not asked to suspend; one asked to suspend is SUSPENDED on its instruction; a
pre-empted step leaves nothing to plan again; a second fault faults its agent (here the machine's only one) with MODEL_FAULT and
the cause. (Where agents stop here, nothing relocks or is held.) -/
def Sys2Proof.Claim.StepsFault : Prop :=
  ∀ (s : State) (part : Nat) (c : BitVec 8) (f : Sys2Proof.Machine.Step), (s.planner part).flight = some f →
    let free := s.crossing = [] ∧ ∀ d, (s.deck d).relock = false
    (f.retry = false → s.pantry = [] → (∀ p ∈ f.plans, ∃ a, s.agent p.agent = some a ∧ a.st = stLong ∧ a.suspendReq = false) →
      ∃ t, exec (.stepFault part (some c)) s = .next t ∧ (t.planner part).flight = none
        ∧ (t.planner part).replan = some { plans := f.plans, retry := true, cores := [] })
    ∧ (free → f.retry = false → ∃ t, exec (.stepFault part none) s = .next t ∧ (t.planner part).flight = none ∧ (t.planner part).replan = none)
    ∧ (∀ id a pl, free → f.retry = false → f.plans = [pl] → pl.agent = id → s.agents = [(id, a)] → partOf s a = part → s.asyncs = [] →
        a.suspendReq = true →
        ∃ t b, exec (.stepFault part (some c)) s = .next t ∧ t.agent id = some b ∧ b.st = stSuspended ∧ b.pc = a.pc ∧ b.cur = a.cur ∧ b.g = a.g
          ∧ (t.planner part).flight = none ∧ (t.planner part).replan = some { plans := [], retry := true, cores := [] })
    ∧ (∀ id a pl, free → f.retry = true → f.plans = [pl] → pl.agent = id → s.agents = [(id, a)] → partOf s a = part → s.asyncs = [] →
        ∃ t b, exec (.stepFault part (some c)) s = .next t ∧ (t.planner part).flight = none ∧ t.agent id = some b ∧ b.st = stFaulted
          ∧ b.cause = Cause.modelFault ∧ b.tval = c.setWidth 64 ∧ b.pc = a.pc ∧ b.g = a.g)

/-- R330 to R337, R343, R419: steps planned, launched, completed and faulted. -/
def Obligations.StepsRun : Prop := StepsArePlanned ∧ RingVisits ∧ StepsAreFilled ∧ StepsFly ∧ StepsComplete ∧ StepsFault

/-- R312, R316, R342, R344: a block that a step in flight reads stays; another moves to DRAM or a deck store, or, not named by a
current or looked-ahead instruction and least recently used of those outside, to the cellar; a cached one is evicted only for want
of room, unreferenced and least recently used. The agent that waits longest for a slot is brought into a free one. The rings of
the partition are then as R343 says. -/
def Obligations.BlocksAndAgentsMove : Prop :=
  ∀ (s : State) (e id out : Nat) (b : Block) (a : Agent) (place : BitVec 2),
    (Tbl.look s.pantry e = some b →
      let stays : Prop := exec (.blockMove e place) s = .next s
      let moves : Prop := ∃ t, exec (.blockMove e place) s = .next (refreshRing t b.part)
          ∧ t.pantry = Tbl.put s.pantry e { b with place := place } ∧ t = { s with pantry := t.pantry, perfPart := t.perfPart }
      (flightReads s e = true → stays)
      ∧ (flightReads s e = false → place.toNat ≤ 1 → moves)
      ∧ (place = 2 → namedBlock s e = true ∨ (∃ k c, (k, c) ∈ s.pantry ∧ c.place ≠ 2 ∧ namedBlock s k = false ∧ flightReads s k = false ∧ c.used < b.used) → stays)
      ∧ (flightReads s e = false → place = 2 → namedBlock s e = false →
          (∀ k c, (k, c) ∈ s.pantry → c.place ≠ 2 → namedBlock s k = false → flightReads s k = false → b.used ≤ c.used) → moves)
      ∧ (place = 3 → b.refs ≠ 0 ∨ s.pantry.length + reservedBlocks s < Config.kvBlocks
          ∨ (∃ k c, (k, c) ∈ s.pantry ∧ c.refs = 0 ∧ flightReads s k = false ∧ c.used < b.used) → stays)
      ∧ (flightReads s e = false → place = 3 → b.refs = 0 → Config.kvBlocks ≤ s.pantry.length + reservedBlocks s →
          (∀ k c, (k, c) ∈ s.pantry → c.refs = 0 → flightReads s k = false → b.used ≤ c.used) → exec (.blockMove e place) s = .next { s with pantry := Tbl.del s.pantry e }))
    ∧ (s.slotQueue.head? ≠ some id → exec (.agentSwapIn id out) s = .next s)
    ∧ (s.slotQueue.head? = some id → s.agent id = some a →
        (residentCount s < 8192 → exec (.agentSwapIn id out) s =
            .next (refreshRing { s with agents := Tbl.put s.agents id { a with resident := true }
                                        slotQueue := s.slotQueue.filter (fun x => x ≠ id) } (partOf s a)))
        ∧ (8192 ≤ residentCount s → (∀ o, s.agent out = some o → o.resident = false ∨ inFlight s (partOf s o) out = true) →
            exec (.agentSwapIn id out) s = .next s))

/-! ## Queues and packets -/

/-- n bytes written at a location, the marks of a whole sector cleared and the single-bit errors in them gone (R265). -/
def Sys2Proof.Claim.put (s : State) (loc n v : Nat) : State :=
  { s with mem := Memory.writeN s.mem loc n v, poison := clearPoison s.poison loc n
           soft := s.soft.filter (fun a => !(loc ≤ a && a < loc + n)) }

/-- A signal word as the front end reaches it for the queue in focus: aligned, unchecked, readable at r and writable at w. -/
def Sys2Proof.Claim.signalWord (s : State) (va : Nat) (r w : Hit) : Prop :=
  va % 8 = 0 ∧ translate s (whoOf (qCtx s s.fq)) va 8 .read = .ok r ∧ translate s (whoOf (qCtx s s.fq)) va 8 .write = .ok w
  ∧ r.checked = none ∧ r.device = false ∧ w.device = false ∧ ∀ i, i < 8 → r.loc + i ∉ s.poison

/-- R364, R371, R373, R380, R381: what it means that a packet completes at its start (finish) and fails (fail). Completing clears the mark
at RPTR and moves RPTR past the packet, and the QSB and the rest of memory are as before; failing leaves RPTR on the packet,
writes STATUS and FAULTPTR and halts the queue, one in WAIT once its WAITS has completed, one in UNLINKING where its STATE stays (what it had
before the front end began to move it counts, log 46);
with CONT the queue goes on past it. REPORT adds a completion record. NOP, FENCE
once the queue's earlier packets have completed, and packets that are none are the plainest. -/
def Obligations.PacketsCompleteOrFail : Prop :=
  ∀ (s : State) (h : Hdr) (status l : Nat) (code : Byte),
    let q := s.fq
    let base := locOf q
    let far (b : Nat) : Prop := b < base ∨ base + 256 ≤ b
    let quiet : Hdr := { h with report := false, cont := false }
    let going : Hdr := { h with report := false, cont := true }
    exec (.nop h) s = .next (finish s q h)
    ∧ (asyncsOf s q = [] → exec (.fencePacket h) s = .next (finish s q h))
    ∧ (asyncsOf s q ≠ [] → exec (.fencePacket h) s = .next s)
    ∧ exec (.badPacket h code) s = .next (fail s q h 1)
    ∧ (q % 256 = 0 → extLocs s (whoOf (qCtx s q)) (sectorsOf (qRptr s q) 1 2) = .ok [(l, 1)] → far l →
        (let t := finish s q quiet
         qRptr t q = nextRptr s q h.len ∧ Memory.read t.mem l = 0 ∧ (∀ b, far b → b ≠ l → Memory.read t.mem b = Memory.read s.mem b)
         ∧ qState t q = qState s q ∧ t = { s with mem := t.mem, poison := t.poison, soft := t.soft, threads := t.threads }
         ∧ finish s q { quiet with report := true } =
             ringPost t (ringKey (qCtx s q) (qRepring s q)) (completionRecord 0 false h.tag 0 0))
        ∧ (status ≠ 0 → status < 2 ^ 16 →
            let t := fail s q quiet status
            let met := qsbGet t q 88 8
            let kept := s.moves.find? (fun m => m.1 = q)
            let latched := Tbl.look t.halts q = some ((Tbl.look s.halts q).getD (qRptr s q))
            qRptr t q = qRptr s q ∧ qsbGet t q 80 2 = status ∧ (∀ b, far b → Memory.read t.mem b = Memory.read s.mem b)
            ∧ (qState s q ∉ [2, 3, 4] → qState t q = 3 ∧ met = qRptr s q)
            ∧ (qState s q = 2 → qState t q = 2 ∧ met = qsbGet s q 88 8 ∧ latched)
            ∧ (qState s q = 3 → qState t q = 3 ∧ met = qsbGet s q 88 8)
            ∧ (qState s q = 4 → qState t q = 4
                ∧ (∀ m, kept = some m → (m.2.2 = 3 → met = qsbGet s q 88 8) ∧ (m.2.2 = 2 → met = qsbGet s q 88 8 ∧ latched)
                  ∧ (m.2.2 ≠ 2 → m.2.2 ≠ 3 → met = qRptr s q ∧ t.moves.find? (fun m => m.1 = q) = some (q, m.2.1, 3)))
                ∧ (kept = none → latched ∧ met = (if Tbl.look s.halts q = none then qRptr s q else qsbGet s q 88 8))))
        ∧ (status ≠ 0 → status < 2 ^ 16 →
            let t := fail s q going status
            qRptr t q = nextRptr s q h.len ∧ qState t q = qState s q ∧ qsbGet t q 80 2 = status))

/-- R369, R373: SIGNAL adds to or stores into its word and the queues that wait on it read again; COND goes to TARGET where its
condition holds and else on; WAITS completes where it holds and else the queue waits, with what it waits for in its QSB; TSTAMP
stores REFT. WAITS_RECHECK and WAITS_TIMEOUT make a waiting queue read its word again, and where that holds it goes on, or halts for a
packet that failed meanwhile; a boundary that relocks holds such a read (R415). The deadline of a WAITS does not wrap (log 60). -/
def Obligations.SignalWords : Prop :=
  ∀ (s : State) (h : Hdr) (addr value target timeout : Word) (op cond : Byte) (r w : Hit),
    let q := s.fq
    let v := Memory.readN s.mem r.loc 8
    let x : Word := .ofNat 64 v
    let c := cond.toNat
    let holds := (c = 0 ∧ x = value) ∨ (c = 1 ∧ x ≠ value) ∨ (c = 2 ∧ sv x < sv value) ∨ (c = 3 ∧ sv x ≥ sv value)
      ∨ (c = 4 ∧ uv x < uv value) ∨ (c = 5 ∧ uv x ≥ uv value)
    (signalWord s (uv addr) r w →
      (op.toNat ≤ 1 → exec (.signal h addr value op) s =
        (let seen := if op = 0 then extSeen s (whoOf (qCtx s q)) (uv addr) 8 else s
         let t := finish (put seen w.loc 8 (if op = 0 then (v + uv value) % 2 ^ 64 else uv value)) q h
         .next (wakeAll t (waitersOn t (uv addr)))))
      ∧ (holds → exec (.cond h addr value cond target) s = .next (finishAt s q h (uv target)))
      ∧ (¬ holds → c ≤ 5 → exec (.cond h addr value cond target) s = .next (finish s q h))
      ∧ (holds → exec (.waits h addr value cond timeout) s = .next (countPacket (finish (countPacket s q true) q h) q true))
      ∧ (¬ holds → c ≤ 5 → q % 256 = 0 → ∃ t, exec (.waits h addr value cond timeout) s = .next t
          ∧ qState t q = 2 ∧ qsbGet t q 48 8 = uv addr ∧ qsbGet t q 56 8 = uv value ∧ qsbGet t q 64 1 = c
          ∧ qsbGet t q 72 8 = (if timeout = 0 then 0 else min (uv s.reft + uv timeout) (2 ^ 64 - 1)) ∧ qRptr t q = qRptr s q
          ∧ (∀ b, b < locOf q ∨ locOf q + 256 ≤ b → Memory.read t.mem b = Memory.read s.mem b)
          ∧ t = { s with mem := t.mem, threads := t.threads }))
    ∧ (5 < c → exec (.cond h addr value cond target) s = .next (fail s q h 1) ∧ exec (.waits h addr value cond timeout) s = .next (fail s q h 1))
    ∧ (asyncsOf s q = [] → uv addr % 8 = 0 → translate s (whoOf (qCtx s q)) (uv addr) 8 .write = .ok w → w.device = false →
        exec (.tstamp h addr) s = .next (finish (put s w.loc 8 (uv s.reft)) q h))
    ∧ (asyncsOf s q ≠ [] → exec (.tstamp h addr) s = .next s)
    ∧ (∀ t, (s.thread t).qsb = some q → threadOf s q = some t → (s.thread t).unmap = false → queueFrozen s q = false → qState s q = 2 →
        let who := whoOf (qCtx s q)
        let ds := extHeld s (queueSender q) who [(qWaitaddr s q, 8)]
        let s0 := dropHeld s (queueSender q)
        let s1 := extSeen s0 who (qWaitaddr s q) 8
        let ready := qsbPut s1 q 8 1 1
        let hd := headHere s0 q
        (ds ≠ [] → exec (.waitsRecheck t) s = .next (noteHeld s (queueSender q) ds))
        ∧ (ds = [] → waitHolds s0 q = .ok true → Tbl.look s.halts q = none → exec (.waitsRecheck t) s = .next (finish ready q hd))
        ∧ (∀ pkt, ds = [] → waitHolds s0 q = .ok true → Tbl.look s.halts q = some pkt → qState (finish ready q hd) q ≠ 3 → exec (.waitsRecheck t) s =
            .next (haltQueue { finish ready q hd with halts := Tbl.del s.halts q } q pkt))
        ∧ (ds = [] → waitHolds s0 q = .ok false → qWaitend s q = 0 ∨ uv s.reft < qWaitend s q → exec (.waitsRecheck t) s = .next s1
            ∧ exec (.waitsTimeout q) s = .next s)
        ∧ (ds = [] → waitHolds s0 q = .ok false → qWaitend s q ≠ 0 → qWaitend s q ≤ uv s.reft → Tbl.look s.halts q = none →
            exec (.waitsTimeout q) s = .next (fail ready q hd 9)))

/-- R373, R375, R381: REARM passes its packet and then sets the marks of its region (here of one packet, or of none); COPYH is recorded
while the queue goes on, and at its completion has copied the bytes and added 1 at SIGADDR, or fails with what it had copied standing,
unless a relock holds it (R415); RING creates a ring with empty counts, or deletes one. -/
def Obligations.DataPackets : Prop :=
  ∀ (s : State) (h : Hdr) (base size target src dst bytes sig headaddr timeout : Word) (ringid vector : Half) (entries thresh : W32) (k : Nat),
    let q := s.fq
    let ctx := qCtx s q
    let key := ringKey ctx ringid.toNat
    let n := entries.toNat
    let fresh : Ring := { ctx := ctx, entries := n, base := base, headaddr := headaddr, vector := vector.toNat, thresh := thresh.toNat
                          timeout := timeout.toNat, written := 0, waiting := [], unsignalled := 0, oldest := 0 }
    let good := 1 ≤ ringid.toNat ∧ ringid.toNat ≤ 1023 ∧ vector.toNat ≤ 2047 ∧ uv base % 32 = 0 ∧ uv headaddr % 8 = 0
    (size = 0 → exec (.rearm h base size target) s =
      .next (completePacket (advancePast s q (uv target)) q (.ofNat 64 (qRptr s q)) h 0 false 0 0))
    ∧ (∀ head s2, let s1 := advancePast s q (uv target)
        feRead s1 (whoOf (qCtx s q)) (uv base) 16 = .ok head → head / 2 ^ 16 % 2 ^ 16 = uv size → 16 ≤ uv size → uv size ≤ 4096 → uv size % 16 = 0 →
        feWrite s1 (whoOf (qCtx s q)) (uv base) 1 0x5A = .ok s2 →
        exec (.rearm h base size target) s = .next (completePacket s2 q (.ofNat 64 (qRptr s q)) h 0 false 0 0))
    ∧ (uv bytes < 2 ^ 40 → ∃ t, exec (.copyh h src dst bytes sig) s = .next t
        ∧ t.asyncs = s.asyncs ++ [{ id := s.nextId, qsb := q, pkt := .ofNat 64 (qRptr s q), hdr := h, kind := .copyh src dst bytes sig }]
        ∧ t.nextId = s.nextId + 1 ∧ t.strands = s.strands ∧ t.cores = s.cores)
    ∧ (2 ^ 40 ≤ uv bytes → exec (.copyh h src dst bytes sig) s = .next (fail s q h 1))
    ∧ (∀ a, s.asyncs[k]? = some a → a.kind = .copyh src dst bytes sig →
        let who := whoOf (qCtx s a.qsb)
        let touch : Touch := { reads := [], rest := [(who, uv src, uv bytes), (who, uv dst, uv bytes), (who, uv sig, 8)] }
        let ds := touchHeld s (packetSender a.id) touch
        let copied := copyBytes who (dropHeld s (packetSender a.id)) (uv bytes) (uv src) (uv dst) (uv bytes)
        (ds ≠ [] → exec (.copyhComplete k) s = .next (noteHeld s (packetSender a.id) ds))
        ∧ (∀ s1, ds = [] → copied = .ok s1 →
            (∀ s2, signalAdd s1 who (uv sig) 1 = .ok s2 → exec (.copyhComplete k) s = .next (endAsync s2 a 0 0))
            ∧ (∀ e, signalAdd s1 who (uv sig) 1 = .error e → exec (.copyhComplete k) s = .next (endAsync s1 a 10 e.1.toNat)))
        ∧ (∀ s1 e, ds = [] → copied = .error (s1, e) → exec (.copyhComplete k) s = .next (endAsync s1 a 10 e.1.toNat)))
    ∧ (good → n = 0 → exec (.ring h ringid vector entries base headaddr thresh timeout) s = .next (finish (dropRing s key) q h))
    ∧ (good → n ≠ 0 → (∀ e, 6 ≤ e → e ≤ 20 → n ≠ 2 ^ e) → exec (.ring h ringid vector entries base headaddr thresh timeout) s = .next (fail s q h 1))
    ∧ (∀ f, good → (∃ e, 6 ≤ e ∧ e ≤ 20 ∧ n = 2 ^ e) →
        (rangeFault s (whoOf ctx) (uv base) (32 * n) .write).or (rangeFault s (whoOf ctx) (uv headaddr) 8 .read) = some f →
        exec (.ring h ringid vector entries base headaddr thresh timeout) s = .next (failAddr s q h (f, base)))
    ∧ (good → (∃ e, 6 ≤ e ∧ e ≤ 20 ∧ n = 2 ^ e) → rangeFault s (whoOf ctx) (uv base) (32 * n) .write = none →
        rangeFault s (whoOf ctx) (uv headaddr) 8 .read = none →
        exec (.ring h ringid vector entries base headaddr thresh timeout) s = .next (finish { s with rings := Tbl.put s.rings key fresh } q h))
    ∧ (¬ good → exec (.ring h ringid vector entries base headaddr thresh timeout) s = .next (fail s q h 1))

/-- The bytes of an agent's image as R313, R352 and R379 lay them out: the record, in which the pc, the general registers and the handles
stand, the CGEN block, and one after the other each context that a ctx register holds. Where a value is wider than its field, which no
run brings about, the record's words below it are still these. -/
def Sys2Proof.Claim.ImageBytes (s : State) (a : Agent) (n v : Nat) : Prop :=
  let ctxs := a.ctxs.toList.filterMap s.tok
  let size (l : List TokCtx) : Nat := (l.map (fun c => 64 + (4 * c.toks.length + 7) / 8 * 8)).sum
  n = 896 + size ctxs
  ∧ fld v 0 64 = uv a.pc
  ∧ (agentStatus a < 2 ^ 64 → fld v 64 64 = agentStatus a ∧ (∀ i : Fin 8, fld v (128 + 64 * i.val) 64 = uv a.g[i])
      ∧ ((∀ r : Fin 16, a.ctxs[r] < 2 ^ 32) → ∀ r : Fin 16, fld v (640 + 32 * r.val) 32 = a.ctxs[r]))
  ∧ (agentRecord a < 2 ^ 2048 → cgenImage a < 2 ^ 5120 → (∀ c ∈ ctxs, (ctxImage c).2 < 2 ^ (8 * (ctxImage c).1)) →
      fld v 0 2048 = agentRecord a ∧ fld v 2048 5120 = cgenImage a
      ∧ ∀ k c, ctxs[k]? = some c → fld v (8 * (896 + size (ctxs.take k))) (8 * size [c]) = (ctxImage c).2)

/-- R379: an AGENT packet of a sound body on a queue of a context: CREATE makes a READY agent with every register zero; SUSPEND of an agent that
no step holds leaves it SUSPENDED; EXPORT of such an agent, or of one that has stopped, writes its image at IMAGE and changes no other byte of
memory but its record, where it still ran, its QSB and the mark, and removes it, or fails with ADDR_FAULT and leaves it stopped; RESUME makes it READY,
or LONG where it was in a long instruction (one without a slot waits for one); REMOVE removes it; IMPORT makes a SUSPENDED agent of an image,
with its registers, flag and stack, and its contexts under new handles, every position pending. An agent that is not
there is NO_AGENT, one that is there already BUSY. -/
def Obligations.AgentPackets : Prop :=
  ∀ (s : State) (h : Hdr) (ceil : Byte) (record entry image : Word),
    let q := s.fq
    let ctx := qCtx s q
    uv record % 256 = 0 → uv entry % 8 = 0 → ceil.toNat ≤ 7 → ctx ≠ 0 → (∃ c, s.ctx ctx = some c) →
      (agentAt s ctx record = none →
        (s.agents.length < 2 ^ 20 → ∃ a, exec (.agentCreate h ceil record entry image) s =
            .next (finish { s with agents := Tbl.put s.agents s.nextId a, nextId := s.nextId + 1
                                   slotQueue := if residentCount s < 8192 ∨ s.nextId ∈ s.slotQueue then s.slotQueue else s.slotQueue ++ [s.nextId] } q h)
          ∧ a.home = ctx ∧ a.record = record ∧ a.qsb = q ∧ a.pc = entry ∧ a.g = Vector.replicate 8 0 ∧ a.ctxs = Vector.replicate 16 0
          ∧ a.flag = false ∧ a.prio = 0 ∧ a.weight = 1 ∧ a.ceil = ceil.toNat ∧ a.stack = [] ∧ a.st = stReady ∧ a.cause = 0 ∧ a.tval = 0)
        ∧ exec (.agentSuspend h ceil record entry image) s = .next (fail s q h 16)
        ∧ exec (.agentResume h ceil record entry image) s = .next (fail s q h 16)
        ∧ exec (.agentRemove h ceil record entry image) s = .next (fail s q h 16)
        ∧ exec (.agentExport h ceil record entry image) s = .next (fail s q h 16)
        ∧ (∀ w l, s.agents.length < 2 ^ 20 → feRead s (.ctx ctx) (uv image) 896 = .ok w →
            imageCtxs s ctx (uv image + 896) ((List.range 16).filter (fun r => fld w (640 + 32 * r) 32 ≠ 0)) = .ok l →
            s.toks.length + l.length ≤ 2 ^ 20 →
            ∃ t a, exec (.agentImport h ceil record entry image) s = .next (finish t q h) ∧ t.agent (t.nextId - 1) = some a
              ∧ a.home = ctx ∧ a.record = record ∧ a.st = stSuspended ∧ a.pc = .ofNat 64 w ∧ (t.mem, t.strands) = (s.mem, s.strands)
              ∧ (∀ i : Fin 8, a.g[i] = .ofNat 64 (fld w (128 + 64 * i.val) 64)) ∧ (a.flag = true ↔ fld w 72 1 = 1) ∧ a.prio = fld w 80 3
              ∧ a.ceil = fld w 84 3 ∧ a.weight = fld w 88 8 ∧ a.cause = .ofNat 8 (fld w 112 8) ∧ a.tval = .ofNat 64 (fld w 1984 64)
              ∧ a.stack = (List.range (min 8 (fld w 96 4))).map (fun i => .ofNat 64 (fld w (1152 + 64 * i) 64))
              ∧ (∀ r : Fin 16, fld w (640 + 32 * r.val) 32 = 0 → a.ctxs[r] = 0)
              ∧ (∀ e ∈ l, e.2.pending = e.2.toks.length ∧ e.2.blocks = [] ∧ e.2.last = none
                  ∧ ∃ r : Fin 16, r.val = e.1 ∧ fld w (640 + 32 * r.val) 32 ≠ 0 ∧ t.tok a.ctxs[r] = some e.2)
              ∧ (∀ r hd ids, ((List.range 16).filter (fun r => fld w (640 + 32 * r) 32 ≠ 0)).head? = some r →
                  feRead s (.ctx ctx) (uv image + 896) 64 = .ok hd → feRead s (.ctx ctx) (uv image + 960) (4 * fld hd 32 32) = .ok ids →
                  ∃ c, l.head? = some (r, c) ∧ c.model = fld hd 0 32 ∧ c.toks = (List.range (fld hd 32 32)).map (fun i => fld ids (32 * i) 32)
                    ∧ uv c.key = fld hd 64 64 ∧ c.temp.toNat = fld hd 128 32 ∧ uv c.pos = fld hd 320 64 ∧ c.ring = fld hd 384 32)))
      ∧ (∀ id a, agentAt s ctx record = some id → s.agent id = some a →
        exec (.agentCreate h ceil record entry image) s = .next (fail s q h 4)
        ∧ exec (.agentImport h ceil record entry image) s = .next (fail s q h 4)
        ∧ ((∀ x ∈ s.asyncs, ∀ d, x.kind ≠ .agent id d) → inFlight s (partOf s a) id = false →
            (a.st = stReady ∨ a.st = stLong ∨ a.st = stWait) →
            let b := { a with st := stSuspended, suspendReq := false, deficit := 0, cur := if a.st = stWait then none else a.cur }
            ∃ t, exec (.agentSuspend h ceil record entry image) s = .next t ∧ t.agent id = some b)
        ∧ ((∀ x ∈ s.asyncs, ∀ d, x.kind ≠ .agent id d) → inFlight s (partOf s a) id = false →
            let s1 := startAsync s q h (.agent id (some image))
            let runs := a.st = stReady ∨ a.st = stLong ∨ a.st = stWait
            let b : Agent := if runs then { a with st := stSuspended, suspendReq := false, deficit := 0
                                                   cur := if a.st = stWait then none else a.cur } else a
            let s2 := if a.st = stWait then stopAgent (s1.setAgent id { a with cur := none }) id stSuspended
                      else if runs then stopAgent s1 id stSuspended else s1
            let ready : State := { s2 with asyncs := s2.asyncs.filter (fun x => x.id ≠ s.nextId) }
            let im := agentImage ready b
            let who : Who := .ctx a.home
            ready.agent id = some b
            ∧ (∀ locs, extLocs ready who (sectorsOf (uv image) im.1 (im.1 + 1)) = .ok locs →
                let u := removeAgent (writeLocs ready locs im.2) id
                exec (.agentExport h ceil record entry image) s = .next (completePacket u q (.ofNat 64 (qRptr s q)) h 0 false 0 0)
                ∧ u.agent id = none ∧ u.mem = (writeLocs ready locs im.2).mem ∧ ImageBytes ready b im.1 im.2
                ∧ ∀ x, (∀ p ∈ locs, x < p.1 ∨ p.1 + p.2 ≤ x) → Memory.read u.mem x = Memory.read s2.mem x)
            ∧ (∀ e, extLocs ready who (sectorsOf (uv image) im.1 (im.1 + 1)) = .error e → exec (.agentExport h ceil record entry image) s =
                .next (completePacket ready q (.ofNat 64 (qRptr s q)) h 10 false 0 e.1.toNat))
            ∧ (∀ rl, extLocs s1 who (sectorsOf (uv a.record) 256 257) = .ok rl → ∀ x, (runs → ∀ p ∈ rl, x < p.1 ∨ p.1 + p.2 ≤ x) →
                Memory.read s2.mem x = Memory.read s1.mem x)
            ∧ (∀ e, extLocs s1 who (sectorsOf (uv a.record) 256 257) = .error e → s2.mem = s1.mem)
            ∧ (∀ l x, extLocs s (whoOf ctx) (sectorsOf (qRptr s q) 1 2) = .ok [(l, 1)] → x ≠ l → x < locOf q ∨ locOf q + 256 ≤ x →
                q % 256 = 0 → Memory.read s1.mem x = Memory.read s.mem x))
        ∧ ((a.st = stSuspended ∨ a.st = stFaulted) →
            (a.cur = none → a.prog = Progress.zero → exec (.agentResume h ceil record entry image) s = .next (finish (refreshRing
              (awaitSlot (s.setAgent id { a with cause := 0, cur := none, st := stReady, suspendReq := false }) id) (partOf s a)) q h))
            ∧ (∀ i, a.cur = some i → isLong i = false → exec (.agentResume h ceil record entry image) s = .next (finish (refreshRing
              (awaitSlot (s.setAgent id { a with cause := 0, cur := none, st := stReady, suspendReq := false }) id) (partOf s a)) q h))
            ∧ (∀ i, a.cur = some i → isLong i = true → exec (.agentResume h ceil record entry image) s = .next (finish (refreshRing
              (awaitSlot (s.setAgent id { a with cause := 0, st := stLong, suspendReq := false }) id) (partOf s a)) q h)))
        ∧ ((a.st = stSuspended ∨ a.st = stHalted ∨ a.st = stFaulted) → ∃ t, exec (.agentRemove h ceil record entry image) s = .next (finish t q h)
            ∧ t.agent id = none ∧ (∀ r : Fin 16, a.ctxs[r] ≠ 0 → t.tok a.ctxs[r] = none) ∧ t.mem = s.mem)
        ∧ ((a.st = stReady ∨ a.st = stLong ∨ a.st = stWait) → exec (.agentRemove h ceil record entry image) s = .next (fail s q h 4)
            ∧ exec (.agentResume h ceil record entry image) s = .next (fail s q h 4)))

/-- R27, R262, R355, R358, R377, R378, R416: the QCTL operations. Those that need a privileged queue fail PRIVILEGED on any other. CTXNEW makes a
context whose core table lies in its partition, with empty tags, and writes its id; CTXFREE drops one that nothing uses; INVAL is recorded and, once
no access goes through the old entries, drops the translations; MODEL and MASK define; FREQ asks decks to step, and waits
while a tower of them is not in RUN; PARTITION assigns towers that carry nothing, after bring-up (log 60). -/
def Obligations.ControlPackets : Prop :=
  ∀ (s : State) (h : Hdr) (a0 a1 a2 : Word) (towers mode : Byte) (maps : W32),
    let q := s.fq
    let f (w : Word) (lo n : Nat) : Nat := uv w / 2 ^ lo % 2 ^ n
    (qPriv s q = false → ∀ i ∈ [Instr.ctxnew h a0 a1 a2, .ctxfree h a0 a1 a2, .qctlFreq h a0 a1 a2, .partition h a0 a1 a2,
      .roleset h towers mode maps a0 a1], exec i s = .next (fail s q h 3))
    ∧ (qPriv s q = true →
        (∀ place s1, f a1 0 3 ≤ 6 → f a1 3 3 ≤ 5 → f a1 6 2 = 0 → f a1 11 53 = 0 → uv a2 % 4 = 0 →
          placeTorus s (f a1 8 2) (2 ^ f a1 0 3) (2 ^ f a1 3 3) = some place → feWrite s (whoOf (qCtx s q)) (uv a2) 4 s.nextId = .ok s1 →
          let c : Ctx := { root := uv a0, wlog := f a1 0 3, hlog := f a1 3 3, part := f a1 8 2, priv := true, debug := a1.getLsbD 10
                           place := place, bars := [], ctls := [], dbg := [] }
          let t : State := { s1 with nextId := s.nextId + 1, ctxs := Tbl.put s1.ctxs s.nextId c }
          ∃ tags, exec (.ctxnew h a0 a1 a2) s = .next (finish { t with tags := tags } q h) ∧ (∀ x ∈ tags, x ∈ s1.tags)
            ∧ (∀ p ∈ pagesOf t s.nextId, leafScope p.leaf ≠ 0 → ∀ x ∈ tags, inPage p.leaf (32 * x.1) = false))
        ∧ ((∃ c, s.ctx (uv a0) = some c) → ctxBusy s (uv a0) = false → ∃ t, exec (.ctxfree h a0 a1 a2) s = .next (finish t q h)
            ∧ t.ctx (uv a0) = none ∧ (∀ c, c ≠ uv a0 → t.ctx c = s.ctx c) ∧ (∀ b, b < 2 ^ 56 → Memory.read t.mem b = Memory.read s.mem b))
        ∧ ((∃ c, s.ctx (uv a0) = some c) → ctxBusy s (uv a0) = true → exec (.ctxfree h a0 a1 a2) s = .next (fail s q h 4))
        ∧ (let ds := (List.range 16).filter a0.getLsbD
           uv a0 < 2 ^ 16 → ds ≠ [] → (∀ d ∈ ds, (s.tower (d / 4)).st = .run) →
           ((12 ≤ uv a1 ∧ ∀ d ∈ ds, deckCompute s d = true ∧ uv a1 ≤ (s.deck d).ceil.toNat) → exec (.qctlFreq h a0 a1 a2) s =
             .next (closeFreq (requestAll (startAsync s q h (.freq [])) (some s.nextId) (.ofNat 8 (uv a1)) ds) s.nextId))
           ∧ ((uv a1 < 12 ∨ ∃ d ∈ ds, deckCompute s d = false ∨ (s.deck d).ceil.toNat < uv a1) →
               exec (.qctlFreq h a0 a1 a2) s = .next (fail s q h 13)))
        ∧ (uv a0 < 2 ^ 16 → (∃ d, d < 16 ∧ a0.getLsbD d = true ∧ (s.tower (d / 4)).st ≠ .run) → exec (.qctlFreq h a0 a1 a2) s = .next s)
        ∧ (uv a0 < 256 → s.bringup = true → exec (.partition h a0 a1 a2) s = .next s)
        ∧ (uv a0 < 256 → s.bringup = false → (∃ t, t < 4 ∧ f a0 (2 * t) 2 ≠ (s.tower t).part.toNat ∧ towerCarries s t = true) →
            exec (.partition h a0 a1 a2) s = .next (fail s q h 4))
        ∧ (uv a0 < 256 → s.bringup = false → (∀ t, t < 4 → f a0 (2 * t) 2 ≠ (s.tower t).part.toNat → towerCarries s t = false) →
            ∃ t, exec (.partition h a0 a1 a2) s = .next (finish t q h) ∧ t = { s with towers := t.towers }
              ∧ ∀ i : Fin 4, t.towers[i] = { s.towers[i] with part := .ofNat 2 (f a0 (2 * i.val) 2) }))
    ∧ ((∃ c, s.ctx (uv a0) = some c) → qPriv s q = true ∨ qCtx s q = uv a0 →
        exec (.inval h a0 a1 a2) s = .next (startAsync s q h (.inval (uv a0) a1 a2)))
    ∧ (∀ k a c, s.asyncs[k]? = some a → a.kind = .inval c a1 a2 →
        (oldAccess s c = false → exec (.invalComplete k) s = .next (endAsync (invalidate s c (uv a1) (uv a2)) a 0 0)
          ∧ (∀ p es, (p, es) ∈ (invalidate s c (uv a1) (uv a2)).tlbs → ∀ e ∈ es, e.ctx = c → uv a2 ≠ 0 ∧
              (uv a1 + uv a2 ≤ e.base ∨ e.base + e.size ≤ uv a1)))
        ∧ (oldAccess s c = true → exec (.invalComplete k) s = .next s))
    ∧ (∀ c, qCtx s q ≠ 0 → s.ctx (qCtx s q) = some c →
        (f a0 17 15 = 0 → f a0 48 16 = 0 → f a2 32 32 = 0 → 1 ≤ f a0 32 16 → (f a0 12 4 = 0 → f a0 32 16 ≤ 4096) →
          let m : Model := { ctx := qCtx s q, cls := f a0 12 4, log2 := a0.getLsbD 16, v := f a0 32 16, addr := a1, exit := f a2 0 16
                             layers := f a2 16 16 }
          (modelUsed s c.part (f a0 0 12) = false → exec (.qctlModel h a0 a1 a2) s =
            .next (finish { s with models := Tbl.put s.models (c.part * 4096 + f a0 0 12) m } q h))
          ∧ (modelUsed s c.part (f a0 0 12) = true → exec (.qctlModel h a0 a1 a2) s = .next (fail s q h 4)))
        ∧ (uv a0 ≤ 63 → ∃ t, exec (.qctlMask h a0 a1 a2) s = .next (finish t q h) ∧ t = { s with masks := t.masks }
            ∧ Tbl.look t.masks (c.part * 64 + uv a0) = (if a1 = 0 then none else some (qCtx s q, a1))))

/-- R363, R364, R366 to R369, R372, R375: the walker maps the only eligible queue to thread 0, or halts it with BAD_PACKET where its QSB breaks
R364, or puts it off within its latency tolerance, and counts its pass; a wake makes a mapped queue that waits read again and marks
an unmapped one; an idle READY queue leaves its thread after 250000 ticks, one that has used up its slice where another of its
priority or higher can run; an unmapped queue whose wake was latched starts its move to the head of its list; the periodic
re-read falls due every 250000 ticks; a packet that no read has matched for 4096 ticks halts its queue, also where no thread read it meanwhile, and one that is read again
and sound runs, unless it waits for its ring's room or for its place among eight asynchronous packets, or a relocking deck holds the
fetch (R415); 4096 packets end a slice before the next one starts. -/
def Sys2Proof.Claim.QueueEvents : Prop :=
  ∀ (s : State) (prio q qid : Nat),
    let x := s.thread 0
    let now := uv s.reft
    let t0 : Thread := { Thread.empty with qsb := some q, prio := prio, mapped := now, slice := now }
    let deferred : Prop := q ∈ s.picks ∧ mayDefer s q = true
    let me := queueSender q
    let bytes := fetchBytes s q
    let ds := extHeld s me (whoOf (qCtx s q)) [(qRptr s q, bytes)]
    let s1 := extSeen s (whoOf (qCtx s q)) (qRptr s q) bytes
    let left (t : State) : State := dropHeld t me
    let found : State := { s1.setThread 0 { x with idleSince := none } with torn := Tbl.del s.torn q }
    ((∀ e ∈ allQueues s, eligible s e.2 = false) → exec .queueWalk s = .next { s with walkgen := s.walkgen + 1 })
    ∧ (s.threads = [] → allQueues s = [(prio, q)] → eligible s q = true → moving s q = false →
        (deferred → exec .queueWalk s = .next { s with walkgen := s.walkgen + 1 })
        ∧ (¬ deferred → qsbOk s q = true → ∃ t, exec .queueWalk s = .next t ∧ t.threads = [(0, t0)] ∧ t.walkgen = s.walkgen + 1)
        ∧ (¬ deferred → qsbOk s q = false → q % 256 = 0 → ∃ t, exec .queueWalk s = .next t ∧ t.threads = [] ∧ qState t q = 3 ∧ qsbGet t q 80 2 = 1
            ∧ qsbGet t q 88 8 = 0))
    ∧ (((allQueues s).filter (fun e => qQid s e.2 = qid)).map (fun e => e.2) = [q] →
        let marked : State := { qsbPut s q 9 1 (qFlags s q ||| 2) with wakes := if qFlags s q / 2 % 2 = 1 then s.wakes else Tbl.put s.wakes q now }
        (threadOf s q = none → exec (.queueWake qid) s = .next marked)
        ∧ (threadOf s q = some 0 → x.unmap = true → exec (.queueWake qid) s = .next (marked.setThread 0 { x with latched := true }))
        ∧ (threadOf s q = some 0 → x.unmap = false →
            (qState s q = 2 → exec (.queueWake qid) s = .next (recheckWait s q))
            ∧ (qState s q ≠ 2 → markHere s q = true → exec (.queueWake qid) s = .next (s.setThread 0 { x with idleSince := none }))
            ∧ (qState s q ≠ 2 → markHere s q = false → exec (.queueWake qid) s = .next s)))
    ∧ (x.qsb = some q →
        (∀ i, x.idleSince = some i → i + 250000 ≤ now → qState s q = 1 → x.unmap = false → exec (.sliceExpiry 0) s = .next ((qsbPut s q 8 1 0).setThread 0 { x with unmap := true }))
        ∧ (x.idleSince = none ∨ qState s q ≠ 1 → (x.slice + 250000 ≤ now ∨ 4096 ≤ x.packets) →
            ((∃ e ∈ allQueues s, x.prio ≤ e.1 ∧ eligible s e.2 = true) →
              exec (.sliceExpiry 0) s = .next (s.setThread 0 { x with unmap := true, slice := now, packets := 0 }))
            ∧ ((∀ e ∈ allQueues s, e.1 < x.prio ∨ eligible s e.2 = false) →
              exec (.sliceExpiry 0) s = .next (s.setThread 0 { x with slice := now, packets := 0 })))
        ∧ (x.idleSince = none ∨ qState s q ≠ 1 → now < x.slice + 250000 → x.packets < 4096 → exec (.sliceExpiry 0) s = .next s))
    ∧ (now < s.reread + 250000 → exec .periodicReread s = .next s)
    ∧ (s.reread + 250000 ≤ now → ∃ t, exec .periodicReread s = .next t ∧ t = { s with mem := t.mem, wakes := t.wakes, reread := s.reread + 250000 })
    ∧ (∀ i, x.qsb = some q → Tbl.look s.torn q = some (i, qRptr s q) →
        (i + 4096 ≤ now → fetchPacket s q = .torn ∨ i + 4096 < now → queueFrozen s q = false → exec (.queueTorn 0) s = .next (haltHere s q 12))
        ∧ (now < i + 4096 ∨ (fetchPacket s q ≠ .torn ∧ now ≤ i + 4096) ∨ queueFrozen s q = true → exec (.queueTorn 0) s = .next s)
        ∧ (queueFrozen s q = false → x.unmap = false → qState s q = 1 → 4096 ≤ x.packets → exec (.packetRefetch 0) s = .next (endSlice s 0))
        ∧ (queueFrozen s q = false → x.unmap = false → qState s q = 1 → x.packets < 4096 → i + 4096 < now →
            exec (.packetRefetch 0) s = .next (left (haltHere s q 12)))
        ∧ (queueFrozen s q = false → x.unmap = false → qState s q = 1 → x.packets < 4096 → now ≤ i + 4096 → ds ≠ [] →
            exec (.packetRefetch 0) s = .next (noteHeld s me ds))
        ∧ (queueFrozen s q = false → x.unmap = false → qState s q = 1 → x.packets < 4096 → now ≤ i + 4096 → ds = [] →
            (fetchPacket s1 q = .torn → exec (.packetRefetch 0) s = .next (left s1))
            ∧ (fetchPacket s1 q = .noMark → exec (.packetRefetch 0) s =
                .next (left { s1.setThread 0 { x with idleSince := some (x.idleSince.getD now) } with torn := Tbl.del s.torn q }))
            ∧ (∀ c, fetchPacket s1 q = .fault c → exec (.packetRefetch 0) s = .next (left (haltHere s1 q 10)))
            ∧ (∀ w, fetchPacket s1 q = .packet w → qCtx s q = 0 → qPriv s q = false → exec (.packetRefetch 0) s = .next (left (haltHere s1 q 3)))
            ∧ (∀ w, fetchPacket s1 q = .packet w → qCtx s q ≠ 0 ∨ qPriv s q = true →
                let full : Prop := (hdrOf w).report = true ∧ ringFull s (ringKey (qCtx s q) (qRepring s q)) = true
                (full → exec (.packetRefetch 0) s = .next (left found))
                ∧ (∀ h, ¬ full → decodePacket w = .nop h → exec (.packetRefetch 0) s = .next (finish { left found with fq := q } q h))
                ∧ (∀ a l, ¬ full → isAsync (decodePacket w) = true → Tbl.look s.behind q = none → asyncsOf s q = a :: l → 7 ≤ l.length →
                    exec (.packetRefetch 0) s = .next (left { found with behind := Tbl.put s.behind q a.id }))
                ∧ (∀ b, ¬ full → isAsync (decodePacket w) = true → Tbl.look s.behind q = some b → (∃ a ∈ asyncsOf s q, a.id = b) →
                    exec (.packetRefetch 0) s = .next (left found))))
        ∧ (queueFrozen s q = false → x.unmap = true → q % 256 = 0 → ∃ t, exec (.packetRefetch 0) s = .next t ∧ t.thread 0 = Thread.empty
            ∧ t.torn = s.torn
            ∧ (x.latched = true → qState s q ≤ 3 → qState t q = 4 ∧ t.moves = s.moves ++ [(q, x.prio, qState s q)])
            ∧ (x.latched = false ∨ 3 < qState s q → qState t q = qState s q ∧ t.moves = s.moves)))

/-- R381, R382: the oldest record that waits for a ring is written where HEAD leaves room, and the ring's interrupt is sent once as many as
its threshold are unsignalled, and the first record that waits in the front end for the ring takes a place at it; without room it
waits, and a relocking deck holds it (R415); a ring whose HEAD or record faults is gone. The interrupt is also sent when the oldest
unsignalled record is as old as the ring's timeout. -/
def Sys2Proof.Claim.RingEvents : Prop :=
  ∀ (s : State) (key : Nat) (r : Ring), Tbl.look s.rings key = some r →
    let who := whoOf r.ctx
    let slot := uv r.base + 32 * (r.written % r.entries)
    let ds := extHeld s (ringSender key) who [(uv r.headaddr, 8), (slot, 32)]
    let s0 := extSeen (dropHeld s (ringSender key)) who (uv r.headaddr) 8
    (r.waiting ≠ [] → ds ≠ [] → exec (.ringRecordWrite key) s = .next (noteHeld s (ringSender key) ds))
    ∧ (∀ x rest head, r.waiting = x :: rest → ds = [] → feRead s0 who (uv r.headaddr) 8 = .ok head →
      (head + r.entries ≤ r.written → exec (.ringRecordWrite key) s = .next s0)
      ∧ (∀ e, r.written < head + r.entries → feWrite s0 who slot 32 (x.toNat + 256 * (1 - r.written / r.entries % 2)) = .error e →
          exec (.ringRecordWrite key) s = .next (dropRing s0 key))
      ∧ (∀ s1, r.written < head + r.entries → feWrite s0 who slot 32 (x.toNat + 256 * (1 - r.written / r.entries % 2)) = .ok s1 →
          let sent := 1 ≤ r.thresh ∧ r.thresh ≤ r.unsignalled + 1
          ∃ t, exec (.ringRecordWrite key) s = .next t ∧ t.mem = s1.mem
            ∧ t.interrupts = s.interrupts ++ (if sent then [r.vector] else [])
            ∧ t.reports = s.reports.eraseP (fun e => e.1 = key)
            ∧ Tbl.look t.rings key = some { r with waiting := rest ++ ((s.reports.find? (fun e => e.1 = key)).map (fun e => e.2)).toList, written := r.written + 1
                                                   unsignalled := if sent then 0 else r.unsignalled + 1
                                                   oldest := if r.unsignalled = 0 then uv s.reft else r.oldest }))
    ∧ (∀ x rest e, r.waiting = x :: rest → ds = [] → feRead s0 who (uv r.headaddr) 8 = .error e →
        exec (.ringRecordWrite key) s = .next (dropRing s0 key))
    ∧ (1 ≤ r.thresh → r.timeout ≠ 0 →
        (0 < r.unsignalled → r.oldest + r.timeout ≤ uv s.reft → exec (.ringInterruptTimeout key) s = .next
          { s with rings := Tbl.put s.rings key { r with unsignalled := 0 }, interrupts := s.interrupts ++ [r.vector] })
        ∧ (r.unsignalled = 0 ∨ uv s.reft < r.oldest + r.timeout → exec (.ringInterruptTimeout key) s = .next s))

/-- R363 to R382: the events of queues and rings. -/
def Obligations.QueuesAndRings : Prop := QueueEvents ∧ RingEvents

/-! ## Clocks, roles, checkpoints, registers -/

/-- R27, R29 to R31, R409 to R413, R416: at a step instant that is due a deck takes its target as its frequency, its cycle counter is scaled and the
step is logged, and a request that waits starts the next relock unless it asks for the frequency just reached; above 3600 W every
compute deck is asked to step down; a thermal event asks the tower's decks for 1.2 GHz and is reported, and 10^8 ticks after the
last one the tower is gated; a request for a deck whose tower is not in RUN is held. Ticks pass up to the next step instant,
the end of a slice, the deadline of a mapped queue's WAITS or the last read of a packet that has mismatched. The step that bring-up still
waits for ends it. -/
def Obligations.ClocksAndHeat : Prop :=
  ∀ (s : State) (deck : BitVec 4) (tower : BitVec 2) (draw n : Nat),
    let d := deck.toNat
    let x := s.deck d
    let stepped : Deck := { x with cur := x.target, cyc := .ofNat 64 (uv x.cyc * x.target.toNat / x.cur.toNat), frac := 0, relock := false,
                                   clklog := clklogValue s.reft x.cur x.target, waiting := none }
    let due := s.reft.toNat + 1500
    (x.relock = true → x.relockEnd ≤ uv s.reft →
      (x.waiting = none → ∃ t, exec (.stepInstant deck) s = .next t ∧ t.deck d = stepped ∧ (∀ e, e < 16 → e ≠ d → t.deck e = s.deck e)
        ∧ (s.initial = some [(d, false)] → t.initial = some [] ∧ t.bringup = false))
      ∧ (x.waiting = some x.target → ∃ t, exec (.stepInstant deck) s = .next t ∧ t.deck d = stepped)
      ∧ (∀ w, x.waiting = some w → w ≠ x.target → ∃ t, exec (.stepInstant deck) s = .next t
          ∧ t.deck d = { stepped with relock := true, target := w, relockEnd := due }))
    ∧ (x.relock = false ∨ uv s.reft < x.relockEnd → exec (.stepInstant deck) s = .next s)
    ∧ (draw ≤ 3600 → exec (.powerLimit draw) s = .next s)
    ∧ (3600 < draw → x.relock = false → x.target = x.cur → x.waiting = none → x.pending = none → ∃ t, exec (.powerLimit draw) s = .next t
        ∧ t.deck d = (if deckCompute s d ∧ 12 < x.cur.toNat then
            (if (s.tower (d / 4)).st = .run then { x with relock := true, target := x.cur - 1, relockEnd := due }
             else { x with pending := some (x.cur - 1) }) else x))
    ∧ (∃ t, exec (.thermalTrip tower) s = .next t ∧ t.thermal = s.thermal ++ [tower.toNat]
        ∧ (t.tower tower.toNat).trip = some (uv s.reft)
        ∧ (d / 4 = tower.toNat → deckCompute s d = true → x.relock = false → x.waiting = none → x.cur ≠ 12 →
            t.deck d = if (s.tower tower.toNat).st = .run then { x with relock := true, target := 12, relockEnd := due }
              else { x with pending := some 12 }))
    ∧ (∀ i, (s.tower tower.toNat).trip = some i → (s.tower tower.toNat).gated = false →
        (i + 10 ^ 8 ≤ uv s.reft → (∀ e ∈ s.planners, e.2.flight = none) → ∃ t, exec (.thermalPowerGate tower) s = .next t ∧ (t.tower tower.toNat).gated = true ∧ t.mem = s.mem)
        ∧ (uv s.reft < i + 10 ^ 8 → exec (.thermalPowerGate tower) s = .next s))
    ∧ (let within (k : Nat) : Prop := (∀ e, e < 16 → (s.deck e).relock = true → k ≤ (s.deck e).relockEnd - uv s.reft)
          ∧ (∀ e ∈ s.threads, ∀ q, e.2.qsb = some q → k ≤ e.2.slice + 250000 - uv s.reft
            ∧ (qState s q = 2 → e.2.unmap = false → queueFrozen s q = false → qWaitend s q ≠ 0 → k ≤ qWaitend s q - uv s.reft)
            ∧ (∀ i, qState s q = 1 → e.2.unmap = false → queueFrozen s q = false → tornSince s q = some i → uv s.reft ≤ i + 4096 →
                k ≤ i + 4096 - uv s.reft))
       ∃ m, m ≤ n ∧ (passTime n s).reft = s.reft + .ofNat 64 m ∧ within m ∧ (within n → m = n)
        ∧ (deckClocked s d = true → ((passTime n s).deck d).cyc = x.cyc + .ofNat 64 ((x.frac + m * x.cur.toNat) / 10))
        ∧ (deckClocked s d = false → (passTime n s).deck d = x))

/-- R22 to R29, R378: a ROLESET that its conditions allow puts its towers in DRAIN with their new maps, and a map that is C C C C or not listed is ILLEGAL_MAP, and that a round of a
partition (R422) or reduced service (log 60) holds at the head of its queue; the deadline expires once; with no
group and no step left, no access to the stores under way, and the evacuation done, the decks that change are zero and the tower is
in FLUSH, and a failed evacuation returns it to RUN with its old map; in ENUMERATE a deck that becomes compute starts at 1.2 GHz
and one that leaves drops its requests, and the core tables that name one of these are written anew once all fit; with no relock left and
no such table the tower is in RUN with its new map (that the old one is seen until
then is the model's reading, log 57), and with the last tower of bring-up every compute deck is asked for its initial frequency. POWER_ON leaves the reset state with the firmware's registers, and once DRAM is trained and no
ROLESET is under way every tower moves to its initial map, one that it may have (log 60 for the deadlines). -/
def Obligations.RolesChange : Prop :=
  ∀ (s : State) (h : Hdr) (towers mode : Byte) (maps : W32) (deadline evac : Word) (tower : BitVec 2),
    let q := s.fq
    let t := tower.toNat
    let x := s.tower t
    let ts := (List.range 4).filter towers.getLsbD
    let m (i : Nat) : Nat := maps.toNat / 2 ^ (8 * i) % 256
    let fast : Deck := { Deck.powerOn with cyc := 0, frac := 0, clklog := 0, cur := 12, target := 12, relock := false, relockEnd := 0, waiting := none }
    (qPriv s q = true → towers.toNat < 16 → mode.toNat ≤ 1 → ts ≠ [] → (∀ i, i < 4 → m i < 16 ∧ (i ∉ ts → m i = 0)) →
      s.trained = false ∨ roundHolds s ts = true → exec (.roleset h towers mode maps deadline evac) s = .next s)
    ∧ (qPriv s q = true → towers.toNat < 16 → mode.toNat ≤ 1 → ts ≠ [] → (∀ i, i < 4 → m i < 16 ∧ (i ∉ ts → m i = 0)) → s.trained = true →
      roundHolds s ts = false → (∀ i ∈ ts, (s.tower i).st = .run ∧ m i ≠ 15 ∧ Config.mapListed i (m i) = true) →
      (∀ e ∈ s.ctxs, 2 ^ (e.2.wlog + e.2.hlog) ≤ coresUnder s e.2.part (fun i => if i ∈ ts then .ofNat 4 (m i) else mapAfter s i)) →
      ∃ u, exec (.roleset h towers mode maps deadline evac) s = .next u
        ∧ (∃ a ∈ u.asyncs, a.kind = .roleset ts none ∧ a.id = s.nextId)
        ∧ (∀ i ∈ ts, (u.tower i).st = .drain ∧ (u.tower i).cmask = (s.tower i).cmask ∧ ∃ c, (u.tower i).change = some c
            ∧ c.cmask = .ofNat 4 (m i) ∧ c.release = decide (mode = 1) ∧ c.deadline = uv s.reft + uv deadline ∧ c.async = some s.nextId
            ∧ c.expired = false)
        ∧ (∀ i, i < 4 → i ∉ ts → u.tower i = s.tower i))
    ∧ (qPriv s q = true → towers.toNat < 16 → mode.toNat ≤ 1 → (∀ i, i < 4 → m i < 16 ∧ (i ∉ ts → m i = 0)) → s.trained = true →
      roundHolds s ts = false → (∀ i ∈ ts, (s.tower i).st = .run) → (∃ i ∈ ts, m i = 15 ∨ Config.mapListed i (m i) = false) →
      exec (.roleset h towers mode maps deadline evac) s = .next (fail s q h 5))
    ∧ (∀ c, x.change = some c →
        (x.st = .drain → c.expired = false →
          (c.deadline ≤ uv s.reft → ∃ u, exec (.drainDeadline tower) s = .next u ∧ (u.tower t).change = some { c with expired := true })
          ∧ (uv s.reft < c.deadline → exec (.drainDeadline tower) s = .next s))
        ∧ (x.st = .drain → runningOn s (changingDecks s t) = [] → (∀ p ∈ stepPhys s, deckOf p ∉ changingDecks s t) →
            (∀ d ∈ decksUp s t c.cmask, storeBusy s d = false) →
            let e := evacuate (evacWho s c.async) (!c.release) s (uv c.evac) (decksUp s t c.cmask)
            (e.2 = none → ∃ u, exec (.roleFlush tower) s = .next u ∧ (u.tower t).st = .flush
              ∧ (∀ d ∈ changingDecks e.1 t, ∀ b, inDeck d b = true → Memory.read u.mem b = 0)
              ∧ (∀ b, (∀ d ∈ changingDecks e.1 t, inDeck d b = false) → Memory.read u.mem b = Memory.read e.1.mem b))
            ∧ (∀ va, e.2 = some va → ∃ u, exec (.roleFlush tower) s = .next u ∧ (u.tower t).st = .run ∧ (u.tower t).change = none))
        ∧ (x.st = .drain → runningOn s (changingDecks s t) ≠ [] ∨ (∃ p ∈ stepPhys s, deckOf p ∈ changingDecks s t)
            ∨ (∃ d ∈ decksUp s t c.cmask, storeBusy s d = true) → exec (.roleFlush tower) s = .next s)
        ∧ (x.st = .flush → ∃ u, exec (.roleEnumerate tower) s = .next u
            ∧ u.tower t = { x with st := .enumerate } ∧ ((∀ e ∈ s.ctxs, namesDeck e.2 (decksDown s t c.cmask) = false) → u.ctxs = s.ctxs)
            ∧ (∀ d ∈ decksDown s t c.cmask, u.deck d = { s.deck d with relock := false, waiting := none, pending := none })
            ∧ ∀ d ∈ decksUp s t c.cmask, u.deck d = { fast with ceil := mapCeil c.cmask })
        ∧ (x.st = .enumerate →
            exec (.roleEnumerate tower) s = .next (rewriteTables s (decksDown s t c.cmask))
            ∧ (affected s (decksDown s t c.cmask) ≠ [] → exec (.roleRun tower) s = .next s)
            ∧ ((∀ i, i < 4 → (s.deck (4 * t + i)).relock = false) → affected s (decksDown s t c.cmask) = [] → ∃ u, exec (.roleRun tower) s = .next u
                ∧ u.tower t = { x with st := .run, cmask := c.cmask, change := none }
                ∧ (s.trained = true → s.initial = none → (∀ i, i < 4 → i ≠ t → (s.tower i).st = .run) → u.initial ≠ none
                    ∧ (u.bringup = true ↔ ∃ d, d < 16 ∧ deckCompute u d = true ∧ (u.deck d).cur ≠ initialFreq u d)
                    ∧ ∀ d, d < 16 → deckCompute u d = true → (u.deck d).cur = initialFreq u d
                      ∨ (u.deck d).waiting.getD (u.deck d).target = initialFreq u d))
            ∧ (∀ i, i < 4 → (s.deck (4 * t + i)).relock = true → exec (.roleRun tower) s = .next s)))
    ∧ (∃ u, exec .powerOn s = .next u ∧ u = { State.reset with regs := u.regs, agenda := s.agenda, fresh := s.fresh })
    ∧ (s.trained = true ∨ (∃ i, i < 4 ∧ (s.tower i).st ≠ .run) → exec .dramTrained s = .next s)
    ∧ (s.trained = false → (∀ i, i < 4 → (s.tower i).st = .run) → ∃ u, exec .dramTrained s = .next u ∧ u.trained = true ∧ u = { s with trained := true, towers := u.towers }
        ∧ ∀ i, i < 4 → (u.tower i).st = .drain ∧ ∃ c, (u.tower i).change = some c ∧ c.release = true ∧ c.deadline = uv s.reft
          ∧ c.cmask = initialMap i ∧ initialMap i ≠ 15 ∧ (Config.mapListed i (initialMap i).toNat = true ∨ initialMap i = 1))

/-- R417 to R420, R422, R423: START opens a round over every unit of a partition in RUN, and is refused where a tower changes; a marker that
may arrive has come; a unit whose every input's marker has come and that is at rest takes its edge, and with the last one the partition is frozen
and the round counted; RELEASE ends the freeze; RESTORE needs a partition without contexts, is refused without an image, and with
one brings its contexts into the partition that restores it, frozen, with ids that no later CTXNEW gives again and that no context of
this device has (log 19). -/
def Obligations.CheckpointRounds : Prop :=
  ∀ (s : State) (part : BitVec 2) (u : UnitRef) (i : InputRef),
    let p := part.toNat
    let r := s.round p
    let busy := ∃ t, t < 4 ∧ (s.tower t).part = part ∧ (s.tower t).st ≠ .run
    (r.active = true → exec (.ckptStart part) s = .next s)
    ∧ (r.active = false → busy → ∃ t, exec (.ckptStart part) s = .next t ∧ t.round p = { r with refused := true } ∧ t = { s with rounds := t.rounds })
    ∧ (r.active = false → ¬ busy → ∃ t, exec (.ckptStart part) s = .next t ∧ t = { s with rounds := t.rounds }
        ∧ t.round p = { r with active := true, refused := false, pending := true, waiting := roundUnits s p, edged := [] })
    ∧ (r.active = true → r.waiting ≠ [] → markerReady s p u i = true → i ∈ unitInputs s u →
        ∃ t, exec (.markerArrive part u i) s = .next t ∧ t = { s with rounds := t.rounds } ∧ (t.round p).edged = r.edged
        ∧ (t.round p).waiting.map (fun e => e.1) = r.waiting.map (fun e => e.1)
        ∧ (∀ e ∈ (t.round p).waiting, (e.1 = u → i ∈ e.2) ∧ ∃ f ∈ r.waiting, f.1 = e.1 ∧ (e = f ∨ (e.1 = u ∧ e.2 = f.2 ++ [i]))))
    ∧ (r.active = false ∨ (r.waiting ≠ [] ∧ (markerReady s p u i = false ∨ i ∉ unitInputs s u)) → exec (.markerArrive part u i) s = .next s)
    ∧ (∀ e, r.active = true → r.waiting.find? (fun e => e.1 = u) = some e →
        ((∃ j ∈ unitInputs s u, j ∉ e.2) → exec (.unitEdge part u) s = .next s)
        ∧ (∀ c, u = .core c → (∀ j ∈ unitInputs s u, j ∈ e.2) → jobsRest (discardOn s (groupsAt s c)) c = false →
            exec (.unitEdge part u) s = .next (discardOn s (groupsAt s c)))
        ∧ (r.pending = true → (∀ j ∈ unitInputs s u, j ∈ e.2) →
            (match u with
             | .core c => groupsAt s c = [] ∧ jobsRest s c = true
             | .queue q => ∀ a ∈ asyncsOf s q, ∀ b c d f, a.kind ≠ .copyh b c d f
             | .machine => agentsOf s p = [] ∧ (s.planner p).flight = none) →
            ∃ t, exec (.unitEdge part u) s = .next t ∧ (t.round p).edged = r.edged ++ [u] ∧ (∀ e ∈ (t.round p).waiting, e.1 ≠ u)
              ∧ ((∀ e ∈ r.waiting, e.1 = u) → (t.round p).frozen = true ∧ (t.round p).pending = false ∧ (t.round p).count = r.count + 1)
              ∧ ((∃ e ∈ r.waiting, e.1 ≠ u) → (t.round p).frozen = r.frozen ∧ t.mem = s.mem)))
    ∧ (r.frozen = true → ∃ t, exec (.ckptRelease part) s = .next t ∧ t = { s with rounds := t.rounds }
        ∧ t.round p = { r with active := false, frozen := false, pending := false, waiting := [], edged := [] })
    ∧ (r.frozen = false → exec (.ckptRelease part) s = .next s)
    ∧ ((∃ e ∈ s.ctxs, e.2.part = p) → exec (.ckptRestore part) s = .next s)
    ∧ ((∀ e ∈ s.ctxs, e.2.part ≠ p) →
        (imageAt s (ckptBuf s p) (ckptSize s p) = none → ∃ t, exec (.ckptRestore part) s = .next t ∧ t.round p = { r with refused := true })
        ∧ (∀ im, imageAt s (ckptBuf s p) (ckptSize s p) = some im → ∃ t, exec (.ckptRestore part) s = .next t ∧ (t.round p).frozen = true
            ∧ (∀ e ∈ (im.fresh s).ctxs, (∀ f ∈ (im.fresh s).ctxs, f.1 = e.1 → f = e) → e.1 < t.nextId ∧ ∃ c, t.ctx e.1 = some c ∧ c.root = e.2.root ∧ c.part = p)
            ∧ (∀ n c, n < s.nextId → s.ctx n = some c → (∀ e ∈ (im.fresh s).ctxs, e.1 ≠ n)
                ∧ ∃ d, t.ctx n = some d ∧ d.root = c.root ∧ d.place = c.place ∧ d.part = c.part)
            ∧ (im.meets s = false → im.fresh s = im) ∧ (im.meets s = true → (im.fresh s).ctxs.map (fun e => e.1) = im.ctxs.map (fun e => e.1 + s.nextId))))

/-- R383, R397, R401, R404, R405, R407: a write to the module's registers. RLBASE, PWBASE and PWLIMIT are written while no QSB stands in a list,
a debug register where DBGCTX names a context with DEBUG, and otherwise DBGSTAT says DEBUG_DENIED; ATTADDR starts a report, which
is DONE once written; PERFREQ starts a reading, whose VALUE is DONE later; CLEAR zeroes a counter in every core. What names no register,
and a register that is read only, is not changed. -/
def Obligations.RegistersAndReadings : Prop :=
  ∀ (s : State) (off : Nat) (v : Word) (n : BitVec 3) (c : Ctx),
    let ctx := (s.reg 0x200).toNat
    let only (r : Nat) (w : Word) (t : State) : Prop := t = { s with regs := t.regs } ∧ t.reg r = w ∧ ∀ k, k ≠ r → t.reg k = s.reg k
    (allQueues s = [] → (∃ t, exec (.registerWrite 8 v) s = .next t ∧ only 8 (v &&& ~~~2047) t)
      ∧ (∀ r ∈ [0x10, 0x18], ∃ t, exec (.registerWrite r v) s = .next t ∧ only r v t))
    ∧ (allQueues s ≠ [] → ∀ r ∈ [8, 0x10, 0x18], exec (.registerWrite r v) s = .next s)
    ∧ (∀ r ∈ [0, 0x20, 0x208, 0x408, 0x518], exec (.registerWrite r v) s = .next s)
    ∧ (regExists off = false → exec (.registerWrite off v) s = .next s)
    ∧ (∀ r ∈ [0x200, 0x500, 0x508], ∃ t, exec (.registerWrite r v) s = .next t ∧ only r v t)
    ∧ (isDebugSet off = true → s.ctx ctx = some c →
        (c.debug = true → ∃ t, exec (.debugRegisterWrite off v) s = .next t ∧ t.reg 0x208 = 0 ∧ t.mem = s.mem
          ∧ t.ctx ctx = some { c with dbg := Tbl.put c.dbg off (v &&& debugMask off) })
        ∧ (c.debug = false → ∃ t, exec (.debugRegisterWrite off v) s = .next t ∧ only 0x208 (Cause.debugDenied.setWidth 64) t))
    ∧ (s.attBusy = none → s.ctx (s.reg 0x500).toNat = some c → ∃ t, exec (.attestRequest v) s = .next t
        ∧ t.attBusy = some (uv v / 64 * 64) ∧ t.reg 0x518 = 1 ∧ t.mem = s.mem)
    ∧ (s.attBusy = none → s.ctx (s.reg 0x500).toNat = none → ∃ t, exec (.attestRequest v) s = .next t ∧ only 0x518 4 t)
    ∧ (∀ a, s.attBusy = some a → exec (.attestRequest v) s = .next s
        ∧ (s.ctx (s.reg 0x500).toNat = some c → ∃ t, exec .attestDone s = .next t ∧ t.attBusy = none ∧ t.reg 0x518 = 2))
    ∧ (s.perfBusy = none → uv v / 16 % 4 ≠ 3 → ∃ t, exec (.perfReading v) s = .next t ∧ t.reg 0x408 = 0
        ∧ t.perfBusy = some (uv v % 8, uv v / 16 % 4, uv v / 256 % 4))
    ∧ (∀ k part, s.perfBusy = some (k, 0, part) → (s.reg (0x410 + 8 * k)).toNat % 256 < 24 → ∃ t, exec .perfReadingDone s = .next t
        ∧ t.perfBusy = none ∧ t.reg 0x408 = .ofNat 64 ((perfSamples s k part).sum % 2 ^ 56 + 2 ^ 63))
    ∧ (∃ t, exec (.perfClear n) s = .next t ∧ t = { s with perf := t.perf } ∧ ∀ k, Tbl.get t.perf k 0 = if k % 8 = n.toNat then 0 else Tbl.get s.perf k 0)

/-- R142, R262, R265, R408: a write from outside within one sector of memory that exists leaves exactly its bytes changed, an add and a compare-and-swap their
doubleword; a read changes nothing. A page walk that finds a leaf leaves it in the TLBs of its core and deck, one that faults
nothing. A link retry is invisible but for the count of a corrected error. -/
def Obligations.OutsideAndWalks : Prop :=
  ∀ (s : State) (pa : Nat) (data : List Byte) (v e va : Word) (core evict : Nat),
    let loc := locOf pa
    let n := data.length
    let ok (k : Nat) : Prop := outsideOk s pa k = true
    let old := Memory.readN s.mem loc 8
    (∀ i ∈ [Instr.hostCoherentAccess (.write pa data), .remoteMemoryOperation (.write pa data)], 1 ≤ n → pa % 32 + n ≤ 32 →
      (ok n → ∃ t, exec i s = .next t ∧ (∀ k : Fin n, Memory.read t.mem (loc + k.val) = data[k])
        ∧ (∀ b, b < loc ∨ loc + n ≤ b → Memory.read t.mem b = Memory.read s.mem b) ∧ t = { s with mem := t.mem, poison := t.poison, soft := t.soft })
      ∧ (¬ ok n → exec i s = .next s))
    ∧ (pa % 8 = 0 → ok 8 →
        (∀ i ∈ [Instr.hostCoherentAccess (.add pa v), .remoteMemoryOperation (.add pa v)], exec i s = .next (put s loc 8 ((old + uv v) % 2 ^ 64)))
        ∧ (∀ i ∈ [Instr.hostCoherentAccess (.cas pa e v), .remoteMemoryOperation (.cas pa e v)],
            exec i s = .next (if old = uv e then put s loc 8 (uv v) else s)))
    ∧ (∀ i ∈ [Instr.hostCoherentAccess (.read pa n), .remoteMemoryOperation (.read pa n)], exec i s = .next s)
    ∧ (∀ l, walk s (ctxOf core) (uv va) = .ok l →
        let x : TlbEntry := { ctx := ctxOf core, base := l.base, size := l.size, leaf := l.entry, pa := l.pa }
        ∃ t, exec (.pageWalk core va evict) s = .next t ∧ t = { s with tlbs := t.tlbs } ∧ x ∈ Tbl.get t.tlbs (s.phys core) []
          ∧ (s.phys core < 2048 → x ∈ Tbl.get t.tlbs (2048 + deckOf (s.phys core)) []))
    ∧ (∀ c, walk s (ctxOf core) (uv va) = .error c → exec (.pageWalk core va evict) s = .next s)
    ∧ exec (.linkCrcRetry none) s = .next s ∧ exec (.linkCrcRetry (some core)) s = .next (s.count core 15 1)

/-! ## Encodings, steps, invariants -/

/-- R92 to R111, R119: every native instruction, with every operand at every value that its encoding admits, is what the decoder reads from
its words. -/
def Obligations.EncodedInstructionsDecode : Prop := ∀ (i : Instr) (w : Nat), encode i = some w → decode w = .ok i

/-- The fields that an agent instruction reads (R319, R323): with an immediate gs is zero, without one imm is. -/
def Sys2Proof.Claim.agentFields (i : Instr) : Prop :=
  match i with
  | .gadd _ im g imm | .gsub _ im g imm | .gmul _ im g imm | .gcmp _ im g imm _ => if im then g = 0 else imm = 0
  | _ => True

/-- The length that a packet's type has (R373); NOP any of R371. -/
def Sys2Proof.Claim.packetLength (p : Packet) : Prop :=
  match p with
  | .nop h => lenOk h.len = true
  | .fencePacket h => h.len = 16
  | .tstamp h _ => h.len = 32
  | .ring h _ _ _ _ _ _ _ => h.len = 64
  | .launch h _ _ _ | .waits h _ _ _ _ | .signal h _ _ _ | .cond h _ _ _ _ | .rearm h _ _ _ | .copyh h _ _ _ _
  | .agentCreate h _ _ _ _ | .agentSuspend h _ _ _ _ | .agentResume h _ _ _ _ | .agentRemove h _ _ _ _ | .agentExport h _ _ _ _
  | .agentImport h _ _ _ _ | .ctxnew h _ _ _ | .ctxfree h _ _ _ | .inval h _ _ _ | .qctlModel h _ _ _ | .qctlMask h _ _ _
  | .qctlFreq h _ _ _ | .partition h _ _ _ | .roleset h _ _ _ _ _ => h.len = 48
  | .badPacket _ _ => False

/-- R319 to R326, R333, R371, R373, R377, R379: an agent instruction is what the decoder reads from its doubleword, a packet of its type's
length what the fetcher reads from its bytes. -/
def Obligations.AgentWordsAndPacketsDecode : Prop :=
  (∀ (i : Instr) (w : Nat), encodeAgent i = some w → agentFields i → decodeAgent w = some i ∧ w < 2 ^ 64)
  ∧ ∀ (p : Packet) (w : Nat), encodePacket p = some w → packetLength p → decodePacket w = p

/-- Words that the chapters of the spec write out, one or more of every family, and the instructions that they give beside them. -/
def Obligations.WordsDecode : Prop :=
  let f32 : V64 := { d := 1, a := 2, b := 3, c := 0xFE, fmtA := 0, fmtB := 0, sgnB := false, sgnA := false, sat := false, rnd := 0, mask := 0, etype := 7 }
  decode 0 = .ok (.add 0 0 0) ∧ decode 0x20C83B00 = .ok (.sext 6 7 1) ∧ decode 0x00164C89 = .ok (.shli 9 9 44)
  ∧ decode 0xFFFF3304 = .ok (.andi 6 6 (-2)) ∧ decode 0x0000010000000000000019C7 = .ok (.addl 3 3 0x100)
  ∧ decode 0x00031B15 = .ok (.ld 6 3 0 true 2) ∧ decode 0xFF0B1399 = .ok (.lda 7 2 (-8) 2 true 2)
  ∧ decode 0x6602A19D = .ok (.amoadd 3 4 5 3 3) ∧ decode 0x00A2A1A0 = .ok (.cas 3 4 5 4 2)
  ∧ decode 0x009001C0 = .ok (.arrive 3 2 2) ∧ decode 0x000081C8 = .ok (.csrr 3 1)
  ∧ decode 0xFE0302010000E002 = .ok (.vadd f32) ∧ decode 0x3DCCCCCDFEFF02010000E003 = .ok (.vaddLit { f32 with b := 0xFF } 0x3DCCCCCD)
  ∧ decode 0x040302010024E182 = .ok (.vfma { f32 with c := 4, rnd := 2, mask := 2 })
  ∧ decode 0xFE0003010000E016 = .ok (.vld { f32 with a := 3, b := 0 }) ∧ decode 0x00001074 = .ok (.chclose 2)
  ∧ decode 0x00002955 = .ok (.tld 2 5 0) ∧ decode 0x0004815C = .ok (.azero 2 1 true)
  ∧ decode 0x000001FC011C1022 = .ok (.mma { ow := false, ksteps := 127, fmtB := 0, fmtA := 0, etypeB := 1, etypeA := 1, sgnB := true,
                                            sgnA := true, semiring := 0, tileB := 1, tileA := 0, acc := 0 })
  ∧ decode 0x200041E4 = .ok (.cpy 3 8 true) ∧ decode 0x008302E5 = .ok (.cpwait 5 6 2) ∧ decode 0x00002069 = .ok (.cvdone 4)
  ∧ decode 0xFFFFFFFF = .error { cause := Cause.illegalOp, tval := 0xFFFFFFFF }

/-- R66, R92, R94, R263, R320, R363, R371, R374: what a step does with the first turn of the agenda (with none, the strand in focus issues; the
order of turns is the model's, log 1). Where the words at a strand's pc decode to i, the step is exec of i, the strand in rotation, its
exemption from breakpoints cleared and the issue counted, unless the rotation would pass over a ready strand (log 67); where the
doubleword at a READY agent's pc decodes, or the packet at a READY queue's RPTR is sound and has its place among eight
asynchronous ones, it is the same for these, once no relocking deck holds what they touch (R415) and with single-bit errors in what
they read corrected (R265); thread 31 plans steps, a thread without a queue ends a move; an event, where it can
happen, happens, and time passes. -/
def Obligations.StepRunsDecodedInstruction : Prop :=
  ∀ (s : State) (k id th q w n : Nat) (i : Instr) (rest : List Turn) (a : Agent),
    let s0 : State := { s with fresh := s.fresh + 1, agenda := rest }
    let at_ : State := { s0 with fs := k }
    let x := s.thread th
    (s.agenda = .strand k :: rest ∨ (s.agenda = [] ∧ rest = [] ∧ k = s.fs) → (s.strand k).active = true → (s.strand k).idle = false →
      ((s.strand k).wait = .none ∨ (∃ m, (s.strand k).wait = .held m) ∨ ∃ j, (s.strand k).wait = .store j) → coreActs s0 (coreOf k) = true →
      (passesOver s0 k = false → issueOf at_ k = .instr i →
        step s = countIssue k (isStore i) (exec i (at_.setCur { at_.cur with exempt := false, wait := .none })))
      ∧ (passesOver s0 k = true → step s = .next s0))
    ∧ (fetchWords s k (s.strand k).pc (n / 4) = .ok w → lengthOf w = n → breakHit s k = none → decode w = .ok i → issueOf s k = .instr i)
    ∧ (s.agenda = .agent id :: rest → s.agent id = some a → agentActs s0 a = true → agentFetch s0 a a.pc = .ok w → decodeAgent w = some i →
        let me := agentSender id
        let ds := touchHeld s0 me (agentTouch s0 a)
        let s1 := touchSeen (dropHeld s0 me) (agentTouch s0 a)
        (ds ≠ [] → step s = .next (noteHeld s0 me ds))
        ∧ (ds = [] → touchHeld s1 me (recordTouch s1 id a) = [] → step s = exec i { s1 with fa := id }))
    ∧ (s.agenda = .thread th :: rest → th ≤ 30 → x.qsb = some q → x.unmap = false → queueFrozen s0 q = false → qState s q = 1 →
        (qCtx s q ≠ 0 ∨ qPriv s q = true) → fetchPacket s0 q = .packet w →
        ((hdrOf w).report = false ∨ ringFull s (ringKey (qCtx s q) (qRepring s q)) = false) →
        (isAsync (decodePacket w) = false ∨ (Tbl.look s.behind q = none ∧ (asyncsOf s q).length < 8)) →
        x.packets < 4096 → tornOver s q = false → extHeld s (queueSender q) (whoOf (qCtx s q)) [(qRptr s q, fetchBytes s q)] = [] →
        touchHeld s (queueSender q) (packetTouch s q (decodePacket w)) = [] →
        let s1 := extSeen s0 (whoOf (qCtx s q)) (qRptr s q) (fetchBytes s q)
        let s2 : State := { s1.setThread th { x with idleSince := none } with torn := Tbl.del s.torn q }
        step s = runPacket (decodePacket w) { touchSeen (dropHeld s2 (queueSender q)) (packetTouch s q (decodePacket w)) with fq := q })
    ∧ (s.agenda = .thread 31 :: rest → step s = .next ((List.range 4).foldl planStep s0))
    ∧ (s.agenda = .thread th :: rest → th ≤ 30 → x.qsb = none → step s = .next (finishMove s0) ∧ (s.moves = [] → step s = .next s0))
    ∧ (s.agenda = .event i :: rest → isEvent i = true → step s = exec i s0)
    ∧ (s.agenda = .time n :: rest → step s = .next (passTime n s0))
    ∧ (∀ picks checks, s.agenda = .choose picks checks :: rest → step s = .next { s0 with picks := picks, checks := checks })
    ∧ (∀ (h : Hdr) (x y z v : Word) (b c : Byte) (r vec : Half) (e g : W32),
        runPacket (.nop h) s = exec (.nop h) s ∧ runPacket (.launch h x y z) s = exec (.launch h x y z) s
        ∧ runPacket (.waits h x y b z) s = exec (.waits h x y b z) s ∧ runPacket (.signal h x y b) s = exec (.signal h x y b) s
        ∧ runPacket (.cond h x y b z) s = exec (.cond h x y b z) s ∧ runPacket (.rearm h x y z) s = exec (.rearm h x y z) s
        ∧ runPacket (.copyh h x y z v) s = exec (.copyh h x y z v) s
        ∧ runPacket (.ring h r vec e x y g z) s = exec (.ring h r vec e x y g z) s ∧ runPacket (.tstamp h x) s = exec (.tstamp h x) s
        ∧ runPacket (.fencePacket h) s = exec (.fencePacket h) s ∧ runPacket (.agentCreate h b x y z) s = exec (.agentCreate h b x y z) s
        ∧ runPacket (.agentSuspend h b x y z) s = exec (.agentSuspend h b x y z) s
        ∧ runPacket (.agentResume h b x y z) s = exec (.agentResume h b x y z) s
        ∧ runPacket (.agentRemove h b x y z) s = exec (.agentRemove h b x y z) s
        ∧ runPacket (.agentExport h b x y z) s = exec (.agentExport h b x y z) s
        ∧ runPacket (.agentImport h b x y z) s = exec (.agentImport h b x y z) s ∧ runPacket (.ctxnew h x y z) s = exec (.ctxnew h x y z) s
        ∧ runPacket (.ctxfree h x y z) s = exec (.ctxfree h x y z) s ∧ runPacket (.inval h x y z) s = exec (.inval h x y z) s
        ∧ runPacket (.qctlModel h x y z) s = exec (.qctlModel h x y z) s ∧ runPacket (.qctlMask h x y z) s = exec (.qctlMask h x y z) s
        ∧ runPacket (.qctlFreq h x y z) s = exec (.qctlFreq h x y z) s ∧ runPacket (.partition h x y z) s = exec (.partition h x y z) s
        ∧ runPacket (.roleset h b c e x y) s = exec (.roleset h b c e x y) s ∧ runPacket (.badPacket h b) s = exec (.badPacket h b) s)

/-- The memory keeps its canonical form (locations strictly rising, no byte that an unlisted location reads as) in every step, whatever
the machine does in it. The form is the model's (log 3). -/
def Obligations.MemoryStaysCanonical : Prop := ∀ s t : State, Memory.wf s.mem → step s = .next t → Memory.wf t.mem

/-- What reset leaves (R29, R383, R409, R411, R413): every tower in RUN on map C S S S with its compute deck at 1.5 GHz and a ceiling of 1.5 GHz, no DRAM
trained, REFT, CYC, CLKLOG, WALKGEN and FESTAT 0. The memory of reset is in canonical form (the form is the model's, log 3). -/
def Obligations.ResetState : Prop :=
  let s := State.reset
  Memory.wf s.mem ∧ s.trained = false ∧ s.reft = 0
  ∧ (∀ t, t < 4 → (s.tower t).st = .run ∧ (s.tower t).cmask = 1 ∧ (s.tower t).change = none)
  ∧ (∀ d, d < 16 → (deckCompute s d = true ↔ d % 4 = 0) ∧ (s.deck d).cyc = 0 ∧ (s.deck d).clklog = 0
      ∧ (d % 4 = 0 → (s.deck d).cur = 15 ∧ (s.deck d).ceil = 15))
  ∧ devRead s 0x20 = 0 ∧ devRead s 0x28 = 0
  ∧ ∀ pa, pa / 2 ^ 48 ≤ 4 → paOk s pa = false
end

