-- ==== Sys2Proof/Laws/Memory.lean ====
section
/-!
SUPPORT. Memory: reads after writes, and the canonical form, which every memory operation keeps.
-/

namespace Sys2Proof.Machine

/-! ## One byte -/

theorem Memory.read_insert_same (m : List Host.Cell) (a : Nat) (v : Byte) : Memory.read (Memory.insert m a v) a = v := by
  induction m with
  | nil => simp [Memory.insert, Memory.read]
  | cons c r ih =>
    obtain ⟨b, w⟩ := c
    unfold Memory.insert
    split
    · simp [Memory.read]
    · split
      · simp [Memory.read]
      · simp [Memory.read, *]

theorem Memory.read_insert_other (m : List Host.Cell) (a b : Nat) (v : Byte) (h : b ≠ a) :
    Memory.read (Memory.insert m a v) b = Memory.read m b := by
  have ha : a ≠ b := fun e => h e.symm
  induction m with
  | nil => simp [Memory.insert, Memory.read, ha]
  | cons c r ih =>
    obtain ⟨i, w⟩ := c
    unfold Memory.insert
    split
    · simp [Memory.read, ha]
    · split
      · rename_i h1 h2
        simp [Memory.read, ha, h2]
      · simp [Memory.read, ih]

theorem Memory.read_filter_same (m : List Host.Cell) (a : Nat) : Memory.read (m.filter (fun c => c.1 ≠ a)) a = 0 := by
  induction m with
  | nil => rfl
  | cons c r ih =>
    obtain ⟨b, w⟩ := c
    by_cases h : b = a
    · simp [h] at *
      exact ih
    · simp [Memory.read, h] at *
      exact ih

theorem Memory.read_filter_other (m : List Host.Cell) (a b : Nat) (h : b ≠ a) :
    Memory.read (m.filter (fun c => c.1 ≠ a)) b = Memory.read m b := by
  induction m with
  | nil => rfl
  | cons c r ih =>
    obtain ⟨i, w⟩ := c
    by_cases hi : i = a
    · have : i ≠ b := fun e => h (e.symm.trans hi)
      simp [Memory.read, hi] at *
      rw [ih]
      simp [this]
    · simp [Memory.read, hi] at *
      rw [ih]

/-- A byte reads as what was written to it. -/
theorem Memory.read_write_same (m : List Host.Cell) (a : Nat) (v : Byte) : Memory.read (Memory.write m a v) a = v := by
  unfold Memory.write
  split
  · rename_i h; rw [Memory.read_filter_same, h]
  · exact Memory.read_insert_same m a v

/-- A write leaves every other byte. -/
theorem Memory.read_write_other (m : List Host.Cell) (a b : Nat) (v : Byte) (h : b ≠ a) :
    Memory.read (Memory.write m a v) b = Memory.read m b := by
  unfold Memory.write
  split
  · exact Memory.read_filter_other m a b h
  · exact Memory.read_insert_other m a b v h

/-! ## n bytes -/

/-- A write of n bytes leaves every byte outside them. -/
theorem Memory.read_writeN_other (n : Nat) : ∀ (m : List Host.Cell) (a v b : Nat), (b < a ∨ a + n ≤ b) →
    Memory.read (Memory.writeN m a n v) b = Memory.read m b := by
  induction n with
  | zero => intro m a v b _; rfl
  | succ n ih =>
    intro m a v b h
    unfold Memory.writeN
    rw [ih _ _ _ _ (by omega), Memory.read_write_other _ _ _ _ (by omega)]

/-- Reading a range that nothing between changed gives the same. -/
theorem Memory.readN_congr (n : Nat) : ∀ (m m' : List Host.Cell) (a : Nat), (∀ b, a ≤ b → b < a + n → Memory.read m b = Memory.read m' b) →
    Memory.readN m a n = Memory.readN m' a n := by
  induction n with
  | zero => intros; rfl
  | succ n ih =>
    intro m m' a h
    unfold Memory.readN
    rw [h a (by omega) (by omega), ih m m' (a + 1) (fun b h1 h2 => h b (by omega) (by omega))]

theorem Memory.readN_writeN_other (m : List Host.Cell) (a n v b k : Nat) (h : b + k ≤ a ∨ a + n ≤ b) :
    Memory.readN (Memory.writeN m a n v) b k = Memory.readN m b k :=
  Memory.readN_congr k _ _ b (fun c h1 h2 => Memory.read_writeN_other n m a v c (by omega))

/-- n bytes read as the value written to them, modulo 256^n. -/
theorem Memory.readN_writeN_same (n : Nat) : ∀ (m : List Host.Cell) (a v : Nat), Memory.readN (Memory.writeN m a n v) a n = v % 256 ^ n := by
  induction n with
  | zero => intro m a v; simp [Memory.readN, Nat.mod_one]
  | succ n ih =>
    intro m a v
    unfold Memory.writeN Memory.readN
    rw [ih, Memory.read_writeN_other n _ _ _ _ (by omega), Memory.read_write_same]
    simp only [BitVec.toNat_ofNat]
    rw [show (256 : Nat) ^ (n + 1) = 256 * 256 ^ n from by rw [Nat.pow_succ, Nat.mul_comm], Nat.mod_mul]

theorem Memory.readN_lt (m : List Host.Cell) (n : Nat) : ∀ a, Memory.readN m a n < 256 ^ n := by
  induction n with
  | zero => intro a; simp [Memory.readN]
  | succ n ih =>
    intro a
    have h := ih (a + 1)
    have hb := (Memory.read m a).isLt
    unfold Memory.readN
    rw [Nat.pow_succ]
    omega

/-! ## The canonical form -/

theorem Memory.insert_key (m : List Host.Cell) (a : Nat) (v : Byte) (c : Host.Cell) (h : c ∈ Memory.insert m a v) : c = (a, v) ∨ c ∈ m := by
  induction m with
  | nil => simp [Memory.insert] at h; exact .inl h
  | cons d r ih =>
    obtain ⟨b, w⟩ := d
    unfold Memory.insert at h
    split at h
    · rcases List.mem_cons.mp h with h | h
      · exact .inl h
      · exact .inr h
    · split at h
      · rcases List.mem_cons.mp h with h | h
        · exact .inl h
        · exact .inr (List.mem_cons_of_mem _ h)
      · simp at h
        rcases h with h | h
        · simp [h]
        · rcases ih h with h | h <;> simp [h]

theorem Memory.wf_insert (m : List Host.Cell) (a : Nat) (v : Byte) (hv : v ≠ 0) (h : Memory.wf m) : Memory.wf (Memory.insert m a v) := by
  refine ⟨?_, ?_⟩
  · have h1 := h.1
    clear h
    induction m with
    | nil => simp [Memory.insert]
    | cons d r ih =>
      obtain ⟨b, w⟩ := d
      rw [List.pairwise_cons] at h1
      unfold Memory.insert
      split
      · rename_i hab
        rw [List.pairwise_cons, List.pairwise_cons]
        refine ⟨?_, h1⟩
        intro c hc
        simp at hc
        rcases hc with hc | hc
        · simp [hc, hab]
        · exact Nat.lt_trans hab (h1.1 c hc)
      · split
        · rename_i hab hba
          rw [List.pairwise_cons]
          exact ⟨fun c hc => hba ▸ h1.1 c hc, h1.2⟩
        · rename_i hab hba
          rw [List.pairwise_cons]
          refine ⟨?_, ih h1.2⟩
          intro c hc
          rcases Memory.insert_key r a v c hc with hc | hc
          · rw [hc]; show b < a; omega
          · exact h1.1 c hc
  · intro c hc
    rcases Memory.insert_key m a v c hc with hc | hc
    · rw [hc]; exact hv
    · exact h.2 c hc

theorem Memory.wf_filter (m : List Host.Cell) (p : Host.Cell → Bool) (h : Memory.wf m) : Memory.wf (m.filter p) :=
  ⟨h.1.sublist List.filter_sublist, fun c hc => h.2 c (List.mem_filter.mp hc).1⟩

theorem Memory.wf_write (m : List Host.Cell) (a : Nat) (v : Byte) (h : Memory.wf m) : Memory.wf (Memory.write m a v) := by
  unfold Memory.write
  split
  · exact Memory.wf_filter m _ h
  · rename_i hv; exact Memory.wf_insert m a v hv h

theorem Memory.wf_writeN (n : Nat) : ∀ (m : List Host.Cell) (a v : Nat), Memory.wf m → Memory.wf (Memory.writeN m a n v) := by
  induction n with
  | zero => intro m a v h; exact h
  | succ n ih => intro m a v h; exact ih _ _ _ (Memory.wf_write m a _ h)

theorem Memory.wf_writeMasked (es : List Bool) : ∀ (m : List Host.Cell) (a v : Nat), Memory.wf m → Memory.wf (Memory.writeMasked m a es v) := by
  induction es with
  | nil => intro m a v h; exact h
  | cons e r ih =>
    intro m a v h
    unfold Memory.writeMasked
    apply ih
    split
    · exact Memory.wf_write m a _ h
    · exact h

theorem Memory.wf_foldl_write {α : Type} (f : List Host.Cell → α → Nat) (g : List Host.Cell → α → Byte) (l : List α) :
    ∀ (m : List Host.Cell), Memory.wf m → Memory.wf (l.foldl (fun m x => Memory.write m (f m x) (g m x)) m) := by
  induction l with
  | nil => intro m h; exact h
  | cons x r ih => intro m h; exact ih _ (Memory.wf_write m _ _ h)

theorem Memory.wf_nil : Memory.wf [] := by simp [Memory.wf]

end Sys2Proof.Machine
end

