-- ==== Sys2Proof/Laws/State.lean ====
section
/-!
SUPPORT. What each update of the state leaves: one lemma per field per update.
-/

namespace Sys2Proof.Machine

/-! ## setStrand -/

@[simp] theorem State.setStrand_reft (s : State) (k : Nat) (t : Strand) : (s.setStrand k t).reft = s.reft := rfl
@[simp] theorem State.setStrand_mem (s : State) (k : Nat) (t : Strand) : (s.setStrand k t).mem = s.mem := rfl
@[simp] theorem State.setStrand_poison (s : State) (k : Nat) (t : Strand) : (s.setStrand k t).poison = s.poison := rfl
@[simp] theorem State.setStrand_soft (s : State) (k : Nat) (t : Strand) : (s.setStrand k t).soft = s.soft := rfl
@[simp] theorem State.setStrand_trained (s : State) (k : Nat) (t : Strand) : (s.setStrand k t).trained = s.trained := rfl
@[simp] theorem State.setStrand_bringup (s : State) (k : Nat) (t : Strand) : (s.setStrand k t).bringup = s.bringup := rfl
@[simp] theorem State.setStrand_initial (s : State) (k : Nat) (t : Strand) : (s.setStrand k t).initial = s.initial := rfl
@[simp] theorem State.setStrand_towers (s : State) (k : Nat) (t : Strand) : (s.setStrand k t).towers = s.towers := rfl
@[simp] theorem State.setStrand_decks (s : State) (k : Nat) (t : Strand) : (s.setStrand k t).decks = s.decks := rfl
@[simp] theorem State.setStrand_hostmap (s : State) (k : Nat) (t : Strand) : (s.setStrand k t).hostmap = s.hostmap := rfl
@[simp] theorem State.setStrand_tags (s : State) (k : Nat) (t : Strand) : (s.setStrand k t).tags = s.tags := rfl
@[simp] theorem State.setStrand_tlbs (s : State) (k : Nat) (t : Strand) : (s.setStrand k t).tlbs = s.tlbs := rfl
@[simp] theorem State.setStrand_ctxs (s : State) (k : Nat) (t : Strand) : (s.setStrand k t).ctxs = s.ctxs := rfl
@[simp] theorem State.setStrand_cores (s : State) (k : Nat) (t : Strand) : (s.setStrand k t).cores = s.cores := rfl
@[simp] theorem State.setStrand_launches (s : State) (k : Nat) (t : Strand) : (s.setStrand k t).launches = s.launches := rfl
@[simp] theorem State.setStrand_links (s : State) (k : Nat) (t : Strand) : (s.setStrand k t).links = s.links := rfl
@[simp] theorem State.setStrand_inbox (s : State) (k : Nat) (t : Strand) : (s.setStrand k t).inbox = s.inbox := rfl
@[simp] theorem State.setStrand_covs (s : State) (k : Nat) (t : Strand) : (s.setStrand k t).covs = s.covs := rfl
@[simp] theorem State.setStrand_covResets (s : State) (k : Nat) (t : Strand) : (s.setStrand k t).covResets = s.covResets := rfl
@[simp] theorem State.setStrand_decrs (s : State) (k : Nat) (t : Strand) : (s.setStrand k t).decrs = s.decrs := rfl
@[simp] theorem State.setStrand_calls (s : State) (k : Nat) (t : Strand) : (s.setStrand k t).calls = s.calls := rfl
@[simp] theorem State.setStrand_replies (s : State) (k : Nat) (t : Strand) : (s.setStrand k t).replies = s.replies := rfl
@[simp] theorem State.setStrand_stale (s : State) (k : Nat) (t : Strand) : (s.setStrand k t).stale = s.stale := rfl
@[simp] theorem State.setStrand_lates (s : State) (k : Nat) (t : Strand) : (s.setStrand k t).lates = s.lates := rfl
@[simp] theorem State.setStrand_sent (s : State) (k : Nat) (t : Strand) : (s.setStrand k t).sent = s.sent := rfl
@[simp] theorem State.setStrand_crossing (s : State) (k : Nat) (t : Strand) : (s.setStrand k t).crossing = s.crossing := rfl
@[simp] theorem State.setStrand_agents (s : State) (k : Nat) (t : Strand) : (s.setStrand k t).agents = s.agents := rfl
@[simp] theorem State.setStrand_toks (s : State) (k : Nat) (t : Strand) : (s.setStrand k t).toks = s.toks := rfl
@[simp] theorem State.setStrand_pantry (s : State) (k : Nat) (t : Strand) : (s.setStrand k t).pantry = s.pantry := rfl
@[simp] theorem State.setStrand_models (s : State) (k : Nat) (t : Strand) : (s.setStrand k t).models = s.models := rfl
@[simp] theorem State.setStrand_masks (s : State) (k : Nat) (t : Strand) : (s.setStrand k t).masks = s.masks := rfl
@[simp] theorem State.setStrand_planners (s : State) (k : Nat) (t : Strand) : (s.setStrand k t).planners = s.planners := rfl
@[simp] theorem State.setStrand_threads (s : State) (k : Nat) (t : Strand) : (s.setStrand k t).threads = s.threads := rfl
@[simp] theorem State.setStrand_asyncs (s : State) (k : Nat) (t : Strand) : (s.setStrand k t).asyncs = s.asyncs := rfl
@[simp] theorem State.setStrand_slotQueue (s : State) (k : Nat) (t : Strand) : (s.setStrand k t).slotQueue = s.slotQueue := rfl
@[simp] theorem State.setStrand_moves (s : State) (k : Nat) (t : Strand) : (s.setStrand k t).moves = s.moves := rfl
@[simp] theorem State.setStrand_wakes (s : State) (k : Nat) (t : Strand) : (s.setStrand k t).wakes = s.wakes := rfl
@[simp] theorem State.setStrand_halts (s : State) (k : Nat) (t : Strand) : (s.setStrand k t).halts = s.halts := rfl
@[simp] theorem State.setStrand_behind (s : State) (k : Nat) (t : Strand) : (s.setStrand k t).behind = s.behind := rfl
@[simp] theorem State.setStrand_torn (s : State) (k : Nat) (t : Strand) : (s.setStrand k t).torn = s.torn := rfl
@[simp] theorem State.setStrand_rings (s : State) (k : Nat) (t : Strand) : (s.setStrand k t).rings = s.rings := rfl
@[simp] theorem State.setStrand_reports (s : State) (k : Nat) (t : Strand) : (s.setStrand k t).reports = s.reports := rfl
@[simp] theorem State.setStrand_interrupts (s : State) (k : Nat) (t : Strand) : (s.setStrand k t).interrupts = s.interrupts := rfl
@[simp] theorem State.setStrand_thermal (s : State) (k : Nat) (t : Strand) : (s.setStrand k t).thermal = s.thermal := rfl
@[simp] theorem State.setStrand_regs (s : State) (k : Nat) (t : Strand) : (s.setStrand k t).regs = s.regs := rfl
@[simp] theorem State.setStrand_walkgen (s : State) (k : Nat) (t : Strand) : (s.setStrand k t).walkgen = s.walkgen := rfl
@[simp] theorem State.setStrand_reread (s : State) (k : Nat) (t : Strand) : (s.setStrand k t).reread = s.reread := rfl
@[simp] theorem State.setStrand_rounds (s : State) (k : Nat) (t : Strand) : (s.setStrand k t).rounds = s.rounds := rfl
@[simp] theorem State.setStrand_images (s : State) (k : Nat) (t : Strand) : (s.setStrand k t).images = s.images := rfl
@[simp] theorem State.setStrand_perf (s : State) (k : Nat) (t : Strand) : (s.setStrand k t).perf = s.perf := rfl
@[simp] theorem State.setStrand_perfPart (s : State) (k : Nat) (t : Strand) : (s.setStrand k t).perfPart = s.perfPart := rfl
@[simp] theorem State.setStrand_perfBusy (s : State) (k : Nat) (t : Strand) : (s.setStrand k t).perfBusy = s.perfBusy := rfl
@[simp] theorem State.setStrand_attBusy (s : State) (k : Nat) (t : Strand) : (s.setStrand k t).attBusy = s.attBusy := rfl
@[simp] theorem State.setStrand_nextId (s : State) (k : Nat) (t : Strand) : (s.setStrand k t).nextId = s.nextId := rfl
@[simp] theorem State.setStrand_fresh (s : State) (k : Nat) (t : Strand) : (s.setStrand k t).fresh = s.fresh := rfl
@[simp] theorem State.setStrand_agenda (s : State) (k : Nat) (t : Strand) : (s.setStrand k t).agenda = s.agenda := rfl
@[simp] theorem State.setStrand_picks (s : State) (k : Nat) (t : Strand) : (s.setStrand k t).picks = s.picks := rfl
@[simp] theorem State.setStrand_checks (s : State) (k : Nat) (t : Strand) : (s.setStrand k t).checks = s.checks := rfl
@[simp] theorem State.setStrand_fs (s : State) (k : Nat) (t : Strand) : (s.setStrand k t).fs = s.fs := rfl
@[simp] theorem State.setStrand_fa (s : State) (k : Nat) (t : Strand) : (s.setStrand k t).fa = s.fa := rfl
@[simp] theorem State.setStrand_fq (s : State) (k : Nat) (t : Strand) : (s.setStrand k t).fq = s.fq := rfl

/-! ## setCore -/

@[simp] theorem State.setCore_reft (s : State) (k : Nat) (c : Core) : (s.setCore k c).reft = s.reft := rfl
@[simp] theorem State.setCore_mem (s : State) (k : Nat) (c : Core) : (s.setCore k c).mem = s.mem := rfl
@[simp] theorem State.setCore_poison (s : State) (k : Nat) (c : Core) : (s.setCore k c).poison = s.poison := rfl
@[simp] theorem State.setCore_soft (s : State) (k : Nat) (c : Core) : (s.setCore k c).soft = s.soft := rfl
@[simp] theorem State.setCore_trained (s : State) (k : Nat) (c : Core) : (s.setCore k c).trained = s.trained := rfl
@[simp] theorem State.setCore_bringup (s : State) (k : Nat) (c : Core) : (s.setCore k c).bringup = s.bringup := rfl
@[simp] theorem State.setCore_initial (s : State) (k : Nat) (c : Core) : (s.setCore k c).initial = s.initial := rfl
@[simp] theorem State.setCore_towers (s : State) (k : Nat) (c : Core) : (s.setCore k c).towers = s.towers := rfl
@[simp] theorem State.setCore_decks (s : State) (k : Nat) (c : Core) : (s.setCore k c).decks = s.decks := rfl
@[simp] theorem State.setCore_hostmap (s : State) (k : Nat) (c : Core) : (s.setCore k c).hostmap = s.hostmap := rfl
@[simp] theorem State.setCore_tags (s : State) (k : Nat) (c : Core) : (s.setCore k c).tags = s.tags := rfl
@[simp] theorem State.setCore_tlbs (s : State) (k : Nat) (c : Core) : (s.setCore k c).tlbs = s.tlbs := rfl
@[simp] theorem State.setCore_ctxs (s : State) (k : Nat) (c : Core) : (s.setCore k c).ctxs = s.ctxs := rfl
@[simp] theorem State.setCore_strands (s : State) (k : Nat) (c : Core) : (s.setCore k c).strands = s.strands := rfl
@[simp] theorem State.setCore_launches (s : State) (k : Nat) (c : Core) : (s.setCore k c).launches = s.launches := rfl
@[simp] theorem State.setCore_links (s : State) (k : Nat) (c : Core) : (s.setCore k c).links = s.links := rfl
@[simp] theorem State.setCore_inbox (s : State) (k : Nat) (c : Core) : (s.setCore k c).inbox = s.inbox := rfl
@[simp] theorem State.setCore_covs (s : State) (k : Nat) (c : Core) : (s.setCore k c).covs = s.covs := rfl
@[simp] theorem State.setCore_covResets (s : State) (k : Nat) (c : Core) : (s.setCore k c).covResets = s.covResets := rfl
@[simp] theorem State.setCore_decrs (s : State) (k : Nat) (c : Core) : (s.setCore k c).decrs = s.decrs := rfl
@[simp] theorem State.setCore_calls (s : State) (k : Nat) (c : Core) : (s.setCore k c).calls = s.calls := rfl
@[simp] theorem State.setCore_replies (s : State) (k : Nat) (c : Core) : (s.setCore k c).replies = s.replies := rfl
@[simp] theorem State.setCore_stale (s : State) (k : Nat) (c : Core) : (s.setCore k c).stale = s.stale := rfl
@[simp] theorem State.setCore_lates (s : State) (k : Nat) (c : Core) : (s.setCore k c).lates = s.lates := rfl
@[simp] theorem State.setCore_sent (s : State) (k : Nat) (c : Core) : (s.setCore k c).sent = s.sent := rfl
@[simp] theorem State.setCore_crossing (s : State) (k : Nat) (c : Core) : (s.setCore k c).crossing = s.crossing := rfl
@[simp] theorem State.setCore_agents (s : State) (k : Nat) (c : Core) : (s.setCore k c).agents = s.agents := rfl
@[simp] theorem State.setCore_toks (s : State) (k : Nat) (c : Core) : (s.setCore k c).toks = s.toks := rfl
@[simp] theorem State.setCore_pantry (s : State) (k : Nat) (c : Core) : (s.setCore k c).pantry = s.pantry := rfl
@[simp] theorem State.setCore_models (s : State) (k : Nat) (c : Core) : (s.setCore k c).models = s.models := rfl
@[simp] theorem State.setCore_masks (s : State) (k : Nat) (c : Core) : (s.setCore k c).masks = s.masks := rfl
@[simp] theorem State.setCore_planners (s : State) (k : Nat) (c : Core) : (s.setCore k c).planners = s.planners := rfl
@[simp] theorem State.setCore_threads (s : State) (k : Nat) (c : Core) : (s.setCore k c).threads = s.threads := rfl
@[simp] theorem State.setCore_asyncs (s : State) (k : Nat) (c : Core) : (s.setCore k c).asyncs = s.asyncs := rfl
@[simp] theorem State.setCore_slotQueue (s : State) (k : Nat) (c : Core) : (s.setCore k c).slotQueue = s.slotQueue := rfl
@[simp] theorem State.setCore_moves (s : State) (k : Nat) (c : Core) : (s.setCore k c).moves = s.moves := rfl
@[simp] theorem State.setCore_wakes (s : State) (k : Nat) (c : Core) : (s.setCore k c).wakes = s.wakes := rfl
@[simp] theorem State.setCore_halts (s : State) (k : Nat) (c : Core) : (s.setCore k c).halts = s.halts := rfl
@[simp] theorem State.setCore_behind (s : State) (k : Nat) (c : Core) : (s.setCore k c).behind = s.behind := rfl
@[simp] theorem State.setCore_torn (s : State) (k : Nat) (c : Core) : (s.setCore k c).torn = s.torn := rfl
@[simp] theorem State.setCore_rings (s : State) (k : Nat) (c : Core) : (s.setCore k c).rings = s.rings := rfl
@[simp] theorem State.setCore_reports (s : State) (k : Nat) (c : Core) : (s.setCore k c).reports = s.reports := rfl
@[simp] theorem State.setCore_interrupts (s : State) (k : Nat) (c : Core) : (s.setCore k c).interrupts = s.interrupts := rfl
@[simp] theorem State.setCore_thermal (s : State) (k : Nat) (c : Core) : (s.setCore k c).thermal = s.thermal := rfl
@[simp] theorem State.setCore_regs (s : State) (k : Nat) (c : Core) : (s.setCore k c).regs = s.regs := rfl
@[simp] theorem State.setCore_walkgen (s : State) (k : Nat) (c : Core) : (s.setCore k c).walkgen = s.walkgen := rfl
@[simp] theorem State.setCore_reread (s : State) (k : Nat) (c : Core) : (s.setCore k c).reread = s.reread := rfl
@[simp] theorem State.setCore_rounds (s : State) (k : Nat) (c : Core) : (s.setCore k c).rounds = s.rounds := rfl
@[simp] theorem State.setCore_images (s : State) (k : Nat) (c : Core) : (s.setCore k c).images = s.images := rfl
@[simp] theorem State.setCore_perf (s : State) (k : Nat) (c : Core) : (s.setCore k c).perf = s.perf := rfl
@[simp] theorem State.setCore_perfPart (s : State) (k : Nat) (c : Core) : (s.setCore k c).perfPart = s.perfPart := rfl
@[simp] theorem State.setCore_perfBusy (s : State) (k : Nat) (c : Core) : (s.setCore k c).perfBusy = s.perfBusy := rfl
@[simp] theorem State.setCore_attBusy (s : State) (k : Nat) (c : Core) : (s.setCore k c).attBusy = s.attBusy := rfl
@[simp] theorem State.setCore_nextId (s : State) (k : Nat) (c : Core) : (s.setCore k c).nextId = s.nextId := rfl
@[simp] theorem State.setCore_fresh (s : State) (k : Nat) (c : Core) : (s.setCore k c).fresh = s.fresh := rfl
@[simp] theorem State.setCore_agenda (s : State) (k : Nat) (c : Core) : (s.setCore k c).agenda = s.agenda := rfl
@[simp] theorem State.setCore_picks (s : State) (k : Nat) (c : Core) : (s.setCore k c).picks = s.picks := rfl
@[simp] theorem State.setCore_checks (s : State) (k : Nat) (c : Core) : (s.setCore k c).checks = s.checks := rfl
@[simp] theorem State.setCore_fs (s : State) (k : Nat) (c : Core) : (s.setCore k c).fs = s.fs := rfl
@[simp] theorem State.setCore_fa (s : State) (k : Nat) (c : Core) : (s.setCore k c).fa = s.fa := rfl
@[simp] theorem State.setCore_fq (s : State) (k : Nat) (c : Core) : (s.setCore k c).fq = s.fq := rfl

/-! ## setCtx -/

@[simp] theorem State.setCtx_reft (s : State) (c : Nat) (x : Ctx) : (s.setCtx c x).reft = s.reft := rfl
@[simp] theorem State.setCtx_mem (s : State) (c : Nat) (x : Ctx) : (s.setCtx c x).mem = s.mem := rfl
@[simp] theorem State.setCtx_poison (s : State) (c : Nat) (x : Ctx) : (s.setCtx c x).poison = s.poison := rfl
@[simp] theorem State.setCtx_soft (s : State) (c : Nat) (x : Ctx) : (s.setCtx c x).soft = s.soft := rfl
@[simp] theorem State.setCtx_trained (s : State) (c : Nat) (x : Ctx) : (s.setCtx c x).trained = s.trained := rfl
@[simp] theorem State.setCtx_bringup (s : State) (c : Nat) (x : Ctx) : (s.setCtx c x).bringup = s.bringup := rfl
@[simp] theorem State.setCtx_initial (s : State) (c : Nat) (x : Ctx) : (s.setCtx c x).initial = s.initial := rfl
@[simp] theorem State.setCtx_towers (s : State) (c : Nat) (x : Ctx) : (s.setCtx c x).towers = s.towers := rfl
@[simp] theorem State.setCtx_decks (s : State) (c : Nat) (x : Ctx) : (s.setCtx c x).decks = s.decks := rfl
@[simp] theorem State.setCtx_hostmap (s : State) (c : Nat) (x : Ctx) : (s.setCtx c x).hostmap = s.hostmap := rfl
@[simp] theorem State.setCtx_tags (s : State) (c : Nat) (x : Ctx) : (s.setCtx c x).tags = s.tags := rfl
@[simp] theorem State.setCtx_tlbs (s : State) (c : Nat) (x : Ctx) : (s.setCtx c x).tlbs = s.tlbs := rfl
@[simp] theorem State.setCtx_cores (s : State) (c : Nat) (x : Ctx) : (s.setCtx c x).cores = s.cores := rfl
@[simp] theorem State.setCtx_strands (s : State) (c : Nat) (x : Ctx) : (s.setCtx c x).strands = s.strands := rfl
@[simp] theorem State.setCtx_launches (s : State) (c : Nat) (x : Ctx) : (s.setCtx c x).launches = s.launches := rfl
@[simp] theorem State.setCtx_links (s : State) (c : Nat) (x : Ctx) : (s.setCtx c x).links = s.links := rfl
@[simp] theorem State.setCtx_inbox (s : State) (c : Nat) (x : Ctx) : (s.setCtx c x).inbox = s.inbox := rfl
@[simp] theorem State.setCtx_covs (s : State) (c : Nat) (x : Ctx) : (s.setCtx c x).covs = s.covs := rfl
@[simp] theorem State.setCtx_covResets (s : State) (c : Nat) (x : Ctx) : (s.setCtx c x).covResets = s.covResets := rfl
@[simp] theorem State.setCtx_decrs (s : State) (c : Nat) (x : Ctx) : (s.setCtx c x).decrs = s.decrs := rfl
@[simp] theorem State.setCtx_calls (s : State) (c : Nat) (x : Ctx) : (s.setCtx c x).calls = s.calls := rfl
@[simp] theorem State.setCtx_replies (s : State) (c : Nat) (x : Ctx) : (s.setCtx c x).replies = s.replies := rfl
@[simp] theorem State.setCtx_stale (s : State) (c : Nat) (x : Ctx) : (s.setCtx c x).stale = s.stale := rfl
@[simp] theorem State.setCtx_lates (s : State) (c : Nat) (x : Ctx) : (s.setCtx c x).lates = s.lates := rfl
@[simp] theorem State.setCtx_sent (s : State) (c : Nat) (x : Ctx) : (s.setCtx c x).sent = s.sent := rfl
@[simp] theorem State.setCtx_crossing (s : State) (c : Nat) (x : Ctx) : (s.setCtx c x).crossing = s.crossing := rfl
@[simp] theorem State.setCtx_agents (s : State) (c : Nat) (x : Ctx) : (s.setCtx c x).agents = s.agents := rfl
@[simp] theorem State.setCtx_toks (s : State) (c : Nat) (x : Ctx) : (s.setCtx c x).toks = s.toks := rfl
@[simp] theorem State.setCtx_pantry (s : State) (c : Nat) (x : Ctx) : (s.setCtx c x).pantry = s.pantry := rfl
@[simp] theorem State.setCtx_models (s : State) (c : Nat) (x : Ctx) : (s.setCtx c x).models = s.models := rfl
@[simp] theorem State.setCtx_masks (s : State) (c : Nat) (x : Ctx) : (s.setCtx c x).masks = s.masks := rfl
@[simp] theorem State.setCtx_planners (s : State) (c : Nat) (x : Ctx) : (s.setCtx c x).planners = s.planners := rfl
@[simp] theorem State.setCtx_threads (s : State) (c : Nat) (x : Ctx) : (s.setCtx c x).threads = s.threads := rfl
@[simp] theorem State.setCtx_asyncs (s : State) (c : Nat) (x : Ctx) : (s.setCtx c x).asyncs = s.asyncs := rfl
@[simp] theorem State.setCtx_slotQueue (s : State) (c : Nat) (x : Ctx) : (s.setCtx c x).slotQueue = s.slotQueue := rfl
@[simp] theorem State.setCtx_moves (s : State) (c : Nat) (x : Ctx) : (s.setCtx c x).moves = s.moves := rfl
@[simp] theorem State.setCtx_wakes (s : State) (c : Nat) (x : Ctx) : (s.setCtx c x).wakes = s.wakes := rfl
@[simp] theorem State.setCtx_halts (s : State) (c : Nat) (x : Ctx) : (s.setCtx c x).halts = s.halts := rfl
@[simp] theorem State.setCtx_behind (s : State) (c : Nat) (x : Ctx) : (s.setCtx c x).behind = s.behind := rfl
@[simp] theorem State.setCtx_torn (s : State) (c : Nat) (x : Ctx) : (s.setCtx c x).torn = s.torn := rfl
@[simp] theorem State.setCtx_rings (s : State) (c : Nat) (x : Ctx) : (s.setCtx c x).rings = s.rings := rfl
@[simp] theorem State.setCtx_reports (s : State) (c : Nat) (x : Ctx) : (s.setCtx c x).reports = s.reports := rfl
@[simp] theorem State.setCtx_interrupts (s : State) (c : Nat) (x : Ctx) : (s.setCtx c x).interrupts = s.interrupts := rfl
@[simp] theorem State.setCtx_thermal (s : State) (c : Nat) (x : Ctx) : (s.setCtx c x).thermal = s.thermal := rfl
@[simp] theorem State.setCtx_regs (s : State) (c : Nat) (x : Ctx) : (s.setCtx c x).regs = s.regs := rfl
@[simp] theorem State.setCtx_walkgen (s : State) (c : Nat) (x : Ctx) : (s.setCtx c x).walkgen = s.walkgen := rfl
@[simp] theorem State.setCtx_reread (s : State) (c : Nat) (x : Ctx) : (s.setCtx c x).reread = s.reread := rfl
@[simp] theorem State.setCtx_rounds (s : State) (c : Nat) (x : Ctx) : (s.setCtx c x).rounds = s.rounds := rfl
@[simp] theorem State.setCtx_images (s : State) (c : Nat) (x : Ctx) : (s.setCtx c x).images = s.images := rfl
@[simp] theorem State.setCtx_perf (s : State) (c : Nat) (x : Ctx) : (s.setCtx c x).perf = s.perf := rfl
@[simp] theorem State.setCtx_perfPart (s : State) (c : Nat) (x : Ctx) : (s.setCtx c x).perfPart = s.perfPart := rfl
@[simp] theorem State.setCtx_perfBusy (s : State) (c : Nat) (x : Ctx) : (s.setCtx c x).perfBusy = s.perfBusy := rfl
@[simp] theorem State.setCtx_attBusy (s : State) (c : Nat) (x : Ctx) : (s.setCtx c x).attBusy = s.attBusy := rfl
@[simp] theorem State.setCtx_nextId (s : State) (c : Nat) (x : Ctx) : (s.setCtx c x).nextId = s.nextId := rfl
@[simp] theorem State.setCtx_fresh (s : State) (c : Nat) (x : Ctx) : (s.setCtx c x).fresh = s.fresh := rfl
@[simp] theorem State.setCtx_agenda (s : State) (c : Nat) (x : Ctx) : (s.setCtx c x).agenda = s.agenda := rfl
@[simp] theorem State.setCtx_picks (s : State) (c : Nat) (x : Ctx) : (s.setCtx c x).picks = s.picks := rfl
@[simp] theorem State.setCtx_checks (s : State) (c : Nat) (x : Ctx) : (s.setCtx c x).checks = s.checks := rfl
@[simp] theorem State.setCtx_fs (s : State) (c : Nat) (x : Ctx) : (s.setCtx c x).fs = s.fs := rfl
@[simp] theorem State.setCtx_fa (s : State) (c : Nat) (x : Ctx) : (s.setCtx c x).fa = s.fa := rfl
@[simp] theorem State.setCtx_fq (s : State) (c : Nat) (x : Ctx) : (s.setCtx c x).fq = s.fq := rfl

/-! ## setLaunch -/

@[simp] theorem State.setLaunch_reft (s : State) (l : Nat) (x : Launch) : (s.setLaunch l x).reft = s.reft := rfl
@[simp] theorem State.setLaunch_mem (s : State) (l : Nat) (x : Launch) : (s.setLaunch l x).mem = s.mem := rfl
@[simp] theorem State.setLaunch_poison (s : State) (l : Nat) (x : Launch) : (s.setLaunch l x).poison = s.poison := rfl
@[simp] theorem State.setLaunch_soft (s : State) (l : Nat) (x : Launch) : (s.setLaunch l x).soft = s.soft := rfl
@[simp] theorem State.setLaunch_trained (s : State) (l : Nat) (x : Launch) : (s.setLaunch l x).trained = s.trained := rfl
@[simp] theorem State.setLaunch_bringup (s : State) (l : Nat) (x : Launch) : (s.setLaunch l x).bringup = s.bringup := rfl
@[simp] theorem State.setLaunch_initial (s : State) (l : Nat) (x : Launch) : (s.setLaunch l x).initial = s.initial := rfl
@[simp] theorem State.setLaunch_towers (s : State) (l : Nat) (x : Launch) : (s.setLaunch l x).towers = s.towers := rfl
@[simp] theorem State.setLaunch_decks (s : State) (l : Nat) (x : Launch) : (s.setLaunch l x).decks = s.decks := rfl
@[simp] theorem State.setLaunch_hostmap (s : State) (l : Nat) (x : Launch) : (s.setLaunch l x).hostmap = s.hostmap := rfl
@[simp] theorem State.setLaunch_tags (s : State) (l : Nat) (x : Launch) : (s.setLaunch l x).tags = s.tags := rfl
@[simp] theorem State.setLaunch_tlbs (s : State) (l : Nat) (x : Launch) : (s.setLaunch l x).tlbs = s.tlbs := rfl
@[simp] theorem State.setLaunch_ctxs (s : State) (l : Nat) (x : Launch) : (s.setLaunch l x).ctxs = s.ctxs := rfl
@[simp] theorem State.setLaunch_cores (s : State) (l : Nat) (x : Launch) : (s.setLaunch l x).cores = s.cores := rfl
@[simp] theorem State.setLaunch_strands (s : State) (l : Nat) (x : Launch) : (s.setLaunch l x).strands = s.strands := rfl
@[simp] theorem State.setLaunch_links (s : State) (l : Nat) (x : Launch) : (s.setLaunch l x).links = s.links := rfl
@[simp] theorem State.setLaunch_inbox (s : State) (l : Nat) (x : Launch) : (s.setLaunch l x).inbox = s.inbox := rfl
@[simp] theorem State.setLaunch_covs (s : State) (l : Nat) (x : Launch) : (s.setLaunch l x).covs = s.covs := rfl
@[simp] theorem State.setLaunch_covResets (s : State) (l : Nat) (x : Launch) : (s.setLaunch l x).covResets = s.covResets := rfl
@[simp] theorem State.setLaunch_decrs (s : State) (l : Nat) (x : Launch) : (s.setLaunch l x).decrs = s.decrs := rfl
@[simp] theorem State.setLaunch_calls (s : State) (l : Nat) (x : Launch) : (s.setLaunch l x).calls = s.calls := rfl
@[simp] theorem State.setLaunch_replies (s : State) (l : Nat) (x : Launch) : (s.setLaunch l x).replies = s.replies := rfl
@[simp] theorem State.setLaunch_stale (s : State) (l : Nat) (x : Launch) : (s.setLaunch l x).stale = s.stale := rfl
@[simp] theorem State.setLaunch_lates (s : State) (l : Nat) (x : Launch) : (s.setLaunch l x).lates = s.lates := rfl
@[simp] theorem State.setLaunch_sent (s : State) (l : Nat) (x : Launch) : (s.setLaunch l x).sent = s.sent := rfl
@[simp] theorem State.setLaunch_crossing (s : State) (l : Nat) (x : Launch) : (s.setLaunch l x).crossing = s.crossing := rfl
@[simp] theorem State.setLaunch_agents (s : State) (l : Nat) (x : Launch) : (s.setLaunch l x).agents = s.agents := rfl
@[simp] theorem State.setLaunch_toks (s : State) (l : Nat) (x : Launch) : (s.setLaunch l x).toks = s.toks := rfl
@[simp] theorem State.setLaunch_pantry (s : State) (l : Nat) (x : Launch) : (s.setLaunch l x).pantry = s.pantry := rfl
@[simp] theorem State.setLaunch_models (s : State) (l : Nat) (x : Launch) : (s.setLaunch l x).models = s.models := rfl
@[simp] theorem State.setLaunch_masks (s : State) (l : Nat) (x : Launch) : (s.setLaunch l x).masks = s.masks := rfl
@[simp] theorem State.setLaunch_planners (s : State) (l : Nat) (x : Launch) : (s.setLaunch l x).planners = s.planners := rfl
@[simp] theorem State.setLaunch_threads (s : State) (l : Nat) (x : Launch) : (s.setLaunch l x).threads = s.threads := rfl
@[simp] theorem State.setLaunch_asyncs (s : State) (l : Nat) (x : Launch) : (s.setLaunch l x).asyncs = s.asyncs := rfl
@[simp] theorem State.setLaunch_slotQueue (s : State) (l : Nat) (x : Launch) : (s.setLaunch l x).slotQueue = s.slotQueue := rfl
@[simp] theorem State.setLaunch_moves (s : State) (l : Nat) (x : Launch) : (s.setLaunch l x).moves = s.moves := rfl
@[simp] theorem State.setLaunch_wakes (s : State) (l : Nat) (x : Launch) : (s.setLaunch l x).wakes = s.wakes := rfl
@[simp] theorem State.setLaunch_halts (s : State) (l : Nat) (x : Launch) : (s.setLaunch l x).halts = s.halts := rfl
@[simp] theorem State.setLaunch_behind (s : State) (l : Nat) (x : Launch) : (s.setLaunch l x).behind = s.behind := rfl
@[simp] theorem State.setLaunch_torn (s : State) (l : Nat) (x : Launch) : (s.setLaunch l x).torn = s.torn := rfl
@[simp] theorem State.setLaunch_rings (s : State) (l : Nat) (x : Launch) : (s.setLaunch l x).rings = s.rings := rfl
@[simp] theorem State.setLaunch_reports (s : State) (l : Nat) (x : Launch) : (s.setLaunch l x).reports = s.reports := rfl
@[simp] theorem State.setLaunch_interrupts (s : State) (l : Nat) (x : Launch) : (s.setLaunch l x).interrupts = s.interrupts := rfl
@[simp] theorem State.setLaunch_thermal (s : State) (l : Nat) (x : Launch) : (s.setLaunch l x).thermal = s.thermal := rfl
@[simp] theorem State.setLaunch_regs (s : State) (l : Nat) (x : Launch) : (s.setLaunch l x).regs = s.regs := rfl
@[simp] theorem State.setLaunch_walkgen (s : State) (l : Nat) (x : Launch) : (s.setLaunch l x).walkgen = s.walkgen := rfl
@[simp] theorem State.setLaunch_reread (s : State) (l : Nat) (x : Launch) : (s.setLaunch l x).reread = s.reread := rfl
@[simp] theorem State.setLaunch_rounds (s : State) (l : Nat) (x : Launch) : (s.setLaunch l x).rounds = s.rounds := rfl
@[simp] theorem State.setLaunch_images (s : State) (l : Nat) (x : Launch) : (s.setLaunch l x).images = s.images := rfl
@[simp] theorem State.setLaunch_perf (s : State) (l : Nat) (x : Launch) : (s.setLaunch l x).perf = s.perf := rfl
@[simp] theorem State.setLaunch_perfPart (s : State) (l : Nat) (x : Launch) : (s.setLaunch l x).perfPart = s.perfPart := rfl
@[simp] theorem State.setLaunch_perfBusy (s : State) (l : Nat) (x : Launch) : (s.setLaunch l x).perfBusy = s.perfBusy := rfl
@[simp] theorem State.setLaunch_attBusy (s : State) (l : Nat) (x : Launch) : (s.setLaunch l x).attBusy = s.attBusy := rfl
@[simp] theorem State.setLaunch_nextId (s : State) (l : Nat) (x : Launch) : (s.setLaunch l x).nextId = s.nextId := rfl
@[simp] theorem State.setLaunch_fresh (s : State) (l : Nat) (x : Launch) : (s.setLaunch l x).fresh = s.fresh := rfl
@[simp] theorem State.setLaunch_agenda (s : State) (l : Nat) (x : Launch) : (s.setLaunch l x).agenda = s.agenda := rfl
@[simp] theorem State.setLaunch_picks (s : State) (l : Nat) (x : Launch) : (s.setLaunch l x).picks = s.picks := rfl
@[simp] theorem State.setLaunch_checks (s : State) (l : Nat) (x : Launch) : (s.setLaunch l x).checks = s.checks := rfl
@[simp] theorem State.setLaunch_fs (s : State) (l : Nat) (x : Launch) : (s.setLaunch l x).fs = s.fs := rfl
@[simp] theorem State.setLaunch_fa (s : State) (l : Nat) (x : Launch) : (s.setLaunch l x).fa = s.fa := rfl
@[simp] theorem State.setLaunch_fq (s : State) (l : Nat) (x : Launch) : (s.setLaunch l x).fq = s.fq := rfl

/-! ## setMem -/

@[simp] theorem State.setMem_reft (s : State) (m : List Host.Cell) : (s.setMem m).reft = s.reft := rfl
@[simp] theorem State.setMem_poison (s : State) (m : List Host.Cell) : (s.setMem m).poison = s.poison := rfl
@[simp] theorem State.setMem_soft (s : State) (m : List Host.Cell) : (s.setMem m).soft = s.soft := rfl
@[simp] theorem State.setMem_trained (s : State) (m : List Host.Cell) : (s.setMem m).trained = s.trained := rfl
@[simp] theorem State.setMem_bringup (s : State) (m : List Host.Cell) : (s.setMem m).bringup = s.bringup := rfl
@[simp] theorem State.setMem_initial (s : State) (m : List Host.Cell) : (s.setMem m).initial = s.initial := rfl
@[simp] theorem State.setMem_towers (s : State) (m : List Host.Cell) : (s.setMem m).towers = s.towers := rfl
@[simp] theorem State.setMem_decks (s : State) (m : List Host.Cell) : (s.setMem m).decks = s.decks := rfl
@[simp] theorem State.setMem_hostmap (s : State) (m : List Host.Cell) : (s.setMem m).hostmap = s.hostmap := rfl
@[simp] theorem State.setMem_tags (s : State) (m : List Host.Cell) : (s.setMem m).tags = s.tags := rfl
@[simp] theorem State.setMem_tlbs (s : State) (m : List Host.Cell) : (s.setMem m).tlbs = s.tlbs := rfl
@[simp] theorem State.setMem_ctxs (s : State) (m : List Host.Cell) : (s.setMem m).ctxs = s.ctxs := rfl
@[simp] theorem State.setMem_cores (s : State) (m : List Host.Cell) : (s.setMem m).cores = s.cores := rfl
@[simp] theorem State.setMem_strands (s : State) (m : List Host.Cell) : (s.setMem m).strands = s.strands := rfl
@[simp] theorem State.setMem_launches (s : State) (m : List Host.Cell) : (s.setMem m).launches = s.launches := rfl
@[simp] theorem State.setMem_links (s : State) (m : List Host.Cell) : (s.setMem m).links = s.links := rfl
@[simp] theorem State.setMem_inbox (s : State) (m : List Host.Cell) : (s.setMem m).inbox = s.inbox := rfl
@[simp] theorem State.setMem_covs (s : State) (m : List Host.Cell) : (s.setMem m).covs = s.covs := rfl
@[simp] theorem State.setMem_covResets (s : State) (m : List Host.Cell) : (s.setMem m).covResets = s.covResets := rfl
@[simp] theorem State.setMem_decrs (s : State) (m : List Host.Cell) : (s.setMem m).decrs = s.decrs := rfl
@[simp] theorem State.setMem_calls (s : State) (m : List Host.Cell) : (s.setMem m).calls = s.calls := rfl
@[simp] theorem State.setMem_replies (s : State) (m : List Host.Cell) : (s.setMem m).replies = s.replies := rfl
@[simp] theorem State.setMem_stale (s : State) (m : List Host.Cell) : (s.setMem m).stale = s.stale := rfl
@[simp] theorem State.setMem_lates (s : State) (m : List Host.Cell) : (s.setMem m).lates = s.lates := rfl
@[simp] theorem State.setMem_sent (s : State) (m : List Host.Cell) : (s.setMem m).sent = s.sent := rfl
@[simp] theorem State.setMem_crossing (s : State) (m : List Host.Cell) : (s.setMem m).crossing = s.crossing := rfl
@[simp] theorem State.setMem_agents (s : State) (m : List Host.Cell) : (s.setMem m).agents = s.agents := rfl
@[simp] theorem State.setMem_toks (s : State) (m : List Host.Cell) : (s.setMem m).toks = s.toks := rfl
@[simp] theorem State.setMem_pantry (s : State) (m : List Host.Cell) : (s.setMem m).pantry = s.pantry := rfl
@[simp] theorem State.setMem_models (s : State) (m : List Host.Cell) : (s.setMem m).models = s.models := rfl
@[simp] theorem State.setMem_masks (s : State) (m : List Host.Cell) : (s.setMem m).masks = s.masks := rfl
@[simp] theorem State.setMem_planners (s : State) (m : List Host.Cell) : (s.setMem m).planners = s.planners := rfl
@[simp] theorem State.setMem_threads (s : State) (m : List Host.Cell) : (s.setMem m).threads = s.threads := rfl
@[simp] theorem State.setMem_asyncs (s : State) (m : List Host.Cell) : (s.setMem m).asyncs = s.asyncs := rfl
@[simp] theorem State.setMem_slotQueue (s : State) (m : List Host.Cell) : (s.setMem m).slotQueue = s.slotQueue := rfl
@[simp] theorem State.setMem_moves (s : State) (m : List Host.Cell) : (s.setMem m).moves = s.moves := rfl
@[simp] theorem State.setMem_wakes (s : State) (m : List Host.Cell) : (s.setMem m).wakes = s.wakes := rfl
@[simp] theorem State.setMem_halts (s : State) (m : List Host.Cell) : (s.setMem m).halts = s.halts := rfl
@[simp] theorem State.setMem_behind (s : State) (m : List Host.Cell) : (s.setMem m).behind = s.behind := rfl
@[simp] theorem State.setMem_torn (s : State) (m : List Host.Cell) : (s.setMem m).torn = s.torn := rfl
@[simp] theorem State.setMem_rings (s : State) (m : List Host.Cell) : (s.setMem m).rings = s.rings := rfl
@[simp] theorem State.setMem_reports (s : State) (m : List Host.Cell) : (s.setMem m).reports = s.reports := rfl
@[simp] theorem State.setMem_interrupts (s : State) (m : List Host.Cell) : (s.setMem m).interrupts = s.interrupts := rfl
@[simp] theorem State.setMem_thermal (s : State) (m : List Host.Cell) : (s.setMem m).thermal = s.thermal := rfl
@[simp] theorem State.setMem_regs (s : State) (m : List Host.Cell) : (s.setMem m).regs = s.regs := rfl
@[simp] theorem State.setMem_walkgen (s : State) (m : List Host.Cell) : (s.setMem m).walkgen = s.walkgen := rfl
@[simp] theorem State.setMem_reread (s : State) (m : List Host.Cell) : (s.setMem m).reread = s.reread := rfl
@[simp] theorem State.setMem_rounds (s : State) (m : List Host.Cell) : (s.setMem m).rounds = s.rounds := rfl
@[simp] theorem State.setMem_images (s : State) (m : List Host.Cell) : (s.setMem m).images = s.images := rfl
@[simp] theorem State.setMem_perf (s : State) (m : List Host.Cell) : (s.setMem m).perf = s.perf := rfl
@[simp] theorem State.setMem_perfPart (s : State) (m : List Host.Cell) : (s.setMem m).perfPart = s.perfPart := rfl
@[simp] theorem State.setMem_perfBusy (s : State) (m : List Host.Cell) : (s.setMem m).perfBusy = s.perfBusy := rfl
@[simp] theorem State.setMem_attBusy (s : State) (m : List Host.Cell) : (s.setMem m).attBusy = s.attBusy := rfl
@[simp] theorem State.setMem_nextId (s : State) (m : List Host.Cell) : (s.setMem m).nextId = s.nextId := rfl
@[simp] theorem State.setMem_fresh (s : State) (m : List Host.Cell) : (s.setMem m).fresh = s.fresh := rfl
@[simp] theorem State.setMem_agenda (s : State) (m : List Host.Cell) : (s.setMem m).agenda = s.agenda := rfl
@[simp] theorem State.setMem_picks (s : State) (m : List Host.Cell) : (s.setMem m).picks = s.picks := rfl
@[simp] theorem State.setMem_checks (s : State) (m : List Host.Cell) : (s.setMem m).checks = s.checks := rfl
@[simp] theorem State.setMem_fs (s : State) (m : List Host.Cell) : (s.setMem m).fs = s.fs := rfl
@[simp] theorem State.setMem_fa (s : State) (m : List Host.Cell) : (s.setMem m).fa = s.fa := rfl
@[simp] theorem State.setMem_fq (s : State) (m : List Host.Cell) : (s.setMem m).fq = s.fq := rfl

/-! ## setReg -/

@[simp] theorem State.setReg_reft (s : State) (o : Nat) (v : Word) : (s.setReg o v).reft = s.reft := rfl
@[simp] theorem State.setReg_mem (s : State) (o : Nat) (v : Word) : (s.setReg o v).mem = s.mem := rfl
@[simp] theorem State.setReg_poison (s : State) (o : Nat) (v : Word) : (s.setReg o v).poison = s.poison := rfl
@[simp] theorem State.setReg_soft (s : State) (o : Nat) (v : Word) : (s.setReg o v).soft = s.soft := rfl
@[simp] theorem State.setReg_trained (s : State) (o : Nat) (v : Word) : (s.setReg o v).trained = s.trained := rfl
@[simp] theorem State.setReg_bringup (s : State) (o : Nat) (v : Word) : (s.setReg o v).bringup = s.bringup := rfl
@[simp] theorem State.setReg_initial (s : State) (o : Nat) (v : Word) : (s.setReg o v).initial = s.initial := rfl
@[simp] theorem State.setReg_towers (s : State) (o : Nat) (v : Word) : (s.setReg o v).towers = s.towers := rfl
@[simp] theorem State.setReg_decks (s : State) (o : Nat) (v : Word) : (s.setReg o v).decks = s.decks := rfl
@[simp] theorem State.setReg_hostmap (s : State) (o : Nat) (v : Word) : (s.setReg o v).hostmap = s.hostmap := rfl
@[simp] theorem State.setReg_tags (s : State) (o : Nat) (v : Word) : (s.setReg o v).tags = s.tags := rfl
@[simp] theorem State.setReg_tlbs (s : State) (o : Nat) (v : Word) : (s.setReg o v).tlbs = s.tlbs := rfl
@[simp] theorem State.setReg_ctxs (s : State) (o : Nat) (v : Word) : (s.setReg o v).ctxs = s.ctxs := rfl
@[simp] theorem State.setReg_cores (s : State) (o : Nat) (v : Word) : (s.setReg o v).cores = s.cores := rfl
@[simp] theorem State.setReg_strands (s : State) (o : Nat) (v : Word) : (s.setReg o v).strands = s.strands := rfl
@[simp] theorem State.setReg_launches (s : State) (o : Nat) (v : Word) : (s.setReg o v).launches = s.launches := rfl
@[simp] theorem State.setReg_links (s : State) (o : Nat) (v : Word) : (s.setReg o v).links = s.links := rfl
@[simp] theorem State.setReg_inbox (s : State) (o : Nat) (v : Word) : (s.setReg o v).inbox = s.inbox := rfl
@[simp] theorem State.setReg_covs (s : State) (o : Nat) (v : Word) : (s.setReg o v).covs = s.covs := rfl
@[simp] theorem State.setReg_covResets (s : State) (o : Nat) (v : Word) : (s.setReg o v).covResets = s.covResets := rfl
@[simp] theorem State.setReg_decrs (s : State) (o : Nat) (v : Word) : (s.setReg o v).decrs = s.decrs := rfl
@[simp] theorem State.setReg_calls (s : State) (o : Nat) (v : Word) : (s.setReg o v).calls = s.calls := rfl
@[simp] theorem State.setReg_replies (s : State) (o : Nat) (v : Word) : (s.setReg o v).replies = s.replies := rfl
@[simp] theorem State.setReg_stale (s : State) (o : Nat) (v : Word) : (s.setReg o v).stale = s.stale := rfl
@[simp] theorem State.setReg_lates (s : State) (o : Nat) (v : Word) : (s.setReg o v).lates = s.lates := rfl
@[simp] theorem State.setReg_sent (s : State) (o : Nat) (v : Word) : (s.setReg o v).sent = s.sent := rfl
@[simp] theorem State.setReg_crossing (s : State) (o : Nat) (v : Word) : (s.setReg o v).crossing = s.crossing := rfl
@[simp] theorem State.setReg_agents (s : State) (o : Nat) (v : Word) : (s.setReg o v).agents = s.agents := rfl
@[simp] theorem State.setReg_toks (s : State) (o : Nat) (v : Word) : (s.setReg o v).toks = s.toks := rfl
@[simp] theorem State.setReg_pantry (s : State) (o : Nat) (v : Word) : (s.setReg o v).pantry = s.pantry := rfl
@[simp] theorem State.setReg_models (s : State) (o : Nat) (v : Word) : (s.setReg o v).models = s.models := rfl
@[simp] theorem State.setReg_masks (s : State) (o : Nat) (v : Word) : (s.setReg o v).masks = s.masks := rfl
@[simp] theorem State.setReg_planners (s : State) (o : Nat) (v : Word) : (s.setReg o v).planners = s.planners := rfl
@[simp] theorem State.setReg_threads (s : State) (o : Nat) (v : Word) : (s.setReg o v).threads = s.threads := rfl
@[simp] theorem State.setReg_asyncs (s : State) (o : Nat) (v : Word) : (s.setReg o v).asyncs = s.asyncs := rfl
@[simp] theorem State.setReg_slotQueue (s : State) (o : Nat) (v : Word) : (s.setReg o v).slotQueue = s.slotQueue := rfl
@[simp] theorem State.setReg_moves (s : State) (o : Nat) (v : Word) : (s.setReg o v).moves = s.moves := rfl
@[simp] theorem State.setReg_wakes (s : State) (o : Nat) (v : Word) : (s.setReg o v).wakes = s.wakes := rfl
@[simp] theorem State.setReg_halts (s : State) (o : Nat) (v : Word) : (s.setReg o v).halts = s.halts := rfl
@[simp] theorem State.setReg_behind (s : State) (o : Nat) (v : Word) : (s.setReg o v).behind = s.behind := rfl
@[simp] theorem State.setReg_torn (s : State) (o : Nat) (v : Word) : (s.setReg o v).torn = s.torn := rfl
@[simp] theorem State.setReg_rings (s : State) (o : Nat) (v : Word) : (s.setReg o v).rings = s.rings := rfl
@[simp] theorem State.setReg_reports (s : State) (o : Nat) (v : Word) : (s.setReg o v).reports = s.reports := rfl
@[simp] theorem State.setReg_interrupts (s : State) (o : Nat) (v : Word) : (s.setReg o v).interrupts = s.interrupts := rfl
@[simp] theorem State.setReg_thermal (s : State) (o : Nat) (v : Word) : (s.setReg o v).thermal = s.thermal := rfl
@[simp] theorem State.setReg_walkgen (s : State) (o : Nat) (v : Word) : (s.setReg o v).walkgen = s.walkgen := rfl
@[simp] theorem State.setReg_reread (s : State) (o : Nat) (v : Word) : (s.setReg o v).reread = s.reread := rfl
@[simp] theorem State.setReg_rounds (s : State) (o : Nat) (v : Word) : (s.setReg o v).rounds = s.rounds := rfl
@[simp] theorem State.setReg_images (s : State) (o : Nat) (v : Word) : (s.setReg o v).images = s.images := rfl
@[simp] theorem State.setReg_perf (s : State) (o : Nat) (v : Word) : (s.setReg o v).perf = s.perf := rfl
@[simp] theorem State.setReg_perfPart (s : State) (o : Nat) (v : Word) : (s.setReg o v).perfPart = s.perfPart := rfl
@[simp] theorem State.setReg_perfBusy (s : State) (o : Nat) (v : Word) : (s.setReg o v).perfBusy = s.perfBusy := rfl
@[simp] theorem State.setReg_attBusy (s : State) (o : Nat) (v : Word) : (s.setReg o v).attBusy = s.attBusy := rfl
@[simp] theorem State.setReg_nextId (s : State) (o : Nat) (v : Word) : (s.setReg o v).nextId = s.nextId := rfl
@[simp] theorem State.setReg_fresh (s : State) (o : Nat) (v : Word) : (s.setReg o v).fresh = s.fresh := rfl
@[simp] theorem State.setReg_agenda (s : State) (o : Nat) (v : Word) : (s.setReg o v).agenda = s.agenda := rfl
@[simp] theorem State.setReg_picks (s : State) (o : Nat) (v : Word) : (s.setReg o v).picks = s.picks := rfl
@[simp] theorem State.setReg_checks (s : State) (o : Nat) (v : Word) : (s.setReg o v).checks = s.checks := rfl
@[simp] theorem State.setReg_fs (s : State) (o : Nat) (v : Word) : (s.setReg o v).fs = s.fs := rfl
@[simp] theorem State.setReg_fa (s : State) (o : Nat) (v : Word) : (s.setReg o v).fa = s.fa := rfl
@[simp] theorem State.setReg_fq (s : State) (o : Nat) (v : Word) : (s.setReg o v).fq = s.fq := rfl

/-! ## setDeck -/

@[simp] theorem State.setDeck_reft (s : State) (d : Nat) (x : Deck) : (s.setDeck d x).reft = s.reft := rfl
@[simp] theorem State.setDeck_mem (s : State) (d : Nat) (x : Deck) : (s.setDeck d x).mem = s.mem := rfl
@[simp] theorem State.setDeck_poison (s : State) (d : Nat) (x : Deck) : (s.setDeck d x).poison = s.poison := rfl
@[simp] theorem State.setDeck_soft (s : State) (d : Nat) (x : Deck) : (s.setDeck d x).soft = s.soft := rfl
@[simp] theorem State.setDeck_trained (s : State) (d : Nat) (x : Deck) : (s.setDeck d x).trained = s.trained := rfl
@[simp] theorem State.setDeck_bringup (s : State) (d : Nat) (x : Deck) : (s.setDeck d x).bringup = s.bringup := rfl
@[simp] theorem State.setDeck_initial (s : State) (d : Nat) (x : Deck) : (s.setDeck d x).initial = s.initial := rfl
@[simp] theorem State.setDeck_towers (s : State) (d : Nat) (x : Deck) : (s.setDeck d x).towers = s.towers := rfl
@[simp] theorem State.setDeck_hostmap (s : State) (d : Nat) (x : Deck) : (s.setDeck d x).hostmap = s.hostmap := rfl
@[simp] theorem State.setDeck_tags (s : State) (d : Nat) (x : Deck) : (s.setDeck d x).tags = s.tags := rfl
@[simp] theorem State.setDeck_tlbs (s : State) (d : Nat) (x : Deck) : (s.setDeck d x).tlbs = s.tlbs := rfl
@[simp] theorem State.setDeck_ctxs (s : State) (d : Nat) (x : Deck) : (s.setDeck d x).ctxs = s.ctxs := rfl
@[simp] theorem State.setDeck_cores (s : State) (d : Nat) (x : Deck) : (s.setDeck d x).cores = s.cores := rfl
@[simp] theorem State.setDeck_strands (s : State) (d : Nat) (x : Deck) : (s.setDeck d x).strands = s.strands := rfl
@[simp] theorem State.setDeck_launches (s : State) (d : Nat) (x : Deck) : (s.setDeck d x).launches = s.launches := rfl
@[simp] theorem State.setDeck_links (s : State) (d : Nat) (x : Deck) : (s.setDeck d x).links = s.links := rfl
@[simp] theorem State.setDeck_inbox (s : State) (d : Nat) (x : Deck) : (s.setDeck d x).inbox = s.inbox := rfl
@[simp] theorem State.setDeck_covs (s : State) (d : Nat) (x : Deck) : (s.setDeck d x).covs = s.covs := rfl
@[simp] theorem State.setDeck_covResets (s : State) (d : Nat) (x : Deck) : (s.setDeck d x).covResets = s.covResets := rfl
@[simp] theorem State.setDeck_decrs (s : State) (d : Nat) (x : Deck) : (s.setDeck d x).decrs = s.decrs := rfl
@[simp] theorem State.setDeck_calls (s : State) (d : Nat) (x : Deck) : (s.setDeck d x).calls = s.calls := rfl
@[simp] theorem State.setDeck_replies (s : State) (d : Nat) (x : Deck) : (s.setDeck d x).replies = s.replies := rfl
@[simp] theorem State.setDeck_stale (s : State) (d : Nat) (x : Deck) : (s.setDeck d x).stale = s.stale := rfl
@[simp] theorem State.setDeck_lates (s : State) (d : Nat) (x : Deck) : (s.setDeck d x).lates = s.lates := rfl
@[simp] theorem State.setDeck_sent (s : State) (d : Nat) (x : Deck) : (s.setDeck d x).sent = s.sent := rfl
@[simp] theorem State.setDeck_crossing (s : State) (d : Nat) (x : Deck) : (s.setDeck d x).crossing = s.crossing := rfl
@[simp] theorem State.setDeck_agents (s : State) (d : Nat) (x : Deck) : (s.setDeck d x).agents = s.agents := rfl
@[simp] theorem State.setDeck_toks (s : State) (d : Nat) (x : Deck) : (s.setDeck d x).toks = s.toks := rfl
@[simp] theorem State.setDeck_pantry (s : State) (d : Nat) (x : Deck) : (s.setDeck d x).pantry = s.pantry := rfl
@[simp] theorem State.setDeck_models (s : State) (d : Nat) (x : Deck) : (s.setDeck d x).models = s.models := rfl
@[simp] theorem State.setDeck_masks (s : State) (d : Nat) (x : Deck) : (s.setDeck d x).masks = s.masks := rfl
@[simp] theorem State.setDeck_planners (s : State) (d : Nat) (x : Deck) : (s.setDeck d x).planners = s.planners := rfl
@[simp] theorem State.setDeck_threads (s : State) (d : Nat) (x : Deck) : (s.setDeck d x).threads = s.threads := rfl
@[simp] theorem State.setDeck_asyncs (s : State) (d : Nat) (x : Deck) : (s.setDeck d x).asyncs = s.asyncs := rfl
@[simp] theorem State.setDeck_slotQueue (s : State) (d : Nat) (x : Deck) : (s.setDeck d x).slotQueue = s.slotQueue := rfl
@[simp] theorem State.setDeck_moves (s : State) (d : Nat) (x : Deck) : (s.setDeck d x).moves = s.moves := rfl
@[simp] theorem State.setDeck_wakes (s : State) (d : Nat) (x : Deck) : (s.setDeck d x).wakes = s.wakes := rfl
@[simp] theorem State.setDeck_halts (s : State) (d : Nat) (x : Deck) : (s.setDeck d x).halts = s.halts := rfl
@[simp] theorem State.setDeck_behind (s : State) (d : Nat) (x : Deck) : (s.setDeck d x).behind = s.behind := rfl
@[simp] theorem State.setDeck_torn (s : State) (d : Nat) (x : Deck) : (s.setDeck d x).torn = s.torn := rfl
@[simp] theorem State.setDeck_rings (s : State) (d : Nat) (x : Deck) : (s.setDeck d x).rings = s.rings := rfl
@[simp] theorem State.setDeck_reports (s : State) (d : Nat) (x : Deck) : (s.setDeck d x).reports = s.reports := rfl
@[simp] theorem State.setDeck_interrupts (s : State) (d : Nat) (x : Deck) : (s.setDeck d x).interrupts = s.interrupts := rfl
@[simp] theorem State.setDeck_thermal (s : State) (d : Nat) (x : Deck) : (s.setDeck d x).thermal = s.thermal := rfl
@[simp] theorem State.setDeck_regs (s : State) (d : Nat) (x : Deck) : (s.setDeck d x).regs = s.regs := rfl
@[simp] theorem State.setDeck_walkgen (s : State) (d : Nat) (x : Deck) : (s.setDeck d x).walkgen = s.walkgen := rfl
@[simp] theorem State.setDeck_reread (s : State) (d : Nat) (x : Deck) : (s.setDeck d x).reread = s.reread := rfl
@[simp] theorem State.setDeck_rounds (s : State) (d : Nat) (x : Deck) : (s.setDeck d x).rounds = s.rounds := rfl
@[simp] theorem State.setDeck_images (s : State) (d : Nat) (x : Deck) : (s.setDeck d x).images = s.images := rfl
@[simp] theorem State.setDeck_perf (s : State) (d : Nat) (x : Deck) : (s.setDeck d x).perf = s.perf := rfl
@[simp] theorem State.setDeck_perfPart (s : State) (d : Nat) (x : Deck) : (s.setDeck d x).perfPart = s.perfPart := rfl
@[simp] theorem State.setDeck_perfBusy (s : State) (d : Nat) (x : Deck) : (s.setDeck d x).perfBusy = s.perfBusy := rfl
@[simp] theorem State.setDeck_attBusy (s : State) (d : Nat) (x : Deck) : (s.setDeck d x).attBusy = s.attBusy := rfl
@[simp] theorem State.setDeck_nextId (s : State) (d : Nat) (x : Deck) : (s.setDeck d x).nextId = s.nextId := rfl
@[simp] theorem State.setDeck_fresh (s : State) (d : Nat) (x : Deck) : (s.setDeck d x).fresh = s.fresh := rfl
@[simp] theorem State.setDeck_agenda (s : State) (d : Nat) (x : Deck) : (s.setDeck d x).agenda = s.agenda := rfl
@[simp] theorem State.setDeck_picks (s : State) (d : Nat) (x : Deck) : (s.setDeck d x).picks = s.picks := rfl
@[simp] theorem State.setDeck_checks (s : State) (d : Nat) (x : Deck) : (s.setDeck d x).checks = s.checks := rfl
@[simp] theorem State.setDeck_fs (s : State) (d : Nat) (x : Deck) : (s.setDeck d x).fs = s.fs := rfl
@[simp] theorem State.setDeck_fa (s : State) (d : Nat) (x : Deck) : (s.setDeck d x).fa = s.fa := rfl
@[simp] theorem State.setDeck_fq (s : State) (d : Nat) (x : Deck) : (s.setDeck d x).fq = s.fq := rfl

/-! ## setTower -/

@[simp] theorem State.setTower_reft (s : State) (t : Nat) (x : Tower) : (s.setTower t x).reft = s.reft := rfl
@[simp] theorem State.setTower_mem (s : State) (t : Nat) (x : Tower) : (s.setTower t x).mem = s.mem := rfl
@[simp] theorem State.setTower_poison (s : State) (t : Nat) (x : Tower) : (s.setTower t x).poison = s.poison := rfl
@[simp] theorem State.setTower_soft (s : State) (t : Nat) (x : Tower) : (s.setTower t x).soft = s.soft := rfl
@[simp] theorem State.setTower_trained (s : State) (t : Nat) (x : Tower) : (s.setTower t x).trained = s.trained := rfl
@[simp] theorem State.setTower_bringup (s : State) (t : Nat) (x : Tower) : (s.setTower t x).bringup = s.bringup := rfl
@[simp] theorem State.setTower_initial (s : State) (t : Nat) (x : Tower) : (s.setTower t x).initial = s.initial := rfl
@[simp] theorem State.setTower_decks (s : State) (t : Nat) (x : Tower) : (s.setTower t x).decks = s.decks := rfl
@[simp] theorem State.setTower_hostmap (s : State) (t : Nat) (x : Tower) : (s.setTower t x).hostmap = s.hostmap := rfl
@[simp] theorem State.setTower_tags (s : State) (t : Nat) (x : Tower) : (s.setTower t x).tags = s.tags := rfl
@[simp] theorem State.setTower_tlbs (s : State) (t : Nat) (x : Tower) : (s.setTower t x).tlbs = s.tlbs := rfl
@[simp] theorem State.setTower_ctxs (s : State) (t : Nat) (x : Tower) : (s.setTower t x).ctxs = s.ctxs := rfl
@[simp] theorem State.setTower_cores (s : State) (t : Nat) (x : Tower) : (s.setTower t x).cores = s.cores := rfl
@[simp] theorem State.setTower_strands (s : State) (t : Nat) (x : Tower) : (s.setTower t x).strands = s.strands := rfl
@[simp] theorem State.setTower_launches (s : State) (t : Nat) (x : Tower) : (s.setTower t x).launches = s.launches := rfl
@[simp] theorem State.setTower_links (s : State) (t : Nat) (x : Tower) : (s.setTower t x).links = s.links := rfl
@[simp] theorem State.setTower_inbox (s : State) (t : Nat) (x : Tower) : (s.setTower t x).inbox = s.inbox := rfl
@[simp] theorem State.setTower_covs (s : State) (t : Nat) (x : Tower) : (s.setTower t x).covs = s.covs := rfl
@[simp] theorem State.setTower_covResets (s : State) (t : Nat) (x : Tower) : (s.setTower t x).covResets = s.covResets := rfl
@[simp] theorem State.setTower_decrs (s : State) (t : Nat) (x : Tower) : (s.setTower t x).decrs = s.decrs := rfl
@[simp] theorem State.setTower_calls (s : State) (t : Nat) (x : Tower) : (s.setTower t x).calls = s.calls := rfl
@[simp] theorem State.setTower_replies (s : State) (t : Nat) (x : Tower) : (s.setTower t x).replies = s.replies := rfl
@[simp] theorem State.setTower_stale (s : State) (t : Nat) (x : Tower) : (s.setTower t x).stale = s.stale := rfl
@[simp] theorem State.setTower_lates (s : State) (t : Nat) (x : Tower) : (s.setTower t x).lates = s.lates := rfl
@[simp] theorem State.setTower_sent (s : State) (t : Nat) (x : Tower) : (s.setTower t x).sent = s.sent := rfl
@[simp] theorem State.setTower_crossing (s : State) (t : Nat) (x : Tower) : (s.setTower t x).crossing = s.crossing := rfl
@[simp] theorem State.setTower_agents (s : State) (t : Nat) (x : Tower) : (s.setTower t x).agents = s.agents := rfl
@[simp] theorem State.setTower_toks (s : State) (t : Nat) (x : Tower) : (s.setTower t x).toks = s.toks := rfl
@[simp] theorem State.setTower_pantry (s : State) (t : Nat) (x : Tower) : (s.setTower t x).pantry = s.pantry := rfl
@[simp] theorem State.setTower_models (s : State) (t : Nat) (x : Tower) : (s.setTower t x).models = s.models := rfl
@[simp] theorem State.setTower_masks (s : State) (t : Nat) (x : Tower) : (s.setTower t x).masks = s.masks := rfl
@[simp] theorem State.setTower_planners (s : State) (t : Nat) (x : Tower) : (s.setTower t x).planners = s.planners := rfl
@[simp] theorem State.setTower_threads (s : State) (t : Nat) (x : Tower) : (s.setTower t x).threads = s.threads := rfl
@[simp] theorem State.setTower_asyncs (s : State) (t : Nat) (x : Tower) : (s.setTower t x).asyncs = s.asyncs := rfl
@[simp] theorem State.setTower_slotQueue (s : State) (t : Nat) (x : Tower) : (s.setTower t x).slotQueue = s.slotQueue := rfl
@[simp] theorem State.setTower_moves (s : State) (t : Nat) (x : Tower) : (s.setTower t x).moves = s.moves := rfl
@[simp] theorem State.setTower_wakes (s : State) (t : Nat) (x : Tower) : (s.setTower t x).wakes = s.wakes := rfl
@[simp] theorem State.setTower_halts (s : State) (t : Nat) (x : Tower) : (s.setTower t x).halts = s.halts := rfl
@[simp] theorem State.setTower_behind (s : State) (t : Nat) (x : Tower) : (s.setTower t x).behind = s.behind := rfl
@[simp] theorem State.setTower_torn (s : State) (t : Nat) (x : Tower) : (s.setTower t x).torn = s.torn := rfl
@[simp] theorem State.setTower_rings (s : State) (t : Nat) (x : Tower) : (s.setTower t x).rings = s.rings := rfl
@[simp] theorem State.setTower_reports (s : State) (t : Nat) (x : Tower) : (s.setTower t x).reports = s.reports := rfl
@[simp] theorem State.setTower_interrupts (s : State) (t : Nat) (x : Tower) : (s.setTower t x).interrupts = s.interrupts := rfl
@[simp] theorem State.setTower_thermal (s : State) (t : Nat) (x : Tower) : (s.setTower t x).thermal = s.thermal := rfl
@[simp] theorem State.setTower_regs (s : State) (t : Nat) (x : Tower) : (s.setTower t x).regs = s.regs := rfl
@[simp] theorem State.setTower_walkgen (s : State) (t : Nat) (x : Tower) : (s.setTower t x).walkgen = s.walkgen := rfl
@[simp] theorem State.setTower_reread (s : State) (t : Nat) (x : Tower) : (s.setTower t x).reread = s.reread := rfl
@[simp] theorem State.setTower_rounds (s : State) (t : Nat) (x : Tower) : (s.setTower t x).rounds = s.rounds := rfl
@[simp] theorem State.setTower_images (s : State) (t : Nat) (x : Tower) : (s.setTower t x).images = s.images := rfl
@[simp] theorem State.setTower_perf (s : State) (t : Nat) (x : Tower) : (s.setTower t x).perf = s.perf := rfl
@[simp] theorem State.setTower_perfPart (s : State) (t : Nat) (x : Tower) : (s.setTower t x).perfPart = s.perfPart := rfl
@[simp] theorem State.setTower_perfBusy (s : State) (t : Nat) (x : Tower) : (s.setTower t x).perfBusy = s.perfBusy := rfl
@[simp] theorem State.setTower_attBusy (s : State) (t : Nat) (x : Tower) : (s.setTower t x).attBusy = s.attBusy := rfl
@[simp] theorem State.setTower_nextId (s : State) (t : Nat) (x : Tower) : (s.setTower t x).nextId = s.nextId := rfl
@[simp] theorem State.setTower_fresh (s : State) (t : Nat) (x : Tower) : (s.setTower t x).fresh = s.fresh := rfl
@[simp] theorem State.setTower_agenda (s : State) (t : Nat) (x : Tower) : (s.setTower t x).agenda = s.agenda := rfl
@[simp] theorem State.setTower_picks (s : State) (t : Nat) (x : Tower) : (s.setTower t x).picks = s.picks := rfl
@[simp] theorem State.setTower_checks (s : State) (t : Nat) (x : Tower) : (s.setTower t x).checks = s.checks := rfl
@[simp] theorem State.setTower_fs (s : State) (t : Nat) (x : Tower) : (s.setTower t x).fs = s.fs := rfl
@[simp] theorem State.setTower_fa (s : State) (t : Nat) (x : Tower) : (s.setTower t x).fa = s.fa := rfl
@[simp] theorem State.setTower_fq (s : State) (t : Nat) (x : Tower) : (s.setTower t x).fq = s.fq := rfl

/-! ## setRound -/

@[simp] theorem State.setRound_reft (s : State) (p : Nat) (r : Round) : (s.setRound p r).reft = s.reft := rfl
@[simp] theorem State.setRound_mem (s : State) (p : Nat) (r : Round) : (s.setRound p r).mem = s.mem := rfl
@[simp] theorem State.setRound_poison (s : State) (p : Nat) (r : Round) : (s.setRound p r).poison = s.poison := rfl
@[simp] theorem State.setRound_soft (s : State) (p : Nat) (r : Round) : (s.setRound p r).soft = s.soft := rfl
@[simp] theorem State.setRound_trained (s : State) (p : Nat) (r : Round) : (s.setRound p r).trained = s.trained := rfl
@[simp] theorem State.setRound_bringup (s : State) (p : Nat) (r : Round) : (s.setRound p r).bringup = s.bringup := rfl
@[simp] theorem State.setRound_initial (s : State) (p : Nat) (r : Round) : (s.setRound p r).initial = s.initial := rfl
@[simp] theorem State.setRound_towers (s : State) (p : Nat) (r : Round) : (s.setRound p r).towers = s.towers := rfl
@[simp] theorem State.setRound_decks (s : State) (p : Nat) (r : Round) : (s.setRound p r).decks = s.decks := rfl
@[simp] theorem State.setRound_hostmap (s : State) (p : Nat) (r : Round) : (s.setRound p r).hostmap = s.hostmap := rfl
@[simp] theorem State.setRound_tags (s : State) (p : Nat) (r : Round) : (s.setRound p r).tags = s.tags := rfl
@[simp] theorem State.setRound_tlbs (s : State) (p : Nat) (r : Round) : (s.setRound p r).tlbs = s.tlbs := rfl
@[simp] theorem State.setRound_ctxs (s : State) (p : Nat) (r : Round) : (s.setRound p r).ctxs = s.ctxs := rfl
@[simp] theorem State.setRound_cores (s : State) (p : Nat) (r : Round) : (s.setRound p r).cores = s.cores := rfl
@[simp] theorem State.setRound_strands (s : State) (p : Nat) (r : Round) : (s.setRound p r).strands = s.strands := rfl
@[simp] theorem State.setRound_launches (s : State) (p : Nat) (r : Round) : (s.setRound p r).launches = s.launches := rfl
@[simp] theorem State.setRound_links (s : State) (p : Nat) (r : Round) : (s.setRound p r).links = s.links := rfl
@[simp] theorem State.setRound_inbox (s : State) (p : Nat) (r : Round) : (s.setRound p r).inbox = s.inbox := rfl
@[simp] theorem State.setRound_covs (s : State) (p : Nat) (r : Round) : (s.setRound p r).covs = s.covs := rfl
@[simp] theorem State.setRound_covResets (s : State) (p : Nat) (r : Round) : (s.setRound p r).covResets = s.covResets := rfl
@[simp] theorem State.setRound_decrs (s : State) (p : Nat) (r : Round) : (s.setRound p r).decrs = s.decrs := rfl
@[simp] theorem State.setRound_calls (s : State) (p : Nat) (r : Round) : (s.setRound p r).calls = s.calls := rfl
@[simp] theorem State.setRound_replies (s : State) (p : Nat) (r : Round) : (s.setRound p r).replies = s.replies := rfl
@[simp] theorem State.setRound_stale (s : State) (p : Nat) (r : Round) : (s.setRound p r).stale = s.stale := rfl
@[simp] theorem State.setRound_lates (s : State) (p : Nat) (r : Round) : (s.setRound p r).lates = s.lates := rfl
@[simp] theorem State.setRound_sent (s : State) (p : Nat) (r : Round) : (s.setRound p r).sent = s.sent := rfl
@[simp] theorem State.setRound_crossing (s : State) (p : Nat) (r : Round) : (s.setRound p r).crossing = s.crossing := rfl
@[simp] theorem State.setRound_agents (s : State) (p : Nat) (r : Round) : (s.setRound p r).agents = s.agents := rfl
@[simp] theorem State.setRound_toks (s : State) (p : Nat) (r : Round) : (s.setRound p r).toks = s.toks := rfl
@[simp] theorem State.setRound_pantry (s : State) (p : Nat) (r : Round) : (s.setRound p r).pantry = s.pantry := rfl
@[simp] theorem State.setRound_models (s : State) (p : Nat) (r : Round) : (s.setRound p r).models = s.models := rfl
@[simp] theorem State.setRound_masks (s : State) (p : Nat) (r : Round) : (s.setRound p r).masks = s.masks := rfl
@[simp] theorem State.setRound_planners (s : State) (p : Nat) (r : Round) : (s.setRound p r).planners = s.planners := rfl
@[simp] theorem State.setRound_threads (s : State) (p : Nat) (r : Round) : (s.setRound p r).threads = s.threads := rfl
@[simp] theorem State.setRound_asyncs (s : State) (p : Nat) (r : Round) : (s.setRound p r).asyncs = s.asyncs := rfl
@[simp] theorem State.setRound_slotQueue (s : State) (p : Nat) (r : Round) : (s.setRound p r).slotQueue = s.slotQueue := rfl
@[simp] theorem State.setRound_moves (s : State) (p : Nat) (r : Round) : (s.setRound p r).moves = s.moves := rfl
@[simp] theorem State.setRound_wakes (s : State) (p : Nat) (r : Round) : (s.setRound p r).wakes = s.wakes := rfl
@[simp] theorem State.setRound_halts (s : State) (p : Nat) (r : Round) : (s.setRound p r).halts = s.halts := rfl
@[simp] theorem State.setRound_behind (s : State) (p : Nat) (r : Round) : (s.setRound p r).behind = s.behind := rfl
@[simp] theorem State.setRound_torn (s : State) (p : Nat) (r : Round) : (s.setRound p r).torn = s.torn := rfl
@[simp] theorem State.setRound_rings (s : State) (p : Nat) (r : Round) : (s.setRound p r).rings = s.rings := rfl
@[simp] theorem State.setRound_reports (s : State) (p : Nat) (r : Round) : (s.setRound p r).reports = s.reports := rfl
@[simp] theorem State.setRound_interrupts (s : State) (p : Nat) (r : Round) : (s.setRound p r).interrupts = s.interrupts := rfl
@[simp] theorem State.setRound_thermal (s : State) (p : Nat) (r : Round) : (s.setRound p r).thermal = s.thermal := rfl
@[simp] theorem State.setRound_regs (s : State) (p : Nat) (r : Round) : (s.setRound p r).regs = s.regs := rfl
@[simp] theorem State.setRound_walkgen (s : State) (p : Nat) (r : Round) : (s.setRound p r).walkgen = s.walkgen := rfl
@[simp] theorem State.setRound_reread (s : State) (p : Nat) (r : Round) : (s.setRound p r).reread = s.reread := rfl
@[simp] theorem State.setRound_images (s : State) (p : Nat) (r : Round) : (s.setRound p r).images = s.images := rfl
@[simp] theorem State.setRound_perf (s : State) (p : Nat) (r : Round) : (s.setRound p r).perf = s.perf := rfl
@[simp] theorem State.setRound_perfPart (s : State) (p : Nat) (r : Round) : (s.setRound p r).perfPart = s.perfPart := rfl
@[simp] theorem State.setRound_perfBusy (s : State) (p : Nat) (r : Round) : (s.setRound p r).perfBusy = s.perfBusy := rfl
@[simp] theorem State.setRound_attBusy (s : State) (p : Nat) (r : Round) : (s.setRound p r).attBusy = s.attBusy := rfl
@[simp] theorem State.setRound_nextId (s : State) (p : Nat) (r : Round) : (s.setRound p r).nextId = s.nextId := rfl
@[simp] theorem State.setRound_fresh (s : State) (p : Nat) (r : Round) : (s.setRound p r).fresh = s.fresh := rfl
@[simp] theorem State.setRound_agenda (s : State) (p : Nat) (r : Round) : (s.setRound p r).agenda = s.agenda := rfl
@[simp] theorem State.setRound_picks (s : State) (p : Nat) (r : Round) : (s.setRound p r).picks = s.picks := rfl
@[simp] theorem State.setRound_checks (s : State) (p : Nat) (r : Round) : (s.setRound p r).checks = s.checks := rfl
@[simp] theorem State.setRound_fs (s : State) (p : Nat) (r : Round) : (s.setRound p r).fs = s.fs := rfl
@[simp] theorem State.setRound_fa (s : State) (p : Nat) (r : Round) : (s.setRound p r).fa = s.fa := rfl
@[simp] theorem State.setRound_fq (s : State) (p : Nat) (r : Round) : (s.setRound p r).fq = s.fq := rfl

/-! ## setThread -/

@[simp] theorem State.setThread_reft (s : State) (t : Nat) (x : Thread) : (s.setThread t x).reft = s.reft := rfl
@[simp] theorem State.setThread_mem (s : State) (t : Nat) (x : Thread) : (s.setThread t x).mem = s.mem := rfl
@[simp] theorem State.setThread_poison (s : State) (t : Nat) (x : Thread) : (s.setThread t x).poison = s.poison := rfl
@[simp] theorem State.setThread_soft (s : State) (t : Nat) (x : Thread) : (s.setThread t x).soft = s.soft := rfl
@[simp] theorem State.setThread_trained (s : State) (t : Nat) (x : Thread) : (s.setThread t x).trained = s.trained := rfl
@[simp] theorem State.setThread_bringup (s : State) (t : Nat) (x : Thread) : (s.setThread t x).bringup = s.bringup := rfl
@[simp] theorem State.setThread_initial (s : State) (t : Nat) (x : Thread) : (s.setThread t x).initial = s.initial := rfl
@[simp] theorem State.setThread_towers (s : State) (t : Nat) (x : Thread) : (s.setThread t x).towers = s.towers := rfl
@[simp] theorem State.setThread_decks (s : State) (t : Nat) (x : Thread) : (s.setThread t x).decks = s.decks := rfl
@[simp] theorem State.setThread_hostmap (s : State) (t : Nat) (x : Thread) : (s.setThread t x).hostmap = s.hostmap := rfl
@[simp] theorem State.setThread_tags (s : State) (t : Nat) (x : Thread) : (s.setThread t x).tags = s.tags := rfl
@[simp] theorem State.setThread_tlbs (s : State) (t : Nat) (x : Thread) : (s.setThread t x).tlbs = s.tlbs := rfl
@[simp] theorem State.setThread_ctxs (s : State) (t : Nat) (x : Thread) : (s.setThread t x).ctxs = s.ctxs := rfl
@[simp] theorem State.setThread_cores (s : State) (t : Nat) (x : Thread) : (s.setThread t x).cores = s.cores := rfl
@[simp] theorem State.setThread_strands (s : State) (t : Nat) (x : Thread) : (s.setThread t x).strands = s.strands := rfl
@[simp] theorem State.setThread_launches (s : State) (t : Nat) (x : Thread) : (s.setThread t x).launches = s.launches := rfl
@[simp] theorem State.setThread_links (s : State) (t : Nat) (x : Thread) : (s.setThread t x).links = s.links := rfl
@[simp] theorem State.setThread_inbox (s : State) (t : Nat) (x : Thread) : (s.setThread t x).inbox = s.inbox := rfl
@[simp] theorem State.setThread_covs (s : State) (t : Nat) (x : Thread) : (s.setThread t x).covs = s.covs := rfl
@[simp] theorem State.setThread_covResets (s : State) (t : Nat) (x : Thread) : (s.setThread t x).covResets = s.covResets := rfl
@[simp] theorem State.setThread_decrs (s : State) (t : Nat) (x : Thread) : (s.setThread t x).decrs = s.decrs := rfl
@[simp] theorem State.setThread_calls (s : State) (t : Nat) (x : Thread) : (s.setThread t x).calls = s.calls := rfl
@[simp] theorem State.setThread_replies (s : State) (t : Nat) (x : Thread) : (s.setThread t x).replies = s.replies := rfl
@[simp] theorem State.setThread_stale (s : State) (t : Nat) (x : Thread) : (s.setThread t x).stale = s.stale := rfl
@[simp] theorem State.setThread_lates (s : State) (t : Nat) (x : Thread) : (s.setThread t x).lates = s.lates := rfl
@[simp] theorem State.setThread_sent (s : State) (t : Nat) (x : Thread) : (s.setThread t x).sent = s.sent := rfl
@[simp] theorem State.setThread_crossing (s : State) (t : Nat) (x : Thread) : (s.setThread t x).crossing = s.crossing := rfl
@[simp] theorem State.setThread_agents (s : State) (t : Nat) (x : Thread) : (s.setThread t x).agents = s.agents := rfl
@[simp] theorem State.setThread_toks (s : State) (t : Nat) (x : Thread) : (s.setThread t x).toks = s.toks := rfl
@[simp] theorem State.setThread_pantry (s : State) (t : Nat) (x : Thread) : (s.setThread t x).pantry = s.pantry := rfl
@[simp] theorem State.setThread_models (s : State) (t : Nat) (x : Thread) : (s.setThread t x).models = s.models := rfl
@[simp] theorem State.setThread_masks (s : State) (t : Nat) (x : Thread) : (s.setThread t x).masks = s.masks := rfl
@[simp] theorem State.setThread_planners (s : State) (t : Nat) (x : Thread) : (s.setThread t x).planners = s.planners := rfl
@[simp] theorem State.setThread_asyncs (s : State) (t : Nat) (x : Thread) : (s.setThread t x).asyncs = s.asyncs := rfl
@[simp] theorem State.setThread_slotQueue (s : State) (t : Nat) (x : Thread) : (s.setThread t x).slotQueue = s.slotQueue := rfl
@[simp] theorem State.setThread_moves (s : State) (t : Nat) (x : Thread) : (s.setThread t x).moves = s.moves := rfl
@[simp] theorem State.setThread_wakes (s : State) (t : Nat) (x : Thread) : (s.setThread t x).wakes = s.wakes := rfl
@[simp] theorem State.setThread_halts (s : State) (t : Nat) (x : Thread) : (s.setThread t x).halts = s.halts := rfl
@[simp] theorem State.setThread_behind (s : State) (t : Nat) (x : Thread) : (s.setThread t x).behind = s.behind := rfl
@[simp] theorem State.setThread_torn (s : State) (t : Nat) (x : Thread) : (s.setThread t x).torn = s.torn := rfl
@[simp] theorem State.setThread_rings (s : State) (t : Nat) (x : Thread) : (s.setThread t x).rings = s.rings := rfl
@[simp] theorem State.setThread_reports (s : State) (t : Nat) (x : Thread) : (s.setThread t x).reports = s.reports := rfl
@[simp] theorem State.setThread_interrupts (s : State) (t : Nat) (x : Thread) : (s.setThread t x).interrupts = s.interrupts := rfl
@[simp] theorem State.setThread_thermal (s : State) (t : Nat) (x : Thread) : (s.setThread t x).thermal = s.thermal := rfl
@[simp] theorem State.setThread_regs (s : State) (t : Nat) (x : Thread) : (s.setThread t x).regs = s.regs := rfl
@[simp] theorem State.setThread_walkgen (s : State) (t : Nat) (x : Thread) : (s.setThread t x).walkgen = s.walkgen := rfl
@[simp] theorem State.setThread_reread (s : State) (t : Nat) (x : Thread) : (s.setThread t x).reread = s.reread := rfl
@[simp] theorem State.setThread_rounds (s : State) (t : Nat) (x : Thread) : (s.setThread t x).rounds = s.rounds := rfl
@[simp] theorem State.setThread_images (s : State) (t : Nat) (x : Thread) : (s.setThread t x).images = s.images := rfl
@[simp] theorem State.setThread_perf (s : State) (t : Nat) (x : Thread) : (s.setThread t x).perf = s.perf := rfl
@[simp] theorem State.setThread_perfPart (s : State) (t : Nat) (x : Thread) : (s.setThread t x).perfPart = s.perfPart := rfl
@[simp] theorem State.setThread_perfBusy (s : State) (t : Nat) (x : Thread) : (s.setThread t x).perfBusy = s.perfBusy := rfl
@[simp] theorem State.setThread_attBusy (s : State) (t : Nat) (x : Thread) : (s.setThread t x).attBusy = s.attBusy := rfl
@[simp] theorem State.setThread_nextId (s : State) (t : Nat) (x : Thread) : (s.setThread t x).nextId = s.nextId := rfl
@[simp] theorem State.setThread_fresh (s : State) (t : Nat) (x : Thread) : (s.setThread t x).fresh = s.fresh := rfl
@[simp] theorem State.setThread_agenda (s : State) (t : Nat) (x : Thread) : (s.setThread t x).agenda = s.agenda := rfl
@[simp] theorem State.setThread_picks (s : State) (t : Nat) (x : Thread) : (s.setThread t x).picks = s.picks := rfl
@[simp] theorem State.setThread_checks (s : State) (t : Nat) (x : Thread) : (s.setThread t x).checks = s.checks := rfl
@[simp] theorem State.setThread_fs (s : State) (t : Nat) (x : Thread) : (s.setThread t x).fs = s.fs := rfl
@[simp] theorem State.setThread_fa (s : State) (t : Nat) (x : Thread) : (s.setThread t x).fa = s.fa := rfl
@[simp] theorem State.setThread_fq (s : State) (t : Nat) (x : Thread) : (s.setThread t x).fq = s.fq := rfl

/-! ## setAgent -/

@[simp] theorem State.setAgent_reft (s : State) (i : Nat) (a : Agent) : (s.setAgent i a).reft = s.reft := rfl
@[simp] theorem State.setAgent_mem (s : State) (i : Nat) (a : Agent) : (s.setAgent i a).mem = s.mem := rfl
@[simp] theorem State.setAgent_poison (s : State) (i : Nat) (a : Agent) : (s.setAgent i a).poison = s.poison := rfl
@[simp] theorem State.setAgent_soft (s : State) (i : Nat) (a : Agent) : (s.setAgent i a).soft = s.soft := rfl
@[simp] theorem State.setAgent_trained (s : State) (i : Nat) (a : Agent) : (s.setAgent i a).trained = s.trained := rfl
@[simp] theorem State.setAgent_bringup (s : State) (i : Nat) (a : Agent) : (s.setAgent i a).bringup = s.bringup := rfl
@[simp] theorem State.setAgent_initial (s : State) (i : Nat) (a : Agent) : (s.setAgent i a).initial = s.initial := rfl
@[simp] theorem State.setAgent_towers (s : State) (i : Nat) (a : Agent) : (s.setAgent i a).towers = s.towers := rfl
@[simp] theorem State.setAgent_decks (s : State) (i : Nat) (a : Agent) : (s.setAgent i a).decks = s.decks := rfl
@[simp] theorem State.setAgent_hostmap (s : State) (i : Nat) (a : Agent) : (s.setAgent i a).hostmap = s.hostmap := rfl
@[simp] theorem State.setAgent_tags (s : State) (i : Nat) (a : Agent) : (s.setAgent i a).tags = s.tags := rfl
@[simp] theorem State.setAgent_tlbs (s : State) (i : Nat) (a : Agent) : (s.setAgent i a).tlbs = s.tlbs := rfl
@[simp] theorem State.setAgent_ctxs (s : State) (i : Nat) (a : Agent) : (s.setAgent i a).ctxs = s.ctxs := rfl
@[simp] theorem State.setAgent_cores (s : State) (i : Nat) (a : Agent) : (s.setAgent i a).cores = s.cores := rfl
@[simp] theorem State.setAgent_strands (s : State) (i : Nat) (a : Agent) : (s.setAgent i a).strands = s.strands := rfl
@[simp] theorem State.setAgent_launches (s : State) (i : Nat) (a : Agent) : (s.setAgent i a).launches = s.launches := rfl
@[simp] theorem State.setAgent_links (s : State) (i : Nat) (a : Agent) : (s.setAgent i a).links = s.links := rfl
@[simp] theorem State.setAgent_inbox (s : State) (i : Nat) (a : Agent) : (s.setAgent i a).inbox = s.inbox := rfl
@[simp] theorem State.setAgent_covs (s : State) (i : Nat) (a : Agent) : (s.setAgent i a).covs = s.covs := rfl
@[simp] theorem State.setAgent_covResets (s : State) (i : Nat) (a : Agent) : (s.setAgent i a).covResets = s.covResets := rfl
@[simp] theorem State.setAgent_decrs (s : State) (i : Nat) (a : Agent) : (s.setAgent i a).decrs = s.decrs := rfl
@[simp] theorem State.setAgent_calls (s : State) (i : Nat) (a : Agent) : (s.setAgent i a).calls = s.calls := rfl
@[simp] theorem State.setAgent_replies (s : State) (i : Nat) (a : Agent) : (s.setAgent i a).replies = s.replies := rfl
@[simp] theorem State.setAgent_stale (s : State) (i : Nat) (a : Agent) : (s.setAgent i a).stale = s.stale := rfl
@[simp] theorem State.setAgent_lates (s : State) (i : Nat) (a : Agent) : (s.setAgent i a).lates = s.lates := rfl
@[simp] theorem State.setAgent_sent (s : State) (i : Nat) (a : Agent) : (s.setAgent i a).sent = s.sent := rfl
@[simp] theorem State.setAgent_crossing (s : State) (i : Nat) (a : Agent) : (s.setAgent i a).crossing = s.crossing := rfl
@[simp] theorem State.setAgent_toks (s : State) (i : Nat) (a : Agent) : (s.setAgent i a).toks = s.toks := rfl
@[simp] theorem State.setAgent_pantry (s : State) (i : Nat) (a : Agent) : (s.setAgent i a).pantry = s.pantry := rfl
@[simp] theorem State.setAgent_models (s : State) (i : Nat) (a : Agent) : (s.setAgent i a).models = s.models := rfl
@[simp] theorem State.setAgent_masks (s : State) (i : Nat) (a : Agent) : (s.setAgent i a).masks = s.masks := rfl
@[simp] theorem State.setAgent_planners (s : State) (i : Nat) (a : Agent) : (s.setAgent i a).planners = s.planners := rfl
@[simp] theorem State.setAgent_threads (s : State) (i : Nat) (a : Agent) : (s.setAgent i a).threads = s.threads := rfl
@[simp] theorem State.setAgent_asyncs (s : State) (i : Nat) (a : Agent) : (s.setAgent i a).asyncs = s.asyncs := rfl
@[simp] theorem State.setAgent_slotQueue (s : State) (i : Nat) (a : Agent) : (s.setAgent i a).slotQueue = s.slotQueue := rfl
@[simp] theorem State.setAgent_moves (s : State) (i : Nat) (a : Agent) : (s.setAgent i a).moves = s.moves := rfl
@[simp] theorem State.setAgent_wakes (s : State) (i : Nat) (a : Agent) : (s.setAgent i a).wakes = s.wakes := rfl
@[simp] theorem State.setAgent_halts (s : State) (i : Nat) (a : Agent) : (s.setAgent i a).halts = s.halts := rfl
@[simp] theorem State.setAgent_behind (s : State) (i : Nat) (a : Agent) : (s.setAgent i a).behind = s.behind := rfl
@[simp] theorem State.setAgent_torn (s : State) (i : Nat) (a : Agent) : (s.setAgent i a).torn = s.torn := rfl
@[simp] theorem State.setAgent_rings (s : State) (i : Nat) (a : Agent) : (s.setAgent i a).rings = s.rings := rfl
@[simp] theorem State.setAgent_reports (s : State) (i : Nat) (a : Agent) : (s.setAgent i a).reports = s.reports := rfl
@[simp] theorem State.setAgent_interrupts (s : State) (i : Nat) (a : Agent) : (s.setAgent i a).interrupts = s.interrupts := rfl
@[simp] theorem State.setAgent_thermal (s : State) (i : Nat) (a : Agent) : (s.setAgent i a).thermal = s.thermal := rfl
@[simp] theorem State.setAgent_regs (s : State) (i : Nat) (a : Agent) : (s.setAgent i a).regs = s.regs := rfl
@[simp] theorem State.setAgent_walkgen (s : State) (i : Nat) (a : Agent) : (s.setAgent i a).walkgen = s.walkgen := rfl
@[simp] theorem State.setAgent_reread (s : State) (i : Nat) (a : Agent) : (s.setAgent i a).reread = s.reread := rfl
@[simp] theorem State.setAgent_rounds (s : State) (i : Nat) (a : Agent) : (s.setAgent i a).rounds = s.rounds := rfl
@[simp] theorem State.setAgent_images (s : State) (i : Nat) (a : Agent) : (s.setAgent i a).images = s.images := rfl
@[simp] theorem State.setAgent_perf (s : State) (i : Nat) (a : Agent) : (s.setAgent i a).perf = s.perf := rfl
@[simp] theorem State.setAgent_perfPart (s : State) (i : Nat) (a : Agent) : (s.setAgent i a).perfPart = s.perfPart := rfl
@[simp] theorem State.setAgent_perfBusy (s : State) (i : Nat) (a : Agent) : (s.setAgent i a).perfBusy = s.perfBusy := rfl
@[simp] theorem State.setAgent_attBusy (s : State) (i : Nat) (a : Agent) : (s.setAgent i a).attBusy = s.attBusy := rfl
@[simp] theorem State.setAgent_nextId (s : State) (i : Nat) (a : Agent) : (s.setAgent i a).nextId = s.nextId := rfl
@[simp] theorem State.setAgent_fresh (s : State) (i : Nat) (a : Agent) : (s.setAgent i a).fresh = s.fresh := rfl
@[simp] theorem State.setAgent_agenda (s : State) (i : Nat) (a : Agent) : (s.setAgent i a).agenda = s.agenda := rfl
@[simp] theorem State.setAgent_picks (s : State) (i : Nat) (a : Agent) : (s.setAgent i a).picks = s.picks := rfl
@[simp] theorem State.setAgent_checks (s : State) (i : Nat) (a : Agent) : (s.setAgent i a).checks = s.checks := rfl
@[simp] theorem State.setAgent_fs (s : State) (i : Nat) (a : Agent) : (s.setAgent i a).fs = s.fs := rfl
@[simp] theorem State.setAgent_fa (s : State) (i : Nat) (a : Agent) : (s.setAgent i a).fa = s.fa := rfl
@[simp] theorem State.setAgent_fq (s : State) (i : Nat) (a : Agent) : (s.setAgent i a).fq = s.fq := rfl

/-! ## setTok -/

@[simp] theorem State.setTok_reft (s : State) (h : Nat) (t : TokCtx) : (s.setTok h t).reft = s.reft := rfl
@[simp] theorem State.setTok_mem (s : State) (h : Nat) (t : TokCtx) : (s.setTok h t).mem = s.mem := rfl
@[simp] theorem State.setTok_poison (s : State) (h : Nat) (t : TokCtx) : (s.setTok h t).poison = s.poison := rfl
@[simp] theorem State.setTok_soft (s : State) (h : Nat) (t : TokCtx) : (s.setTok h t).soft = s.soft := rfl
@[simp] theorem State.setTok_trained (s : State) (h : Nat) (t : TokCtx) : (s.setTok h t).trained = s.trained := rfl
@[simp] theorem State.setTok_bringup (s : State) (h : Nat) (t : TokCtx) : (s.setTok h t).bringup = s.bringup := rfl
@[simp] theorem State.setTok_initial (s : State) (h : Nat) (t : TokCtx) : (s.setTok h t).initial = s.initial := rfl
@[simp] theorem State.setTok_towers (s : State) (h : Nat) (t : TokCtx) : (s.setTok h t).towers = s.towers := rfl
@[simp] theorem State.setTok_decks (s : State) (h : Nat) (t : TokCtx) : (s.setTok h t).decks = s.decks := rfl
@[simp] theorem State.setTok_hostmap (s : State) (h : Nat) (t : TokCtx) : (s.setTok h t).hostmap = s.hostmap := rfl
@[simp] theorem State.setTok_tags (s : State) (h : Nat) (t : TokCtx) : (s.setTok h t).tags = s.tags := rfl
@[simp] theorem State.setTok_tlbs (s : State) (h : Nat) (t : TokCtx) : (s.setTok h t).tlbs = s.tlbs := rfl
@[simp] theorem State.setTok_ctxs (s : State) (h : Nat) (t : TokCtx) : (s.setTok h t).ctxs = s.ctxs := rfl
@[simp] theorem State.setTok_cores (s : State) (h : Nat) (t : TokCtx) : (s.setTok h t).cores = s.cores := rfl
@[simp] theorem State.setTok_strands (s : State) (h : Nat) (t : TokCtx) : (s.setTok h t).strands = s.strands := rfl
@[simp] theorem State.setTok_launches (s : State) (h : Nat) (t : TokCtx) : (s.setTok h t).launches = s.launches := rfl
@[simp] theorem State.setTok_links (s : State) (h : Nat) (t : TokCtx) : (s.setTok h t).links = s.links := rfl
@[simp] theorem State.setTok_inbox (s : State) (h : Nat) (t : TokCtx) : (s.setTok h t).inbox = s.inbox := rfl
@[simp] theorem State.setTok_covs (s : State) (h : Nat) (t : TokCtx) : (s.setTok h t).covs = s.covs := rfl
@[simp] theorem State.setTok_covResets (s : State) (h : Nat) (t : TokCtx) : (s.setTok h t).covResets = s.covResets := rfl
@[simp] theorem State.setTok_decrs (s : State) (h : Nat) (t : TokCtx) : (s.setTok h t).decrs = s.decrs := rfl
@[simp] theorem State.setTok_calls (s : State) (h : Nat) (t : TokCtx) : (s.setTok h t).calls = s.calls := rfl
@[simp] theorem State.setTok_replies (s : State) (h : Nat) (t : TokCtx) : (s.setTok h t).replies = s.replies := rfl
@[simp] theorem State.setTok_stale (s : State) (h : Nat) (t : TokCtx) : (s.setTok h t).stale = s.stale := rfl
@[simp] theorem State.setTok_lates (s : State) (h : Nat) (t : TokCtx) : (s.setTok h t).lates = s.lates := rfl
@[simp] theorem State.setTok_sent (s : State) (h : Nat) (t : TokCtx) : (s.setTok h t).sent = s.sent := rfl
@[simp] theorem State.setTok_crossing (s : State) (h : Nat) (t : TokCtx) : (s.setTok h t).crossing = s.crossing := rfl
@[simp] theorem State.setTok_agents (s : State) (h : Nat) (t : TokCtx) : (s.setTok h t).agents = s.agents := rfl
@[simp] theorem State.setTok_pantry (s : State) (h : Nat) (t : TokCtx) : (s.setTok h t).pantry = s.pantry := rfl
@[simp] theorem State.setTok_models (s : State) (h : Nat) (t : TokCtx) : (s.setTok h t).models = s.models := rfl
@[simp] theorem State.setTok_masks (s : State) (h : Nat) (t : TokCtx) : (s.setTok h t).masks = s.masks := rfl
@[simp] theorem State.setTok_planners (s : State) (h : Nat) (t : TokCtx) : (s.setTok h t).planners = s.planners := rfl
@[simp] theorem State.setTok_threads (s : State) (h : Nat) (t : TokCtx) : (s.setTok h t).threads = s.threads := rfl
@[simp] theorem State.setTok_asyncs (s : State) (h : Nat) (t : TokCtx) : (s.setTok h t).asyncs = s.asyncs := rfl
@[simp] theorem State.setTok_slotQueue (s : State) (h : Nat) (t : TokCtx) : (s.setTok h t).slotQueue = s.slotQueue := rfl
@[simp] theorem State.setTok_moves (s : State) (h : Nat) (t : TokCtx) : (s.setTok h t).moves = s.moves := rfl
@[simp] theorem State.setTok_wakes (s : State) (h : Nat) (t : TokCtx) : (s.setTok h t).wakes = s.wakes := rfl
@[simp] theorem State.setTok_halts (s : State) (h : Nat) (t : TokCtx) : (s.setTok h t).halts = s.halts := rfl
@[simp] theorem State.setTok_behind (s : State) (h : Nat) (t : TokCtx) : (s.setTok h t).behind = s.behind := rfl
@[simp] theorem State.setTok_torn (s : State) (h : Nat) (t : TokCtx) : (s.setTok h t).torn = s.torn := rfl
@[simp] theorem State.setTok_rings (s : State) (h : Nat) (t : TokCtx) : (s.setTok h t).rings = s.rings := rfl
@[simp] theorem State.setTok_reports (s : State) (h : Nat) (t : TokCtx) : (s.setTok h t).reports = s.reports := rfl
@[simp] theorem State.setTok_interrupts (s : State) (h : Nat) (t : TokCtx) : (s.setTok h t).interrupts = s.interrupts := rfl
@[simp] theorem State.setTok_thermal (s : State) (h : Nat) (t : TokCtx) : (s.setTok h t).thermal = s.thermal := rfl
@[simp] theorem State.setTok_regs (s : State) (h : Nat) (t : TokCtx) : (s.setTok h t).regs = s.regs := rfl
@[simp] theorem State.setTok_walkgen (s : State) (h : Nat) (t : TokCtx) : (s.setTok h t).walkgen = s.walkgen := rfl
@[simp] theorem State.setTok_reread (s : State) (h : Nat) (t : TokCtx) : (s.setTok h t).reread = s.reread := rfl
@[simp] theorem State.setTok_rounds (s : State) (h : Nat) (t : TokCtx) : (s.setTok h t).rounds = s.rounds := rfl
@[simp] theorem State.setTok_images (s : State) (h : Nat) (t : TokCtx) : (s.setTok h t).images = s.images := rfl
@[simp] theorem State.setTok_perf (s : State) (h : Nat) (t : TokCtx) : (s.setTok h t).perf = s.perf := rfl
@[simp] theorem State.setTok_perfPart (s : State) (h : Nat) (t : TokCtx) : (s.setTok h t).perfPart = s.perfPart := rfl
@[simp] theorem State.setTok_perfBusy (s : State) (h : Nat) (t : TokCtx) : (s.setTok h t).perfBusy = s.perfBusy := rfl
@[simp] theorem State.setTok_attBusy (s : State) (h : Nat) (t : TokCtx) : (s.setTok h t).attBusy = s.attBusy := rfl
@[simp] theorem State.setTok_nextId (s : State) (h : Nat) (t : TokCtx) : (s.setTok h t).nextId = s.nextId := rfl
@[simp] theorem State.setTok_fresh (s : State) (h : Nat) (t : TokCtx) : (s.setTok h t).fresh = s.fresh := rfl
@[simp] theorem State.setTok_agenda (s : State) (h : Nat) (t : TokCtx) : (s.setTok h t).agenda = s.agenda := rfl
@[simp] theorem State.setTok_picks (s : State) (h : Nat) (t : TokCtx) : (s.setTok h t).picks = s.picks := rfl
@[simp] theorem State.setTok_checks (s : State) (h : Nat) (t : TokCtx) : (s.setTok h t).checks = s.checks := rfl
@[simp] theorem State.setTok_fs (s : State) (h : Nat) (t : TokCtx) : (s.setTok h t).fs = s.fs := rfl
@[simp] theorem State.setTok_fa (s : State) (h : Nat) (t : TokCtx) : (s.setTok h t).fa = s.fa := rfl
@[simp] theorem State.setTok_fq (s : State) (h : Nat) (t : TokCtx) : (s.setTok h t).fq = s.fq := rfl

/-! ## setPlanner -/

@[simp] theorem State.setPlanner_reft (s : State) (p : Nat) (x : Planner) : (s.setPlanner p x).reft = s.reft := rfl
@[simp] theorem State.setPlanner_mem (s : State) (p : Nat) (x : Planner) : (s.setPlanner p x).mem = s.mem := rfl
@[simp] theorem State.setPlanner_poison (s : State) (p : Nat) (x : Planner) : (s.setPlanner p x).poison = s.poison := rfl
@[simp] theorem State.setPlanner_soft (s : State) (p : Nat) (x : Planner) : (s.setPlanner p x).soft = s.soft := rfl
@[simp] theorem State.setPlanner_trained (s : State) (p : Nat) (x : Planner) : (s.setPlanner p x).trained = s.trained := rfl
@[simp] theorem State.setPlanner_bringup (s : State) (p : Nat) (x : Planner) : (s.setPlanner p x).bringup = s.bringup := rfl
@[simp] theorem State.setPlanner_initial (s : State) (p : Nat) (x : Planner) : (s.setPlanner p x).initial = s.initial := rfl
@[simp] theorem State.setPlanner_towers (s : State) (p : Nat) (x : Planner) : (s.setPlanner p x).towers = s.towers := rfl
@[simp] theorem State.setPlanner_decks (s : State) (p : Nat) (x : Planner) : (s.setPlanner p x).decks = s.decks := rfl
@[simp] theorem State.setPlanner_hostmap (s : State) (p : Nat) (x : Planner) : (s.setPlanner p x).hostmap = s.hostmap := rfl
@[simp] theorem State.setPlanner_tags (s : State) (p : Nat) (x : Planner) : (s.setPlanner p x).tags = s.tags := rfl
@[simp] theorem State.setPlanner_tlbs (s : State) (p : Nat) (x : Planner) : (s.setPlanner p x).tlbs = s.tlbs := rfl
@[simp] theorem State.setPlanner_ctxs (s : State) (p : Nat) (x : Planner) : (s.setPlanner p x).ctxs = s.ctxs := rfl
@[simp] theorem State.setPlanner_cores (s : State) (p : Nat) (x : Planner) : (s.setPlanner p x).cores = s.cores := rfl
@[simp] theorem State.setPlanner_strands (s : State) (p : Nat) (x : Planner) : (s.setPlanner p x).strands = s.strands := rfl
@[simp] theorem State.setPlanner_launches (s : State) (p : Nat) (x : Planner) : (s.setPlanner p x).launches = s.launches := rfl
@[simp] theorem State.setPlanner_links (s : State) (p : Nat) (x : Planner) : (s.setPlanner p x).links = s.links := rfl
@[simp] theorem State.setPlanner_inbox (s : State) (p : Nat) (x : Planner) : (s.setPlanner p x).inbox = s.inbox := rfl
@[simp] theorem State.setPlanner_covs (s : State) (p : Nat) (x : Planner) : (s.setPlanner p x).covs = s.covs := rfl
@[simp] theorem State.setPlanner_covResets (s : State) (p : Nat) (x : Planner) : (s.setPlanner p x).covResets = s.covResets := rfl
@[simp] theorem State.setPlanner_decrs (s : State) (p : Nat) (x : Planner) : (s.setPlanner p x).decrs = s.decrs := rfl
@[simp] theorem State.setPlanner_calls (s : State) (p : Nat) (x : Planner) : (s.setPlanner p x).calls = s.calls := rfl
@[simp] theorem State.setPlanner_replies (s : State) (p : Nat) (x : Planner) : (s.setPlanner p x).replies = s.replies := rfl
@[simp] theorem State.setPlanner_stale (s : State) (p : Nat) (x : Planner) : (s.setPlanner p x).stale = s.stale := rfl
@[simp] theorem State.setPlanner_lates (s : State) (p : Nat) (x : Planner) : (s.setPlanner p x).lates = s.lates := rfl
@[simp] theorem State.setPlanner_sent (s : State) (p : Nat) (x : Planner) : (s.setPlanner p x).sent = s.sent := rfl
@[simp] theorem State.setPlanner_crossing (s : State) (p : Nat) (x : Planner) : (s.setPlanner p x).crossing = s.crossing := rfl
@[simp] theorem State.setPlanner_agents (s : State) (p : Nat) (x : Planner) : (s.setPlanner p x).agents = s.agents := rfl
@[simp] theorem State.setPlanner_toks (s : State) (p : Nat) (x : Planner) : (s.setPlanner p x).toks = s.toks := rfl
@[simp] theorem State.setPlanner_pantry (s : State) (p : Nat) (x : Planner) : (s.setPlanner p x).pantry = s.pantry := rfl
@[simp] theorem State.setPlanner_models (s : State) (p : Nat) (x : Planner) : (s.setPlanner p x).models = s.models := rfl
@[simp] theorem State.setPlanner_masks (s : State) (p : Nat) (x : Planner) : (s.setPlanner p x).masks = s.masks := rfl
@[simp] theorem State.setPlanner_threads (s : State) (p : Nat) (x : Planner) : (s.setPlanner p x).threads = s.threads := rfl
@[simp] theorem State.setPlanner_asyncs (s : State) (p : Nat) (x : Planner) : (s.setPlanner p x).asyncs = s.asyncs := rfl
@[simp] theorem State.setPlanner_slotQueue (s : State) (p : Nat) (x : Planner) : (s.setPlanner p x).slotQueue = s.slotQueue := rfl
@[simp] theorem State.setPlanner_moves (s : State) (p : Nat) (x : Planner) : (s.setPlanner p x).moves = s.moves := rfl
@[simp] theorem State.setPlanner_wakes (s : State) (p : Nat) (x : Planner) : (s.setPlanner p x).wakes = s.wakes := rfl
@[simp] theorem State.setPlanner_halts (s : State) (p : Nat) (x : Planner) : (s.setPlanner p x).halts = s.halts := rfl
@[simp] theorem State.setPlanner_behind (s : State) (p : Nat) (x : Planner) : (s.setPlanner p x).behind = s.behind := rfl
@[simp] theorem State.setPlanner_torn (s : State) (p : Nat) (x : Planner) : (s.setPlanner p x).torn = s.torn := rfl
@[simp] theorem State.setPlanner_rings (s : State) (p : Nat) (x : Planner) : (s.setPlanner p x).rings = s.rings := rfl
@[simp] theorem State.setPlanner_reports (s : State) (p : Nat) (x : Planner) : (s.setPlanner p x).reports = s.reports := rfl
@[simp] theorem State.setPlanner_interrupts (s : State) (p : Nat) (x : Planner) : (s.setPlanner p x).interrupts = s.interrupts := rfl
@[simp] theorem State.setPlanner_thermal (s : State) (p : Nat) (x : Planner) : (s.setPlanner p x).thermal = s.thermal := rfl
@[simp] theorem State.setPlanner_regs (s : State) (p : Nat) (x : Planner) : (s.setPlanner p x).regs = s.regs := rfl
@[simp] theorem State.setPlanner_walkgen (s : State) (p : Nat) (x : Planner) : (s.setPlanner p x).walkgen = s.walkgen := rfl
@[simp] theorem State.setPlanner_reread (s : State) (p : Nat) (x : Planner) : (s.setPlanner p x).reread = s.reread := rfl
@[simp] theorem State.setPlanner_rounds (s : State) (p : Nat) (x : Planner) : (s.setPlanner p x).rounds = s.rounds := rfl
@[simp] theorem State.setPlanner_images (s : State) (p : Nat) (x : Planner) : (s.setPlanner p x).images = s.images := rfl
@[simp] theorem State.setPlanner_perf (s : State) (p : Nat) (x : Planner) : (s.setPlanner p x).perf = s.perf := rfl
@[simp] theorem State.setPlanner_perfPart (s : State) (p : Nat) (x : Planner) : (s.setPlanner p x).perfPart = s.perfPart := rfl
@[simp] theorem State.setPlanner_perfBusy (s : State) (p : Nat) (x : Planner) : (s.setPlanner p x).perfBusy = s.perfBusy := rfl
@[simp] theorem State.setPlanner_attBusy (s : State) (p : Nat) (x : Planner) : (s.setPlanner p x).attBusy = s.attBusy := rfl
@[simp] theorem State.setPlanner_nextId (s : State) (p : Nat) (x : Planner) : (s.setPlanner p x).nextId = s.nextId := rfl
@[simp] theorem State.setPlanner_fresh (s : State) (p : Nat) (x : Planner) : (s.setPlanner p x).fresh = s.fresh := rfl
@[simp] theorem State.setPlanner_agenda (s : State) (p : Nat) (x : Planner) : (s.setPlanner p x).agenda = s.agenda := rfl
@[simp] theorem State.setPlanner_picks (s : State) (p : Nat) (x : Planner) : (s.setPlanner p x).picks = s.picks := rfl
@[simp] theorem State.setPlanner_checks (s : State) (p : Nat) (x : Planner) : (s.setPlanner p x).checks = s.checks := rfl
@[simp] theorem State.setPlanner_fs (s : State) (p : Nat) (x : Planner) : (s.setPlanner p x).fs = s.fs := rfl
@[simp] theorem State.setPlanner_fa (s : State) (p : Nat) (x : Planner) : (s.setPlanner p x).fa = s.fa := rfl
@[simp] theorem State.setPlanner_fq (s : State) (p : Nat) (x : Planner) : (s.setPlanner p x).fq = s.fq := rfl

/-! ## Strand.setPc -/

@[simp] theorem Strand.setPc_pc (t : Strand) (p : Word) : (t.setPc p).pc = p := rfl
@[simp] theorem Strand.setPc_x (t : Strand) (p : Word) : (t.setPc p).x = t.x := rfl
@[simp] theorem Strand.setPc_l0 (t : Strand) (p : Word) : (t.setPc p).l0 = t.l0 := rfl
@[simp] theorem Strand.setPc_l1 (t : Strand) (p : Word) : (t.setPc p).l1 = t.l1 := rfl
@[simp] theorem Strand.setPc_q (t : Strand) (p : Word) : (t.setPc p).q = t.q := rfl
@[simp] theorem Strand.setPc_m (t : Strand) (p : Word) : (t.setPc p).m = t.m := rfl
@[simp] theorem Strand.setPc_vx (t : Strand) (p : Word) : (t.setPc p).vx = t.vx := rfl
@[simp] theorem Strand.setPc_vxw (t : Strand) (p : Word) : (t.setPc p).vxw = t.vxw := rfl
@[simp] theorem Strand.setPc_fpc (t : Strand) (p : Word) : (t.setPc p).fpc = t.fpc := rfl
@[simp] theorem Strand.setPc_taskid (t : Strand) (p : Word) : (t.setPc p).taskid = t.taskid := rfl
@[simp] theorem Strand.setPc_rgn (t : Strand) (p : Word) : (t.setPc p).rgn = t.rgn := rfl
@[simp] theorem Strand.setPc_tActive (t : Strand) (p : Word) : (t.setPc p).tActive = t.tActive := rfl
@[simp] theorem Strand.setPc_tCode (t : Strand) (p : Word) : (t.setPc p).tCode = t.tCode := rfl
@[simp] theorem Strand.setPc_tpc (t : Strand) (p : Word) : (t.setPc p).tpc = t.tpc := rfl
@[simp] theorem Strand.setPc_tval (t : Strand) (p : Word) : (t.setPc p).tval = t.tval := rfl
@[simp] theorem Strand.setPc_tvec (t : Strand) (p : Word) : (t.setPc p).tvec = t.tvec := rfl
@[simp] theorem Strand.setPc_active (t : Strand) (p : Word) : (t.setPc p).active = t.active := rfl
@[simp] theorem Strand.setPc_idle (t : Strand) (p : Word) : (t.setPc p).idle = t.idle := rfl
@[simp] theorem Strand.setPc_wait (t : Strand) (p : Word) : (t.setPc p).wait = t.wait := rfl
@[simp] theorem Strand.setPc_staged (t : Strand) (p : Word) : (t.setPc p).staged = t.staged := rfl
@[simp] theorem Strand.setPc_seq (t : Strand) (p : Word) : (t.setPc p).seq = t.seq := rfl
@[simp] theorem Strand.setPc_call (t : Strand) (p : Word) : (t.setPc p).call = t.call := rfl
@[simp] theorem Strand.setPc_epochs (t : Strand) (p : Word) : (t.setPc p).epochs = t.epochs := rfl
@[simp] theorem Strand.setPc_batch (t : Strand) (p : Word) : (t.setPc p).batch = t.batch := rfl
@[simp] theorem Strand.setPc_closed (t : Strand) (p : Word) : (t.setPc p).closed = t.closed := rfl
@[simp] theorem Strand.setPc_exempt (t : Strand) (p : Word) : (t.setPc p).exempt = t.exempt := rfl
@[simp] theorem Strand.setPc_taskE (t : Strand) (p : Word) : (t.setPc p).taskE = t.taskE := rfl
@[simp] theorem Strand.setPc_taskD (t : Strand) (p : Word) : (t.setPc p).taskD = t.taskD := rfl
@[simp] theorem Strand.setPc_idleAt (t : Strand) (p : Word) : (t.setPc p).idleAt = t.idleAt := rfl
@[simp] theorem Strand.setPc_stopAt (t : Strand) (p : Word) : (t.setPc p).stopAt = t.stopAt := rfl

/-! ## Strand.writeX -/

@[simp] theorem Strand.writeX_pc (t : Strand) (r : XReg) (v : Word) : (t.writeX r v).pc = t.pc := by
  unfold Strand.writeX; split <;> rfl
@[simp] theorem Strand.writeX_l0 (t : Strand) (r : XReg) (v : Word) : (t.writeX r v).l0 = t.l0 := by
  unfold Strand.writeX; split <;> rfl
@[simp] theorem Strand.writeX_l1 (t : Strand) (r : XReg) (v : Word) : (t.writeX r v).l1 = t.l1 := by
  unfold Strand.writeX; split <;> rfl
@[simp] theorem Strand.writeX_q (t : Strand) (r : XReg) (v : Word) : (t.writeX r v).q = t.q := by
  unfold Strand.writeX; split <;> rfl
@[simp] theorem Strand.writeX_m (t : Strand) (r : XReg) (v : Word) : (t.writeX r v).m = t.m := by
  unfold Strand.writeX; split <;> rfl
@[simp] theorem Strand.writeX_vx (t : Strand) (r : XReg) (v : Word) : (t.writeX r v).vx = t.vx := by
  unfold Strand.writeX; split <;> rfl
@[simp] theorem Strand.writeX_vxw (t : Strand) (r : XReg) (v : Word) : (t.writeX r v).vxw = t.vxw := by
  unfold Strand.writeX; split <;> rfl
@[simp] theorem Strand.writeX_fpc (t : Strand) (r : XReg) (v : Word) : (t.writeX r v).fpc = t.fpc := by
  unfold Strand.writeX; split <;> rfl
@[simp] theorem Strand.writeX_taskid (t : Strand) (r : XReg) (v : Word) : (t.writeX r v).taskid = t.taskid := by
  unfold Strand.writeX; split <;> rfl
@[simp] theorem Strand.writeX_rgn (t : Strand) (r : XReg) (v : Word) : (t.writeX r v).rgn = t.rgn := by
  unfold Strand.writeX; split <;> rfl
@[simp] theorem Strand.writeX_tActive (t : Strand) (r : XReg) (v : Word) : (t.writeX r v).tActive = t.tActive := by
  unfold Strand.writeX; split <;> rfl
@[simp] theorem Strand.writeX_tCode (t : Strand) (r : XReg) (v : Word) : (t.writeX r v).tCode = t.tCode := by
  unfold Strand.writeX; split <;> rfl
@[simp] theorem Strand.writeX_tpc (t : Strand) (r : XReg) (v : Word) : (t.writeX r v).tpc = t.tpc := by
  unfold Strand.writeX; split <;> rfl
@[simp] theorem Strand.writeX_tval (t : Strand) (r : XReg) (v : Word) : (t.writeX r v).tval = t.tval := by
  unfold Strand.writeX; split <;> rfl
@[simp] theorem Strand.writeX_tvec (t : Strand) (r : XReg) (v : Word) : (t.writeX r v).tvec = t.tvec := by
  unfold Strand.writeX; split <;> rfl
@[simp] theorem Strand.writeX_active (t : Strand) (r : XReg) (v : Word) : (t.writeX r v).active = t.active := by
  unfold Strand.writeX; split <;> rfl
@[simp] theorem Strand.writeX_idle (t : Strand) (r : XReg) (v : Word) : (t.writeX r v).idle = t.idle := by
  unfold Strand.writeX; split <;> rfl
@[simp] theorem Strand.writeX_wait (t : Strand) (r : XReg) (v : Word) : (t.writeX r v).wait = t.wait := by
  unfold Strand.writeX; split <;> rfl
@[simp] theorem Strand.writeX_staged (t : Strand) (r : XReg) (v : Word) : (t.writeX r v).staged = t.staged := by
  unfold Strand.writeX; split <;> rfl
@[simp] theorem Strand.writeX_seq (t : Strand) (r : XReg) (v : Word) : (t.writeX r v).seq = t.seq := by
  unfold Strand.writeX; split <;> rfl
@[simp] theorem Strand.writeX_call (t : Strand) (r : XReg) (v : Word) : (t.writeX r v).call = t.call := by
  unfold Strand.writeX; split <;> rfl
@[simp] theorem Strand.writeX_epochs (t : Strand) (r : XReg) (v : Word) : (t.writeX r v).epochs = t.epochs := by
  unfold Strand.writeX; split <;> rfl
@[simp] theorem Strand.writeX_batch (t : Strand) (r : XReg) (v : Word) : (t.writeX r v).batch = t.batch := by
  unfold Strand.writeX; split <;> rfl
@[simp] theorem Strand.writeX_closed (t : Strand) (r : XReg) (v : Word) : (t.writeX r v).closed = t.closed := by
  unfold Strand.writeX; split <;> rfl
@[simp] theorem Strand.writeX_exempt (t : Strand) (r : XReg) (v : Word) : (t.writeX r v).exempt = t.exempt := by
  unfold Strand.writeX; split <;> rfl
@[simp] theorem Strand.writeX_taskE (t : Strand) (r : XReg) (v : Word) : (t.writeX r v).taskE = t.taskE := by
  unfold Strand.writeX; split <;> rfl
@[simp] theorem Strand.writeX_taskD (t : Strand) (r : XReg) (v : Word) : (t.writeX r v).taskD = t.taskD := by
  unfold Strand.writeX; split <;> rfl
@[simp] theorem Strand.writeX_idleAt (t : Strand) (r : XReg) (v : Word) : (t.writeX r v).idleAt = t.idleAt := by
  unfold Strand.writeX; split <;> rfl
@[simp] theorem Strand.writeX_stopAt (t : Strand) (r : XReg) (v : Word) : (t.writeX r v).stopAt = t.stopAt := by
  unfold Strand.writeX; split <;> rfl

/-! ## Tables -/

theorem Tbl.look_put_same {α : Type} (t : Tbl α) (k : Nat) (v : α) : Tbl.look (Tbl.put t k v) k = some v := by
  induction t with
  | nil => simp [Tbl.put, Tbl.look]
  | cons e r ih =>
    obtain ⟨j, w⟩ := e
    unfold Tbl.put
    split
    · simp [Tbl.look]
    · split
      · simp [Tbl.look]
      · simp [Tbl.look, *]

theorem Tbl.look_put_other {α : Type} (t : Tbl α) (k j : Nat) (v : α) (h : j ≠ k) : Tbl.look (Tbl.put t k v) j = Tbl.look t j := by
  have hk : k ≠ j := fun e => h e.symm
  induction t with
  | nil => simp [Tbl.put, Tbl.look, hk]
  | cons e r ih =>
    obtain ⟨i, w⟩ := e
    unfold Tbl.put
    split
    · simp [Tbl.look, hk]
    · split
      · rename_i h1 h2
        simp [Tbl.look, hk, h2]
      · simp [Tbl.look, ih]

@[simp] theorem Tbl.get_put_same {α : Type} (t : Tbl α) (k : Nat) (v d : α) : Tbl.get (Tbl.put t k v) k d = v := by
  simp [Tbl.get, Tbl.look_put_same]

theorem Tbl.get_put_other {α : Type} (t : Tbl α) (k j : Nat) (v d : α) (h : j ≠ k) : Tbl.get (Tbl.put t k v) j d = Tbl.get t j d := by
  simp [Tbl.get, Tbl.look_put_other t k j v h]

theorem Tbl.put_put {α : Type} (t : Tbl α) (k : Nat) (v w : α) : Tbl.put (Tbl.put t k v) k w = Tbl.put t k w := by
  induction t with
  | nil => simp [Tbl.put]
  | cons e r ih =>
    obtain ⟨j, x⟩ := e
    by_cases h1 : k < j
    · simp [Tbl.put, h1]
    · by_cases h2 : j = k
      · simp [Tbl.put, h2]
      · simp [Tbl.put, h1, h2, ih]

/-! ## Reads after updates -/

@[simp] theorem State.strand_setStrand (s : State) (k : Nat) (t : Strand) : (s.setStrand k t).strand k = t := by
  simp [State.strand, State.setStrand]

theorem State.strand_setStrand_other (s : State) (k j : Nat) (t : Strand) (h : j ≠ k) : (s.setStrand k t).strand j = s.strand j := by
  simp [State.strand, State.setStrand, Tbl.get_put_other _ _ _ _ _ h]

@[simp] theorem State.core_setCore (s : State) (k : Nat) (c : Core) : (s.setCore k c).core k = c := by
  simp [State.core, State.setCore]

theorem State.core_setCore_other (s : State) (k j : Nat) (c : Core) (h : j ≠ k) : (s.setCore k c).core j = s.core j := by
  simp [State.core, State.setCore, Tbl.get_put_other _ _ _ _ _ h]

@[simp] theorem State.core_setStrand (s : State) (k j : Nat) (t : Strand) : (s.setStrand k t).core j = s.core j := rfl
@[simp] theorem State.strand_setCore (s : State) (k j : Nat) (c : Core) : (s.setCore k c).strand j = s.strand j := rfl
@[simp] theorem State.strand_setMem (s : State) (j : Nat) (m : List Host.Cell) : (s.setMem m).strand j = s.strand j := rfl
@[simp] theorem State.core_setMem (s : State) (j : Nat) (m : List Host.Cell) : (s.setMem m).core j = s.core j := rfl
@[simp] theorem State.ctx_setStrand (s : State) (k j : Nat) (t : Strand) : (s.setStrand k t).ctx j = s.ctx j := rfl
@[simp] theorem State.launch_setStrand (s : State) (k j : Nat) (t : Strand) : (s.setStrand k t).launch j = s.launch j := rfl
@[simp] theorem State.reg_setStrand (s : State) (k j : Nat) (t : Strand) : (s.setStrand k t).reg j = s.reg j := rfl
@[simp] theorem State.reg_setReg (s : State) (o : Nat) (v : Word) : (s.setReg o v).reg o = v := by simp [State.reg, State.setReg]
theorem State.reg_setReg_other (s : State) (o p : Nat) (v : Word) (h : p ≠ o) : (s.setReg o v).reg p = s.reg p := by
  simp [State.reg, State.setReg, Tbl.get_put_other _ _ _ _ _ h]

/-- Two updates of one strand are the last. -/
theorem State.setStrand_setStrand (s : State) (k : Nat) (t u : Strand) : (s.setStrand k t).setStrand k u = s.setStrand k u := by
  simp [State.setStrand, Tbl.put_put]

/-! ## Scalar registers -/

/-- x0 reads as zero (R117). -/
@[simp] theorem Strand.readX_zero (t : Strand) : t.readX 0 = 0 := rfl

/-- A write to x0 is discarded (R117). -/
@[simp] theorem Strand.writeX_zero (t : Strand) (v : Word) : t.writeX 0 v = t := rfl

theorem Strand.readX_writeX_same (t : Strand) (r : XReg) (v : Word) (h : r ≠ 0) : (t.writeX r v).readX r = v := by
  have h' : ¬ r = 0 := h
  unfold Strand.readX Strand.writeX
  rw [if_neg h', if_neg h']
  simp

theorem Strand.readX_writeX_other (t : Strand) (r q : XReg) (v : Word) (h : q ≠ r) : (t.writeX r v).readX q = t.readX q := by
  unfold Strand.writeX
  split
  · rfl
  · unfold Strand.readX
    split
    · rfl
    · have hn : r.toNat ≠ q.toNat := fun e => h (BitVec.eq_of_toNat_eq e.symm)
      simp [Vector.getElem_set_ne, hn]

@[simp] theorem Strand.readX_setPc (t : Strand) (p : Word) (q : XReg) : (t.setPc p).readX q = t.readX q := rfl

/-! ## The strand in focus -/

@[simp] theorem State.setCur_cur (s : State) (t : Strand) : (s.setCur t).cur = t := by
  simp [State.cur, State.setCur]
@[simp] theorem State.setCur_fs (s : State) (t : Strand) : (s.setCur t).fs = s.fs := rfl
@[simp] theorem State.setPc_fs (s : State) (p : Word) : (s.setPc p).fs = s.fs := rfl
@[simp] theorem State.writeX_fs (s : State) (r : XReg) (v : Word) : (s.writeX r v).fs = s.fs := rfl
@[simp] theorem State.setPc_cur (s : State) (p : Word) : (s.setPc p).cur = s.cur.setPc p := by simp [State.setPc]
@[simp] theorem State.writeX_cur (s : State) (r : XReg) (v : Word) : (s.writeX r v).cur = s.cur.writeX r v := by simp [State.writeX]
@[simp] theorem State.setPc_pc (s : State) (p : Word) : (s.setPc p).pc = p := by simp [State.pc]
@[simp] theorem State.writeX_pc (s : State) (r : XReg) (v : Word) : (s.writeX r v).pc = s.pc := by simp [State.pc]
@[simp] theorem State.readX_setPc (s : State) (p : Word) (q : XReg) : (s.setPc p).readX q = s.readX q := by simp [State.readX]

theorem State.readX_writeX_same (s : State) (r : XReg) (v : Word) (h : r ≠ 0) : (s.writeX r v).readX r = v := by
  simp [State.readX, Strand.readX_writeX_same _ _ _ h]
theorem State.readX_writeX_other (s : State) (r q : XReg) (v : Word) (h : q ≠ r) : (s.writeX r v).readX q = s.readX q := by
  simp [State.readX, Strand.readX_writeX_other _ _ _ _ h]
@[simp] theorem State.readX_zero (s : State) : s.readX 0 = 0 := rfl

theorem State.strand_setCur_other (s : State) (t : Strand) (k : Nat) (h : k ≠ s.fs) : (s.setCur t).strand k = s.strand k :=
  State.strand_setStrand_other _ _ _ _ h
theorem State.strand_writeX_other (s : State) (r : XReg) (v : Word) (k : Nat) (h : k ≠ s.fs) : (s.writeX r v).strand k = s.strand k :=
  State.strand_setStrand_other _ _ _ _ h
theorem State.strand_setPc_other (s : State) (p : Word) (k : Nat) (h : k ≠ s.fs) : (s.setPc p).strand k = s.strand k :=
  State.strand_setStrand_other _ _ _ _ h

/-- What a fixed-latency instruction of n bytes does: xd and the pc. -/
theorem writeAndRetire_spec (n : Nat) (d : XReg) (v : Word) (s : State) :
    writeAndRetire n d v s = .next ((s.writeX d v).setPc (s.pc + .ofNat 64 n)) := by
  simp [writeAndRetire, retire]

theorem retire_spec (n : Nat) (s : State) : retire n s = .next (s.setPc (s.pc + .ofNat 64 n)) := rfl

end Sys2Proof.Machine
end

