-- ==== Sys2Proof/Laws/Ops.lean ====
section
/-!
SUPPORT. What the shared operations of an instruction do: the checks of R116, taking a trap (R388), returning from it (R390),
waiting, stalling, staging, and the accesses of the units outside the cores (R265, R415).
-/

namespace Sys2Proof.Machine

open Sys2Proof

/-- The widths that the FMT registers of the current core give. -/
abbrev State.widths (s : State) : BitVec 3 → Option Nat := fun n => fmtWidth (s.curCore.fmtOf n.toNat)

/-- A well-formed instruction passes orders 3 and 6 of R116. -/
theorem checked_ok {i : Instr} {s : State} {body : Res} (h : wellFormed s.widths i = true) : checked i s body = body := by
  unfold wellFormed selectorsOk fieldsOk at h
  unfold checked
  cases he : encode i with
  | none => simp [he] at h
  | some w =>
    simp only [he, Bool.and_eq_true, Option.isNone_iff_eq_none, Bool.not_eq_true'] at h
    simp only [Option.getD_some, h.1]
    rw [if_neg]
    simp only [h.2, Bool.false_eq_true, not_false_eq_true]

/-- An unassigned selector decides first. -/
theorem checked_selector {i : Instr} {s : State} {body : Res} {w : Nat} {c : Byte} (he : encode i = some w)
    (h : selector (w % 2 ^ 64) = some c) : checked i s body = trap s c (instrBits w) := by
  unfold checked
  simp only [he, Option.getD_some, h]

/-- A reserved field or value comes next. -/
theorem checked_reserved {i : Instr} {s : State} {body : Res} {w : Nat} (he : encode i = some w)
    (hs : selector (w % 2 ^ 64) = none) (h : reserved s.widths i = true) :
    checked i s body = trap s Cause.reservedField (instrBits w) := by
  unfold checked
  simp only [he, Option.getD_some, hs]
  rw [if_pos h]

/-! ## Traps -/

/-- A trap with a handler: the saved state, and nothing else of the machine. -/
theorem trapAt_handler {s : State} {k : Nat} {c : Byte} {v : Word} (h1 : (s.strand k).tActive = false) (h2 : (s.strand k).tvec ≠ 0) :
    trapAt s k c v = s.setStrand k { s.strand k with
      tActive := true, tCode := c, tpc := (s.strand k).pc, tval := v, pc := (s.strand k).tvec, wait := .none } := by
  unfold trapAt
  simp only [h1, Bool.false_eq_true, if_false, h2, Strand.trapped]

/-- A trap inside a handler. -/
theorem trapAt_double {s : State} {k : Nat} {c : Byte} {v : Word} (h1 : (s.strand k).tActive = true) :
    trapAt s k c v = strandGroupFault s k (strandFault s k Cause.doubleTrap c.toNat v) := by
  unfold trapAt
  simp only [h1, if_true]

/-- A trap without a handler. -/
theorem trapAt_no_handler {s : State} {k : Nat} {c : Byte} {v : Word} (h1 : (s.strand k).tActive = false) (h2 : (s.strand k).tvec = 0) :
    trapAt s k c v = strandGroupFault s k (strandFault s k c 0xFFFF v) := by
  unfold trapAt
  simp only [h1, h2, Bool.false_eq_true, if_false, if_true]

theorem trap_spec (s : State) (c : Byte) (v : Word) : trap s c v = .next (trapAt s s.fs c v) := rfl
theorem stall_spec (ds : List Nat) (s : State) :
    stall ds s = .next (noteHeld (s.setCur { s.cur with exempt := true, wait := .held true }) s.fs ds) := rfl
theorem stallStore_spec (i : Instr) (ds : List Nat) (s : State) :
    stallStore i ds s = .next (noteHeld (s.setCur { s.cur with exempt := true, wait := .store i }) s.fs ds) := rfl
theorem hold_spec (ds : List Nat) (s : State) :
    hold ds s = .next (noteHeld (s.setCur { s.cur with exempt := true, wait := .held false }) s.fs ds) := rfl

/-- Nothing holds a sender that asks for no deck. -/
@[simp] theorem noteHeld_nil (s : State) (h : Nat) : noteHeld s h [] = s := rfl
/-- What a note of held traffic changes: the order at the boundaries alone. -/
theorem noteHeld_spec (s : State) (h : Nat) (ds : List Nat) : noteHeld s h ds = { s with crossing := (noteHeld s h ds).crossing } := by
  unfold noteHeld
  split
  · rfl
  · split <;> rfl
/-- A sender that is held by no deck is held by none of fewer. -/
@[simp] theorem heldAt_nil (s : State) (h : Nat) : heldAt s h [] = [] := rfl

/-- What the release of held traffic changes: its place in the order alone. -/
theorem dropHeld_spec (s : State) (h : Nat) : dropHeld s h = { s with crossing := s.crossing.filter (fun e => e.1 ≠ h) } := rfl
@[simp] theorem dropHeld_strand (s : State) (h k : Nat) : (dropHeld s h).strand k = s.strand k := rfl
@[simp] theorem dropHeld_core (s : State) (h k : Nat) : (dropHeld s h).core k = s.core k := rfl
@[simp] theorem dropHeld_mem (s : State) (h : Nat) : (dropHeld s h).mem = s.mem := rfl

/-- What the change of a place's owner changes: the order at the boundaries alone. -/
theorem renameHeld_spec (s : State) (a b : Nat) : renameHeld s a b = { s with crossing := (renameHeld s a b).crossing } := rfl
/-- A held store is left behind with its strand's registers and its core; any other strand gives up its place (R88, R137). -/
theorem leaveLate_store {s : State} {k : Nat} {i : Instr} (h : (s.strand k).wait = .store i) :
    (leaveLate s k).lates = s.lates ++ [{ id := s.sent, strand := k, saved := s.strand k, core := s.core (coreOf k), instr := i }] := by
  simp [leaveLate, h, renameHeld]
theorem leaveLate_other {s : State} {k : Nat} (h : ∀ i, (s.strand k).wait ≠ .store i) : leaveLate s k = dropHeld s k := by
  unfold leaveLate
  split
  · exact absurd ‹_› (h _)
  · rfl

/-! ## Counted events and corrected errors (R265, R408) -/

/-- A counted event changes the counters alone. -/
theorem count_spec (s : State) (core ev n : Nat) : s.count core ev n = { s with perf := (s.count core ev n).perf } := by
  have step : ∀ (l : List Nat) (t : State), (∃ p, t = { s with perf := p }) → ∃ p, l.foldl (fun (s : State) n' =>
      if (s.reg (0x410 + 8 * n')).toNat % 256 = ev then
        { s with perf := Tbl.put s.perf (s.phys core * 8 + n') ((Tbl.get s.perf (s.phys core * 8 + n') 0 + n) % 2 ^ 48) }
      else s) t = { s with perf := p } := by
    intro l
    induction l with
    | nil => exact fun t h => h
    | cons a r ih =>
      rintro t ⟨p, rfl⟩
      refine ih _ ?_
      dsimp only
      split
      · exact ⟨_, rfl⟩
      · exact ⟨p, rfl⟩
  unfold State.count
  split
  · split
    · obtain ⟨p, hp⟩ := step (List.range 8) s ⟨s.perf, rfl⟩
      simp only [hp]
    · rfl
  · rfl

/-- Without single-bit errors there is nothing to correct. -/
theorem correctAt_none {s : State} (h : s.soft = []) (write : Bool) (loc n : Nat) : correctAt s write loc n = s := by
  simp [correctAt, h]
/-- A correction changes the errors and the counters alone. -/
theorem correctAt_spec (s : State) (write : Bool) (loc n : Nat) :
    ∃ soft perf, correctAt s write loc n = { s with soft := soft, perf := perf } := by
  unfold correctAt
  dsimp only
  split
  · exact ⟨s.soft, s.perf, rfl⟩
  · split
    · exact ⟨_, s.perf, rfl⟩
    · rw [count_spec]
      exact ⟨_, _, rfl⟩

/-- A read for a context corrects and counts, and changes nothing else. -/
theorem extSeen_spec (s : State) (who : Who) (va n : Nat) : ∃ soft perf, extSeen s who va n = { s with soft := soft, perf := perf } := by
  have step : ∀ (l : List (Nat × Nat)) (t : State), (∃ a b, t = { s with soft := a, perf := b }) → ∃ a b,
      l.foldl (fun (s : State) p => match translate s who p.1 p.2 .read with | .ok h => correctAt s false h.loc p.2 | .error _ => s) t
        = { s with soft := a, perf := b } := by
    intro l
    induction l with
    | nil => exact fun t h => h
    | cons p r ih =>
      rintro t ⟨a, b, rfl⟩
      refine ih _ ?_
      dsimp only
      split
      · obtain ⟨c, d, hd⟩ := correctAt_spec { s with soft := a, perf := b } false (Hit.loc ‹_›) p.2
        exact ⟨c, d, by rw [hd]⟩
      · exact ⟨a, b, rfl⟩
  unfold extSeen
  split
  · exact ⟨s.soft, s.perf, rfl⟩
  · exact step _ s ⟨s.soft, s.perf, rfl⟩
theorem extSeen_none {s : State} (h : s.soft = []) (who : Who) (va n : Nat) : extSeen s who va n = s := by
  simp [extSeen, h]
theorem touchSeen_spec (s : State) (t : Touch) : ∃ soft perf, touchSeen s t = { s with soft := soft, perf := perf } := by
  have step : ∀ (l : List (Who × Nat × Nat)) (u : State), (∃ a b, u = { s with soft := a, perf := b }) → ∃ a b,
      l.foldl (fun (s : State) x => extSeen s x.1 x.2.1 x.2.2) u = { s with soft := a, perf := b } := by
    intro l
    induction l with
    | nil => exact fun u h => h
    | cons p r ih =>
      rintro u ⟨a, b, rfl⟩
      obtain ⟨c, d, hd⟩ := extSeen_spec { s with soft := a, perf := b } p.1 p.2.1 p.2.2
      exact ih _ ⟨c, d, hd⟩
  exact step t.reads s ⟨s.soft, s.perf, rfl⟩

/-- A unit whose accesses no boundary holds makes them; one whose accesses are held keeps its place in the order and does nothing
else (R415). -/
theorem whenTouch_open {s : State} {h : Nat} {t : Touch} {go : State → Res} (e : touchHeld s h t = []) :
    whenTouch s h t go = go (touchSeen (dropHeld s h) t) := by
  simp [whenTouch, e]
theorem whenTouch_held {s : State} {h : Nat} {t : Touch} {go : State → Res} (e : touchHeld s h t ≠ []) :
    whenTouch s h t go = .next (noteHeld s h (touchHeld s h t)) := by
  unfold whenTouch
  split
  · exact absurd ‹_› e
  · rfl
theorem whenOpen_open {s : State} {h : Nat} {who : Who} {l : List (Nat × Nat)} {go : State → State} (e : extHeld s h who l = []) :
    whenOpen s h who l go = go (dropHeld s h) := by
  simp [whenOpen, e]
theorem whenOpen_held {s : State} {h : Nat} {who : Who} {l : List (Nat × Nat)} {go : State → State} (e : extHeld s h who l ≠ []) :
    whenOpen s h who l go = noteHeld s h (extHeld s h who l) := by
  unfold whenOpen
  split
  · exact absurd ‹_› e
  · rfl

theorem waitFor_spec (w : Wait) (s : State) : waitFor w s = .next (s.setCur { s.cur with wait := w }) := rfl

@[simp] theorem stage_cur (s : State) (o : Staged) : (stage s o).cur = { s.cur with staged := s.cur.staged ++ [o] } := by
  simp [stage]
@[simp] theorem stage_fs (s : State) (o : Staged) : (stage s o).fs = s.fs := rfl

end Sys2Proof.Machine
end

