-- ==== Sys2Proof/Laws/PerInstr.lean ====
section
/-!
SUPPORT. The words of every native instruction decode to it, constructor by constructor.
-/

namespace Sys2Proof.Laws

open Sys2Proof

/-- The family: the words of the instruction, where it has any, decode to it. -/
def Encodable.Statement (i : Instr) : Prop := ∀ w, encode i = some w → decode w = .ok i

/-! ## What the proofs share -/

theorem decode_of_32 {w : Nat} {i : Instr} (h2 : w % 4 ≠ 2) (h3 : w % 4 ≠ 3) (h : decode32 w = some i) : decode w = .ok i := by
  simp only [decode, decodeForm, h2, h3, if_false, h]

theorem decode_of_64 {w : Nat} {i : Instr} (h2 : w % 4 = 2) (h : decode64 w = some i) : decode w = .ok i := by
  simp only [decode, decodeForm, h2, if_true, h]

theorem decode_of_96 {w : Nat} {i : Instr} (h3 : w % 4 = 3) (h : decode96 w = some i) : decode w = .ok i := by
  have h2 : w % 4 ≠ 2 := by omega
  have hf : decodeForm w = some i := by
    unfold decodeForm
    rw [if_neg h2, if_pos h3]
    exact h
  simp only [decode, hf]

theorem reg_eq {w lo : Nat} {r : XReg} (h : w / 2 ^ lo % 16 = r.toNat) : reg w lo = r := by
  apply BitVec.eq_of_toNat_eq
  simp only [reg, BitVec.toNat_ofNat]
  exact h

theorem bv_eq {w lo n : Nat} {r : BitVec n} (h : w / 2 ^ lo % 2 ^ n = r.toNat) : bv w lo n = r := by
  apply BitVec.eq_of_toNat_eq
  simp only [bv, BitVec.toNat_ofNat]
  exact h

theorem bit_eq {w lo : Nat} {b : Bool} (h : w / 2 ^ lo % 2 = b.toNat) : bit w lo = b := by
  unfold bit
  cases b <;> simp_all

theorem statement_of {i : Instr} {w : Nat} (he : encode i = some w) (hd : decode w = .ok i) : Encodable.Statement i := by
  intro v hv
  rw [he] at hv
  cases hv
  exact hd

/-- An instruction without native words. -/
theorem no_words {i : Instr} (h : encode i = none) : Encodable.Statement i := by
  intro w hw
  rw [h] at hw
  cases hw

/-! ## The 64-bit and 96-bit formats -/

/-- Sizes of the fields of a V64 word. -/
theorem v64_sizes (f : V64) : f.d.toNat < 256 ∧ f.a.toNat < 256 ∧ f.b.toNat < 256 ∧ f.c.toNat < 256 ∧ f.fmtA.toNat < 8
    ∧ f.fmtB.toNat < 8 ∧ f.sgnB.toNat < 2 ∧ f.sgnA.toNat < 2 ∧ f.sat.toNat < 2 ∧ f.rnd.toNat < 4 ∧ f.mask.toNat < 8
    ∧ f.etype.toNat < 16 :=
  ⟨f.d.isLt, f.a.isLt, f.b.isLt, f.c.isLt, f.fmtA.isLt, f.fmtB.isLt, Bool.toNat_lt _, Bool.toNat_lt _, Bool.toNat_lt _,
    f.rnd.isLt, f.mask.isLt, f.etype.isLt⟩

/-- The fields of a V64 word, with a literal above it, read back. -/
theorem v64Of_encV (mb fn l : Nat) (f : V64) (hm : mb < 128) (hf : fn < 64) : v64Of (encV mb fn f + l * 2 ^ 64) = f := by
  obtain ⟨h1, h2, h3, h4, h5, h6, h7, h8, h9, h10, h11, h12⟩ := v64_sizes f
  have e (w : Nat) (hw : w = encV mb fn f + l * 2 ^ 64) : v64Of w = f := by
    simp only [encV, put, putB] at hw
    have g1 : bv w 32 8 = f.d := bv_eq (by omega)
    have g2 : bv w 40 8 = f.a := bv_eq (by omega)
    have g3 : bv w 48 8 = f.b := bv_eq (by omega)
    have g4 : bv w 56 8 = f.c := bv_eq (by omega)
    have g5 : bv w 28 3 = f.fmtA := bv_eq (by omega)
    have g6 : bv w 25 3 = f.fmtB := bv_eq (by omega)
    have g7 : bit w 24 = f.sgnB := bit_eq (by omega)
    have g8 : bit w 23 = f.sgnA := bit_eq (by omega)
    have g9 : bit w 22 = f.sat := bit_eq (by omega)
    have g10 : bv w 20 2 = f.rnd := bv_eq (by omega)
    have g11 : bv w 17 3 = f.mask := bv_eq (by omega)
    have g12 : bv w 13 4 = f.etype := bv_eq (by omega)
    simp only [v64Of, g1, g2, g3, g4, g5, g6, g7, g8, g9, g10, g11, g12]
  exact e _ rfl

/-- The fixed part of a V64 word: major, funct6, bit 31. -/
theorem encV_fixed (mb fn l : Nat) (f : V64) (hm : mb < 128) (hf : fn < 64) :
    (encV mb fn f + l * 2 ^ 64) % 128 = mb ∧ Machine.fld (encV mb fn f + l * 2 ^ 64) 7 6 = fn
      ∧ bit (encV mb fn f + l * 2 ^ 64) 31 = false := by
  obtain ⟨h1, h2, h3, h4, h5, h6, h7, h8, h9, h10, h11, h12⟩ := v64_sizes f
  simp only [encV, put, putB, Machine.fld]
  refine ⟨by omega, by omega, bit_eq ?_⟩
  simp only [Bool.toNat_false]
  omega

theorem encV_lt (mb fn : Nat) (f : V64) (hm : mb < 128) (hf : fn < 64) : encV mb fn f < 2 ^ 64 := by
  obtain ⟨h1, h2, h3, h4, h5, h6, h7, h8, h9, h10, h11, h12⟩ := v64_sizes f
  simp only [encV, put, putB]
  omega

theorem dec_v (n mb fn : Nat) (i : Instr) (f : V64) (hn : n < 7) (hmb : mb = 4 * n + 2) (hf : fn < 64) (hd : decodeV n fn f = some i) :
    decode (encV mb fn f) = .ok i := by
  have hm : mb < 128 := by omega
  obtain ⟨h1, h2, h3⟩ := encV_fixed mb fn 0 f hm hf
  have h4 := v64Of_encV mb fn 0 f hm hf
  rw [Nat.zero_mul, Nat.add_zero] at h1 h2 h3 h4
  refine decode_of_64 (by omega) ?_
  have hk : encV mb fn f / 4 % 32 = n := by omega
  simp only [decode64, hk, hn, if_true, h3, h2, h4, hd, Bool.false_eq_true, if_false]

theorem dec_lit (n mb fn : Nat) (i : Instr) (f : V64) (l : W32) (hn : n < 4) (hmb : mb = 4 * n + 3) (hf : fn < 64)
    (hd : decodeLit n fn f l = some i) : decode (encV mb fn f + put l 64) = .ok i := by
  have hm : mb < 128 := by omega
  obtain ⟨h1, h2, h3⟩ := encV_fixed mb fn l.toNat f hm hf
  have h4 := v64Of_encV mb fn l.toNat f hm hf
  have h5 : bv (encV mb fn f + l.toNat * 2 ^ 64) 64 32 = l := by
    have gl := l.isLt
    have gx := encV_lt mb fn f hm hf
    apply bv_eq
    omega
  refine decode_of_96 (by simp only [put]; omega) ?_
  have hk : (encV mb fn f + l.toNat * 2 ^ 64) / 4 % 32 = n := by omega
  simp only [decode96, put, hk, hn, if_true, h3, h2, h4, h5, hd, Bool.false_eq_true, if_false]

theorem dec_vi (fn : Nat) (i : Instr) (f : VI) (hf : fn < 64) (hd : decodeVi fn f = some i) : decode (encVI fn f) = .ok i := by
  have h1 := f.d.isLt; have h2 := f.a.isLt; have h3 := f.imm.isLt; have h5 := f.fmtA.isLt; have h6 := f.fmtB.isLt
  have h7 := Bool.toNat_lt f.sgnB; have h8 := Bool.toNat_lt f.sgnA; have h9 := Bool.toNat_lt f.sat
  have h10 := f.rnd.isLt; have h11 := f.mask.isLt; have h12 := f.etype.isLt
  have e (w : Nat) (hw : w = encVI fn f) : decode w = .ok i := by
    simp only [encVI, put, putB] at hw
    have g1 : bv w 32 8 = f.d := bv_eq (by omega)
    have g2 : bv w 40 8 = f.a := bv_eq (by omega)
    have g3 : bv w 48 16 = f.imm := bv_eq (by omega)
    have g5 : bv w 28 3 = f.fmtA := bv_eq (by omega)
    have g6 : bv w 25 3 = f.fmtB := bv_eq (by omega)
    have g7 : bit w 24 = f.sgnB := bit_eq (by omega)
    have g8 : bit w 23 = f.sgnA := bit_eq (by omega)
    have g9 : bit w 22 = f.sat := bit_eq (by omega)
    have g10 : bv w 20 2 = f.rnd := bv_eq (by omega)
    have g11 : bv w 17 3 = f.mask := bv_eq (by omega)
    have g12 : bv w 13 4 = f.etype := bv_eq (by omega)
    have hb : bit w 31 = false := bit_eq (by simp only [Bool.toNat_false]; omega)
    have hfn : Machine.fld w 7 6 = fn := by simp only [Machine.fld]; omega
    have hk : w / 4 % 32 = 7 := by omega
    have hv : viOf w = f := by simp only [viOf, g1, g2, g3, g5, g6, g7, g8, g9, g10, g11, g12]
    refine decode_of_64 (by omega) ?_
    simp only [decode64, hk, hb, hfn, hv, hd, Bool.false_eq_true, if_false, if_true, Nat.lt_irrefl]
  exact e _ rfl

theorem dec_m (f : M64) : decode (encM f) = .ok (.mma f) := by
  have h1 := Bool.toNat_lt f.ow; have h2 := f.ksteps.isLt; have h3 := f.fmtB.isLt; have h4 := f.fmtA.isLt
  have h5 := f.etypeB.isLt; have h6 := f.etypeA.isLt; have h7 := Bool.toNat_lt f.sgnB; have h8 := Bool.toNat_lt f.sgnA
  have h9 := f.semiring.isLt; have h10 := f.tileB.isLt; have h11 := f.tileA.isLt; have h12 := f.acc.isLt
  have e (w : Nat) (hw : w = encM f) : decode w = .ok (.mma f) := by
    simp only [encM, put, putB] at hw
    have g1 : bit w 41 = f.ow := bit_eq (by omega)
    have g2 : bv w 34 7 = f.ksteps := bv_eq (by omega)
    have g3 : bv w 31 3 = f.fmtB := bv_eq (by omega)
    have g4 : bv w 28 3 = f.fmtA := bv_eq (by omega)
    have g5 : bv w 24 4 = f.etypeB := bv_eq (by omega)
    have g6 : bv w 20 4 = f.etypeA := bv_eq (by omega)
    have g7 : bit w 19 = f.sgnB := bit_eq (by omega)
    have g8 : bit w 18 = f.sgnA := bit_eq (by omega)
    have g9 : bv w 15 3 = f.semiring := bv_eq (by omega)
    have g10 : bv w 12 3 = f.tileB := bv_eq (by omega)
    have g11 : bv w 9 3 = f.tileA := bv_eq (by omega)
    have g12 : bv w 7 2 = f.acc := bv_eq (by omega)
    have hk : w / 4 % 32 = 8 := by omega
    have hz : Machine.fld w 42 22 = 0 := by simp only [Machine.fld]; omega
    have hv : m64Of w = f := by simp only [m64Of, g1, g2, g3, g4, g5, g6, g7, g8, g9, g10, g11, g12]
    refine decode_of_64 (by omega) ?_
    simp only [decode64, hk, hz, hv, if_true]
    rfl
  exact e _ rfl

/-! ## Constructors -/

theorem Encodable.add (d : XReg) (a : XReg) (b : XReg) : Encodable.Statement (.add d a b) := by
  have h_d := d.isLt
  have h_a := a.isLt
  have h_b := b.isLt
  have e (word : Nat) (hw : word = put d 7 + put a 11 + put b 15) : decode word = .ok (.add d a b) := by
    simp only [put] at hw
    have g0 : reg word 7 = d := reg_eq (by omega)
    have g1 : reg word 11 = a := reg_eq (by omega)
    have g2 : reg word 15 = b := reg_eq (by omega)
    have hm : word % 128 = 0 := by omega
    have k2 : Machine.fld word 19 13 = 0 := by simp only [Machine.fld]; omega
    refine decode_of_32 (by omega) (by omega) ?_
    have hd : decode32 word = decodeM0 word := by unfold decode32; rw [hm]; rfl
    rw [hd]
    simp [decodeM0, k2, g0, g1, g2]
  exact statement_of rfl (e _ rfl)

theorem Encodable.sub (d : XReg) (a : XReg) (b : XReg) : Encodable.Statement (.sub d a b) := by
  have h_d := d.isLt
  have h_a := a.isLt
  have h_b := b.isLt
  have e (word : Nat) (hw : word = 0x80000 + put d 7 + put a 11 + put b 15) : decode word = .ok (.sub d a b) := by
    simp only [put] at hw
    have g0 : reg word 7 = d := reg_eq (by omega)
    have g1 : reg word 11 = a := reg_eq (by omega)
    have g2 : reg word 15 = b := reg_eq (by omega)
    have hm : word % 128 = 0 := by omega
    have k2 : Machine.fld word 19 13 = 1 := by simp only [Machine.fld]; omega
    refine decode_of_32 (by omega) (by omega) ?_
    have hd : decode32 word = decodeM0 word := by unfold decode32; rw [hm]; rfl
    rw [hd]
    simp [decodeM0, k2, g0, g1, g2]
  exact statement_of rfl (e _ rfl)

theorem Encodable.mul (d : XReg) (a : XReg) (b : XReg) : Encodable.Statement (.mul d a b) := by
  have h_d := d.isLt
  have h_a := a.isLt
  have h_b := b.isLt
  have e (word : Nat) (hw : word = 0x100000 + put d 7 + put a 11 + put b 15) : decode word = .ok (.mul d a b) := by
    simp only [put] at hw
    have g0 : reg word 7 = d := reg_eq (by omega)
    have g1 : reg word 11 = a := reg_eq (by omega)
    have g2 : reg word 15 = b := reg_eq (by omega)
    have hm : word % 128 = 0 := by omega
    have k2 : Machine.fld word 19 13 = 2 := by simp only [Machine.fld]; omega
    refine decode_of_32 (by omega) (by omega) ?_
    have hd : decode32 word = decodeM0 word := by unfold decode32; rw [hm]; rfl
    rw [hd]
    simp [decodeM0, k2, g0, g1, g2]
  exact statement_of rfl (e _ rfl)

theorem Encodable.mulh (d : XReg) (a : XReg) (b : XReg) : Encodable.Statement (.mulh d a b) := by
  have h_d := d.isLt
  have h_a := a.isLt
  have h_b := b.isLt
  have e (word : Nat) (hw : word = 0x180000 + put d 7 + put a 11 + put b 15) : decode word = .ok (.mulh d a b) := by
    simp only [put] at hw
    have g0 : reg word 7 = d := reg_eq (by omega)
    have g1 : reg word 11 = a := reg_eq (by omega)
    have g2 : reg word 15 = b := reg_eq (by omega)
    have hm : word % 128 = 0 := by omega
    have k2 : Machine.fld word 19 13 = 3 := by simp only [Machine.fld]; omega
    refine decode_of_32 (by omega) (by omega) ?_
    have hd : decode32 word = decodeM0 word := by unfold decode32; rw [hm]; rfl
    rw [hd]
    simp [decodeM0, k2, g0, g1, g2]
  exact statement_of rfl (e _ rfl)

theorem Encodable.mulhn (d : XReg) (a : XReg) (b : XReg) : Encodable.Statement (.mulhn d a b) := by
  have h_d := d.isLt
  have h_a := a.isLt
  have h_b := b.isLt
  have e (word : Nat) (hw : word = 0x200000 + put d 7 + put a 11 + put b 15) : decode word = .ok (.mulhn d a b) := by
    simp only [put] at hw
    have g0 : reg word 7 = d := reg_eq (by omega)
    have g1 : reg word 11 = a := reg_eq (by omega)
    have g2 : reg word 15 = b := reg_eq (by omega)
    have hm : word % 128 = 0 := by omega
    have k2 : Machine.fld word 19 13 = 4 := by simp only [Machine.fld]; omega
    refine decode_of_32 (by omega) (by omega) ?_
    have hd : decode32 word = decodeM0 word := by unfold decode32; rw [hm]; rfl
    rw [hd]
    simp [decodeM0, k2, g0, g1, g2]
  exact statement_of rfl (e _ rfl)

theorem Encodable.div (d : XReg) (a : XReg) (b : XReg) : Encodable.Statement (.div d a b) := by
  have h_d := d.isLt
  have h_a := a.isLt
  have h_b := b.isLt
  have e (word : Nat) (hw : word = 0x280000 + put d 7 + put a 11 + put b 15) : decode word = .ok (.div d a b) := by
    simp only [put] at hw
    have g0 : reg word 7 = d := reg_eq (by omega)
    have g1 : reg word 11 = a := reg_eq (by omega)
    have g2 : reg word 15 = b := reg_eq (by omega)
    have hm : word % 128 = 0 := by omega
    have k2 : Machine.fld word 19 13 = 5 := by simp only [Machine.fld]; omega
    refine decode_of_32 (by omega) (by omega) ?_
    have hd : decode32 word = decodeM0 word := by unfold decode32; rw [hm]; rfl
    rw [hd]
    simp [decodeM0, k2, g0, g1, g2]
  exact statement_of rfl (e _ rfl)

theorem Encodable.divn (d : XReg) (a : XReg) (b : XReg) : Encodable.Statement (.divn d a b) := by
  have h_d := d.isLt
  have h_a := a.isLt
  have h_b := b.isLt
  have e (word : Nat) (hw : word = 0x300000 + put d 7 + put a 11 + put b 15) : decode word = .ok (.divn d a b) := by
    simp only [put] at hw
    have g0 : reg word 7 = d := reg_eq (by omega)
    have g1 : reg word 11 = a := reg_eq (by omega)
    have g2 : reg word 15 = b := reg_eq (by omega)
    have hm : word % 128 = 0 := by omega
    have k2 : Machine.fld word 19 13 = 6 := by simp only [Machine.fld]; omega
    refine decode_of_32 (by omega) (by omega) ?_
    have hd : decode32 word = decodeM0 word := by unfold decode32; rw [hm]; rfl
    rw [hd]
    simp [decodeM0, k2, g0, g1, g2]
  exact statement_of rfl (e _ rfl)

theorem Encodable.rem (d : XReg) (a : XReg) (b : XReg) : Encodable.Statement (.rem d a b) := by
  have h_d := d.isLt
  have h_a := a.isLt
  have h_b := b.isLt
  have e (word : Nat) (hw : word = 0x380000 + put d 7 + put a 11 + put b 15) : decode word = .ok (.rem d a b) := by
    simp only [put] at hw
    have g0 : reg word 7 = d := reg_eq (by omega)
    have g1 : reg word 11 = a := reg_eq (by omega)
    have g2 : reg word 15 = b := reg_eq (by omega)
    have hm : word % 128 = 0 := by omega
    have k2 : Machine.fld word 19 13 = 7 := by simp only [Machine.fld]; omega
    refine decode_of_32 (by omega) (by omega) ?_
    have hd : decode32 word = decodeM0 word := by unfold decode32; rw [hm]; rfl
    rw [hd]
    simp [decodeM0, k2, g0, g1, g2]
  exact statement_of rfl (e _ rfl)

theorem Encodable.remn (d : XReg) (a : XReg) (b : XReg) : Encodable.Statement (.remn d a b) := by
  have h_d := d.isLt
  have h_a := a.isLt
  have h_b := b.isLt
  have e (word : Nat) (hw : word = 0x400000 + put d 7 + put a 11 + put b 15) : decode word = .ok (.remn d a b) := by
    simp only [put] at hw
    have g0 : reg word 7 = d := reg_eq (by omega)
    have g1 : reg word 11 = a := reg_eq (by omega)
    have g2 : reg word 15 = b := reg_eq (by omega)
    have hm : word % 128 = 0 := by omega
    have k2 : Machine.fld word 19 13 = 8 := by simp only [Machine.fld]; omega
    refine decode_of_32 (by omega) (by omega) ?_
    have hd : decode32 word = decodeM0 word := by unfold decode32; rw [hm]; rfl
    rw [hd]
    simp [decodeM0, k2, g0, g1, g2]
  exact statement_of rfl (e _ rfl)

theorem Encodable.and (d : XReg) (a : XReg) (b : XReg) : Encodable.Statement (.and d a b) := by
  have h_d := d.isLt
  have h_a := a.isLt
  have h_b := b.isLt
  have e (word : Nat) (hw : word = 0x480000 + put d 7 + put a 11 + put b 15) : decode word = .ok (.and d a b) := by
    simp only [put] at hw
    have g0 : reg word 7 = d := reg_eq (by omega)
    have g1 : reg word 11 = a := reg_eq (by omega)
    have g2 : reg word 15 = b := reg_eq (by omega)
    have hm : word % 128 = 0 := by omega
    have k2 : Machine.fld word 19 13 = 9 := by simp only [Machine.fld]; omega
    refine decode_of_32 (by omega) (by omega) ?_
    have hd : decode32 word = decodeM0 word := by unfold decode32; rw [hm]; rfl
    rw [hd]
    simp [decodeM0, k2, g0, g1, g2]
  exact statement_of rfl (e _ rfl)

theorem Encodable.or (d : XReg) (a : XReg) (b : XReg) : Encodable.Statement (.or d a b) := by
  have h_d := d.isLt
  have h_a := a.isLt
  have h_b := b.isLt
  have e (word : Nat) (hw : word = 0x500000 + put d 7 + put a 11 + put b 15) : decode word = .ok (.or d a b) := by
    simp only [put] at hw
    have g0 : reg word 7 = d := reg_eq (by omega)
    have g1 : reg word 11 = a := reg_eq (by omega)
    have g2 : reg word 15 = b := reg_eq (by omega)
    have hm : word % 128 = 0 := by omega
    have k2 : Machine.fld word 19 13 = 10 := by simp only [Machine.fld]; omega
    refine decode_of_32 (by omega) (by omega) ?_
    have hd : decode32 word = decodeM0 word := by unfold decode32; rw [hm]; rfl
    rw [hd]
    simp [decodeM0, k2, g0, g1, g2]
  exact statement_of rfl (e _ rfl)

theorem Encodable.xor (d : XReg) (a : XReg) (b : XReg) : Encodable.Statement (.xor d a b) := by
  have h_d := d.isLt
  have h_a := a.isLt
  have h_b := b.isLt
  have e (word : Nat) (hw : word = 0x580000 + put d 7 + put a 11 + put b 15) : decode word = .ok (.xor d a b) := by
    simp only [put] at hw
    have g0 : reg word 7 = d := reg_eq (by omega)
    have g1 : reg word 11 = a := reg_eq (by omega)
    have g2 : reg word 15 = b := reg_eq (by omega)
    have hm : word % 128 = 0 := by omega
    have k2 : Machine.fld word 19 13 = 11 := by simp only [Machine.fld]; omega
    refine decode_of_32 (by omega) (by omega) ?_
    have hd : decode32 word = decodeM0 word := by unfold decode32; rw [hm]; rfl
    rw [hd]
    simp [decodeM0, k2, g0, g1, g2]
  exact statement_of rfl (e _ rfl)

theorem Encodable.andn (d : XReg) (a : XReg) (b : XReg) : Encodable.Statement (.andn d a b) := by
  have h_d := d.isLt
  have h_a := a.isLt
  have h_b := b.isLt
  have e (word : Nat) (hw : word = 0x600000 + put d 7 + put a 11 + put b 15) : decode word = .ok (.andn d a b) := by
    simp only [put] at hw
    have g0 : reg word 7 = d := reg_eq (by omega)
    have g1 : reg word 11 = a := reg_eq (by omega)
    have g2 : reg word 15 = b := reg_eq (by omega)
    have hm : word % 128 = 0 := by omega
    have k2 : Machine.fld word 19 13 = 12 := by simp only [Machine.fld]; omega
    refine decode_of_32 (by omega) (by omega) ?_
    have hd : decode32 word = decodeM0 word := by unfold decode32; rw [hm]; rfl
    rw [hd]
    simp [decodeM0, k2, g0, g1, g2]
  exact statement_of rfl (e _ rfl)

theorem Encodable.shl (d : XReg) (a : XReg) (b : XReg) : Encodable.Statement (.shl d a b) := by
  have h_d := d.isLt
  have h_a := a.isLt
  have h_b := b.isLt
  have e (word : Nat) (hw : word = 0x680000 + put d 7 + put a 11 + put b 15) : decode word = .ok (.shl d a b) := by
    simp only [put] at hw
    have g0 : reg word 7 = d := reg_eq (by omega)
    have g1 : reg word 11 = a := reg_eq (by omega)
    have g2 : reg word 15 = b := reg_eq (by omega)
    have hm : word % 128 = 0 := by omega
    have k2 : Machine.fld word 19 13 = 13 := by simp only [Machine.fld]; omega
    refine decode_of_32 (by omega) (by omega) ?_
    have hd : decode32 word = decodeM0 word := by unfold decode32; rw [hm]; rfl
    rw [hd]
    simp [decodeM0, k2, g0, g1, g2]
  exact statement_of rfl (e _ rfl)

theorem Encodable.shr (d : XReg) (a : XReg) (b : XReg) : Encodable.Statement (.shr d a b) := by
  have h_d := d.isLt
  have h_a := a.isLt
  have h_b := b.isLt
  have e (word : Nat) (hw : word = 0x700000 + put d 7 + put a 11 + put b 15) : decode word = .ok (.shr d a b) := by
    simp only [put] at hw
    have g0 : reg word 7 = d := reg_eq (by omega)
    have g1 : reg word 11 = a := reg_eq (by omega)
    have g2 : reg word 15 = b := reg_eq (by omega)
    have hm : word % 128 = 0 := by omega
    have k2 : Machine.fld word 19 13 = 14 := by simp only [Machine.fld]; omega
    refine decode_of_32 (by omega) (by omega) ?_
    have hd : decode32 word = decodeM0 word := by unfold decode32; rw [hm]; rfl
    rw [hd]
    simp [decodeM0, k2, g0, g1, g2]
  exact statement_of rfl (e _ rfl)

theorem Encodable.sar (d : XReg) (a : XReg) (b : XReg) : Encodable.Statement (.sar d a b) := by
  have h_d := d.isLt
  have h_a := a.isLt
  have h_b := b.isLt
  have e (word : Nat) (hw : word = 0x780000 + put d 7 + put a 11 + put b 15) : decode word = .ok (.sar d a b) := by
    simp only [put] at hw
    have g0 : reg word 7 = d := reg_eq (by omega)
    have g1 : reg word 11 = a := reg_eq (by omega)
    have g2 : reg word 15 = b := reg_eq (by omega)
    have hm : word % 128 = 0 := by omega
    have k2 : Machine.fld word 19 13 = 15 := by simp only [Machine.fld]; omega
    refine decode_of_32 (by omega) (by omega) ?_
    have hd : decode32 word = decodeM0 word := by unfold decode32; rw [hm]; rfl
    rw [hd]
    simp [decodeM0, k2, g0, g1, g2]
  exact statement_of rfl (e _ rfl)

theorem Encodable.min (d : XReg) (a : XReg) (b : XReg) : Encodable.Statement (.min d a b) := by
  have h_d := d.isLt
  have h_a := a.isLt
  have h_b := b.isLt
  have e (word : Nat) (hw : word = 0x800000 + put d 7 + put a 11 + put b 15) : decode word = .ok (.min d a b) := by
    simp only [put] at hw
    have g0 : reg word 7 = d := reg_eq (by omega)
    have g1 : reg word 11 = a := reg_eq (by omega)
    have g2 : reg word 15 = b := reg_eq (by omega)
    have hm : word % 128 = 0 := by omega
    have k2 : Machine.fld word 19 13 = 16 := by simp only [Machine.fld]; omega
    refine decode_of_32 (by omega) (by omega) ?_
    have hd : decode32 word = decodeM0 word := by unfold decode32; rw [hm]; rfl
    rw [hd]
    simp [decodeM0, k2, g0, g1, g2]
  exact statement_of rfl (e _ rfl)

theorem Encodable.max (d : XReg) (a : XReg) (b : XReg) : Encodable.Statement (.max d a b) := by
  have h_d := d.isLt
  have h_a := a.isLt
  have h_b := b.isLt
  have e (word : Nat) (hw : word = 0x880000 + put d 7 + put a 11 + put b 15) : decode word = .ok (.max d a b) := by
    simp only [put] at hw
    have g0 : reg word 7 = d := reg_eq (by omega)
    have g1 : reg word 11 = a := reg_eq (by omega)
    have g2 : reg word 15 = b := reg_eq (by omega)
    have hm : word % 128 = 0 := by omega
    have k2 : Machine.fld word 19 13 = 17 := by simp only [Machine.fld]; omega
    refine decode_of_32 (by omega) (by omega) ?_
    have hd : decode32 word = decodeM0 word := by unfold decode32; rw [hm]; rfl
    rw [hd]
    simp [decodeM0, k2, g0, g1, g2]
  exact statement_of rfl (e _ rfl)

theorem Encodable.minn (d : XReg) (a : XReg) (b : XReg) : Encodable.Statement (.minn d a b) := by
  have h_d := d.isLt
  have h_a := a.isLt
  have h_b := b.isLt
  have e (word : Nat) (hw : word = 0x900000 + put d 7 + put a 11 + put b 15) : decode word = .ok (.minn d a b) := by
    simp only [put] at hw
    have g0 : reg word 7 = d := reg_eq (by omega)
    have g1 : reg word 11 = a := reg_eq (by omega)
    have g2 : reg word 15 = b := reg_eq (by omega)
    have hm : word % 128 = 0 := by omega
    have k2 : Machine.fld word 19 13 = 18 := by simp only [Machine.fld]; omega
    refine decode_of_32 (by omega) (by omega) ?_
    have hd : decode32 word = decodeM0 word := by unfold decode32; rw [hm]; rfl
    rw [hd]
    simp [decodeM0, k2, g0, g1, g2]
  exact statement_of rfl (e _ rfl)

theorem Encodable.maxn (d : XReg) (a : XReg) (b : XReg) : Encodable.Statement (.maxn d a b) := by
  have h_d := d.isLt
  have h_a := a.isLt
  have h_b := b.isLt
  have e (word : Nat) (hw : word = 0x980000 + put d 7 + put a 11 + put b 15) : decode word = .ok (.maxn d a b) := by
    simp only [put] at hw
    have g0 : reg word 7 = d := reg_eq (by omega)
    have g1 : reg word 11 = a := reg_eq (by omega)
    have g2 : reg word 15 = b := reg_eq (by omega)
    have hm : word % 128 = 0 := by omega
    have k2 : Machine.fld word 19 13 = 19 := by simp only [Machine.fld]; omega
    refine decode_of_32 (by omega) (by omega) ?_
    have hd : decode32 word = decodeM0 word := by unfold decode32; rw [hm]; rfl
    rw [hd]
    simp [decodeM0, k2, g0, g1, g2]
  exact statement_of rfl (e _ rfl)

theorem Encodable.slt (d : XReg) (a : XReg) (b : XReg) : Encodable.Statement (.slt d a b) := by
  have h_d := d.isLt
  have h_a := a.isLt
  have h_b := b.isLt
  have e (word : Nat) (hw : word = 0xa00000 + put d 7 + put a 11 + put b 15) : decode word = .ok (.slt d a b) := by
    simp only [put] at hw
    have g0 : reg word 7 = d := reg_eq (by omega)
    have g1 : reg word 11 = a := reg_eq (by omega)
    have g2 : reg word 15 = b := reg_eq (by omega)
    have hm : word % 128 = 0 := by omega
    have k2 : Machine.fld word 19 13 = 20 := by simp only [Machine.fld]; omega
    refine decode_of_32 (by omega) (by omega) ?_
    have hd : decode32 word = decodeM0 word := by unfold decode32; rw [hm]; rfl
    rw [hd]
    simp [decodeM0, k2, g0, g1, g2]
  exact statement_of rfl (e _ rfl)

theorem Encodable.sltn (d : XReg) (a : XReg) (b : XReg) : Encodable.Statement (.sltn d a b) := by
  have h_d := d.isLt
  have h_a := a.isLt
  have h_b := b.isLt
  have e (word : Nat) (hw : word = 0xa80000 + put d 7 + put a 11 + put b 15) : decode word = .ok (.sltn d a b) := by
    simp only [put] at hw
    have g0 : reg word 7 = d := reg_eq (by omega)
    have g1 : reg word 11 = a := reg_eq (by omega)
    have g2 : reg word 15 = b := reg_eq (by omega)
    have hm : word % 128 = 0 := by omega
    have k2 : Machine.fld word 19 13 = 21 := by simp only [Machine.fld]; omega
    refine decode_of_32 (by omega) (by omega) ?_
    have hd : decode32 word = decodeM0 word := by unfold decode32; rw [hm]; rfl
    rw [hd]
    simp [decodeM0, k2, g0, g1, g2]
  exact statement_of rfl (e _ rfl)

theorem Encodable.clz (d : XReg) (a : XReg) : Encodable.Statement (.clz d a) := by
  have h_d := d.isLt
  have h_a := a.isLt
  have e (word : Nat) (hw : word = 0xb00000 + put d 7 + put a 11) : decode word = .ok (.clz d a) := by
    simp only [put] at hw
    have g0 : reg word 7 = d := reg_eq (by omega)
    have g1 : reg word 11 = a := reg_eq (by omega)
    have hm : word % 128 = 0 := by omega
    have k0 : Machine.fld word 15 14 = 352 := by simp only [Machine.fld]; omega
    have k1 : Machine.fld word 15 17 = 352 := by simp only [Machine.fld]; omega
    have k2 : Machine.fld word 19 13 = 22 := by simp only [Machine.fld]; omega
    refine decode_of_32 (by omega) (by omega) ?_
    have hd : decode32 word = decodeM0 word := by unfold decode32; rw [hm]; rfl
    rw [hd]
    simp [decodeM0, k0, k1, k2, g0, g1]
  exact statement_of rfl (e _ rfl)

theorem Encodable.ctz (d : XReg) (a : XReg) : Encodable.Statement (.ctz d a) := by
  have h_d := d.isLt
  have h_a := a.isLt
  have e (word : Nat) (hw : word = 0xb80000 + put d 7 + put a 11) : decode word = .ok (.ctz d a) := by
    simp only [put] at hw
    have g0 : reg word 7 = d := reg_eq (by omega)
    have g1 : reg word 11 = a := reg_eq (by omega)
    have hm : word % 128 = 0 := by omega
    have k0 : Machine.fld word 15 14 = 368 := by simp only [Machine.fld]; omega
    have k1 : Machine.fld word 15 17 = 368 := by simp only [Machine.fld]; omega
    have k2 : Machine.fld word 19 13 = 23 := by simp only [Machine.fld]; omega
    refine decode_of_32 (by omega) (by omega) ?_
    have hd : decode32 word = decodeM0 word := by unfold decode32; rw [hm]; rfl
    rw [hd]
    simp [decodeM0, k0, k1, k2, g0, g1]
  exact statement_of rfl (e _ rfl)

theorem Encodable.popc (d : XReg) (a : XReg) : Encodable.Statement (.popc d a) := by
  have h_d := d.isLt
  have h_a := a.isLt
  have e (word : Nat) (hw : word = 0xc00000 + put d 7 + put a 11) : decode word = .ok (.popc d a) := by
    simp only [put] at hw
    have g0 : reg word 7 = d := reg_eq (by omega)
    have g1 : reg word 11 = a := reg_eq (by omega)
    have hm : word % 128 = 0 := by omega
    have k0 : Machine.fld word 15 14 = 384 := by simp only [Machine.fld]; omega
    have k1 : Machine.fld word 15 17 = 384 := by simp only [Machine.fld]; omega
    have k2 : Machine.fld word 19 13 = 24 := by simp only [Machine.fld]; omega
    refine decode_of_32 (by omega) (by omega) ?_
    have hd : decode32 word = decodeM0 word := by unfold decode32; rw [hm]; rfl
    rw [hd]
    simp [decodeM0, k0, k1, k2, g0, g1]
  exact statement_of rfl (e _ rfl)

theorem Encodable.sext (d : XReg) (a : XReg) (w : BitVec 3) : Encodable.Statement (.sext d a w) := by
  have h_d := d.isLt
  have h_a := a.isLt
  have h_w := w.isLt
  have e (word : Nat) (hw : word = 0xc80000 + put d 7 + put a 11 + put w 29) : decode word = .ok (.sext d a w) := by
    simp only [put] at hw
    have g0 : reg word 7 = d := reg_eq (by omega)
    have g1 : reg word 11 = a := reg_eq (by omega)
    have g2 : bv word 29 3 = w := bv_eq (by omega)
    have hm : word % 128 = 0 := by omega
    have k0 : Machine.fld word 15 14 = 400 := by simp only [Machine.fld]; omega
    have x0 : ¬ Machine.fld word 19 13 = 0 := by simp only [Machine.fld]; omega
    have x1 : ¬ Machine.fld word 19 13 = 1 := by simp only [Machine.fld]; omega
    have x2 : ¬ Machine.fld word 19 13 = 2 := by simp only [Machine.fld]; omega
    have x3 : ¬ Machine.fld word 19 13 = 3 := by simp only [Machine.fld]; omega
    have x4 : ¬ Machine.fld word 19 13 = 4 := by simp only [Machine.fld]; omega
    have x5 : ¬ Machine.fld word 19 13 = 5 := by simp only [Machine.fld]; omega
    have x6 : ¬ Machine.fld word 19 13 = 6 := by simp only [Machine.fld]; omega
    have x7 : ¬ Machine.fld word 19 13 = 7 := by simp only [Machine.fld]; omega
    have x8 : ¬ Machine.fld word 19 13 = 8 := by simp only [Machine.fld]; omega
    have x9 : ¬ Machine.fld word 19 13 = 9 := by simp only [Machine.fld]; omega
    have x10 : ¬ Machine.fld word 19 13 = 10 := by simp only [Machine.fld]; omega
    have x11 : ¬ Machine.fld word 19 13 = 11 := by simp only [Machine.fld]; omega
    have x12 : ¬ Machine.fld word 19 13 = 12 := by simp only [Machine.fld]; omega
    have x13 : ¬ Machine.fld word 19 13 = 13 := by simp only [Machine.fld]; omega
    have x14 : ¬ Machine.fld word 19 13 = 14 := by simp only [Machine.fld]; omega
    have x15 : ¬ Machine.fld word 19 13 = 15 := by simp only [Machine.fld]; omega
    have x16 : ¬ Machine.fld word 19 13 = 16 := by simp only [Machine.fld]; omega
    have x17 : ¬ Machine.fld word 19 13 = 17 := by simp only [Machine.fld]; omega
    have x18 : ¬ Machine.fld word 19 13 = 18 := by simp only [Machine.fld]; omega
    have x19 : ¬ Machine.fld word 19 13 = 19 := by simp only [Machine.fld]; omega
    have x20 : ¬ Machine.fld word 19 13 = 20 := by simp only [Machine.fld]; omega
    have x21 : ¬ Machine.fld word 19 13 = 21 := by simp only [Machine.fld]; omega
    have x22 : ¬ Machine.fld word 15 17 = 352 := by simp only [Machine.fld]; omega
    have x23 : ¬ Machine.fld word 15 17 = 368 := by simp only [Machine.fld]; omega
    have x24 : ¬ Machine.fld word 15 17 = 384 := by simp only [Machine.fld]; omega
    refine decode_of_32 (by omega) (by omega) ?_
    have hd : decode32 word = decodeM0 word := by unfold decode32; rw [hm]; rfl
    rw [hd]
    simp [decodeM0, k0, x0, x1, x2, x3, x4, x5, x6, x7, x8, x9, x10, x11, x12, x13, x14, x15, x16, x17, x18, x19, x20, x21, x22, x23, x24, g0, g1, g2]
  exact statement_of rfl (e _ rfl)

theorem Encodable.zext (d : XReg) (a : XReg) (w : BitVec 3) : Encodable.Statement (.zext d a w) := by
  have h_d := d.isLt
  have h_a := a.isLt
  have h_w := w.isLt
  have e (word : Nat) (hw : word = 0xd00000 + put d 7 + put a 11 + put w 29) : decode word = .ok (.zext d a w) := by
    simp only [put] at hw
    have g0 : reg word 7 = d := reg_eq (by omega)
    have g1 : reg word 11 = a := reg_eq (by omega)
    have g2 : bv word 29 3 = w := bv_eq (by omega)
    have hm : word % 128 = 0 := by omega
    have k0 : Machine.fld word 15 14 = 416 := by simp only [Machine.fld]; omega
    have x0 : ¬ Machine.fld word 19 13 = 0 := by simp only [Machine.fld]; omega
    have x1 : ¬ Machine.fld word 19 13 = 1 := by simp only [Machine.fld]; omega
    have x2 : ¬ Machine.fld word 19 13 = 2 := by simp only [Machine.fld]; omega
    have x3 : ¬ Machine.fld word 19 13 = 3 := by simp only [Machine.fld]; omega
    have x4 : ¬ Machine.fld word 19 13 = 4 := by simp only [Machine.fld]; omega
    have x5 : ¬ Machine.fld word 19 13 = 5 := by simp only [Machine.fld]; omega
    have x6 : ¬ Machine.fld word 19 13 = 6 := by simp only [Machine.fld]; omega
    have x7 : ¬ Machine.fld word 19 13 = 7 := by simp only [Machine.fld]; omega
    have x8 : ¬ Machine.fld word 19 13 = 8 := by simp only [Machine.fld]; omega
    have x9 : ¬ Machine.fld word 19 13 = 9 := by simp only [Machine.fld]; omega
    have x10 : ¬ Machine.fld word 19 13 = 10 := by simp only [Machine.fld]; omega
    have x11 : ¬ Machine.fld word 19 13 = 11 := by simp only [Machine.fld]; omega
    have x12 : ¬ Machine.fld word 19 13 = 12 := by simp only [Machine.fld]; omega
    have x13 : ¬ Machine.fld word 19 13 = 13 := by simp only [Machine.fld]; omega
    have x14 : ¬ Machine.fld word 19 13 = 14 := by simp only [Machine.fld]; omega
    have x15 : ¬ Machine.fld word 19 13 = 15 := by simp only [Machine.fld]; omega
    have x16 : ¬ Machine.fld word 19 13 = 16 := by simp only [Machine.fld]; omega
    have x17 : ¬ Machine.fld word 19 13 = 17 := by simp only [Machine.fld]; omega
    have x18 : ¬ Machine.fld word 19 13 = 18 := by simp only [Machine.fld]; omega
    have x19 : ¬ Machine.fld word 19 13 = 19 := by simp only [Machine.fld]; omega
    have x20 : ¬ Machine.fld word 19 13 = 20 := by simp only [Machine.fld]; omega
    have x21 : ¬ Machine.fld word 19 13 = 21 := by simp only [Machine.fld]; omega
    have x22 : ¬ Machine.fld word 15 17 = 352 := by simp only [Machine.fld]; omega
    have x23 : ¬ Machine.fld word 15 17 = 368 := by simp only [Machine.fld]; omega
    have x24 : ¬ Machine.fld word 15 17 = 384 := by simp only [Machine.fld]; omega
    refine decode_of_32 (by omega) (by omega) ?_
    have hd : decode32 word = decodeM0 word := by unfold decode32; rw [hm]; rfl
    rw [hd]
    simp [decodeM0, k0, x0, x1, x2, x3, x4, x5, x6, x7, x8, x9, x10, x11, x12, x13, x14, x15, x16, x17, x18, x19, x20, x21, x22, x23, x24, g0, g1, g2]
  exact statement_of rfl (e _ rfl)

theorem Encodable.addi (d : XReg) (a : XReg) (imm : BitVec 17) : Encodable.Statement (.addi d a imm) := by
  have h_d := d.isLt
  have h_a := a.isLt
  have h_imm := imm.isLt
  have e (word : Nat) (hw : word = 0x1 + put d 7 + put a 11 + put imm 15) : decode word = .ok (.addi d a imm) := by
    simp only [put] at hw
    have g0 : reg word 7 = d := reg_eq (by omega)
    have g1 : reg word 11 = a := reg_eq (by omega)
    have g2 : bv word 15 17 = imm := bv_eq (by omega)
    have hm : word % 128 = 1 := by omega
    refine decode_of_32 (by omega) (by omega) ?_
    have hd : decode32 word = decodeM1 word := by unfold decode32; rw [hm]; rfl
    rw [hd]
    simp [decodeM1, g0, g1, g2]
  exact statement_of rfl (e _ rfl)

theorem Encodable.andi (d : XReg) (a : XReg) (imm : BitVec 17) : Encodable.Statement (.andi d a imm) := by
  have h_d := d.isLt
  have h_a := a.isLt
  have h_imm := imm.isLt
  have e (word : Nat) (hw : word = 0x4 + put d 7 + put a 11 + put imm 15) : decode word = .ok (.andi d a imm) := by
    simp only [put] at hw
    have g0 : reg word 7 = d := reg_eq (by omega)
    have g1 : reg word 11 = a := reg_eq (by omega)
    have g2 : bv word 15 17 = imm := bv_eq (by omega)
    have hm : word % 128 = 4 := by omega
    refine decode_of_32 (by omega) (by omega) ?_
    have hd : decode32 word = decodeM2 word := by unfold decode32; rw [hm]; rfl
    rw [hd]
    simp [decodeM2, g0, g1, g2]
  exact statement_of rfl (e _ rfl)

theorem Encodable.ori (d : XReg) (a : XReg) (imm : BitVec 17) : Encodable.Statement (.ori d a imm) := by
  have h_d := d.isLt
  have h_a := a.isLt
  have h_imm := imm.isLt
  have e (word : Nat) (hw : word = 0x5 + put d 7 + put a 11 + put imm 15) : decode word = .ok (.ori d a imm) := by
    simp only [put] at hw
    have g0 : reg word 7 = d := reg_eq (by omega)
    have g1 : reg word 11 = a := reg_eq (by omega)
    have g2 : bv word 15 17 = imm := bv_eq (by omega)
    have hm : word % 128 = 5 := by omega
    refine decode_of_32 (by omega) (by omega) ?_
    have hd : decode32 word = decodeM3 word := by unfold decode32; rw [hm]; rfl
    rw [hd]
    simp [decodeM3, g0, g1, g2]
  exact statement_of rfl (e _ rfl)

theorem Encodable.xori (d : XReg) (a : XReg) (imm : BitVec 17) : Encodable.Statement (.xori d a imm) := by
  have h_d := d.isLt
  have h_a := a.isLt
  have h_imm := imm.isLt
  have e (word : Nat) (hw : word = 0x8 + put d 7 + put a 11 + put imm 15) : decode word = .ok (.xori d a imm) := by
    simp only [put] at hw
    have g0 : reg word 7 = d := reg_eq (by omega)
    have g1 : reg word 11 = a := reg_eq (by omega)
    have g2 : bv word 15 17 = imm := bv_eq (by omega)
    have hm : word % 128 = 8 := by omega
    refine decode_of_32 (by omega) (by omega) ?_
    have hd : decode32 word = decodeM4 word := by unfold decode32; rw [hm]; rfl
    rw [hd]
    simp [decodeM4, g0, g1, g2]
  exact statement_of rfl (e _ rfl)

theorem Encodable.shli (d : XReg) (a : XReg) (sh : BitVec 6) : Encodable.Statement (.shli d a sh) := by
  have h_d := d.isLt
  have h_a := a.isLt
  have h_sh := sh.isLt
  have e (word : Nat) (hw : word = 0x9 + put d 7 + put a 11 + put sh 15) : decode word = .ok (.shli d a sh) := by
    simp only [put] at hw
    have g0 : reg word 7 = d := reg_eq (by omega)
    have g1 : reg word 11 = a := reg_eq (by omega)
    have g2 : bv word 15 6 = sh := bv_eq (by omega)
    have hm : word % 128 = 9 := by omega
    have k0 : Machine.fld word 21 11 = 0 := by simp only [Machine.fld]; omega
    refine decode_of_32 (by omega) (by omega) ?_
    have hd : decode32 word = decodeM5 word := by unfold decode32; rw [hm]; rfl
    rw [hd]
    simp [decodeM5, k0, g0, g1, g2]
  exact statement_of rfl (e _ rfl)

theorem Encodable.shri (d : XReg) (a : XReg) (sh : BitVec 6) : Encodable.Statement (.shri d a sh) := by
  have h_d := d.isLt
  have h_a := a.isLt
  have h_sh := sh.isLt
  have e (word : Nat) (hw : word = 0xc + put d 7 + put a 11 + put sh 15) : decode word = .ok (.shri d a sh) := by
    simp only [put] at hw
    have g0 : reg word 7 = d := reg_eq (by omega)
    have g1 : reg word 11 = a := reg_eq (by omega)
    have g2 : bv word 15 6 = sh := bv_eq (by omega)
    have hm : word % 128 = 12 := by omega
    have k0 : Machine.fld word 21 11 = 0 := by simp only [Machine.fld]; omega
    refine decode_of_32 (by omega) (by omega) ?_
    have hd : decode32 word = decodeM6 word := by unfold decode32; rw [hm]; rfl
    rw [hd]
    simp [decodeM6, k0, g0, g1, g2]
  exact statement_of rfl (e _ rfl)

theorem Encodable.sari (d : XReg) (a : XReg) (sh : BitVec 6) : Encodable.Statement (.sari d a sh) := by
  have h_d := d.isLt
  have h_a := a.isLt
  have h_sh := sh.isLt
  have e (word : Nat) (hw : word = 0xd + put d 7 + put a 11 + put sh 15) : decode word = .ok (.sari d a sh) := by
    simp only [put] at hw
    have g0 : reg word 7 = d := reg_eq (by omega)
    have g1 : reg word 11 = a := reg_eq (by omega)
    have g2 : bv word 15 6 = sh := bv_eq (by omega)
    have hm : word % 128 = 13 := by omega
    have k0 : Machine.fld word 21 11 = 0 := by simp only [Machine.fld]; omega
    refine decode_of_32 (by omega) (by omega) ?_
    have hd : decode32 word = decodeM7 word := by unfold decode32; rw [hm]; rfl
    rw [hd]
    simp [decodeM7, k0, g0, g1, g2]
  exact statement_of rfl (e _ rfl)

theorem Encodable.slti (d : XReg) (a : XReg) (imm : BitVec 17) : Encodable.Statement (.slti d a imm) := by
  have h_d := d.isLt
  have h_a := a.isLt
  have h_imm := imm.isLt
  have e (word : Nat) (hw : word = 0x10 + put d 7 + put a 11 + put imm 15) : decode word = .ok (.slti d a imm) := by
    simp only [put] at hw
    have g0 : reg word 7 = d := reg_eq (by omega)
    have g1 : reg word 11 = a := reg_eq (by omega)
    have g2 : bv word 15 17 = imm := bv_eq (by omega)
    have hm : word % 128 = 16 := by omega
    refine decode_of_32 (by omega) (by omega) ?_
    have hd : decode32 word = decodeM8 word := by unfold decode32; rw [hm]; rfl
    rw [hd]
    simp [decodeM8, g0, g1, g2]
  exact statement_of rfl (e _ rfl)

theorem Encodable.lih (d : XReg) (a : XReg) (imm : BitVec 17) : Encodable.Statement (.lih d a imm) := by
  have h_d := d.isLt
  have h_a := a.isLt
  have h_imm := imm.isLt
  have e (word : Nat) (hw : word = 0x11 + put d 7 + put a 11 + put imm 15) : decode word = .ok (.lih d a imm) := by
    simp only [put] at hw
    have g0 : reg word 7 = d := reg_eq (by omega)
    have g1 : reg word 11 = a := reg_eq (by omega)
    have g2 : bv word 15 17 = imm := bv_eq (by omega)
    have hm : word % 128 = 17 := by omega
    refine decode_of_32 (by omega) (by omega) ?_
    have hd : decode32 word = decodeM9 word := by unfold decode32; rw [hm]; rfl
    rw [hd]
    simp [decodeM9, g0, g1, g2]
  exact statement_of rfl (e _ rfl)

theorem Encodable.lil (d : XReg) (lit : W32) : Encodable.Statement (.lil d lit) := by
  have h_d := d.isLt
  have h_lit := lit.isLt
  have e (word : Nat) (hw : word = 67 + put d 7 + put lit 64) : decode word = .ok (.lil d lit) := by
    simp only [put] at hw
    have g0 : reg word 7 = d := reg_eq (by omega)
    have g1 : bv word 64 32 = lit := bv_eq (by omega)
    have hk : word / 4 % 32 = 16 := by omega
    have hz : Machine.fld word 11 53 = 0 := by simp only [Machine.fld]; omega
    refine decode_of_96 (by omega) ?_
    simp only [decode96, hk, hz, g0, g1, if_true]
    rfl
  exact statement_of rfl (e _ rfl)

theorem Encodable.addl (d : XReg) (a : XReg) (lit : W32) : Encodable.Statement (.addl d a lit) := by
  have h_d := d.isLt
  have h_a := a.isLt
  have h_lit := lit.isLt
  have e (word : Nat) (hw : word = 71 + put d 7 + put a 11 + put lit 64) : decode word = .ok (.addl d a lit) := by
    simp only [put] at hw
    have g0 : reg word 7 = d := reg_eq (by omega)
    have g1 : reg word 11 = a := reg_eq (by omega)
    have g2 : bv word 64 32 = lit := bv_eq (by omega)
    have hk : word / 4 % 32 = 17 := by omega
    have hz : Machine.fld word 15 49 = 0 := by simp only [Machine.fld]; omega
    refine decode_of_96 (by omega) ?_
    simp only [decode96, hk, hz, g0, g1, g2, if_true]
    rfl
  exact statement_of rfl (e _ rfl)

theorem Encodable.fadd (d : XReg) (a : XReg) (b : XReg) (dbl : Bool) : Encodable.Statement (.fadd d a b dbl) := by
  have h_d := d.isLt
  have h_a := a.isLt
  have h_b := b.isLt
  have h_dbl := Bool.toNat_lt dbl
  have e (word : Nat) (hw : word = 0x14 + put d 7 + put a 11 + put b 15 + putB dbl 29) : decode word = .ok (.fadd d a b dbl) := by
    simp only [put, putB] at hw
    have g0 : reg word 7 = d := reg_eq (by omega)
    have g1 : reg word 11 = a := reg_eq (by omega)
    have g2 : reg word 15 = b := reg_eq (by omega)
    have g3 : bit word 29 = dbl := bit_eq (by omega)
    have hm : word % 128 = 20 := by omega
    have k1 : Machine.fld word 19 6 = 0 := by simp only [Machine.fld]; omega
    have k2 : Machine.fld word 19 10 = 0 := by simp only [Machine.fld]; omega
    have k3 : Machine.fld word 30 2 = 0 := by simp only [Machine.fld]; omega
    refine decode_of_32 (by omega) (by omega) ?_
    have hd : decode32 word = decodeM10 word := by unfold decode32; rw [hm]; rfl
    rw [hd]
    simp [decodeM10, k1, k2, k3, g0, g1, g2, g3]
  exact statement_of rfl (e _ rfl)

theorem Encodable.fsub (d : XReg) (a : XReg) (b : XReg) (dbl : Bool) : Encodable.Statement (.fsub d a b dbl) := by
  have h_d := d.isLt
  have h_a := a.isLt
  have h_b := b.isLt
  have h_dbl := Bool.toNat_lt dbl
  have e (word : Nat) (hw : word = 0x80014 + put d 7 + put a 11 + put b 15 + putB dbl 29) : decode word = .ok (.fsub d a b dbl) := by
    simp only [put, putB] at hw
    have g0 : reg word 7 = d := reg_eq (by omega)
    have g1 : reg word 11 = a := reg_eq (by omega)
    have g2 : reg word 15 = b := reg_eq (by omega)
    have g3 : bit word 29 = dbl := bit_eq (by omega)
    have hm : word % 128 = 20 := by omega
    have k1 : Machine.fld word 19 6 = 1 := by simp only [Machine.fld]; omega
    have k2 : Machine.fld word 19 10 = 1 := by simp only [Machine.fld]; omega
    have k3 : Machine.fld word 30 2 = 0 := by simp only [Machine.fld]; omega
    refine decode_of_32 (by omega) (by omega) ?_
    have hd : decode32 word = decodeM10 word := by unfold decode32; rw [hm]; rfl
    rw [hd]
    simp [decodeM10, k1, k2, k3, g0, g1, g2, g3]
  exact statement_of rfl (e _ rfl)

theorem Encodable.fmul (d : XReg) (a : XReg) (b : XReg) (dbl : Bool) : Encodable.Statement (.fmul d a b dbl) := by
  have h_d := d.isLt
  have h_a := a.isLt
  have h_b := b.isLt
  have h_dbl := Bool.toNat_lt dbl
  have e (word : Nat) (hw : word = 0x100014 + put d 7 + put a 11 + put b 15 + putB dbl 29) : decode word = .ok (.fmul d a b dbl) := by
    simp only [put, putB] at hw
    have g0 : reg word 7 = d := reg_eq (by omega)
    have g1 : reg word 11 = a := reg_eq (by omega)
    have g2 : reg word 15 = b := reg_eq (by omega)
    have g3 : bit word 29 = dbl := bit_eq (by omega)
    have hm : word % 128 = 20 := by omega
    have k1 : Machine.fld word 19 6 = 2 := by simp only [Machine.fld]; omega
    have k2 : Machine.fld word 19 10 = 2 := by simp only [Machine.fld]; omega
    have k3 : Machine.fld word 30 2 = 0 := by simp only [Machine.fld]; omega
    refine decode_of_32 (by omega) (by omega) ?_
    have hd : decode32 word = decodeM10 word := by unfold decode32; rw [hm]; rfl
    rw [hd]
    simp [decodeM10, k1, k2, k3, g0, g1, g2, g3]
  exact statement_of rfl (e _ rfl)

theorem Encodable.fdiv (d : XReg) (a : XReg) (b : XReg) (dbl : Bool) : Encodable.Statement (.fdiv d a b dbl) := by
  have h_d := d.isLt
  have h_a := a.isLt
  have h_b := b.isLt
  have h_dbl := Bool.toNat_lt dbl
  have e (word : Nat) (hw : word = 0x180014 + put d 7 + put a 11 + put b 15 + putB dbl 29) : decode word = .ok (.fdiv d a b dbl) := by
    simp only [put, putB] at hw
    have g0 : reg word 7 = d := reg_eq (by omega)
    have g1 : reg word 11 = a := reg_eq (by omega)
    have g2 : reg word 15 = b := reg_eq (by omega)
    have g3 : bit word 29 = dbl := bit_eq (by omega)
    have hm : word % 128 = 20 := by omega
    have k1 : Machine.fld word 19 6 = 3 := by simp only [Machine.fld]; omega
    have k2 : Machine.fld word 19 10 = 3 := by simp only [Machine.fld]; omega
    have k3 : Machine.fld word 30 2 = 0 := by simp only [Machine.fld]; omega
    refine decode_of_32 (by omega) (by omega) ?_
    have hd : decode32 word = decodeM10 word := by unfold decode32; rw [hm]; rfl
    rw [hd]
    simp [decodeM10, k1, k2, k3, g0, g1, g2, g3]
  exact statement_of rfl (e _ rfl)

theorem Encodable.fsqrt (d : XReg) (a : XReg) (dbl : Bool) : Encodable.Statement (.fsqrt d a dbl) := by
  have h_d := d.isLt
  have h_a := a.isLt
  have h_dbl := Bool.toNat_lt dbl
  have e (word : Nat) (hw : word = 0x200014 + put d 7 + put a 11 + putB dbl 29) : decode word = .ok (.fsqrt d a dbl) := by
    simp only [put, putB] at hw
    have g0 : reg word 7 = d := reg_eq (by omega)
    have g1 : reg word 11 = a := reg_eq (by omega)
    have g2 : bit word 29 = dbl := bit_eq (by omega)
    have hm : word % 128 = 20 := by omega
    have k0 : Machine.fld word 15 14 = 64 := by simp only [Machine.fld]; omega
    have k1 : Machine.fld word 19 6 = 4 := by simp only [Machine.fld]; omega
    have k2 : Machine.fld word 19 10 = 4 := by simp only [Machine.fld]; omega
    have k3 : Machine.fld word 30 2 = 0 := by simp only [Machine.fld]; omega
    refine decode_of_32 (by omega) (by omega) ?_
    have hd : decode32 word = decodeM10 word := by unfold decode32; rw [hm]; rfl
    rw [hd]
    simp [decodeM10, k0, k1, k2, k3, g0, g1, g2]
  exact statement_of rfl (e _ rfl)

theorem Encodable.fma (d : XReg) (a : XReg) (b : XReg) (c : XReg) (dbl : Bool) : Encodable.Statement (.fma d a b c dbl) := by
  have h_d := d.isLt
  have h_a := a.isLt
  have h_b := b.isLt
  have h_c := c.isLt
  have h_dbl := Bool.toNat_lt dbl
  have e (word : Nat) (hw : word = 0x280014 + put d 7 + put a 11 + put b 15 + put c 25 + putB dbl 29) : decode word = .ok (.fma d a b c dbl) := by
    simp only [put, putB] at hw
    have g0 : reg word 7 = d := reg_eq (by omega)
    have g1 : reg word 11 = a := reg_eq (by omega)
    have g2 : reg word 15 = b := reg_eq (by omega)
    have g3 : reg word 25 = c := reg_eq (by omega)
    have g4 : bit word 29 = dbl := bit_eq (by omega)
    have hm : word % 128 = 20 := by omega
    have k1 : Machine.fld word 19 6 = 5 := by simp only [Machine.fld]; omega
    have k3 : Machine.fld word 30 2 = 0 := by simp only [Machine.fld]; omega
    have x0 : ¬ Machine.fld word 19 10 = 0 := by simp only [Machine.fld]; omega
    have x1 : ¬ Machine.fld word 19 10 = 1 := by simp only [Machine.fld]; omega
    have x2 : ¬ Machine.fld word 19 10 = 2 := by simp only [Machine.fld]; omega
    have x3 : ¬ Machine.fld word 19 10 = 3 := by simp only [Machine.fld]; omega
    have x4 : ¬ Machine.fld word 15 14 = 64 := by simp only [Machine.fld]; omega
    refine decode_of_32 (by omega) (by omega) ?_
    have hd : decode32 word = decodeM10 word := by unfold decode32; rw [hm]; rfl
    rw [hd]
    simp [decodeM10, k1, k3, x0, x1, x2, x3, x4, g0, g1, g2, g3, g4]
  exact statement_of rfl (e _ rfl)

theorem Encodable.fmin (d : XReg) (a : XReg) (b : XReg) (dbl : Bool) : Encodable.Statement (.fmin d a b dbl) := by
  have h_d := d.isLt
  have h_a := a.isLt
  have h_b := b.isLt
  have h_dbl := Bool.toNat_lt dbl
  have e (word : Nat) (hw : word = 0x300014 + put d 7 + put a 11 + put b 15 + putB dbl 29) : decode word = .ok (.fmin d a b dbl) := by
    simp only [put, putB] at hw
    have g0 : reg word 7 = d := reg_eq (by omega)
    have g1 : reg word 11 = a := reg_eq (by omega)
    have g2 : reg word 15 = b := reg_eq (by omega)
    have g3 : bit word 29 = dbl := bit_eq (by omega)
    have hm : word % 128 = 20 := by omega
    have k1 : Machine.fld word 19 6 = 6 := by simp only [Machine.fld]; omega
    have k2 : Machine.fld word 19 10 = 6 := by simp only [Machine.fld]; omega
    have k3 : Machine.fld word 30 2 = 0 := by simp only [Machine.fld]; omega
    have x0 : ¬ Machine.fld word 15 14 = 64 := by simp only [Machine.fld]; omega
    refine decode_of_32 (by omega) (by omega) ?_
    have hd : decode32 word = decodeM10 word := by unfold decode32; rw [hm]; rfl
    rw [hd]
    simp [decodeM10, k1, k2, k3, x0, g0, g1, g2, g3]
  exact statement_of rfl (e _ rfl)

theorem Encodable.fmax (d : XReg) (a : XReg) (b : XReg) (dbl : Bool) : Encodable.Statement (.fmax d a b dbl) := by
  have h_d := d.isLt
  have h_a := a.isLt
  have h_b := b.isLt
  have h_dbl := Bool.toNat_lt dbl
  have e (word : Nat) (hw : word = 0x380014 + put d 7 + put a 11 + put b 15 + putB dbl 29) : decode word = .ok (.fmax d a b dbl) := by
    simp only [put, putB] at hw
    have g0 : reg word 7 = d := reg_eq (by omega)
    have g1 : reg word 11 = a := reg_eq (by omega)
    have g2 : reg word 15 = b := reg_eq (by omega)
    have g3 : bit word 29 = dbl := bit_eq (by omega)
    have hm : word % 128 = 20 := by omega
    have k1 : Machine.fld word 19 6 = 7 := by simp only [Machine.fld]; omega
    have k2 : Machine.fld word 19 10 = 7 := by simp only [Machine.fld]; omega
    have k3 : Machine.fld word 30 2 = 0 := by simp only [Machine.fld]; omega
    have x0 : ¬ Machine.fld word 15 14 = 64 := by simp only [Machine.fld]; omega
    refine decode_of_32 (by omega) (by omega) ?_
    have hd : decode32 word = decodeM10 word := by unfold decode32; rw [hm]; rfl
    rw [hd]
    simp [decodeM10, k1, k2, k3, x0, g0, g1, g2, g3]
  exact statement_of rfl (e _ rfl)

theorem Encodable.feq (d : XReg) (a : XReg) (b : XReg) (dbl : Bool) : Encodable.Statement (.feq d a b dbl) := by
  have h_d := d.isLt
  have h_a := a.isLt
  have h_b := b.isLt
  have h_dbl := Bool.toNat_lt dbl
  have e (word : Nat) (hw : word = 0x400014 + put d 7 + put a 11 + put b 15 + putB dbl 29) : decode word = .ok (.feq d a b dbl) := by
    simp only [put, putB] at hw
    have g0 : reg word 7 = d := reg_eq (by omega)
    have g1 : reg word 11 = a := reg_eq (by omega)
    have g2 : reg word 15 = b := reg_eq (by omega)
    have g3 : bit word 29 = dbl := bit_eq (by omega)
    have hm : word % 128 = 20 := by omega
    have k1 : Machine.fld word 19 6 = 8 := by simp only [Machine.fld]; omega
    have k2 : Machine.fld word 19 10 = 8 := by simp only [Machine.fld]; omega
    have k3 : Machine.fld word 30 2 = 0 := by simp only [Machine.fld]; omega
    have x0 : ¬ Machine.fld word 15 14 = 64 := by simp only [Machine.fld]; omega
    refine decode_of_32 (by omega) (by omega) ?_
    have hd : decode32 word = decodeM10 word := by unfold decode32; rw [hm]; rfl
    rw [hd]
    simp [decodeM10, k1, k2, k3, x0, g0, g1, g2, g3]
  exact statement_of rfl (e _ rfl)

theorem Encodable.flt (d : XReg) (a : XReg) (b : XReg) (dbl : Bool) : Encodable.Statement (.flt d a b dbl) := by
  have h_d := d.isLt
  have h_a := a.isLt
  have h_b := b.isLt
  have h_dbl := Bool.toNat_lt dbl
  have e (word : Nat) (hw : word = 0x40400014 + put d 7 + put a 11 + put b 15 + putB dbl 29) : decode word = .ok (.flt d a b dbl) := by
    simp only [put, putB] at hw
    have g0 : reg word 7 = d := reg_eq (by omega)
    have g1 : reg word 11 = a := reg_eq (by omega)
    have g2 : reg word 15 = b := reg_eq (by omega)
    have g3 : bit word 29 = dbl := bit_eq (by omega)
    have hm : word % 128 = 20 := by omega
    have k1 : Machine.fld word 19 6 = 8 := by simp only [Machine.fld]; omega
    have k2 : Machine.fld word 19 10 = 8 := by simp only [Machine.fld]; omega
    have k3 : Machine.fld word 30 2 = 1 := by simp only [Machine.fld]; omega
    refine decode_of_32 (by omega) (by omega) ?_
    have hd : decode32 word = decodeM10 word := by unfold decode32; rw [hm]; rfl
    rw [hd]
    simp [decodeM10, k1, k2, k3, g0, g1, g2, g3]
  exact statement_of rfl (e _ rfl)

theorem Encodable.fle (d : XReg) (a : XReg) (b : XReg) (dbl : Bool) : Encodable.Statement (.fle d a b dbl) := by
  have h_d := d.isLt
  have h_a := a.isLt
  have h_b := b.isLt
  have h_dbl := Bool.toNat_lt dbl
  have e (word : Nat) (hw : word = 0x80400014 + put d 7 + put a 11 + put b 15 + putB dbl 29) : decode word = .ok (.fle d a b dbl) := by
    simp only [put, putB] at hw
    have g0 : reg word 7 = d := reg_eq (by omega)
    have g1 : reg word 11 = a := reg_eq (by omega)
    have g2 : reg word 15 = b := reg_eq (by omega)
    have g3 : bit word 29 = dbl := bit_eq (by omega)
    have hm : word % 128 = 20 := by omega
    have k1 : Machine.fld word 19 6 = 8 := by simp only [Machine.fld]; omega
    have k2 : Machine.fld word 19 10 = 8 := by simp only [Machine.fld]; omega
    have k3 : Machine.fld word 30 2 = 2 := by simp only [Machine.fld]; omega
    refine decode_of_32 (by omega) (by omega) ?_
    have hd : decode32 word = decodeM10 word := by unfold decode32; rw [hm]; rfl
    rw [hd]
    simp [decodeM10, k1, k2, k3, g0, g1, g2, g3]
  exact statement_of rfl (e _ rfl)

theorem Encodable.funord (d : XReg) (a : XReg) (b : XReg) (dbl : Bool) : Encodable.Statement (.funord d a b dbl) := by
  have h_d := d.isLt
  have h_a := a.isLt
  have h_b := b.isLt
  have h_dbl := Bool.toNat_lt dbl
  have e (word : Nat) (hw : word = 0xc0400014 + put d 7 + put a 11 + put b 15 + putB dbl 29) : decode word = .ok (.funord d a b dbl) := by
    simp only [put, putB] at hw
    have g0 : reg word 7 = d := reg_eq (by omega)
    have g1 : reg word 11 = a := reg_eq (by omega)
    have g2 : reg word 15 = b := reg_eq (by omega)
    have g3 : bit word 29 = dbl := bit_eq (by omega)
    have hm : word % 128 = 20 := by omega
    have k1 : Machine.fld word 19 6 = 8 := by simp only [Machine.fld]; omega
    have k2 : Machine.fld word 19 10 = 8 := by simp only [Machine.fld]; omega
    have k3 : Machine.fld word 30 2 = 3 := by simp only [Machine.fld]; omega
    refine decode_of_32 (by omega) (by omega) ?_
    have hd : decode32 word = decodeM10 word := by unfold decode32; rw [hm]; rfl
    rw [hd]
    simp [decodeM10, k1, k2, k3, g0, g1, g2, g3]
  exact statement_of rfl (e _ rfl)

theorem Encodable.fcvt (d : XReg) (a : XReg) (rsel : BitVec 4) (xc : BitVec 4) (sel : BitVec 2) (dbl : Bool) : Encodable.Statement (.fcvt d a rsel xc sel dbl) := by
  have h_d := d.isLt
  have h_a := a.isLt
  have h_rsel := rsel.isLt
  have h_xc := xc.isLt
  have h_sel := sel.isLt
  have h_dbl := Bool.toNat_lt dbl
  have e (word : Nat) (hw : word = 0x480014 + put d 7 + put a 11 + put rsel 15 + put xc 25 + put sel 30 + putB dbl 29) : decode word = .ok (.fcvt d a rsel xc sel dbl) := by
    simp only [put, putB] at hw
    have g0 : reg word 7 = d := reg_eq (by omega)
    have g1 : reg word 11 = a := reg_eq (by omega)
    have g2 : reg word 15 = rsel := reg_eq (by omega)
    have g3 : reg word 25 = xc := reg_eq (by omega)
    have g4 : bv word 30 2 = sel := bv_eq (by omega)
    have g5 : bit word 29 = dbl := bit_eq (by omega)
    have hm : word % 128 = 20 := by omega
    have k1 : Machine.fld word 19 6 = 9 := by simp only [Machine.fld]; omega
    have x0 : ¬ Machine.fld word 19 10 = 0 := by simp only [Machine.fld]; omega
    have x1 : ¬ Machine.fld word 19 10 = 1 := by simp only [Machine.fld]; omega
    have x2 : ¬ Machine.fld word 19 10 = 2 := by simp only [Machine.fld]; omega
    have x3 : ¬ Machine.fld word 19 10 = 3 := by simp only [Machine.fld]; omega
    have x4 : ¬ Machine.fld word 15 14 = 64 := by simp only [Machine.fld]; omega
    have x5 : ¬ Machine.fld word 19 10 = 6 := by simp only [Machine.fld]; omega
    have x6 : ¬ Machine.fld word 19 10 = 7 := by simp only [Machine.fld]; omega
    have x7 : ¬ Machine.fld word 19 10 = 8 := by simp only [Machine.fld]; omega
    have x8 : ¬ Machine.fld word 19 10 = 8 := by simp only [Machine.fld]; omega
    have x9 : ¬ Machine.fld word 19 10 = 8 := by simp only [Machine.fld]; omega
    have x10 : ¬ Machine.fld word 19 10 = 8 := by simp only [Machine.fld]; omega
    refine decode_of_32 (by omega) (by omega) ?_
    have hd : decode32 word = decodeM10 word := by unfold decode32; rw [hm]; rfl
    rw [hd]
    simp [decodeM10, k1, x0, x1, x2, x3, x4, x5, x6, x7, x8, x9, x10, g0, g1, g2, g3, g4, g5]
  exact statement_of rfl (e _ rfl)

theorem Encodable.fclass (d : XReg) (a : XReg) (dbl : Bool) : Encodable.Statement (.fclass d a dbl) := by
  have h_d := d.isLt
  have h_a := a.isLt
  have h_dbl := Bool.toNat_lt dbl
  have e (word : Nat) (hw : word = 0x500014 + put d 7 + put a 11 + putB dbl 29) : decode word = .ok (.fclass d a dbl) := by
    simp only [put, putB] at hw
    have g0 : reg word 7 = d := reg_eq (by omega)
    have g1 : reg word 11 = a := reg_eq (by omega)
    have g2 : bit word 29 = dbl := bit_eq (by omega)
    have hm : word % 128 = 20 := by omega
    have k0 : Machine.fld word 15 14 = 160 := by simp only [Machine.fld]; omega
    have k1 : Machine.fld word 19 6 = 10 := by simp only [Machine.fld]; omega
    have k2 : Machine.fld word 19 10 = 10 := by simp only [Machine.fld]; omega
    have k3 : Machine.fld word 30 2 = 0 := by simp only [Machine.fld]; omega
    refine decode_of_32 (by omega) (by omega) ?_
    have hd : decode32 word = decodeM10 word := by unfold decode32; rw [hm]; rfl
    rw [hd]
    simp [decodeM10, k0, k1, k2, k3, g0, g1, g2]
  exact statement_of rfl (e _ rfl)

theorem Encodable.ld (t : XReg) (a : XReg) (off : BitVec 11) (sx : Bool) (size : BitVec 2) : Encodable.Statement (.ld t a off sx size) := by
  have h_t := t.isLt
  have h_a := a.isLt
  have h_off := off.isLt
  have h_sx := Bool.toNat_lt sx
  have h_size := size.isLt
  have e (word : Nat) (hw : word = 0x15 + put t 7 + put a 11 + put off 21 + putB sx 17 + put size 15) : decode word = .ok (.ld t a off sx size) := by
    simp only [put, putB] at hw
    have g0 : reg word 7 = t := reg_eq (by omega)
    have g1 : reg word 11 = a := reg_eq (by omega)
    have g2 : bv word 21 11 = off := bv_eq (by omega)
    have g3 : bit word 17 = sx := bit_eq (by omega)
    have g4 : bv word 15 2 = size := bv_eq (by omega)
    have hm : word % 128 = 21 := by omega
    have k0 : Machine.fld word 18 3 = 0 := by simp only [Machine.fld]; omega
    refine decode_of_32 (by omega) (by omega) ?_
    have hd : decode32 word = decodeM11 word := by unfold decode32; rw [hm]; rfl
    rw [hd]
    simp [decodeM11, k0, g0, g1, g2, g3, g4]
  exact statement_of rfl (e _ rfl)

theorem Encodable.st (t : XReg) (a : XReg) (off : BitVec 11) (size : BitVec 2) : Encodable.Statement (.st t a off size) := by
  have h_t := t.isLt
  have h_a := a.isLt
  have h_off := off.isLt
  have h_size := size.isLt
  have e (word : Nat) (hw : word = 0x18 + put t 7 + put a 11 + put off 21 + put size 15) : decode word = .ok (.st t a off size) := by
    simp only [put] at hw
    have g0 : reg word 7 = t := reg_eq (by omega)
    have g1 : reg word 11 = a := reg_eq (by omega)
    have g2 : bv word 21 11 = off := bv_eq (by omega)
    have g3 : bv word 15 2 = size := bv_eq (by omega)
    have hm : word % 128 = 24 := by omega
    have k0 : Machine.fld word 17 4 = 0 := by simp only [Machine.fld]; omega
    refine decode_of_32 (by omega) (by omega) ?_
    have hd : decode32 word = decodeM12 word := by unfold decode32; rw [hm]; rfl
    rw [hd]
    simp [decodeM12, k0, g0, g1, g2, g3]
  exact statement_of rfl (e _ rfl)

theorem Encodable.lda (t : XReg) (a : XReg) (off : BitVec 11) (scope : BitVec 3) (sx : Bool) (size : BitVec 2) : Encodable.Statement (.lda t a off scope sx size) := by
  have h_t := t.isLt
  have h_a := a.isLt
  have h_off := off.isLt
  have h_scope := scope.isLt
  have h_sx := Bool.toNat_lt sx
  have h_size := size.isLt
  have e (word : Nat) (hw : word = 0x19 + put t 7 + put a 11 + put off 21 + put scope 18 + putB sx 17 + put size 15) : decode word = .ok (.lda t a off scope sx size) := by
    simp only [put, putB] at hw
    have g0 : reg word 7 = t := reg_eq (by omega)
    have g1 : reg word 11 = a := reg_eq (by omega)
    have g2 : bv word 21 11 = off := bv_eq (by omega)
    have g3 : bv word 18 3 = scope := bv_eq (by omega)
    have g4 : bit word 17 = sx := bit_eq (by omega)
    have g5 : bv word 15 2 = size := bv_eq (by omega)
    have hm : word % 128 = 25 := by omega
    refine decode_of_32 (by omega) (by omega) ?_
    have hd : decode32 word = decodeM13 word := by unfold decode32; rw [hm]; rfl
    rw [hd]
    simp [decodeM13, g0, g1, g2, g3, g4, g5]
  exact statement_of rfl (e _ rfl)

theorem Encodable.stl (t : XReg) (a : XReg) (off : BitVec 11) (scope : BitVec 3) (size : BitVec 2) : Encodable.Statement (.stl t a off scope size) := by
  have h_t := t.isLt
  have h_a := a.isLt
  have h_off := off.isLt
  have h_scope := scope.isLt
  have h_size := size.isLt
  have e (word : Nat) (hw : word = 0x1c + put t 7 + put a 11 + put off 21 + put scope 18 + put size 15) : decode word = .ok (.stl t a off scope size) := by
    simp only [put] at hw
    have g0 : reg word 7 = t := reg_eq (by omega)
    have g1 : reg word 11 = a := reg_eq (by omega)
    have g2 : bv word 21 11 = off := bv_eq (by omega)
    have g3 : bv word 18 3 = scope := bv_eq (by omega)
    have g4 : bv word 15 2 = size := bv_eq (by omega)
    have hm : word % 128 = 28 := by omega
    have k0 : Machine.fld word 17 1 = 0 := by simp only [Machine.fld]; omega
    refine decode_of_32 (by omega) (by omega) ?_
    have hd : decode32 word = decodeM14 word := by unfold decode32; rw [hm]; rfl
    rw [hd]
    simp [decodeM14, k0, g0, g1, g2, g3, g4]
  exact statement_of rfl (e _ rfl)

theorem Encodable.amoadd (d : XReg) (a : XReg) (b : XReg) (scope : BitVec 3) (size : BitVec 4) : Encodable.Statement (.amoadd d a b scope size) := by
  have h_d := d.isLt
  have h_a := a.isLt
  have h_b := b.isLt
  have h_scope := scope.isLt
  have h_size := size.isLt
  have e (word : Nat) (hw : word = 0x1d + put d 7 + put a 11 + put b 15 + put scope 29 + put size 25) : decode word = .ok (.amoadd d a b scope size) := by
    simp only [put] at hw
    have g0 : reg word 7 = d := reg_eq (by omega)
    have g1 : reg word 11 = a := reg_eq (by omega)
    have g2 : reg word 15 = b := reg_eq (by omega)
    have g3 : bv word 29 3 = scope := bv_eq (by omega)
    have g4 : reg word 25 = size := reg_eq (by omega)
    have hm : word % 128 = 29 := by omega
    have k0 : Machine.fld word 19 6 = 0 := by simp only [Machine.fld]; omega
    refine decode_of_32 (by omega) (by omega) ?_
    have hd : decode32 word = decodeM15 word := by unfold decode32; rw [hm]; rfl
    rw [hd]
    simp [decodeM15, k0, g0, g1, g2, g3, g4]
  exact statement_of rfl (e _ rfl)

theorem Encodable.amoswap (d : XReg) (a : XReg) (b : XReg) (scope : BitVec 3) (size : BitVec 4) : Encodable.Statement (.amoswap d a b scope size) := by
  have h_d := d.isLt
  have h_a := a.isLt
  have h_b := b.isLt
  have h_scope := scope.isLt
  have h_size := size.isLt
  have e (word : Nat) (hw : word = 0x8001d + put d 7 + put a 11 + put b 15 + put scope 29 + put size 25) : decode word = .ok (.amoswap d a b scope size) := by
    simp only [put] at hw
    have g0 : reg word 7 = d := reg_eq (by omega)
    have g1 : reg word 11 = a := reg_eq (by omega)
    have g2 : reg word 15 = b := reg_eq (by omega)
    have g3 : bv word 29 3 = scope := bv_eq (by omega)
    have g4 : reg word 25 = size := reg_eq (by omega)
    have hm : word % 128 = 29 := by omega
    have k0 : Machine.fld word 19 6 = 1 := by simp only [Machine.fld]; omega
    refine decode_of_32 (by omega) (by omega) ?_
    have hd : decode32 word = decodeM15 word := by unfold decode32; rw [hm]; rfl
    rw [hd]
    simp [decodeM15, k0, g0, g1, g2, g3, g4]
  exact statement_of rfl (e _ rfl)

theorem Encodable.amoand (d : XReg) (a : XReg) (b : XReg) (scope : BitVec 3) (size : BitVec 4) : Encodable.Statement (.amoand d a b scope size) := by
  have h_d := d.isLt
  have h_a := a.isLt
  have h_b := b.isLt
  have h_scope := scope.isLt
  have h_size := size.isLt
  have e (word : Nat) (hw : word = 0x10001d + put d 7 + put a 11 + put b 15 + put scope 29 + put size 25) : decode word = .ok (.amoand d a b scope size) := by
    simp only [put] at hw
    have g0 : reg word 7 = d := reg_eq (by omega)
    have g1 : reg word 11 = a := reg_eq (by omega)
    have g2 : reg word 15 = b := reg_eq (by omega)
    have g3 : bv word 29 3 = scope := bv_eq (by omega)
    have g4 : reg word 25 = size := reg_eq (by omega)
    have hm : word % 128 = 29 := by omega
    have k0 : Machine.fld word 19 6 = 2 := by simp only [Machine.fld]; omega
    refine decode_of_32 (by omega) (by omega) ?_
    have hd : decode32 word = decodeM15 word := by unfold decode32; rw [hm]; rfl
    rw [hd]
    simp [decodeM15, k0, g0, g1, g2, g3, g4]
  exact statement_of rfl (e _ rfl)

theorem Encodable.amoor (d : XReg) (a : XReg) (b : XReg) (scope : BitVec 3) (size : BitVec 4) : Encodable.Statement (.amoor d a b scope size) := by
  have h_d := d.isLt
  have h_a := a.isLt
  have h_b := b.isLt
  have h_scope := scope.isLt
  have h_size := size.isLt
  have e (word : Nat) (hw : word = 0x18001d + put d 7 + put a 11 + put b 15 + put scope 29 + put size 25) : decode word = .ok (.amoor d a b scope size) := by
    simp only [put] at hw
    have g0 : reg word 7 = d := reg_eq (by omega)
    have g1 : reg word 11 = a := reg_eq (by omega)
    have g2 : reg word 15 = b := reg_eq (by omega)
    have g3 : bv word 29 3 = scope := bv_eq (by omega)
    have g4 : reg word 25 = size := reg_eq (by omega)
    have hm : word % 128 = 29 := by omega
    have k0 : Machine.fld word 19 6 = 3 := by simp only [Machine.fld]; omega
    refine decode_of_32 (by omega) (by omega) ?_
    have hd : decode32 word = decodeM15 word := by unfold decode32; rw [hm]; rfl
    rw [hd]
    simp [decodeM15, k0, g0, g1, g2, g3, g4]
  exact statement_of rfl (e _ rfl)

theorem Encodable.amoxor (d : XReg) (a : XReg) (b : XReg) (scope : BitVec 3) (size : BitVec 4) : Encodable.Statement (.amoxor d a b scope size) := by
  have h_d := d.isLt
  have h_a := a.isLt
  have h_b := b.isLt
  have h_scope := scope.isLt
  have h_size := size.isLt
  have e (word : Nat) (hw : word = 0x20001d + put d 7 + put a 11 + put b 15 + put scope 29 + put size 25) : decode word = .ok (.amoxor d a b scope size) := by
    simp only [put] at hw
    have g0 : reg word 7 = d := reg_eq (by omega)
    have g1 : reg word 11 = a := reg_eq (by omega)
    have g2 : reg word 15 = b := reg_eq (by omega)
    have g3 : bv word 29 3 = scope := bv_eq (by omega)
    have g4 : reg word 25 = size := reg_eq (by omega)
    have hm : word % 128 = 29 := by omega
    have k0 : Machine.fld word 19 6 = 4 := by simp only [Machine.fld]; omega
    refine decode_of_32 (by omega) (by omega) ?_
    have hd : decode32 word = decodeM15 word := by unfold decode32; rw [hm]; rfl
    rw [hd]
    simp [decodeM15, k0, g0, g1, g2, g3, g4]
  exact statement_of rfl (e _ rfl)

theorem Encodable.amomin (d : XReg) (a : XReg) (b : XReg) (scope : BitVec 3) (size : BitVec 4) : Encodable.Statement (.amomin d a b scope size) := by
  have h_d := d.isLt
  have h_a := a.isLt
  have h_b := b.isLt
  have h_scope := scope.isLt
  have h_size := size.isLt
  have e (word : Nat) (hw : word = 0x28001d + put d 7 + put a 11 + put b 15 + put scope 29 + put size 25) : decode word = .ok (.amomin d a b scope size) := by
    simp only [put] at hw
    have g0 : reg word 7 = d := reg_eq (by omega)
    have g1 : reg word 11 = a := reg_eq (by omega)
    have g2 : reg word 15 = b := reg_eq (by omega)
    have g3 : bv word 29 3 = scope := bv_eq (by omega)
    have g4 : reg word 25 = size := reg_eq (by omega)
    have hm : word % 128 = 29 := by omega
    have k0 : Machine.fld word 19 6 = 5 := by simp only [Machine.fld]; omega
    refine decode_of_32 (by omega) (by omega) ?_
    have hd : decode32 word = decodeM15 word := by unfold decode32; rw [hm]; rfl
    rw [hd]
    simp [decodeM15, k0, g0, g1, g2, g3, g4]
  exact statement_of rfl (e _ rfl)

theorem Encodable.amomax (d : XReg) (a : XReg) (b : XReg) (scope : BitVec 3) (size : BitVec 4) : Encodable.Statement (.amomax d a b scope size) := by
  have h_d := d.isLt
  have h_a := a.isLt
  have h_b := b.isLt
  have h_scope := scope.isLt
  have h_size := size.isLt
  have e (word : Nat) (hw : word = 0x30001d + put d 7 + put a 11 + put b 15 + put scope 29 + put size 25) : decode word = .ok (.amomax d a b scope size) := by
    simp only [put] at hw
    have g0 : reg word 7 = d := reg_eq (by omega)
    have g1 : reg word 11 = a := reg_eq (by omega)
    have g2 : reg word 15 = b := reg_eq (by omega)
    have g3 : bv word 29 3 = scope := bv_eq (by omega)
    have g4 : reg word 25 = size := reg_eq (by omega)
    have hm : word % 128 = 29 := by omega
    have k0 : Machine.fld word 19 6 = 6 := by simp only [Machine.fld]; omega
    refine decode_of_32 (by omega) (by omega) ?_
    have hd : decode32 word = decodeM15 word := by unfold decode32; rw [hm]; rfl
    rw [hd]
    simp [decodeM15, k0, g0, g1, g2, g3, g4]
  exact statement_of rfl (e _ rfl)

theorem Encodable.amominn (d : XReg) (a : XReg) (b : XReg) (scope : BitVec 3) (size : BitVec 4) : Encodable.Statement (.amominn d a b scope size) := by
  have h_d := d.isLt
  have h_a := a.isLt
  have h_b := b.isLt
  have h_scope := scope.isLt
  have h_size := size.isLt
  have e (word : Nat) (hw : word = 0x38001d + put d 7 + put a 11 + put b 15 + put scope 29 + put size 25) : decode word = .ok (.amominn d a b scope size) := by
    simp only [put] at hw
    have g0 : reg word 7 = d := reg_eq (by omega)
    have g1 : reg word 11 = a := reg_eq (by omega)
    have g2 : reg word 15 = b := reg_eq (by omega)
    have g3 : bv word 29 3 = scope := bv_eq (by omega)
    have g4 : reg word 25 = size := reg_eq (by omega)
    have hm : word % 128 = 29 := by omega
    have k0 : Machine.fld word 19 6 = 7 := by simp only [Machine.fld]; omega
    refine decode_of_32 (by omega) (by omega) ?_
    have hd : decode32 word = decodeM15 word := by unfold decode32; rw [hm]; rfl
    rw [hd]
    simp [decodeM15, k0, g0, g1, g2, g3, g4]
  exact statement_of rfl (e _ rfl)

theorem Encodable.amomaxn (d : XReg) (a : XReg) (b : XReg) (scope : BitVec 3) (size : BitVec 4) : Encodable.Statement (.amomaxn d a b scope size) := by
  have h_d := d.isLt
  have h_a := a.isLt
  have h_b := b.isLt
  have h_scope := scope.isLt
  have h_size := size.isLt
  have e (word : Nat) (hw : word = 0x40001d + put d 7 + put a 11 + put b 15 + put scope 29 + put size 25) : decode word = .ok (.amomaxn d a b scope size) := by
    simp only [put] at hw
    have g0 : reg word 7 = d := reg_eq (by omega)
    have g1 : reg word 11 = a := reg_eq (by omega)
    have g2 : reg word 15 = b := reg_eq (by omega)
    have g3 : bv word 29 3 = scope := bv_eq (by omega)
    have g4 : reg word 25 = size := reg_eq (by omega)
    have hm : word % 128 = 29 := by omega
    have k0 : Machine.fld word 19 6 = 8 := by simp only [Machine.fld]; omega
    refine decode_of_32 (by omega) (by omega) ?_
    have hd : decode32 word = decodeM15 word := by unfold decode32; rw [hm]; rfl
    rw [hd]
    simp [decodeM15, k0, g0, g1, g2, g3, g4]
  exact statement_of rfl (e _ rfl)

theorem Encodable.cas (d : XReg) (a : XReg) (b : XReg) (scope : BitVec 3) (size : BitVec 2) : Encodable.Statement (.cas d a b scope size) := by
  have h_d := d.isLt
  have h_a := a.isLt
  have h_b := b.isLt
  have h_scope := scope.isLt
  have h_size := size.isLt
  have e (word : Nat) (hw : word = 0x20 + put d 7 + put a 11 + put b 15 + put scope 19 + put size 22) : decode word = .ok (.cas d a b scope size) := by
    simp only [put] at hw
    have g0 : reg word 7 = d := reg_eq (by omega)
    have g1 : reg word 11 = a := reg_eq (by omega)
    have g2 : reg word 15 = b := reg_eq (by omega)
    have g3 : bv word 19 3 = scope := bv_eq (by omega)
    have g4 : bv word 22 2 = size := bv_eq (by omega)
    have hm : word % 128 = 32 := by omega
    have k0 : Machine.fld word 24 8 = 0 := by simp only [Machine.fld]; omega
    refine decode_of_32 (by omega) (by omega) ?_
    have hd : decode32 word = decodeM16 word := by unfold decode32; rw [hm]; rfl
    rw [hd]
    simp [decodeM16, k0, g0, g1, g2, g3, g4]
  exact statement_of rfl (e _ rfl)

theorem Encodable.fence (kind : BitVec 2) (scope : BitVec 3) : Encodable.Statement (.fence kind scope) := by
  have h_kind := kind.isLt
  have h_scope := scope.isLt
  have e (word : Nat) (hw : word = 0x21 + put kind 22 + put scope 19) : decode word = .ok (.fence kind scope) := by
    simp only [put] at hw
    have g0 : bv word 22 2 = kind := bv_eq (by omega)
    have g1 : bv word 19 3 = scope := bv_eq (by omega)
    have hm : word % 128 = 33 := by omega
    have k0 : Machine.fld word 7 12 = 0 := by simp only [Machine.fld]; omega
    have k1 : Machine.fld word 24 8 = 0 := by simp only [Machine.fld]; omega
    refine decode_of_32 (by omega) (by omega) ?_
    have hd : decode32 word = decodeM17 word := by unfold decode32; rw [hm]; rfl
    rw [hd]
    simp [decodeM17, k0, k1, g0, g1]
  exact statement_of rfl (e _ rfl)

theorem Encodable.br (a : XReg) (b : XReg) (cond : BitVec 3) (off : BitVec 14) : Encodable.Statement (.br a b cond off) := by
  have h_a := a.isLt
  have h_b := b.isLt
  have h_cond := cond.isLt
  have h_off := off.isLt
  have e (word : Nat) (hw : word = 0x24 + put a 7 + put b 11 + put cond 15 + put off 18) : decode word = .ok (.br a b cond off) := by
    simp only [put] at hw
    have g0 : reg word 7 = a := reg_eq (by omega)
    have g1 : reg word 11 = b := reg_eq (by omega)
    have g2 : bv word 15 3 = cond := bv_eq (by omega)
    have g3 : bv word 18 14 = off := bv_eq (by omega)
    have hm : word % 128 = 36 := by omega
    refine decode_of_32 (by omega) (by omega) ?_
    have hd : decode32 word = decodeM18 word := by unfold decode32; rw [hm]; rfl
    rw [hd]
    simp [decodeM18, g0, g1, g2, g3]
  exact statement_of rfl (e _ rfl)

theorem Encodable.j (off : BitVec 21) : Encodable.Statement (.j off) := by
  have h_off := off.isLt
  have e (word : Nat) (hw : word = 0x25 + put off 11) : decode word = .ok (.j off) := by
    simp only [put] at hw
    have g0 : bv word 11 21 = off := bv_eq (by omega)
    have hm : word % 128 = 37 := by omega
    have k0 : Machine.fld word 7 4 = 0 := by simp only [Machine.fld]; omega
    refine decode_of_32 (by omega) (by omega) ?_
    have hd : decode32 word = decodeM19 word := by unfold decode32; rw [hm]; rfl
    rw [hd]
    simp [decodeM19, k0, g0]
  exact statement_of rfl (e _ rfl)

theorem Encodable.jal (d : XReg) (off : BitVec 21) : Encodable.Statement (.jal d off) := by
  have h_d := d.isLt
  have h_off := off.isLt
  have e (word : Nat) (hw : word = 0x28 + put d 7 + put off 11) : decode word = .ok (.jal d off) := by
    simp only [put] at hw
    have g0 : reg word 7 = d := reg_eq (by omega)
    have g1 : bv word 11 21 = off := bv_eq (by omega)
    have hm : word % 128 = 40 := by omega
    refine decode_of_32 (by omega) (by omega) ?_
    have hd : decode32 word = decodeM20 word := by unfold decode32; rw [hm]; rfl
    rw [hd]
    simp [decodeM20, g0, g1]
  exact statement_of rfl (e _ rfl)

theorem Encodable.jr (a : XReg) (imm : BitVec 17) : Encodable.Statement (.jr a imm) := by
  have h_a := a.isLt
  have h_imm := imm.isLt
  have e (word : Nat) (hw : word = 0x29 + put a 11 + put imm 15) : decode word = .ok (.jr a imm) := by
    simp only [put] at hw
    have g0 : reg word 11 = a := reg_eq (by omega)
    have g1 : bv word 15 17 = imm := bv_eq (by omega)
    have hm : word % 128 = 41 := by omega
    have k0 : Machine.fld word 7 4 = 0 := by simp only [Machine.fld]; omega
    refine decode_of_32 (by omega) (by omega) ?_
    have hd : decode32 word = decodeM21 word := by unfold decode32; rw [hm]; rfl
    rw [hd]
    simp [decodeM21, k0, g0, g1]
  exact statement_of rfl (e _ rfl)

theorem Encodable.jalr (d : XReg) (a : XReg) (imm : BitVec 17) : Encodable.Statement (.jalr d a imm) := by
  have h_d := d.isLt
  have h_a := a.isLt
  have h_imm := imm.isLt
  have e (word : Nat) (hw : word = 0x2c + put d 7 + put a 11 + put imm 15) : decode word = .ok (.jalr d a imm) := by
    simp only [put] at hw
    have g0 : reg word 7 = d := reg_eq (by omega)
    have g1 : reg word 11 = a := reg_eq (by omega)
    have g2 : bv word 15 17 = imm := bv_eq (by omega)
    have hm : word % 128 = 44 := by omega
    refine decode_of_32 (by omega) (by omega) ?_
    have hd : decode32 word = decodeM22 word := by unfold decode32; rw [hm]; rfl
    rw [hd]
    simp [decodeM22, g0, g1, g2]
  exact statement_of rfl (e _ rfl)

theorem Encodable.spawn (d : XReg) (a : XReg) : Encodable.Statement (.spawn d a) := by
  have h_d := d.isLt
  have h_a := a.isLt
  have e (word : Nat) (hw : word = 0x31 + put d 7 + put a 11) : decode word = .ok (.spawn d a) := by
    simp only [put] at hw
    have g0 : reg word 7 = d := reg_eq (by omega)
    have g1 : reg word 11 = a := reg_eq (by omega)
    have hm : word % 128 = 49 := by omega
    have k0 : Machine.fld word 15 17 = 0 := by simp only [Machine.fld]; omega
    refine decode_of_32 (by omega) (by omega) ?_
    have hd : decode32 word = decodeM25 word := by unfold decode32; rw [hm]; rfl
    rw [hd]
    simp [decodeM25, k0, g0, g1]
  exact statement_of rfl (e _ rfl)

theorem Encodable.spawnr (d : XReg) (a : XReg) : Encodable.Statement (.spawnr d a) := by
  have h_d := d.isLt
  have h_a := a.isLt
  have e (word : Nat) (hw : word = 0x34 + put d 7 + put a 11) : decode word = .ok (.spawnr d a) := by
    simp only [put] at hw
    have g0 : reg word 7 = d := reg_eq (by omega)
    have g1 : reg word 11 = a := reg_eq (by omega)
    have hm : word % 128 = 52 := by omega
    have k0 : Machine.fld word 15 17 = 0 := by simp only [Machine.fld]; omega
    refine decode_of_32 (by omega) (by omega) ?_
    have hd : decode32 word = decodeM26 word := by unfold decode32; rw [hm]; rfl
    rw [hd]
    simp [decodeM26, k0, g0, g1]
  exact statement_of rfl (e _ rfl)

theorem Encodable.depset (d : XReg) (a : XReg) (b : XReg) (c : BitVec 8) : Encodable.Statement (.depset d a b c) := by
  have h_d := d.isLt
  have h_a := a.isLt
  have h_b := b.isLt
  have h_c := c.isLt
  have e (word : Nat) (hw : word = 0x35 + put d 7 + put a 11 + put b 15 + put c 22) : decode word = .ok (.depset d a b c) := by
    simp only [put] at hw
    have g0 : reg word 7 = d := reg_eq (by omega)
    have g1 : reg word 11 = a := reg_eq (by omega)
    have g2 : reg word 15 = b := reg_eq (by omega)
    have g3 : bv word 22 8 = c := bv_eq (by omega)
    have hm : word % 128 = 53 := by omega
    have k1 : Machine.fld word 19 3 = 0 := by simp only [Machine.fld]; omega
    have k2 : Machine.fld word 30 2 = 0 := by simp only [Machine.fld]; omega
    refine decode_of_32 (by omega) (by omega) ?_
    have hd : decode32 word = decodeM27 word := by unfold decode32; rw [hm]; rfl
    rw [hd]
    simp [decodeM27, k1, k2, g0, g1, g2, g3]
  exact statement_of rfl (e _ rfl)

theorem Encodable.deprd (d : XReg) (c : BitVec 8) : Encodable.Statement (.deprd d c) := by
  have h_d := d.isLt
  have h_c := c.isLt
  have e (word : Nat) (hw : word = 0x40000035 + put d 7 + put c 22) : decode word = .ok (.deprd d c) := by
    simp only [put] at hw
    have g0 : reg word 7 = d := reg_eq (by omega)
    have g1 : bv word 22 8 = c := bv_eq (by omega)
    have hm : word % 128 = 53 := by omega
    have k0 : Machine.fld word 11 11 = 0 := by simp only [Machine.fld]; omega
    have k1 : Machine.fld word 19 3 = 0 := by simp only [Machine.fld]; omega
    have k2 : Machine.fld word 30 2 = 1 := by simp only [Machine.fld]; omega
    refine decode_of_32 (by omega) (by omega) ?_
    have hd : decode32 word = decodeM27 word := by unfold decode32; rw [hm]; rfl
    rw [hd]
    simp [decodeM27, k0, k1, k2, g0, g1]
  exact statement_of rfl (e _ rfl)

theorem Encodable.depdec (a : XReg) (scope : BitVec 3) (n : BitVec 10) : Encodable.Statement (.depdec a scope n) := by
  have h_a := a.isLt
  have h_scope := scope.isLt
  have h_n := n.isLt
  have e (word : Nat) (hw : word = 0x38 + put a 11 + put scope 19 + put n 22) : decode word = .ok (.depdec a scope n) := by
    simp only [put] at hw
    have g0 : reg word 11 = a := reg_eq (by omega)
    have g1 : bv word 19 3 = scope := bv_eq (by omega)
    have g2 : bv word 22 10 = n := bv_eq (by omega)
    have hm : word % 128 = 56 := by omega
    have k0 : Machine.fld word 7 4 = 0 := by simp only [Machine.fld]; omega
    have k1 : Machine.fld word 15 4 = 0 := by simp only [Machine.fld]; omega
    refine decode_of_32 (by omega) (by omega) ?_
    have hd : decode32 word = decodeM28 word := by unfold decode32; rw [hm]; rfl
    rw [hd]
    simp [decodeM28, k0, k1, g0, g1, g2]
  exact statement_of rfl (e _ rfl)

theorem Encodable.rcall (d : XReg) (a : XReg) (b : XReg) : Encodable.Statement (.rcall d a b) := by
  have h_d := d.isLt
  have h_a := a.isLt
  have h_b := b.isLt
  have e (word : Nat) (hw : word = 0x39 + put d 7 + put a 11 + put b 15) : decode word = .ok (.rcall d a b) := by
    simp only [put] at hw
    have g0 : reg word 7 = d := reg_eq (by omega)
    have g1 : reg word 11 = a := reg_eq (by omega)
    have g2 : reg word 15 = b := reg_eq (by omega)
    have hm : word % 128 = 57 := by omega
    have k0 : Machine.fld word 19 13 = 0 := by simp only [Machine.fld]; omega
    refine decode_of_32 (by omega) (by omega) ?_
    have hd : decode32 word = decodeM29 word := by unfold decode32; rw [hm]; rfl
    rw [hd]
    simp [decodeM29, k0, g0, g1, g2]
  exact statement_of rfl (e _ rfl)

theorem Encodable.rreply (a : XReg) (b : XReg) : Encodable.Statement (.rreply a b) := by
  have h_a := a.isLt
  have h_b := b.isLt
  have e (word : Nat) (hw : word = 0x3c + put a 11 + put b 15) : decode word = .ok (.rreply a b) := by
    simp only [put] at hw
    have g0 : reg word 11 = a := reg_eq (by omega)
    have g1 : reg word 15 = b := reg_eq (by omega)
    have hm : word % 128 = 60 := by omega
    have k0 : Machine.fld word 7 4 = 0 := by simp only [Machine.fld]; omega
    have k1 : Machine.fld word 19 13 = 0 := by simp only [Machine.fld]; omega
    refine decode_of_32 (by omega) (by omega) ?_
    have hd : decode32 word = decodeM30 word := by unfold decode32; rw [hm]; rfl
    rw [hd]
    simp [decodeM30, k0, k1, g0, g1]
  exact statement_of rfl (e _ rfl)

theorem Encodable.migrate (a : XReg) (imm : BitVec 17) : Encodable.Statement (.migrate a imm) := by
  have h_a := a.isLt
  have h_imm := imm.isLt
  have e (word : Nat) (hw : word = 0x3d + put a 11 + put imm 15) : decode word = .ok (.migrate a imm) := by
    simp only [put] at hw
    have g0 : reg word 11 = a := reg_eq (by omega)
    have g1 : bv word 15 17 = imm := bv_eq (by omega)
    have hm : word % 128 = 61 := by omega
    have k0 : Machine.fld word 7 4 = 0 := by simp only [Machine.fld]; omega
    refine decode_of_32 (by omega) (by omega) ?_
    have hd : decode32 word = decodeM31 word := by unfold decode32; rw [hm]; rfl
    rw [hd]
    simp [decodeM31, k0, g0, g1]
  exact statement_of rfl (e _ rfl)

theorem Encodable.arrive (d : XReg) (scope : BitVec 3) (id : BitVec 10) : Encodable.Statement (.arrive d scope id) := by
  have h_d := d.isLt
  have h_scope := scope.isLt
  have h_id := id.isLt
  have e (word : Nat) (hw : word = 0x40 + put d 7 + put scope 19 + put id 22) : decode word = .ok (.arrive d scope id) := by
    simp only [put] at hw
    have g0 : reg word 7 = d := reg_eq (by omega)
    have g1 : bv word 19 3 = scope := bv_eq (by omega)
    have g2 : bv word 22 10 = id := bv_eq (by omega)
    have hm : word % 128 = 64 := by omega
    have k0 : Machine.fld word 11 8 = 0 := by simp only [Machine.fld]; omega
    refine decode_of_32 (by omega) (by omega) ?_
    have hd : decode32 word = decodeM32 word := by unfold decode32; rw [hm]; rfl
    rw [hd]
    simp [decodeM32, k0, g0, g1, g2]
  exact statement_of rfl (e _ rfl)

theorem Encodable.waitb (a : XReg) (scope : BitVec 3) (id : BitVec 10) : Encodable.Statement (.waitb a scope id) := by
  have h_a := a.isLt
  have h_scope := scope.isLt
  have h_id := id.isLt
  have e (word : Nat) (hw : word = 0x41 + put a 11 + put scope 19 + put id 22) : decode word = .ok (.waitb a scope id) := by
    simp only [put] at hw
    have g0 : reg word 11 = a := reg_eq (by omega)
    have g1 : bv word 19 3 = scope := bv_eq (by omega)
    have g2 : bv word 22 10 = id := bv_eq (by omega)
    have hm : word % 128 = 65 := by omega
    have k0 : Machine.fld word 7 4 = 0 := by simp only [Machine.fld]; omega
    have k1 : Machine.fld word 15 4 = 0 := by simp only [Machine.fld]; omega
    refine decode_of_32 (by omega) (by omega) ?_
    have hd : decode32 word = decodeM33 word := by unfold decode32; rw [hm]; rfl
    rw [hd]
    simp [decodeM33, k0, k1, g0, g1, g2]
  exact statement_of rfl (e _ rfl)

theorem Encodable.barcfg (b : XReg) (scope : BitVec 3) (id : BitVec 10) : Encodable.Statement (.barcfg b scope id) := by
  have h_b := b.isLt
  have h_scope := scope.isLt
  have h_id := id.isLt
  have e (word : Nat) (hw : word = 0x44 + put b 15 + put scope 19 + put id 22) : decode word = .ok (.barcfg b scope id) := by
    simp only [put] at hw
    have g0 : reg word 15 = b := reg_eq (by omega)
    have g1 : bv word 19 3 = scope := bv_eq (by omega)
    have g2 : bv word 22 10 = id := bv_eq (by omega)
    have hm : word % 128 = 68 := by omega
    have k0 : Machine.fld word 7 8 = 0 := by simp only [Machine.fld]; omega
    refine decode_of_32 (by omega) (by omega) ?_
    have hd : decode32 word = decodeM34 word := by unfold decode32; rw [hm]; rfl
    rw [hd]
    simp [decodeM34, k0, g0, g1, g2]
  exact statement_of rfl (e _ rfl)

theorem Encodable.waitw (d : XReg) (a : XReg) (b : XReg) (scope : BitVec 3) (cond : BitVec 3) (dbl : Bool) : Encodable.Statement (.waitw d a b scope cond dbl) := by
  have h_d := d.isLt
  have h_a := a.isLt
  have h_b := b.isLt
  have h_scope := scope.isLt
  have h_cond := cond.isLt
  have h_dbl := Bool.toNat_lt dbl
  have e (word : Nat) (hw : word = 0x45 + put d 7 + put a 11 + put b 15 + put scope 19 + put cond 22 + putB dbl 25) : decode word = .ok (.waitw d a b scope cond dbl) := by
    simp only [put, putB] at hw
    have g0 : reg word 7 = d := reg_eq (by omega)
    have g1 : reg word 11 = a := reg_eq (by omega)
    have g2 : reg word 15 = b := reg_eq (by omega)
    have g3 : bv word 19 3 = scope := bv_eq (by omega)
    have g4 : bv word 22 3 = cond := bv_eq (by omega)
    have g5 : bit word 25 = dbl := bit_eq (by omega)
    have hm : word % 128 = 69 := by omega
    have k0 : Machine.fld word 26 6 = 0 := by simp only [Machine.fld]; omega
    refine decode_of_32 (by omega) (by omega) ?_
    have hd : decode32 word = decodeM35 word := by unfold decode32; rw [hm]; rfl
    rw [hd]
    simp [decodeM35, k0, g0, g1, g2, g3, g4, g5]
  exact statement_of rfl (e _ rfl)

theorem Encodable.csrr (d : XReg) (csr : BitVec 12) : Encodable.Statement (.csrr d csr) := by
  have h_d := d.isLt
  have h_csr := csr.isLt
  have e (word : Nat) (hw : word = 0x48 + put d 7 + put csr 15) : decode word = .ok (.csrr d csr) := by
    simp only [put] at hw
    have g0 : reg word 7 = d := reg_eq (by omega)
    have g1 : bv word 15 12 = csr := bv_eq (by omega)
    have hm : word % 128 = 72 := by omega
    have k0 : Machine.fld word 11 4 = 0 := by simp only [Machine.fld]; omega
    have k1 : Machine.fld word 27 5 = 0 := by simp only [Machine.fld]; omega
    refine decode_of_32 (by omega) (by omega) ?_
    have hd : decode32 word = decodeM36 word := by unfold decode32; rw [hm]; rfl
    rw [hd]
    simp [decodeM36, k0, k1, g0, g1]
  exact statement_of rfl (e _ rfl)

theorem Encodable.csrw (d : XReg) (a : XReg) (csr : BitVec 12) : Encodable.Statement (.csrw d a csr) := by
  have h_d := d.isLt
  have h_a := a.isLt
  have h_csr := csr.isLt
  have e (word : Nat) (hw : word = 0x49 + put d 7 + put a 11 + put csr 15) : decode word = .ok (.csrw d a csr) := by
    simp only [put] at hw
    have g0 : reg word 7 = d := reg_eq (by omega)
    have g1 : reg word 11 = a := reg_eq (by omega)
    have g2 : bv word 15 12 = csr := bv_eq (by omega)
    have hm : word % 128 = 73 := by omega
    have k0 : Machine.fld word 27 5 = 0 := by simp only [Machine.fld]; omega
    refine decode_of_32 (by omega) (by omega) ?_
    have hd : decode32 word = decodeM37 word := by unfold decode32; rw [hm]; rfl
    rw [hd]
    simp [decodeM37, k0, g0, g1, g2]
  exact statement_of rfl (e _ rfl)

theorem Encodable.csrs (d : XReg) (a : XReg) (csr : BitVec 12) : Encodable.Statement (.csrs d a csr) := by
  have h_d := d.isLt
  have h_a := a.isLt
  have h_csr := csr.isLt
  have e (word : Nat) (hw : word = 0x4c + put d 7 + put a 11 + put csr 15) : decode word = .ok (.csrs d a csr) := by
    simp only [put] at hw
    have g0 : reg word 7 = d := reg_eq (by omega)
    have g1 : reg word 11 = a := reg_eq (by omega)
    have g2 : bv word 15 12 = csr := bv_eq (by omega)
    have hm : word % 128 = 76 := by omega
    have k0 : Machine.fld word 27 5 = 0 := by simp only [Machine.fld]; omega
    refine decode_of_32 (by omega) (by omega) ?_
    have hd : decode32 word = decodeM38 word := by unfold decode32; rw [hm]; rfl
    rw [hd]
    simp [decodeM38, k0, g0, g1, g2]
  exact statement_of rfl (e _ rfl)

theorem Encodable.csrc (d : XReg) (a : XReg) (csr : BitVec 12) : Encodable.Statement (.csrc d a csr) := by
  have h_d := d.isLt
  have h_a := a.isLt
  have h_csr := csr.isLt
  have e (word : Nat) (hw : word = 0x4d + put d 7 + put a 11 + put csr 15) : decode word = .ok (.csrc d a csr) := by
    simp only [put] at hw
    have g0 : reg word 7 = d := reg_eq (by omega)
    have g1 : reg word 11 = a := reg_eq (by omega)
    have g2 : bv word 15 12 = csr := bv_eq (by omega)
    have hm : word % 128 = 77 := by omega
    have k0 : Machine.fld word 27 5 = 0 := by simp only [Machine.fld]; omega
    refine decode_of_32 (by omega) (by omega) ?_
    have hd : decode32 word = decodeM39 word := by unfold decode32; rw [hm]; rfl
    rw [hd]
    simp [decodeM39, k0, g0, g1, g2]
  exact statement_of rfl (e _ rfl)

theorem Encodable.trap (n : BitVec 16) : Encodable.Statement (.trap n) := by
  have h_n := n.isLt
  have e (word : Nat) (hw : word = 0x50 + put n 15) : decode word = .ok (.trap n) := by
    simp only [put] at hw
    have g0 : bv word 15 16 = n := bv_eq (by omega)
    have hm : word % 128 = 80 := by omega
    have k0 : Machine.fld word 7 8 = 0 := by simp only [Machine.fld]; omega
    have k1 : Machine.fld word 31 1 = 0 := by simp only [Machine.fld]; omega
    refine decode_of_32 (by omega) (by omega) ?_
    have hd : decode32 word = decodeM40 word := by unfold decode32; rw [hm]; rfl
    rw [hd]
    simp [decodeM40, k0, k1, g0]
  exact statement_of rfl (e _ rfl)

theorem Encodable.brk (n : BitVec 16) : Encodable.Statement (.brk n) := by
  have h_n := n.isLt
  have e (word : Nat) (hw : word = 0x54 + put n 15) : decode word = .ok (.brk n) := by
    simp only [put] at hw
    have g0 : bv word 15 16 = n := bv_eq (by omega)
    have hm : word % 128 = 84 := by omega
    have k0 : Machine.fld word 7 8 = 0 := by simp only [Machine.fld]; omega
    have k1 : Machine.fld word 31 1 = 0 := by simp only [Machine.fld]; omega
    refine decode_of_32 (by omega) (by omega) ?_
    have hd : decode32 word = decodeM42 word := by unfold decode32; rw [hm]; rfl
    rw [hd]
    simp [decodeM42, k0, k1, g0]
  exact statement_of rfl (e _ rfl)

theorem Encodable.tld (t : BitVec 3) (a : XReg) (off : BitVec 11) : Encodable.Statement (.tld t a off) := by
  have h_t := t.isLt
  have h_a := a.isLt
  have h_off := off.isLt
  have e (word : Nat) (hw : word = 0x55 + put t 7 + put a 11 + put off 21) : decode word = .ok (.tld t a off) := by
    simp only [put] at hw
    have g0 : bv word 7 3 = t := bv_eq (by omega)
    have g1 : reg word 11 = a := reg_eq (by omega)
    have g2 : bv word 21 11 = off := bv_eq (by omega)
    have hm : word % 128 = 85 := by omega
    have k0 : Machine.fld word 10 1 = 0 := by simp only [Machine.fld]; omega
    have k1 : Machine.fld word 15 6 = 0 := by simp only [Machine.fld]; omega
    refine decode_of_32 (by omega) (by omega) ?_
    have hd : decode32 word = decodeM43 word := by unfold decode32; rw [hm]; rfl
    rw [hd]
    simp [decodeM43, k0, k1, g0, g1, g2]
  exact statement_of rfl (e _ rfl)

theorem Encodable.tst (t : BitVec 3) (a : XReg) (off : BitVec 11) : Encodable.Statement (.tst t a off) := by
  have h_t := t.isLt
  have h_a := a.isLt
  have h_off := off.isLt
  have e (word : Nat) (hw : word = 0x58 + put t 7 + put a 11 + put off 21) : decode word = .ok (.tst t a off) := by
    simp only [put] at hw
    have g0 : bv word 7 3 = t := bv_eq (by omega)
    have g1 : reg word 11 = a := reg_eq (by omega)
    have g2 : bv word 21 11 = off := bv_eq (by omega)
    have hm : word % 128 = 88 := by omega
    have k0 : Machine.fld word 10 1 = 0 := by simp only [Machine.fld]; omega
    have k1 : Machine.fld word 15 6 = 0 := by simp only [Machine.fld]; omega
    refine decode_of_32 (by omega) (by omega) ?_
    have hd : decode32 word = decodeM44 word := by unfold decode32; rw [hm]; rfl
    rw [hd]
    simp [decodeM44, k0, k1, g0, g1, g2]
  exact statement_of rfl (e _ rfl)

theorem Encodable.tzero (t : BitVec 3) : Encodable.Statement (.tzero t) := by
  have h_t := t.isLt
  have e (word : Nat) (hw : word = 0x59 + put t 7) : decode word = .ok (.tzero t) := by
    simp only [put] at hw
    have g0 : bv word 7 3 = t := bv_eq (by omega)
    have hm : word % 128 = 89 := by omega
    have k0 : Machine.fld word 10 22 = 0 := by simp only [Machine.fld]; omega
    refine decode_of_32 (by omega) (by omega) ?_
    have hd : decode32 word = decodeM45 word := by unfold decode32; rw [hm]; rfl
    rw [hd]
    simp [decodeM45, k0, g0]
  exact statement_of rfl (e _ rfl)

theorem Encodable.azero (n : BitVec 2) (sr : BitVec 3) (int : Bool) : Encodable.Statement (.azero n sr int) := by
  have h_n := n.isLt
  have h_sr := sr.isLt
  have h_int := Bool.toNat_lt int
  have e (word : Nat) (hw : word = 0x5c + put n 7 + put sr 15 + putB int 18) : decode word = .ok (.azero n sr int) := by
    simp only [put, putB] at hw
    have g0 : bv word 7 2 = n := bv_eq (by omega)
    have g1 : bv word 15 3 = sr := bv_eq (by omega)
    have g2 : bit word 18 = int := bit_eq (by omega)
    have hm : word % 128 = 92 := by omega
    have k0 : Machine.fld word 9 6 = 0 := by simp only [Machine.fld]; omega
    have k1 : Machine.fld word 19 13 = 0 := by simp only [Machine.fld]; omega
    refine decode_of_32 (by omega) (by omega) ?_
    have hd : decode32 word = decodeM46 word := by unfold decode32; rw [hm]; rfl
    rw [hd]
    simp [decodeM46, k0, k1, g0, g1, g2]
  exact statement_of rfl (e _ rfl)

theorem Encodable.mma (f : M64) : Encodable.Statement (.mma f) :=
  statement_of rfl (dec_m f)

theorem Encodable.mdrain (acc : BitVec 2) (row0 : BitVec 5) (n : BitVec 4) (d : Spec) : Encodable.Statement (.mdrain acc row0 n d) := by
  have h_acc := acc.isLt
  have h_row0 := row0.isLt
  have h_n := n.isLt
  have h_d := d.isLt
  have e (word : Nat) (hw : word = 0x5d + put acc 23 + put row0 25 + put n 7 + put d 15) : decode word = .ok (.mdrain acc row0 n d) := by
    simp only [put] at hw
    have g0 : bv word 23 2 = acc := bv_eq (by omega)
    have g1 : bv word 25 5 = row0 := bv_eq (by omega)
    have g2 : reg word 7 = n := reg_eq (by omega)
    have g3 : bv word 15 8 = d := bv_eq (by omega)
    have hm : word % 128 = 93 := by omega
    have k0 : Machine.fld word 11 4 = 0 := by simp only [Machine.fld]; omega
    have k1 : Machine.fld word 30 2 = 0 := by simp only [Machine.fld]; omega
    refine decode_of_32 (by omega) (by omega) ?_
    have hd : decode32 word = decodeM47 word := by unfold decode32; rw [hm]; rfl
    rw [hd]
    simp [decodeM47, k0, k1, g0, g1, g2, g3]
  exact statement_of rfl (e _ rfl)

theorem Encodable.mdrainG (acc : BitVec 2) (row0 : BitVec 5) (n : BitVec 4) (d : Spec) (a : XReg) : Encodable.Statement (.mdrainG acc row0 n d a) := by
  have h_acc := acc.isLt
  have h_row0 := row0.isLt
  have h_n := n.isLt
  have h_d := d.isLt
  have h_a := a.isLt
  have e (word : Nat) (hw : word = 0x4000005d + put acc 23 + put row0 25 + put n 7 + put d 15 + put a 11) : decode word = .ok (.mdrainG acc row0 n d a) := by
    simp only [put] at hw
    have g0 : bv word 23 2 = acc := bv_eq (by omega)
    have g1 : bv word 25 5 = row0 := bv_eq (by omega)
    have g2 : reg word 7 = n := reg_eq (by omega)
    have g3 : bv word 15 8 = d := bv_eq (by omega)
    have g4 : reg word 11 = a := reg_eq (by omega)
    have hm : word % 128 = 93 := by omega
    have k1 : Machine.fld word 30 2 = 1 := by simp only [Machine.fld]; omega
    refine decode_of_32 (by omega) (by omega) ?_
    have hd : decode32 word = decodeM47 word := by unfold decode32; rw [hm]; rfl
    rw [hd]
    simp [decodeM47, k1, g0, g1, g2, g3, g4]
  exact statement_of rfl (e _ rfl)

theorem Encodable.mdrains (acc : BitVec 2) (row0 : BitVec 5) (n : BitVec 4) (d : Spec) (a : XReg) : Encodable.Statement (.mdrains acc row0 n d a) := by
  have h_acc := acc.isLt
  have h_row0 := row0.isLt
  have h_n := n.isLt
  have h_d := d.isLt
  have h_a := a.isLt
  have e (word : Nat) (hw : word = 0x60 + put acc 23 + put row0 25 + put n 7 + put d 15 + put a 11) : decode word = .ok (.mdrains acc row0 n d a) := by
    simp only [put] at hw
    have g0 : bv word 23 2 = acc := bv_eq (by omega)
    have g1 : bv word 25 5 = row0 := bv_eq (by omega)
    have g2 : reg word 7 = n := reg_eq (by omega)
    have g3 : bv word 15 8 = d := bv_eq (by omega)
    have g4 : reg word 11 = a := reg_eq (by omega)
    have hm : word % 128 = 96 := by omega
    have k0 : Machine.fld word 30 2 = 0 := by simp only [Machine.fld]; omega
    refine decode_of_32 (by omega) (by omega) ?_
    have hd : decode32 word = decodeM48 word := by unfold decode32; rw [hm]; rfl
    rw [hd]
    simp [decodeM48, k0, g0, g1, g2, g3, g4]
  exact statement_of rfl (e _ rfl)

theorem Encodable.mslot (half : Bool) (a : XReg) : Encodable.Statement (.mslot half a) := by
  have h_half := Bool.toNat_lt half
  have h_a := a.isLt
  have e (word : Nat) (hw : word = 0x61 + putB half 15 + put a 11) : decode word = .ok (.mslot half a) := by
    simp only [put, putB] at hw
    have g0 : bit word 15 = half := bit_eq (by omega)
    have g1 : reg word 11 = a := reg_eq (by omega)
    have hm : word % 128 = 97 := by omega
    have k0 : Machine.fld word 7 4 = 0 := by simp only [Machine.fld]; omega
    have k1 : Machine.fld word 16 16 = 0 := by simp only [Machine.fld]; omega
    refine decode_of_32 (by omega) (by omega) ?_
    have hd : decode32 word = decodeM49 word := by unfold decode32; rw [hm]; rfl
    rw [hd]
    simp [decodeM49, k0, k1, g0, g1]
  exact statement_of rfl (e _ rfl)

theorem Encodable.cpy (d : XReg) (a : XReg) (nb : Bool) : Encodable.Statement (.cpy d a nb) := by
  have h_d := d.isLt
  have h_a := a.isLt
  have h_nb := Bool.toNat_lt nb
  have e (word : Nat) (hw : word = 0x64 + put d 7 + put a 11 + putB nb 29) : decode word = .ok (.cpy d a nb) := by
    simp only [put, putB] at hw
    have g0 : reg word 7 = d := reg_eq (by omega)
    have g1 : reg word 11 = a := reg_eq (by omega)
    have g2 : bit word 29 = nb := bit_eq (by omega)
    have hm : word % 128 = 100 := by omega
    have k0 : Machine.fld word 15 14 = 0 := by simp only [Machine.fld]; omega
    have k1 : Machine.fld word 30 2 = 0 := by simp only [Machine.fld]; omega
    refine decode_of_32 (by omega) (by omega) ?_
    have hd : decode32 word = decodeM50 word := by unfold decode32; rw [hm]; rfl
    rw [hd]
    simp [decodeM50, k0, k1, g0, g1, g2]
  exact statement_of rfl (e _ rfl)

theorem Encodable.cpwait (d : XReg) (b : XReg) (ch : BitVec 2) : Encodable.Statement (.cpwait d b ch) := by
  have h_d := d.isLt
  have h_b := b.isLt
  have h_ch := ch.isLt
  have e (word : Nat) (hw : word = 0x65 + put d 7 + put b 15 + put ch 22) : decode word = .ok (.cpwait d b ch) := by
    simp only [put] at hw
    have g0 : reg word 7 = d := reg_eq (by omega)
    have g1 : reg word 15 = b := reg_eq (by omega)
    have g2 : bv word 22 2 = ch := bv_eq (by omega)
    have hm : word % 128 = 101 := by omega
    have k0 : Machine.fld word 11 4 = 0 := by simp only [Machine.fld]; omega
    have k1 : Machine.fld word 19 3 = 0 := by simp only [Machine.fld]; omega
    have k2 : Machine.fld word 24 8 = 0 := by simp only [Machine.fld]; omega
    refine decode_of_32 (by omega) (by omega) ?_
    have hd : decode32 word = decodeM51 word := by unfold decode32; rw [hm]; rfl
    rw [hd]
    simp [decodeM51, k0, k1, k2, g0, g1, g2]
  exact statement_of rfl (e _ rfl)

theorem Encodable.cvpt (d : XReg) : Encodable.Statement (.cvpt d) := by
  have h_d := d.isLt
  have e (word : Nat) (hw : word = 0x68 + put d 7) : decode word = .ok (.cvpt d) := by
    simp only [put] at hw
    have g0 : reg word 7 = d := reg_eq (by omega)
    have hm : word % 128 = 104 := by omega
    have k0 : Machine.fld word 11 21 = 0 := by simp only [Machine.fld]; omega
    refine decode_of_32 (by omega) (by omega) ?_
    have hd : decode32 word = decodeM52 word := by unfold decode32; rw [hm]; rfl
    rw [hd]
    simp [decodeM52, k0, g0]
  exact statement_of rfl (e _ rfl)

theorem Encodable.cvdone (a : XReg) : Encodable.Statement (.cvdone a) := by
  have h_a := a.isLt
  have e (word : Nat) (hw : word = 0x69 + put a 11) : decode word = .ok (.cvdone a) := by
    simp only [put] at hw
    have g0 : reg word 11 = a := reg_eq (by omega)
    have hm : word % 128 = 105 := by omega
    have k0 : Machine.fld word 7 4 = 0 := by simp only [Machine.fld]; omega
    have k1 : Machine.fld word 15 17 = 0 := by simp only [Machine.fld]; omega
    refine decode_of_32 (by omega) (by omega) ?_
    have hd : decode32 word = decodeM53 word := by unfold decode32; rw [hm]; rfl
    rw [hd]
    simp [decodeM53, k0, k1, g0]
  exact statement_of rfl (e _ rfl)

theorem Encodable.cvstat (d : XReg) (sel : BitVec 3) : Encodable.Statement (.cvstat d sel) := by
  have h_d := d.isLt
  have h_sel := sel.isLt
  have e (word : Nat) (hw : word = 0x6c + put d 7 + put sel 15) : decode word = .ok (.cvstat d sel) := by
    simp only [put] at hw
    have g0 : reg word 7 = d := reg_eq (by omega)
    have g1 : bv word 15 3 = sel := bv_eq (by omega)
    have hm : word % 128 = 108 := by omega
    have k0 : Machine.fld word 11 4 = 0 := by simp only [Machine.fld]; omega
    have k1 : Machine.fld word 18 14 = 0 := by simp only [Machine.fld]; omega
    refine decode_of_32 (by omega) (by omega) ?_
    have hd : decode32 word = decodeM54 word := by unfold decode32; rw [hm]; rfl
    rw [hd]
    simp [decodeM54, k0, k1, g0, g1]
  exact statement_of rfl (e _ rfl)

theorem Encodable.vxset (a : XReg) (imm : BitVec 16) : Encodable.Statement (.vxset a imm) := by
  have h_a := a.isLt
  have h_imm := imm.isLt
  have e (word : Nat) (hw : word = 0x6d + put a 11 + put imm 15) : decode word = .ok (.vxset a imm) := by
    simp only [put] at hw
    have g0 : reg word 11 = a := reg_eq (by omega)
    have g1 : bv word 15 16 = imm := bv_eq (by omega)
    have hm : word % 128 = 109 := by omega
    have k0 : Machine.fld word 7 4 = 0 := by simp only [Machine.fld]; omega
    have k1 : Machine.fld word 31 1 = 0 := by simp only [Machine.fld]; omega
    refine decode_of_32 (by omega) (by omega) ?_
    have hd : decode32 word = decodeM55 word := by unfold decode32; rw [hm]; rfl
    rw [hd]
    simp [decodeM55, k0, k1, g0, g1]
  exact statement_of rfl (e _ rfl)

theorem Encodable.hset (h : XReg) (a : XReg) (imm : BitVec 16) : Encodable.Statement (.hset h a imm) := by
  have h_h := h.isLt
  have h_a := a.isLt
  have h_imm := imm.isLt
  have e (word : Nat) (hw : word = 0x8000006d + put h 7 + put a 11 + put imm 15) : decode word = .ok (.hset h a imm) := by
    simp only [put] at hw
    have g0 : reg word 7 = h := reg_eq (by omega)
    have g1 : reg word 11 = a := reg_eq (by omega)
    have g2 : bv word 15 16 = imm := bv_eq (by omega)
    have hm : word % 128 = 109 := by omega
    have k1 : Machine.fld word 31 1 = 1 := by simp only [Machine.fld]; omega
    refine decode_of_32 (by omega) (by omega) ?_
    have hd : decode32 word = decodeM55 word := by unfold decode32; rw [hm]; rfl
    rw [hd]
    simp [decodeM55, k1, g0, g1, g2]
  exact statement_of rfl (e _ rfl)

theorem Encodable.vxadd (a : XReg) (imm : BitVec 17) : Encodable.Statement (.vxadd a imm) := by
  have h_a := a.isLt
  have h_imm := imm.isLt
  have e (word : Nat) (hw : word = 0x70 + put a 11 + put imm 15) : decode word = .ok (.vxadd a imm) := by
    simp only [put] at hw
    have g0 : reg word 11 = a := reg_eq (by omega)
    have g1 : bv word 15 17 = imm := bv_eq (by omega)
    have hm : word % 128 = 112 := by omega
    have k0 : Machine.fld word 7 4 = 0 := by simp only [Machine.fld]; omega
    refine decode_of_32 (by omega) (by omega) ?_
    have hd : decode32 word = decodeM56 word := by unfold decode32; rw [hm]; rfl
    rw [hd]
    simp [decodeM56, k0, g0, g1]
  exact statement_of rfl (e _ rfl)

theorem Encodable.chstat (d : XReg) (k : BitVec 4) : Encodable.Statement (.chstat d k) := by
  have h_d := d.isLt
  have h_k := k.isLt
  have e (word : Nat) (hw : word = 0x71 + put d 7 + put k 11) : decode word = .ok (.chstat d k) := by
    simp only [put] at hw
    have g0 : reg word 7 = d := reg_eq (by omega)
    have g1 : reg word 11 = k := reg_eq (by omega)
    have hm : word % 128 = 113 := by omega
    have k0 : Machine.fld word 15 17 = 0 := by simp only [Machine.fld]; omega
    refine decode_of_32 (by omega) (by omega) ?_
    have hd : decode32 word = decodeM57 word := by unfold decode32; rw [hm]; rfl
    rw [hd]
    simp [decodeM57, k0, g0, g1]
  exact statement_of rfl (e _ rfl)

theorem Encodable.chclose (k : BitVec 4) : Encodable.Statement (.chclose k) := by
  have h_k := k.isLt
  have e (word : Nat) (hw : word = 0x74 + put k 11) : decode word = .ok (.chclose k) := by
    simp only [put] at hw
    have g0 : reg word 11 = k := reg_eq (by omega)
    have hm : word % 128 = 116 := by omega
    have k0 : Machine.fld word 7 4 = 0 := by simp only [Machine.fld]; omega
    have k1 : Machine.fld word 15 17 = 0 := by simp only [Machine.fld]; omega
    refine decode_of_32 (by omega) (by omega) ?_
    have hd : decode32 word = decodeM58 word := by unfold decode32; rw [hm]; rfl
    rw [hd]
    simp [decodeM58, k0, k1, g0]
  exact statement_of rfl (e _ rfl)

theorem Encodable.psend (a : XReg) (b : XReg) : Encodable.Statement (.psend a b) := by
  have h_a := a.isLt
  have h_b := b.isLt
  have e (word : Nat) (hw : word = 0x75 + put a 11 + put b 15) : decode word = .ok (.psend a b) := by
    simp only [put] at hw
    have g0 : reg word 11 = a := reg_eq (by omega)
    have g1 : reg word 15 = b := reg_eq (by omega)
    have hm : word % 128 = 117 := by omega
    have k0 : Machine.fld word 7 4 = 0 := by simp only [Machine.fld]; omega
    have k1 : Machine.fld word 19 13 = 0 := by simp only [Machine.fld]; omega
    refine decode_of_32 (by omega) (by omega) ?_
    have hd : decode32 word = decodeM59 word := by unfold decode32; rw [hm]; rfl
    rw [hd]
    simp [decodeM59, k0, k1, g0, g1]
  exact statement_of rfl (e _ rfl)

theorem Encodable.precv (d : XReg) (a : XReg) : Encodable.Statement (.precv d a) := by
  have h_d := d.isLt
  have h_a := a.isLt
  have e (word : Nat) (hw : word = 0x78 + put d 7 + put a 11) : decode word = .ok (.precv d a) := by
    simp only [put] at hw
    have g0 : reg word 7 = d := reg_eq (by omega)
    have g1 : reg word 11 = a := reg_eq (by omega)
    have hm : word % 128 = 120 := by omega
    have k0 : Machine.fld word 15 17 = 0 := by simp only [Machine.fld]; omega
    refine decode_of_32 (by omega) (by omega) ?_
    have hd : decode32 word = decodeM60 word := by unfold decode32; rw [hm]; rfl
    rw [hd]
    simp [decodeM60, k0, g0, g1]
  exact statement_of rfl (e _ rfl)

theorem Encodable.vadd (f : V64) : Encodable.Statement (.vadd f) :=
  statement_of rfl (dec_v 0 2 0 _ f (by decide) rfl (by decide) rfl)

theorem Encodable.vsub (f : V64) : Encodable.Statement (.vsub f) :=
  statement_of rfl (dec_v 0 2 1 _ f (by decide) rfl (by decide) rfl)

theorem Encodable.vmul (f : V64) : Encodable.Statement (.vmul f) :=
  statement_of rfl (dec_v 0 2 2 _ f (by decide) rfl (by decide) rfl)

theorem Encodable.vfma (f : V64) : Encodable.Statement (.vfma f) :=
  statement_of rfl (dec_v 0 2 3 _ f (by decide) rfl (by decide) rfl)

theorem Encodable.vfms (f : V64) : Encodable.Statement (.vfms f) :=
  statement_of rfl (dec_v 0 2 4 _ f (by decide) rfl (by decide) rfl)

theorem Encodable.vdiv (f : V64) : Encodable.Statement (.vdiv f) :=
  statement_of rfl (dec_v 0 2 5 _ f (by decide) rfl (by decide) rfl)

theorem Encodable.vmin (f : V64) : Encodable.Statement (.vmin f) :=
  statement_of rfl (dec_v 0 2 6 _ f (by decide) rfl (by decide) rfl)

theorem Encodable.vmax (f : V64) : Encodable.Statement (.vmax f) :=
  statement_of rfl (dec_v 0 2 7 _ f (by decide) rfl (by decide) rfl)

theorem Encodable.vabs (f : V64) : Encodable.Statement (.vabs f) :=
  statement_of rfl (dec_v 0 2 8 _ f (by decide) rfl (by decide) rfl)

theorem Encodable.vneg (f : V64) : Encodable.Statement (.vneg f) :=
  statement_of rfl (dec_v 0 2 9 _ f (by decide) rfl (by decide) rfl)

theorem Encodable.vand (f : V64) : Encodable.Statement (.vand f) :=
  statement_of rfl (dec_v 0 2 10 _ f (by decide) rfl (by decide) rfl)

theorem Encodable.vor (f : V64) : Encodable.Statement (.vor f) :=
  statement_of rfl (dec_v 0 2 11 _ f (by decide) rfl (by decide) rfl)

theorem Encodable.vxor (f : V64) : Encodable.Statement (.vxor f) :=
  statement_of rfl (dec_v 0 2 12 _ f (by decide) rfl (by decide) rfl)

theorem Encodable.vandn (f : V64) : Encodable.Statement (.vandn f) :=
  statement_of rfl (dec_v 0 2 13 _ f (by decide) rfl (by decide) rfl)

theorem Encodable.vshl (f : V64) : Encodable.Statement (.vshl f) :=
  statement_of rfl (dec_v 0 2 14 _ f (by decide) rfl (by decide) rfl)

theorem Encodable.vshr (f : V64) : Encodable.Statement (.vshr f) :=
  statement_of rfl (dec_v 0 2 15 _ f (by decide) rfl (by decide) rfl)

theorem Encodable.vsar (f : V64) : Encodable.Statement (.vsar f) :=
  statement_of rfl (dec_v 0 2 16 _ f (by decide) rfl (by decide) rfl)

theorem Encodable.vcmp (f : V64) : Encodable.Statement (.vcmp f) :=
  statement_of rfl (dec_v 0 2 17 _ f (by decide) rfl (by decide) rfl)

theorem Encodable.vsel (f : V64) : Encodable.Statement (.vsel f) :=
  statement_of rfl (dec_v 0 2 18 _ f (by decide) rfl (by decide) rfl)

theorem Encodable.vclamp (f : V64) : Encodable.Statement (.vclamp f) :=
  statement_of rfl (dec_v 0 2 19 _ f (by decide) rfl (by decide) rfl)

theorem Encodable.vcvt (f : V64) : Encodable.Statement (.vcvt f) :=
  statement_of rfl (dec_v 1 6 0 _ f (by decide) rfl (by decide) rfl)

theorem Encodable.vscale (f : V64) : Encodable.Statement (.vscale f) :=
  statement_of rfl (dec_v 1 6 1 _ f (by decide) rfl (by decide) rfl)

theorem Encodable.vdot (f : V64) : Encodable.Statement (.vdot f) :=
  statement_of rfl (dec_v 1 6 2 _ f (by decide) rfl (by decide) rfl)

theorem Encodable.vred (f : V64) : Encodable.Statement (.vred f) :=
  statement_of rfl (dec_v 2 10 0 _ f (by decide) rfl (by decide) rfl)

theorem Encodable.vargmax (f : V64) : Encodable.Statement (.vargmax f) :=
  statement_of rfl (dec_v 2 10 1 _ f (by decide) rfl (by decide) rfl)

theorem Encodable.vgumbel (f : V64) : Encodable.Statement (.vgumbel f) :=
  statement_of rfl (dec_v 2 10 2 _ f (by decide) rfl (by decide) rfl)

theorem Encodable.vmov (f : V64) : Encodable.Statement (.vmov f) :=
  statement_of rfl (dec_v 3 14 0 _ f (by decide) rfl (by decide) rfl)

theorem Encodable.vbcast (f : V64) : Encodable.Statement (.vbcast f) :=
  statement_of rfl (dec_v 3 14 1 _ f (by decide) rfl (by decide) rfl)

theorem Encodable.vextr (f : V64) : Encodable.Statement (.vextr f) :=
  statement_of rfl (dec_v 3 14 2 _ f (by decide) rfl (by decide) rfl)

theorem Encodable.vins (f : V64) : Encodable.Statement (.vins f) :=
  statement_of rfl (dec_v 3 14 3 _ f (by decide) rfl (by decide) rfl)

theorem Encodable.vperm (f : V64) : Encodable.Statement (.vperm f) :=
  statement_of rfl (dec_v 3 14 4 _ f (by decide) rfl (by decide) rfl)

theorem Encodable.vslide (f : V64) : Encodable.Statement (.vslide f) :=
  statement_of rfl (dec_v 3 14 5 _ f (by decide) rfl (by decide) rfl)

theorem Encodable.vcomp (f : V64) : Encodable.Statement (.vcomp f) :=
  statement_of rfl (dec_v 3 14 6 _ f (by decide) rfl (by decide) rfl)

theorem Encodable.vexp2 (f : V64) : Encodable.Statement (.vexp2 f) :=
  statement_of rfl (dec_v 4 18 0 _ f (by decide) rfl (by decide) rfl)

theorem Encodable.vlog2 (f : V64) : Encodable.Statement (.vlog2 f) :=
  statement_of rfl (dec_v 4 18 1 _ f (by decide) rfl (by decide) rfl)

theorem Encodable.vrcp (f : V64) : Encodable.Statement (.vrcp f) :=
  statement_of rfl (dec_v 4 18 2 _ f (by decide) rfl (by decide) rfl)

theorem Encodable.vrsqrt (f : V64) : Encodable.Statement (.vrsqrt f) :=
  statement_of rfl (dec_v 4 18 3 _ f (by decide) rfl (by decide) rfl)

theorem Encodable.vsqrt (f : V64) : Encodable.Statement (.vsqrt f) :=
  statement_of rfl (dec_v 4 18 4 _ f (by decide) rfl (by decide) rfl)

theorem Encodable.vsin (f : V64) : Encodable.Statement (.vsin f) :=
  statement_of rfl (dec_v 4 18 5 _ f (by decide) rfl (by decide) rfl)

theorem Encodable.vcos (f : V64) : Encodable.Statement (.vcos f) :=
  statement_of rfl (dec_v 4 18 6 _ f (by decide) rfl (by decide) rfl)

theorem Encodable.vtanh (f : V64) : Encodable.Statement (.vtanh f) :=
  statement_of rfl (dec_v 4 18 7 _ f (by decide) rfl (by decide) rfl)

theorem Encodable.vsigm (f : V64) : Encodable.Statement (.vsigm f) :=
  statement_of rfl (dec_v 4 18 8 _ f (by decide) rfl (by decide) rfl)

theorem Encodable.vld (f : V64) : Encodable.Statement (.vld f) :=
  statement_of rfl (dec_v 5 22 0 _ f (by decide) rfl (by decide) rfl)

theorem Encodable.vst (f : V64) : Encodable.Statement (.vst f) :=
  statement_of rfl (dec_v 5 22 1 _ f (by decide) rfl (by decide) rfl)

theorem Encodable.vlds (f : V64) : Encodable.Statement (.vlds f) :=
  statement_of rfl (dec_v 5 22 2 _ f (by decide) rfl (by decide) rfl)

theorem Encodable.vsts (f : V64) : Encodable.Statement (.vsts f) :=
  statement_of rfl (dec_v 5 22 3 _ f (by decide) rfl (by decide) rfl)

theorem Encodable.vgather (f : V64) : Encodable.Statement (.vgather f) :=
  statement_of rfl (dec_v 5 22 4 _ f (by decide) rfl (by decide) rfl)

theorem Encodable.vscatter (f : V64) : Encodable.Statement (.vscatter f) :=
  statement_of rfl (dec_v 5 22 5 _ f (by decide) rfl (by decide) rfl)

theorem Encodable.mop (f : V64) : Encodable.Statement (.mop f) :=
  statement_of rfl (dec_v 6 26 0 _ f (by decide) rfl (by decide) rfl)

theorem Encodable.mpop (f : V64) : Encodable.Statement (.mpop f) :=
  statement_of rfl (dec_v 6 26 1 _ f (by decide) rfl (by decide) rfl)

theorem Encodable.mfirst (f : V64) : Encodable.Statement (.mfirst f) :=
  statement_of rfl (dec_v 6 26 2 _ f (by decide) rfl (by decide) rfl)

theorem Encodable.mset (f : V64) : Encodable.Statement (.mset f) :=
  statement_of rfl (dec_v 6 26 3 _ f (by decide) rfl (by decide) rfl)

theorem Encodable.vaddVi (f : VI) : Encodable.Statement (.vaddVi f) :=
  statement_of rfl (dec_vi 0 _ f (by decide) rfl)

theorem Encodable.vsubVi (f : VI) : Encodable.Statement (.vsubVi f) :=
  statement_of rfl (dec_vi 1 _ f (by decide) rfl)

theorem Encodable.vmulVi (f : VI) : Encodable.Statement (.vmulVi f) :=
  statement_of rfl (dec_vi 2 _ f (by decide) rfl)

theorem Encodable.vdivVi (f : VI) : Encodable.Statement (.vdivVi f) :=
  statement_of rfl (dec_vi 5 _ f (by decide) rfl)

theorem Encodable.vminVi (f : VI) : Encodable.Statement (.vminVi f) :=
  statement_of rfl (dec_vi 6 _ f (by decide) rfl)

theorem Encodable.vmaxVi (f : VI) : Encodable.Statement (.vmaxVi f) :=
  statement_of rfl (dec_vi 7 _ f (by decide) rfl)

theorem Encodable.vandVi (f : VI) : Encodable.Statement (.vandVi f) :=
  statement_of rfl (dec_vi 10 _ f (by decide) rfl)

theorem Encodable.vorVi (f : VI) : Encodable.Statement (.vorVi f) :=
  statement_of rfl (dec_vi 11 _ f (by decide) rfl)

theorem Encodable.vxorVi (f : VI) : Encodable.Statement (.vxorVi f) :=
  statement_of rfl (dec_vi 12 _ f (by decide) rfl)

theorem Encodable.vandnVi (f : VI) : Encodable.Statement (.vandnVi f) :=
  statement_of rfl (dec_vi 13 _ f (by decide) rfl)

theorem Encodable.vshlVi (f : VI) : Encodable.Statement (.vshlVi f) :=
  statement_of rfl (dec_vi 14 _ f (by decide) rfl)

theorem Encodable.vshrVi (f : VI) : Encodable.Statement (.vshrVi f) :=
  statement_of rfl (dec_vi 15 _ f (by decide) rfl)

theorem Encodable.vsarVi (f : VI) : Encodable.Statement (.vsarVi f) :=
  statement_of rfl (dec_vi 16 _ f (by decide) rfl)

theorem Encodable.vaddLit (f : V64) (lit : W32) : Encodable.Statement (.vaddLit f lit) :=
  statement_of rfl (dec_lit 0 3 0 _ f lit (by decide) rfl (by decide) rfl)

theorem Encodable.vsubLit (f : V64) (lit : W32) : Encodable.Statement (.vsubLit f lit) :=
  statement_of rfl (dec_lit 0 3 1 _ f lit (by decide) rfl (by decide) rfl)

theorem Encodable.vmulLit (f : V64) (lit : W32) : Encodable.Statement (.vmulLit f lit) :=
  statement_of rfl (dec_lit 0 3 2 _ f lit (by decide) rfl (by decide) rfl)

theorem Encodable.vfmaLit (f : V64) (lit : W32) : Encodable.Statement (.vfmaLit f lit) :=
  statement_of rfl (dec_lit 0 3 3 _ f lit (by decide) rfl (by decide) rfl)

theorem Encodable.vfmsLit (f : V64) (lit : W32) : Encodable.Statement (.vfmsLit f lit) :=
  statement_of rfl (dec_lit 0 3 4 _ f lit (by decide) rfl (by decide) rfl)

theorem Encodable.vdivLit (f : V64) (lit : W32) : Encodable.Statement (.vdivLit f lit) :=
  statement_of rfl (dec_lit 0 3 5 _ f lit (by decide) rfl (by decide) rfl)

theorem Encodable.vminLit (f : V64) (lit : W32) : Encodable.Statement (.vminLit f lit) :=
  statement_of rfl (dec_lit 0 3 6 _ f lit (by decide) rfl (by decide) rfl)

theorem Encodable.vmaxLit (f : V64) (lit : W32) : Encodable.Statement (.vmaxLit f lit) :=
  statement_of rfl (dec_lit 0 3 7 _ f lit (by decide) rfl (by decide) rfl)

theorem Encodable.vabsLit (f : V64) (lit : W32) : Encodable.Statement (.vabsLit f lit) :=
  statement_of rfl (dec_lit 0 3 8 _ f lit (by decide) rfl (by decide) rfl)

theorem Encodable.vnegLit (f : V64) (lit : W32) : Encodable.Statement (.vnegLit f lit) :=
  statement_of rfl (dec_lit 0 3 9 _ f lit (by decide) rfl (by decide) rfl)

theorem Encodable.vandLit (f : V64) (lit : W32) : Encodable.Statement (.vandLit f lit) :=
  statement_of rfl (dec_lit 0 3 10 _ f lit (by decide) rfl (by decide) rfl)

theorem Encodable.vorLit (f : V64) (lit : W32) : Encodable.Statement (.vorLit f lit) :=
  statement_of rfl (dec_lit 0 3 11 _ f lit (by decide) rfl (by decide) rfl)

theorem Encodable.vxorLit (f : V64) (lit : W32) : Encodable.Statement (.vxorLit f lit) :=
  statement_of rfl (dec_lit 0 3 12 _ f lit (by decide) rfl (by decide) rfl)

theorem Encodable.vandnLit (f : V64) (lit : W32) : Encodable.Statement (.vandnLit f lit) :=
  statement_of rfl (dec_lit 0 3 13 _ f lit (by decide) rfl (by decide) rfl)

theorem Encodable.vshlLit (f : V64) (lit : W32) : Encodable.Statement (.vshlLit f lit) :=
  statement_of rfl (dec_lit 0 3 14 _ f lit (by decide) rfl (by decide) rfl)

theorem Encodable.vshrLit (f : V64) (lit : W32) : Encodable.Statement (.vshrLit f lit) :=
  statement_of rfl (dec_lit 0 3 15 _ f lit (by decide) rfl (by decide) rfl)

theorem Encodable.vsarLit (f : V64) (lit : W32) : Encodable.Statement (.vsarLit f lit) :=
  statement_of rfl (dec_lit 0 3 16 _ f lit (by decide) rfl (by decide) rfl)

theorem Encodable.vcmpLit (f : V64) (lit : W32) : Encodable.Statement (.vcmpLit f lit) :=
  statement_of rfl (dec_lit 0 3 17 _ f lit (by decide) rfl (by decide) rfl)

theorem Encodable.vselLit (f : V64) (lit : W32) : Encodable.Statement (.vselLit f lit) :=
  statement_of rfl (dec_lit 0 3 18 _ f lit (by decide) rfl (by decide) rfl)

theorem Encodable.vclampLit (f : V64) (lit : W32) : Encodable.Statement (.vclampLit f lit) :=
  statement_of rfl (dec_lit 0 3 19 _ f lit (by decide) rfl (by decide) rfl)

theorem Encodable.vcvtLit (f : V64) (lit : W32) : Encodable.Statement (.vcvtLit f lit) :=
  statement_of rfl (dec_lit 1 7 0 _ f lit (by decide) rfl (by decide) rfl)

theorem Encodable.vscaleLit (f : V64) (lit : W32) : Encodable.Statement (.vscaleLit f lit) :=
  statement_of rfl (dec_lit 1 7 1 _ f lit (by decide) rfl (by decide) rfl)

theorem Encodable.vdotLit (f : V64) (lit : W32) : Encodable.Statement (.vdotLit f lit) :=
  statement_of rfl (dec_lit 1 7 2 _ f lit (by decide) rfl (by decide) rfl)

theorem Encodable.vredLit (f : V64) (lit : W32) : Encodable.Statement (.vredLit f lit) :=
  statement_of rfl (dec_lit 2 11 0 _ f lit (by decide) rfl (by decide) rfl)

theorem Encodable.vargmaxLit (f : V64) (lit : W32) : Encodable.Statement (.vargmaxLit f lit) :=
  statement_of rfl (dec_lit 2 11 1 _ f lit (by decide) rfl (by decide) rfl)

theorem Encodable.vgumbelLit (f : V64) (lit : W32) : Encodable.Statement (.vgumbelLit f lit) :=
  statement_of rfl (dec_lit 2 11 2 _ f lit (by decide) rfl (by decide) rfl)

theorem Encodable.vmovLit (f : V64) (lit : W32) : Encodable.Statement (.vmovLit f lit) :=
  statement_of rfl (dec_lit 3 15 0 _ f lit (by decide) rfl (by decide) rfl)

theorem Encodable.vextrLit (f : V64) (lit : W32) : Encodable.Statement (.vextrLit f lit) :=
  statement_of rfl (dec_lit 3 15 2 _ f lit (by decide) rfl (by decide) rfl)

theorem Encodable.vpermLit (f : V64) (lit : W32) : Encodable.Statement (.vpermLit f lit) :=
  statement_of rfl (dec_lit 3 15 4 _ f lit (by decide) rfl (by decide) rfl)

theorem Encodable.vslideLit (f : V64) (lit : W32) : Encodable.Statement (.vslideLit f lit) :=
  statement_of rfl (dec_lit 3 15 5 _ f lit (by decide) rfl (by decide) rfl)

theorem Encodable.vcompLit (f : V64) (lit : W32) : Encodable.Statement (.vcompLit f lit) :=
  statement_of rfl (dec_lit 3 15 6 _ f lit (by decide) rfl (by decide) rfl)

theorem Encodable.cnew (cd : BitVec 4) (imm : W32) : Encodable.Statement (.cnew cd imm) := no_words rfl

theorem Encodable.cfork (cd : BitVec 4) (cs : BitVec 4) : Encodable.Statement (.cfork cd cs) := no_words rfl

theorem Encodable.cdrop (cd : BitVec 4) : Encodable.Statement (.cdrop cd) := no_words rfl

theorem Encodable.ctrim (cd : BitVec 4) (gs : BitVec 3) : Encodable.Statement (.ctrim cd gs) := no_words rfl

theorem Encodable.clen (gd : BitVec 3) (cs : BitVec 4) : Encodable.Statement (.clen gd cs) := no_words rfl

theorem Encodable.ctok (gd : BitVec 3) (cs : BitVec 4) (gs : BitVec 3) : Encodable.Statement (.ctok gd cs gs) := no_words rfl

theorem Encodable.cappt (cd : BitVec 4) (gs : BitVec 3) : Encodable.Statement (.cappt cd gs) := no_words rfl

theorem Encodable.cinfo (gd : BitVec 3) (cs : BitVec 4) (sel : BitVec 3) : Encodable.Statement (.cinfo gd cs sel) := no_words rfl

theorem Encodable.csets (cd : BitVec 4) (gs : BitVec 3) (sel : BitVec 3) : Encodable.Statement (.csets cd gs sel) := no_words rfl

theorem Encodable.csetx (cd : BitVec 4) (gs : BitVec 3) (sel : BitVec 3) : Encodable.Statement (.csetx cd gs sel) := no_words rfl

theorem Encodable.cbind (cd : BitVec 4) (imm : W32) : Encodable.Statement (.cbind cd imm) := no_words rfl

theorem Encodable.cappend (cd : BitVec 4) (gs : BitVec 3) (imm : W32) : Encodable.Statement (.cappend cd gs imm) := no_words rfl

theorem Encodable.cgen (cd : BitVec 4) (gd : BitVec 3) (gs : BitVec 3) : Encodable.Statement (.cgen cd gd gs) := no_words rfl

theorem Encodable.cscore (gd : BitVec 3) (cs : BitVec 4) (gs : BitVec 3) (imm : W32) : Encodable.Statement (.cscore gd cs gs imm) := no_words rfl

theorem Encodable.cchoose (cd : BitVec 4) (gd : BitVec 3) (gs : BitVec 3) (imm : W32) : Encodable.Statement (.cchoose cd gd gs imm) := no_words rfl

theorem Encodable.gli (gd : BitVec 3) (imm : W32) : Encodable.Statement (.gli gd imm) := no_words rfl

theorem Encodable.glih (gd : BitVec 3) (imm : W32) : Encodable.Statement (.glih gd imm) := no_words rfl

theorem Encodable.gadd (gd : BitVec 3) (i : Bool) (gs : BitVec 3) (imm : W32) : Encodable.Statement (.gadd gd i gs imm) := no_words rfl

theorem Encodable.gsub (gd : BitVec 3) (i : Bool) (gs : BitVec 3) (imm : W32) : Encodable.Statement (.gsub gd i gs imm) := no_words rfl

theorem Encodable.gmul (gd : BitVec 3) (i : Bool) (gs : BitVec 3) (imm : W32) : Encodable.Statement (.gmul gd i gs imm) := no_words rfl

theorem Encodable.gcmp (gd : BitVec 3) (i : Bool) (gs : BitVec 3) (imm : W32) (cond : BitVec 3) : Encodable.Statement (.gcmp gd i gs imm cond) := no_words rfl

theorem Encodable.gld (gd : BitVec 3) (gs : BitVec 3) (w : Bool) (imm : W32) : Encodable.Statement (.gld gd gs w imm) := no_words rfl

theorem Encodable.gst (gd : BitVec 3) (gs : BitVec 3) (w : Bool) (imm : W32) : Encodable.Statement (.gst gd gs w imm) := no_words rfl

theorem Encodable.gb (sense : Bool) (imm : W32) : Encodable.Statement (.gb sense imm) := no_words rfl

theorem Encodable.gj (imm : W32) : Encodable.Statement (.gj imm) := no_words rfl

theorem Encodable.gcall (imm : W32) : Encodable.Statement (.gcall imm) := no_words rfl

theorem Encodable.gsig (gd : BitVec 3) (gs : BitVec 3) (imm : W32) : Encodable.Statement (.gsig gd gs imm) := no_words rfl

theorem Encodable.gwait (gd : BitVec 3) (gs : BitVec 3) (cond : BitVec 3) (imm : W32) : Encodable.Statement (.gwait gd gs cond imm) := no_words rfl

theorem Encodable.gpri (imm : W32) : Encodable.Statement (.gpri imm) := no_words rfl

theorem Encodable.ghalt (gs : BitVec 3) : Encodable.Statement (.ghalt gs) := no_words rfl

theorem Encodable.unassignedEncoding (cause : BitVec 8) (tval : Word) : Encodable.Statement (.unassignedEncoding cause tval) := no_words rfl

theorem Encodable.fetchFault (cause : BitVec 8) (va : Word) : Encodable.Statement (.fetchFault cause va) := no_words rfl

theorem Encodable.agentIllegal (cause : BitVec 8) (tval : Word) (under : BitVec 8) : Encodable.Statement (.agentIllegal cause tval under) := no_words rfl

theorem Encodable.linkCrcRetry (corrected : Option Nat) : Encodable.Statement (.linkCrcRetry corrected) := no_words rfl

theorem Encodable.memoryReply (strand : Nat) : Encodable.Statement (.memoryReply strand) := no_words rfl

theorem Encodable.pageWalk (core : Nat) (va : Word) (evict : Nat) : Encodable.Statement (.pageWalk core va evict) := no_words rfl

theorem Encodable.vectorBeat (core : Nat) : Encodable.Statement (.vectorBeat core) := no_words rfl

theorem Encodable.matrixOpStart (core : Nat) (array : Bool) : Encodable.Statement (.matrixOpStart core array) := no_words rfl

theorem Encodable.arrayFree (core : Nat) : Encodable.Statement (.arrayFree core) := no_words rfl

theorem Encodable.matrixOpComplete (core : Nat) (slot : Nat) : Encodable.Statement (.matrixOpComplete core slot) := no_words rfl

theorem Encodable.searchRetry (strand : Nat) : Encodable.Statement (.searchRetry strand) := no_words rfl

theorem Encodable.heldTaskEnter (core : Nat) : Encodable.Statement (.heldTaskEnter core) := no_words rfl

theorem Encodable.depDecrementArrive (k : Nat) : Encodable.Statement (.depDecrementArrive k) := no_words rfl

theorem Encodable.migrationArrive (k : Nat) : Encodable.Statement (.migrationArrive k) := no_words rfl

theorem Encodable.callArrive (k : Nat) : Encodable.Statement (.callArrive k) := no_words rfl

theorem Encodable.replyArrive (k : Nat) : Encodable.Statement (.replyArrive k) := no_words rfl

theorem Encodable.barrierPhaseComplete (ctx : Nat) (bar : Nat) : Encodable.Statement (.barrierPhaseComplete ctx bar) := no_words rfl

theorem Encodable.stageComplete (launch : Nat) (stage : Nat) : Encodable.Statement (.stageComplete launch stage) := no_words rfl

theorem Encodable.groupRestart (launch : Nat) (stage : Nat) : Encodable.Statement (.groupRestart launch stage) := no_words rfl

theorem Encodable.launchRestart (launch : Nat) : Encodable.Statement (.launchRestart launch) := no_words rfl

theorem Encodable.parameterBlockRead (core : Nat) (ch : BitVec 2) : Encodable.Statement (.parameterBlockRead core ch) := no_words rfl

theorem Encodable.copyJobStart (core : Nat) (ch : BitVec 2) : Encodable.Statement (.copyJobStart core ch) := no_words rfl

theorem Encodable.copyTransfer (core : Nat) (ch : BitVec 2) : Encodable.Statement (.copyTransfer core ch) := no_words rfl

theorem Encodable.gatherRowsArrive (core : Nat) (ch : BitVec 2) (owner : Nat) : Encodable.Statement (.gatherRowsArrive core ch owner) := no_words rfl

theorem Encodable.copyJobComplete (core : Nat) (ch : BitVec 2) : Encodable.Statement (.copyJobComplete core ch) := no_words rfl

theorem Encodable.engineFaultRetry (e : EngineRef) : Encodable.Statement (.engineFaultRetry e) := no_words rfl

theorem Encodable.engineFaultExpiry (e : EngineRef) : Encodable.Statement (.engineFaultExpiry e) := no_words rfl

theorem Encodable.batchGrant (launch : Nat) (stage : Nat) : Encodable.Statement (.batchGrant launch stage) := no_words rfl

theorem Encodable.blockReconstruct (launch : Nat) (stage : Nat) : Encodable.Statement (.blockReconstruct launch stage) := no_words rfl

theorem Encodable.waitwRecheck (strand : Nat) : Encodable.Statement (.waitwRecheck strand) := no_words rfl

theorem Encodable.gwaitRecheck (agent : Nat) : Encodable.Statement (.gwaitRecheck agent) := no_words rfl

theorem Encodable.stepPlan (part : Nat) : Encodable.Statement (.stepPlan part) := no_words rfl

theorem Encodable.stepComplete (part : Nat) (idle : Nat) (stall : Nat) : Encodable.Statement (.stepComplete part idle stall) := no_words rfl

theorem Encodable.stepFault (part : Nat) (fault : Option (BitVec 8)) : Encodable.Statement (.stepFault part fault) := no_words rfl

theorem Encodable.blockMove (entry : Nat) (place : BitVec 2) : Encodable.Statement (.blockMove entry place) := no_words rfl

theorem Encodable.agentSwapIn (agent : Nat) (out : Nat) : Encodable.Statement (.agentSwapIn agent out) := no_words rfl

theorem Encodable.sliceExpiry (thread : Nat) : Encodable.Statement (.sliceExpiry thread) := no_words rfl

theorem Encodable.queueWake (qid : Nat) : Encodable.Statement (.queueWake qid) := no_words rfl

theorem Encodable.packetRefetch (thread : Nat) : Encodable.Statement (.packetRefetch thread) := no_words rfl

theorem Encodable.queueTorn (thread : Nat) : Encodable.Statement (.queueTorn thread) := no_words rfl

theorem Encodable.nop (h : Hdr) : Encodable.Statement (.nop h) := no_words rfl

theorem Encodable.launch (h : Hdr) (desc : Word) (sigaddr : Word) (sigval : Word) : Encodable.Statement (.launch h desc sigaddr sigval) := no_words rfl

theorem Encodable.waits (h : Hdr) (addr : Word) (value : Word) (cond : Byte) (timeout : Word) : Encodable.Statement (.waits h addr value cond timeout) := no_words rfl

theorem Encodable.waitsRecheck (thread : Nat) : Encodable.Statement (.waitsRecheck thread) := no_words rfl

theorem Encodable.waitsTimeout (qsb : Nat) : Encodable.Statement (.waitsTimeout qsb) := no_words rfl

theorem Encodable.signal (h : Hdr) (addr : Word) (value : Word) (op : Byte) : Encodable.Statement (.signal h addr value op) := no_words rfl

theorem Encodable.cond (h : Hdr) (addr : Word) (value : Word) (cond : Byte) (target : Word) : Encodable.Statement (.cond h addr value cond target) := no_words rfl

theorem Encodable.rearm (h : Hdr) (base : Word) (size : Word) (target : Word) : Encodable.Statement (.rearm h base size target) := no_words rfl

theorem Encodable.copyh (h : Hdr) (src : Word) (dst : Word) (bytes : Word) (sigaddr : Word) : Encodable.Statement (.copyh h src dst bytes sigaddr) := no_words rfl

theorem Encodable.copyhComplete (k : Nat) : Encodable.Statement (.copyhComplete k) := no_words rfl

theorem Encodable.ring (h : Hdr) (ringid : Half) (vector : Half) (entries : W32) (base : Word) (headaddr : Word) (thresh : W32) (timeout : Word) : Encodable.Statement (.ring h ringid vector entries base headaddr thresh timeout) := no_words rfl

theorem Encodable.tstamp (h : Hdr) (addr : Word) : Encodable.Statement (.tstamp h addr) := no_words rfl

theorem Encodable.fencePacket (h : Hdr) : Encodable.Statement (.fencePacket h) := no_words rfl

theorem Encodable.agentCreate (h : Hdr) (ceil : Byte) (record : Word) (entry : Word) (image : Word) : Encodable.Statement (.agentCreate h ceil record entry image) := no_words rfl

theorem Encodable.agentSuspend (h : Hdr) (ceil : Byte) (record : Word) (entry : Word) (image : Word) : Encodable.Statement (.agentSuspend h ceil record entry image) := no_words rfl

theorem Encodable.agentResume (h : Hdr) (ceil : Byte) (record : Word) (entry : Word) (image : Word) : Encodable.Statement (.agentResume h ceil record entry image) := no_words rfl

theorem Encodable.agentRemove (h : Hdr) (ceil : Byte) (record : Word) (entry : Word) (image : Word) : Encodable.Statement (.agentRemove h ceil record entry image) := no_words rfl

theorem Encodable.agentExport (h : Hdr) (ceil : Byte) (record : Word) (entry : Word) (image : Word) : Encodable.Statement (.agentExport h ceil record entry image) := no_words rfl

theorem Encodable.agentImport (h : Hdr) (ceil : Byte) (record : Word) (entry : Word) (image : Word) : Encodable.Statement (.agentImport h ceil record entry image) := no_words rfl

theorem Encodable.ctxnew (h : Hdr) (arg0 : Word) (arg1 : Word) (arg2 : Word) : Encodable.Statement (.ctxnew h arg0 arg1 arg2) := no_words rfl

theorem Encodable.ctxfree (h : Hdr) (arg0 : Word) (arg1 : Word) (arg2 : Word) : Encodable.Statement (.ctxfree h arg0 arg1 arg2) := no_words rfl

theorem Encodable.inval (h : Hdr) (arg0 : Word) (arg1 : Word) (arg2 : Word) : Encodable.Statement (.inval h arg0 arg1 arg2) := no_words rfl

theorem Encodable.invalComplete (k : Nat) : Encodable.Statement (.invalComplete k) := no_words rfl

theorem Encodable.qctlModel (h : Hdr) (arg0 : Word) (arg1 : Word) (arg2 : Word) : Encodable.Statement (.qctlModel h arg0 arg1 arg2) := no_words rfl

theorem Encodable.qctlMask (h : Hdr) (arg0 : Word) (arg1 : Word) (arg2 : Word) : Encodable.Statement (.qctlMask h arg0 arg1 arg2) := no_words rfl

theorem Encodable.qctlFreq (h : Hdr) (arg0 : Word) (arg1 : Word) (arg2 : Word) : Encodable.Statement (.qctlFreq h arg0 arg1 arg2) := no_words rfl

theorem Encodable.partition (h : Hdr) (arg0 : Word) (arg1 : Word) (arg2 : Word) : Encodable.Statement (.partition h arg0 arg1 arg2) := no_words rfl

theorem Encodable.roleset (h : Hdr) (towers : Byte) (mode : Byte) (maps : W32) (deadline : Word) (evac : Word) : Encodable.Statement (.roleset h towers mode maps deadline evac) := no_words rfl

theorem Encodable.drainDeadline (tower : BitVec 2) : Encodable.Statement (.drainDeadline tower) := no_words rfl

theorem Encodable.roleFlush (tower : BitVec 2) : Encodable.Statement (.roleFlush tower) := no_words rfl

theorem Encodable.roleEnumerate (tower : BitVec 2) : Encodable.Statement (.roleEnumerate tower) := no_words rfl

theorem Encodable.roleRun (tower : BitVec 2) : Encodable.Statement (.roleRun tower) := no_words rfl

theorem Encodable.ringRecordWrite (ring : Nat) : Encodable.Statement (.ringRecordWrite ring) := no_words rfl

theorem Encodable.ringInterruptTimeout (ring : Nat) : Encodable.Statement (.ringInterruptTimeout ring) := no_words rfl

theorem Encodable.stepInstant (deck : BitVec 4) : Encodable.Statement (.stepInstant deck) := no_words rfl

theorem Encodable.powerLimit (draw : Nat) : Encodable.Statement (.powerLimit draw) := no_words rfl

theorem Encodable.thermalTrip (tower : BitVec 2) : Encodable.Statement (.thermalTrip tower) := no_words rfl

theorem Encodable.thermalPowerGate (tower : BitVec 2) : Encodable.Statement (.thermalPowerGate tower) := no_words rfl

theorem Encodable.ckptStart (part : BitVec 2) : Encodable.Statement (.ckptStart part) := no_words rfl

theorem Encodable.markerArrive (part : BitVec 2) (u : UnitRef) (i : InputRef) : Encodable.Statement (.markerArrive part u i) := no_words rfl

theorem Encodable.unitEdge (part : BitVec 2) (u : UnitRef) : Encodable.Statement (.unitEdge part u) := no_words rfl

theorem Encodable.ckptRelease (part : BitVec 2) : Encodable.Statement (.ckptRelease part) := no_words rfl

theorem Encodable.ckptRestore (part : BitVec 2) : Encodable.Statement (.ckptRestore part) := no_words rfl

theorem Encodable.attestRequest (pa : Word) : Encodable.Statement (.attestRequest pa) := no_words rfl

theorem Encodable.perfReading (value : Word) : Encodable.Statement (.perfReading value) := no_words rfl

theorem Encodable.perfClear (n : BitVec 3) : Encodable.Statement (.perfClear n) := no_words rfl

theorem Encodable.debugRegisterWrite (off : Nat) (value : Word) : Encodable.Statement (.debugRegisterWrite off value) := no_words rfl

theorem Encodable.registerWrite (off : Nat) (value : Word) : Encodable.Statement (.registerWrite off value) := no_words rfl

theorem Encodable.badPacket (h : Hdr) (code : Byte) : Encodable.Statement (.badPacket h code) := no_words rfl

theorem Encodable.hostCoherentAccess (x : ExtAccess) : Encodable.Statement (.hostCoherentAccess x) := no_words rfl

theorem Encodable.remoteMemoryOperation (x : ExtAccess) : Encodable.Statement (.remoteMemoryOperation x) := no_words rfl

theorem Encodable.region : Encodable.Statement (.region) := by
  have e (word : Nat) (hw : word = 0x2d) : decode word = .ok (.region) := by
    have hm : word % 128 = 45 := by omega
    have k0 : Machine.fld word 7 25 = 0 := by simp only [Machine.fld]; omega
    refine decode_of_32 (by omega) (by omega) ?_
    have hd : decode32 word = decodeM23 word := by unfold decode32; rw [hm]; rfl
    rw [hd]
    simp [decodeM23, k0]
  exact statement_of rfl (e _ rfl)

theorem Encodable.tend : Encodable.Statement (.tend) := by
  have e (word : Nat) (hw : word = 0x30) : decode word = .ok (.tend) := by
    have hm : word % 128 = 48 := by omega
    have k0 : Machine.fld word 7 25 = 0 := by simp only [Machine.fld]; omega
    refine decode_of_32 (by omega) (by omega) ?_
    have hd : decode32 word = decodeM24 word := by unfold decode32; rw [hm]; rfl
    rw [hd]
    simp [decodeM24, k0]
  exact statement_of rfl (e _ rfl)

theorem Encodable.eret : Encodable.Statement (.eret) := by
  have e (word : Nat) (hw : word = 0x51) : decode word = .ok (.eret) := by
    have hm : word % 128 = 81 := by omega
    have k0 : Machine.fld word 7 25 = 0 := by simp only [Machine.fld]; omega
    refine decode_of_32 (by omega) (by omega) ?_
    have hd : decode32 word = decodeM41 word := by unfold decode32; rw [hm]; rfl
    rw [hd]
    simp [decodeM41, k0]
  exact statement_of rfl (e _ rfl)

theorem Encodable.covctlReset : Encodable.Statement (.covctlReset) := no_words rfl

theorem Encodable.gret : Encodable.Statement (.gret) := no_words rfl

theorem Encodable.gyield : Encodable.Statement (.gyield) := no_words rfl

theorem Encodable.queueWalk : Encodable.Statement (.queueWalk) := no_words rfl

theorem Encodable.periodicReread : Encodable.Statement (.periodicReread) := no_words rfl

theorem Encodable.powerOn : Encodable.Statement (.powerOn) := no_words rfl

theorem Encodable.dramTrained : Encodable.Statement (.dramTrained) := no_words rfl

theorem Encodable.attestDone : Encodable.Statement (.attestDone) := no_words rfl

theorem Encodable.perfReadingDone : Encodable.Statement (.perfReadingDone) := no_words rfl

end Sys2Proof.Laws
end

