-- ==== Sys2Proof/Tests/Slice0.lean ====
section
/-!
SUPPORT. Tests: words written out from the spec's encodings, ill-formed instructions that the checks refuse, and for every
statement with hypotheses states and operands that meet them. Expected results are from the spec's rules and worked examples.
-/

open Sys2Proof Sys2Proof.Machine Sys2Proof.Claim

namespace Sys2Proof.Tests

set_option Elab.async false

/-! ## Small states -/

/-- One strand on core (0, 0) of context 1, at 0x10000. -/
def s0 : State := probe State.reset
/-- The own-scratchpad address of an offset (R252). -/
def own (o : Nat) : Word := .ofNat 64 (0xFFE * 2 ^ 44 + o)
def x (r : XReg) (v : Word) (s : State) : State := s.writeX r v
def core0 (f : Core → Core) (s : State) : State := s.setCurCore (f s.curCore)
def strand0 (f : Strand → Strand) (s : State) : State := s.setCur (f s.cur)
/-- Bytes at an own-scratchpad offset. -/
def pad (o n v : Nat) (s : State) : State := s.setMem (Memory.writeN s.mem (padLoc probeCore o) n v)
/-- A strand with registers x1, x2, x3. -/
def s3 (a b c : Word) : State := x 1 a (x 2 b (x 3 c s0))

def goes (r : Res) (p : State → Bool) : Bool := match r with | .next t => p t | _ => false
def passes (a : Access) (p : State → List Piece → Bool) : Bool := match a with | .ok s ps => p s ps | _ => false
def faults (a : Access) (c : Byte) (v : Word) : Bool := match a with | .fault d w => d = c && w = v | _ => false
/-- The trap that a strand without a handler or with one takes, seen with a handler. -/
def handler (s : State) : State := strand0 (fun t => { t with tvec := 0x400 }) s
def trapped (r : Res) (c : Byte) (v : Word) : Bool :=
  goes r (fun t => t.cur.tActive && t.cur.tCode = c && t.cur.tval = v && t.pc = 0x400)

/-! ## Words of the spec (R119 and the chapters' encoding listings) -/

/-- What the decoder reads. -/
def dec (w : Nat) : Option Instr := decodeTableWord 96 w
/-- Fields of a vector word of f32 without modifiers. -/
def f32 (d a b c : Spec) : V64 := { d := d, a := a, b := b, c := c, fmtA := 0, fmtB := 0, sgnB := false, sgnA := false, sat := false, rnd := 0, mask := 0, etype := 7 }
def i32 (d a : Spec) (imm : Half) : VI := { d := d, a := a, imm := imm, fmtA := 0, fmtB := 0, sgnB := false, sgnA := false, sat := false, rnd := 0, mask := 0, etype := 7 }

theorem test_decode_integer : dec 0x00010980 = some (.add 3 1 2) ∧ dec 0x002AA180 = some (.div 3 4 5)
    ∧ dec 0x20C83B00 = some (.sext 6 7 1) ∧ dec 0x007F9991 = some (.lih 3 3 0xFF)
    ∧ dec 0x0000010000000000000019C7 = some (.addl 3 3 0x100) := by decide +kernel
theorem test_decode_float : dec 0x0C2AA194 = some (.fma 3 4 5 6 false) ∧ dec 0x4042A194 = some (.flt 3 4 5 false) := by decide +kernel
theorem test_decode_memory : dec 0xFF0B1399 = some (.lda 7 2 (-8) 2 true 2) ∧ dec 0x00031B15 = some (.ld 6 3 0 true 2)
    ∧ dec 0x0011B29C = some (.stl 5 6 0 4 3) ∧ dec 0x6602A19D = some (.amoadd 3 4 5 3 3)
    ∧ dec 0x00A2A1A0 = some (.cas 3 4 5 4 2) ∧ dec 0x00680021 = some (.fence 1 5) := by decide +kernel
theorem test_decode_control : dec 0x009001C0 = some (.arrive 3 2 2) ∧ dec 0x00901841 = some (.waitb 3 2 2)
    ∧ dec 0x000081C8 = some (.csrr 3 1) ∧ dec 0x00012049 = some (.csrw 0 4 2) := by decide +kernel
theorem test_decode_vector : dec 0xFEFE09C00000E00E = some (.vmov (f32 0xC0 9 0xFE 0xFE))
    ∧ dec 0x400005050000E11E = some (.vmulVi (i32 5 5 0x4000))
    ∧ dec 0x00001371 = some (.chstat 6 2) ∧ dec 0x00008070 = some (.vxadd 0 1) := by decide +kernel
theorem test_decode_matrix : dec 0x10002958 = some (.tst 2 5 128) ∧ dec 0x000001D9 = some (.tzero 3)
    ∧ dec 0x000400DD = some (.mdrain 0 0 1 8) ∧ dec 0x4888485D = some (.mdrainG 1 4 0 16 9)
    ∧ dec 0x000430E0 = some (.mdrains 0 0 1 8 6) ∧ dec 0x0000B861 = some (.mslot true 7) := by decide +kernel
theorem test_decode_units : dec 0x000021E4 = some (.cpy 3 4 false) ∧ dec 0x00000268 = some (.cvpt 4)
    ∧ dec 0x000102EC = some (.cvstat 5 2) := by decide +kernel

/-! ## Ill-formed instructions (R115, R116): one for each check -/

def cw : BitVec 3 → Option Nat := fun _ => some 8
theorem test_wellformed_accepts : wellFormed cw (.add 3 1 2) = true ∧ wellFormed cw (.fence 1 5) = true := by decide +kernel
theorem test_wellformed_selector : wellFormed cw (.br 1 2 6 0) = false ∧ wellFormed cw (.sext 1 2 3) = false
    ∧ wellFormed cw (.ld 1 2 0 true 3) = false ∧ wellFormed cw (.fence 3 7) = false := by decide +kernel
theorem test_wellformed_reserved : wellFormed cw (.azero 0 7 false) = false ∧ wellFormed cw (.cpy 1 13 false) = false
    ∧ wellFormed cw (.cvpt 3) = false ∧ wellFormed cw (.fence 3 0) = false := by decide +kernel
theorem test_wellformed_packet : wellFormed cw .queueWalk = false := by decide +kernel

/-! ## Witnesses: scalar instructions -/

/-- DivisionResults: a divisor that is not 0, one that is, and −2^63 by −1. -/
theorem witness_division : uv ((s3 7 2 0).readX 2) ≠ 0 ∧ (s3 7 0 0).readX 2 = 0
    ∧ sv ((s3 0x8000000000000000 0xFFFFFFFFFFFFFFFF 0).readX 1) = -(2 ^ 63) ∧ sv ((s3 0x8000000000000000 0xFFFFFFFFFFFFFFFF 0).readX 2) = -1 := by decide +kernel
theorem test_division : goes (exec (.div 3 1 2) (s3 (-7) 2 0)) (fun t => t.readX 3 = -3) ∧ goes (exec (.rem 3 1 2) (s3 (-7) 2 0)) (fun t => t.readX 3 = -1)
    ∧ goes (exec (.divn 3 1 2) (s3 0xFFFFFFFFFFFFFFF9 2 0)) (fun t => t.readX 3 = 0x7FFFFFFFFFFFFFFC) := by decide +kernel
/-- IntegerResults: the greatest width code of SEXT and ZEXT. -/
theorem witness_extension : (2 : BitVec 3).toNat ≤ 2 ∧ uv ((s3 0 0 0).readX 1) = 0 ∧ uv ((s3 1 0 0).readX 1) ≠ 0 := by decide
theorem test_integer : goes (exec (.add 0 1 2) (s3 1 2 0)) (fun t => t.readX 0 = 0 && t.pc = 0x10004)
    ∧ goes (exec (.mulh 1 1 2) (s3 (-1) 2 0)) (fun t => t.readX 1 = -1) ∧ goes (exec (.sar 3 1 2) (s3 (-8) 65 0)) (fun t => t.readX 3 = -4)
    ∧ goes (exec (.sext 3 1 0) (s3 0x80 0 0)) (fun t => t.readX 3 = 0xFFFFFFFFFFFFFF80)
    ∧ goes (exec (.lih 1 1 0x1FFFF) (s3 5 0 0)) (fun t => t.readX 1 = 0xFFFFFFFF00000005) := by decide +kernel
/-- IllFormedInstructionsTrap: an unassigned selector, a reserved field. -/
theorem witness_ill_formed : hasChecks (.br 1 2 6 0) = true ∧ selector ((encode (.br 1 2 6 0)).getD 0 % 2 ^ 64) = some Cause.illegalOp
    ∧ selector ((encode (.fence 3 0)).getD 0 % 2 ^ 64) = none ∧ reserved (fun n => fmtWidth (s0.curCore.fmtOf n.toNat)) (.fence 3 0) = true
    ∧ trapped (exec (.fence 3 0) (handler s0)) Cause.reservedField (bits (.fence 3 0)) = true := by decide +kernel
/-- ConversionResults: each form; a signed and an unsigned integer, binary32 and binary64, under RTZ (R129). -/
theorem witness_conversion : Ok (.fcvt 3 1 2 0 0 true) s0 ∧ Ok (.fcvt 3 1 0 0 1 false) s0 ∧ Ok (.fcvt 3 1 1 0 2 true) s0 ∧ Ok (.fcvt 3 1 0 0 3 false) s0
    ∧ Ok (.fcvt 3 1 0 1 0 true) s0 ∧ Ok (.fcvt 3 1 0 1 0 false) s0
    ∧ goes (exec (.fcvt 3 1 2 0 0 true) (s3 0xC004000000000000 0 0)) (fun t => t.readX 3 = -2 && t.cur.fpc = 1) := by decide +kernel
/-- ScalarFloatResults: a quiet and a signalling NaN; 1.5 + 2.25 = 3.75. -/
theorem witness_nan : (readF fp32 (Mode.ofFpc s0.cur.fpc) ((s3 0x7FC00000 0 0).readX 1).toNat).isNan = true
    ∧ (readF fp32 (Mode.ofFpc s0.cur.fpc) ((s3 0 0x7F800001 0).readX 2).toNat).isSnan = true
    ∧ goes (exec (.fadd 3 1 2 false) (s3 0x3FC00000 0x40100000 0)) (fun t => t.readX 3 = 0x40700000 && t.cur.fpc = 0)
    ∧ goes (exec (.fadd 3 1 2 false) (s3 0x3FC00000 0x7F800001 0)) (fun t => t.readX 3 = 0x7FC00000 && t.cur.fpc = 16) := by decide +kernel

/-! ## Witnesses: memory -/

/-- A doubleword at 0x100 of the own scratchpad, x1 at it, x2 a value. -/
def sm : State := pad 0x100 8 0x11223344F5667788 (s3 (own 0x100) 0x0123456789ABCDEF 0)
/-- The same doubleword through a global address: a page of the cellar tier held by the TLB. -/
def sg : State := s3 0x20000 0x0123456789ABCDEF 0

/-- LoadsAndReplies: a load from the own scratchpad, its first and last bytes, and one of a global address. -/
theorem witness_loads : Ok (.ld 3 1 0 true 2) sm ∧ Ok (.lda 3 1 0 2 true 0) sm
    ∧ passes (accessBytes sm sm.fs (uv (sm.readX 1)) 4 (.load false)) (fun _ ps => ps.all (fun p => p.hit.win = some (coreOf sm.fs)))
    ∧ passes (accessBytes sg sg.fs 0x20000 8 (.load true)) (fun _ ps => !(ps.all (fun p => p.hit.win = some (coreOf sg.fs))))
    ∧ goes (exec (.ld 3 1 0 true 2) sm) (fun t => t.readX 3 = 0xFFFFFFFFF5667788) ∧ goes (exec (.ld 3 1 4 false 2) sm) (fun t => t.readX 3 = 0x11223344) := by decide +kernel

def waiting (r : Reply) : State := strand0 (fun t => { t with wait := .reply r }) s0
theorem witness_replies : (waiting { len := 4, xw := [(3, 9)], vw := none, decks := [] }).cur.wait = .reply { len := 4, xw := [(3, 9)], vw := none, decks := [] }
    ∧ goes (exec (.memoryReply probeStrand) (waiting { len := 4, xw := [(3, 9)], vw := none, decks := [] })) (fun t => t.readX 3 = 9 && t.pc = 0x10004)
    ∧ goes (exec (.memoryReply probeStrand) (waiting { len := 8, xw := [], vw := some (0x88, 7), decks := [] })) (fun t => t.cur.l0 = 7 && t.pc = 0x10008) := by decide +kernel
/-- StoresComplete: memory and a device register (WAKE of queue 0 on a PRIV page). -/
theorem witness_stores : Ok (.st 2 1 0 3) sm ∧ Ok (.stl 2 1 0 4 1) sm
    ∧ passes (accessBytes sm sm.fs (uv (sm.readX 1)) 8 (.put true)) (fun _ ps => ps.all (fun p => !(p.hit.device)))
    ∧ goes (exec (.st 2 1 0 1) sm) (fun t => Memory.readN t.mem (padLoc probeCore 0x100) 8 = 0x11223344F566CDEF && t.pc = 0x10004) := by decide +kernel
/-- A context with PRIV whose TLB holds a page of region 8. -/
def sdev : State :=
  let s := s3 0x100000 5 0
  { s with ctxs := [(1, { probeCtx with priv := true })], tlbs := [(0, [{ ctx := 1, base := 0, size := 2 ^ 30, leaf := .ofNat 64 (8 * 2 ^ 48 + 0x203), pa := 8 * 2 ^ 48 }])] }
theorem witness_device_store : Ok (.st 2 1 0 3) sdev
    ∧ passes (accessBytes sdev sdev.fs 0x100000 8 (.put true)) (fun _ ps => ps.all (fun p => p.hit.device)) = true := by decide +kernel
/-- OwnScratchpadAccess: the first doubleword, and the last below the reserve. -/
theorem witness_own : uv (own 0) / 2 ^ 44 = 0xFFE ∧ uv (own 0x1FF7F8) % 2 ^ 44 + 8 ≤ 0x1FF800 - 64 * s0.curCore.chanSlots ∧ s0.curCore.jobs = []
    ∧ (∀ c, s0.ctx (ctxOf (coreOf s0.fs)) = some c → c.dbg = []) := by
  refine ⟨by decide +kernel, by decide +kernel, by decide +kernel, fun c h => ?_⟩
  have e : s0.ctx (ctxOf (coreOf s0.fs)) = some probeCtx := by decide +kernel
  rw [e] at h; cases h; decide
/-- AtomicsComplete: an atomic, and a CAS that succeeds and one that fails. -/
theorem witness_atomics : Ok (.amomin 3 1 2 3 2) sm ∧ passes (accessBytes sm sm.fs (uv (sm.readX 1)) 4 (.rmw true)) (fun _ ps => ps.length = 1)
    ∧ goes (exec (.amomin 3 1 2 3 2) sm) (fun t => Memory.readN t.mem (padLoc probeCore 0x100) 4 = 0x89ABCDEF)
    ∧ goes (exec (.amominn 3 1 2 3 2) sm) (fun t => Memory.readN t.mem (padLoc probeCore 0x100) 4 = 0x89ABCDEF)
    ∧ goes (exec (.amoadd 3 1 2 3 3) sm) (fun t => Memory.readN t.mem (padLoc probeCore 0x100) 8 = 0x124578AC7F124577
        && t.cur.wait = .reply { len := 4, xw := [(3, 0x11223344F5667788)], vw := none, decks := [] }) := by decide +kernel
theorem witness_cas : Ok (.cas 3 1 2 4 2) (x 3 0xF5667788 sm)
    ∧ goes (exec (.cas 3 1 2 4 2) (x 3 0xF5667788 sm)) (fun t => Memory.readN t.mem (padLoc probeCore 0x100) 4 = 0x89ABCDEF
        && t.cur.wait = .reply { len := 4, xw := [(3, 0xFFFFFFFFF5667788)], vw := none, decks := [] })
    ∧ goes (exec (.cas 3 1 2 4 2) (x 3 1 sm)) (fun t => t.mem = sm.mem)
    ∧ passes (accessBytes sm sm.fs (uv (sm.readX 1)) 4 (.rmw false)) (fun _ ps => ps.length = 1) := by decide +kernel
/-- FencesAndWordWaits: a condition that holds, one that does not, and one that holds for a strand that waits. -/
theorem witness_fence_waitw : Ok (.fence 3 5) sm ∧ Ok (.waitw 3 1 2 2 0 true) sm ∧ Ok (.waitw 3 1 2 2 5 true) sm
    ∧ passes (accessBytes sm sm.fs (uv (sm.readX 1)) 8 { write := false, store := false, atomic := true, reads := true, dev := true, skip := [] }) (fun _ _ => true)
    ∧ goes (exec (.waitw 3 1 2 2 5 true) sm) (fun t => t.readX 3 = 0x11223344F5667788 && t.pc = 0x10004)
    ∧ goes (exec (.waitw 3 1 2 2 0 true) sm) (fun t => t.cur.wait = .waitw (.waitw 3 1 2 2 0 true) && t.pc = 0x10000)
    ∧ goes (exec (.waitwRecheck probeStrand) (strand0 (fun t => { t with wait := .waitw (.waitw 3 1 2 2 5 true) }) sm))
        (fun t => t.readX 3 = 0x11223344F5667788 && t.cur.wait = .none) := by decide +kernel
/-- MemoryFaultsTrap: a misaligned address, and an address of the reserve. -/
theorem witness_memory_faults : Ok (.ld 3 1 1 true 2) sm ∧ uv (sm.readX 1 + low 1) % 4 ≠ 0
    ∧ trapped (exec (.ld 3 1 1 true 2) (handler sm)) Cause.misaligned (own 0x101)
    ∧ Ok (.ld 3 1 0 true 2) (s3 (own 0x1FF800) 0 0) ∧ faults (accessBytes s0 s0.fs (uv (own 0x1FF800)) 4 (.load false)) Cause.bounds (own 0x1FF800)
    ∧ trapped (exec (.ld 3 1 0 true 2) (handler (s3 (own 0x1FF800) 0 0))) Cause.bounds (own 0x1FF800) := by decide +kernel

/-! ## Witnesses: branches, regions, tasks -/

/-- Two cores, (0, 0) and (1, 0), in one stage. -/
def two : State :=
  { s0 with
    ctxs := [(1, { probeCtx with wlog := 1, place := [(0, 0), (1, 1)] })]
    cores := Tbl.put s0.cores 2049 { Core.empty with launch := some 1, bound := true, count := 1 }
    strands := Tbl.put s0.strands 32784 { Strand.empty with pc := 0x10000, active := true, taskid := 2 }
    launches := [(1, { probeLaunch with stages := probeLaunch.stages.map (fun (d : StageDesc) => { d with w := 2 }) })] }
def task0 : Task := { entry := 0x2000, xs := Vector.replicate 16 5, id := 77, fpc := none, enq := 0 }
def busyDeck (s : State) : State := s.setDeck 0 { s.deck 0 with relock := true }
/-- Two decks: core (1, 0) lies on deck 1. -/
def apart : State := busyDeck { two with ctxs := [(1, { probeCtx with wlog := 1, place := [(0, 0), (1, 128)] })] }
def staged (l : List Staged) (s : State) : State := strand0 (fun t => { t with staged := l }) s

theorem witness_branches : sv ((s3 1 2 0).readX 1) < sv ((s3 1 2 0).readX 2) ∧ ¬ (sv ((s3 1 2 0).readX 1) ≥ sv ((s3 1 2 0).readX 2))
    ∧ uv ((s3 8 2 0).readX 1 + low 4) % 4 = 0 ∧ uv ((s3 8 2 0).readX 1 + low 3) % 4 ≠ 0
    ∧ goes (exec (.br 1 2 2 (-1)) (s3 1 2 0)) (fun t => t.pc = 0xFFFC) ∧ goes (exec (.br 1 2 3 (-1)) (s3 1 2 0)) (fun t => t.pc = 0x10004)
    ∧ goes (exec (.jalr 1 1 4) (s3 8 2 0)) (fun t => t.pc = 12 && t.readX 1 = 0x10004)
    ∧ trapped (exec (.jr 1 3) (handler (s3 8 2 0))) Cause.misaligned 11
    ∧ trapped (exec (.br 1 2 6 0) (handler (s3 8 2 0))) Cause.illegalOp (0x24 + 1 * 2 ^ 7 + 2 * 2 ^ 11 + 6 * 2 ^ 15) := by decide +kernel
theorem witness_regions : commitBlocked s0 s0.fs = false ∧ commitBlocked (staged [.enqueue 2049 task0] apart) probeStrand = true
    ∧ goes (exec .region (s3 7 0 0)) (fun t => t.cur.rgn = 0x10000 && t.pc = 0x10004 && Memory.readN t.mem (saveLoc probeStrand) 8 = 7)
    ∧ goes (exec .tend (s3 7 0 0)) (fun t => t.cur.idle && t.cur.taskid = 0)
    ∧ goes (exec .region (staged [.enqueue 2049 task0] apart)) (fun t => t.cur.exempt && t.cur.wait = .held false && t.crossing = [(probeStrand, [0])] && t.pc = 0x10000) := by decide +kernel
def linked : State := { two with links := [{ launch := 1, chan := 0, sender := 2048, ks := 3, receiver := 2049, kr := 5, slots := 2, closed := false }] }
/-- CommitEffects: every kind of staged operation. -/
theorem witness_commits : commitBlocked (staged [.send 3 9] linked) probeStrand = false ∧ (linkOf linked 2048 3).isSome = true
    ∧ goes (exec .region (staged [.send 3 9] linked)) (fun t => (inboxOf t 2049 5).map (fun m => m.msg) = [9])
    ∧ goes (exec .region (staged [.dec 2048 4 1] two)) (fun t => t.decrs = [{ id := 0, src := 2048, core := 2048, c := 4, amount := 1, launch := 1, stage := 0 }])
    ∧ goes (exec .region (staged [.enqueue 2049 task0] two)) (fun t => (t.core 2049).queue.length = 1)
    ∧ goes (exec .region (staged [.copy 1 2 3 4] two)) (fun t => (t.core 2048).jobs.length = 1)
    ∧ goes (exec .region (staged [.arm 7 0 2048 task0] two)) (fun t => (t.core 2048).ctr 7 = .free && (t.core 2048).queue.length = 1)
    ∧ goes (exec .region (staged [.arm 7 2 2048 task0] two)) (fun t => (t.core 2048).ctr 7 = .armed 2 2048 task0) := by decide +kernel
/-- A descriptor of entry 0x2000, A0 = 1 and id 5 for core (h, 0), at 0x200. -/
def desc (h : Nat) (s : State) : State := x 1 (own 0x200) (x 2 3 (pad 0x200 64 (0x2000 + 2 ^ 64 + 5 * 2 ^ 320 + h * 2 ^ 368) s))
theorem witness_spawns : passes (accessBytes (desc 1 two) probeStrand (uv (own 0x200)) 64 (.load false)) (fun s ps => readPieces s.mem ps = 0x2000 + 2 ^ 64 + 5 * 2 ^ 320 + 2 ^ 368)
    ∧ stagedCount (desc 1 two).cur < 32 ∧ queueRoom (desc 1 two) 2048 = true ∧ inOwnStage (desc 1 two) 2049 = true ∧ queueRoom (desc 1 two) 2049 = true
    ∧ ((desc 1 two).core 2048).ctr 9 = .free
    ∧ goes (exec (.spawnr 3 1) (desc 1 two)) (fun t => t.readX 3 = 5 && t.cur.staged.length = 1 && t.pc = 0x10004)
    ∧ goes (exec (.spawn 3 1) (desc 1 two)) (fun t => t.readX 3 = 5 && t.cur.staged.length = 1)
    ∧ goes (exec (.depset 3 1 2 9) (desc 1 two)) (fun t => t.readX 3 = 5 && (t.core 2048).ctr 9 = .reserved 0) := by decide +kernel
/-- SpawnTraps: each cause; a full queue has 64 entries. -/
def full (core : Nat) (s : State) : State := s.setCore core { s.core core with queue := List.replicate 64 task0 }
theorem witness_spawn_traps : trapped (exec (.depset 3 1 2 9) (handler (x 2 0x100000000 (desc 1 two)))) Cause.depCount 0x100000000
    ∧ trapped (exec (.spawn 3 1) (handler (x 1 (own 0x208) two))) Cause.misaligned (own 0x208)
    ∧ faults (accessBytes two probeStrand (uv (own 0x1FF800)) 64 (.load false)) Cause.bounds (own 0x1FF800)
    ∧ trapped (exec (.spawnr 3 1) (handler (x 1 (own 0x1FF800) two))) Cause.bounds (own 0x1FF800)
    ∧ trapped (exec (.spawn 3 1) (handler (pad 0x200 1 1 (desc 1 two)))) Cause.taskInvalid (own 0x200)
    ∧ inOwnStage (desc 2 two) 2050 = false ∧ trapped (exec (.spawnr 3 1) (handler (desc 2 two))) Cause.noSuchCore (own 0x200)
    ∧ trapped (exec (.depset 3 1 2 9) (handler (core0 (fun c => { c with ctrs := [(9, .reserved 1)] }) (desc 1 two)))) Cause.depArmed 9
    ∧ queueRoom (full 2048 (desc 1 two)) 2048 = false ∧ trapped (exec (.spawn 3 1) (handler (full 2048 (desc 1 two)))) Cause.taskqFull (own 0x200)
    ∧ trapped (exec (.spawnr 3 1) (handler (full 2049 (desc 1 two)))) Cause.taskqFull (own 0x200) := by decide +kernel
def ctr (c : Nat) (v : Ctr) (s : State) : State := core0 (fun k => { k with ctrs := [(c, v)] }) s
theorem witness_counters : two.cur.staged = [] ∧ goes (exec (.deprd 3 9) two) (fun t => t.readX 3 = 0)
    ∧ goes (exec (.deprd 3 9) (ctr 9 (.armed 6 2048 task0) two)) (fun t => t.readX 3 = 0x200000006)
    ∧ goes (exec (.deprd 3 9) (ctr 9 (.reserved 1) two)) (fun t => t.readX 3 = 0x100000000)
    ∧ goes (exec (.deprd 3 9) (ctr 9 (.reserved 0) (staged [.arm 9 4 2048 task0] two))) (fun t => t.readX 3 = 0x200000004)
    ∧ Ok (.depdec 1 2 3) two ∧ ctrRefCore two 2048 0x80009 = some 2048 ∧ ctrRefCore two 2048 0x109 = some 2049
    ∧ goes (exec (.depdec 1 2 3) (x 1 0x109 two)) (fun t => t.cur.staged = [.dec 2049 9 3])
    ∧ trapped (exec (.depdec 1 2 3) (handler (x 1 0x100000 two))) Cause.noSuchCore 0x100000 := by decide +kernel
def decr (n : Nat) (s : State) : State := { s with decrs := [{ id := 0, src := 2049, core := 2048, c := 9, amount := n, launch := 1, stage := 0 }] }
theorem witness_decrements : holdsCounters two 2048 1 = true ∧ holdsCounters two 2048 2 = false
    ∧ goes (exec (.depDecrementArrive 0) (decr 2 apart)) (fun t => t.decrs.length = 1)
    ∧ goes (exec (.depDecrementArrive 0) (decr 2 (ctr 9 (.armed 6 2048 task0) two))) (fun t => (t.core 2048).ctr 9 = .armed 4 2048 task0 && t.decrs = [])
    ∧ goes (exec (.depDecrementArrive 0) (decr 6 (ctr 9 (.armed 6 2048 task0) two))) (fun t => (t.core 2048).ctr 9 = .free && (t.core 2048).queue.length = 1)
    ∧ goes (exec (.depDecrementArrive 0) (decr 7 (ctr 9 (.armed 6 2048 task0) two))) (fun t => (t.launch 1).map (fun l => l.fault) = some (some Cause.depUnderflow)) := by
  decide +kernel
/-- The mesh address of offset 0 of core (1, 0). -/
def mesh1 : Word := .ofNat 64 (0xFFF * 2 ^ 44 + 2 ^ 38)
def destIs (r : Except Byte Nat) (k : Nat) : Bool := match r with | .ok d => d = k | .error _ => false
theorem witness_migrate : destIs (destCore two 2048 (uv mesh1)) 2049 ∧ inOwnStage two 2049 = true ∧ destIs (destCore two 2048 (uv (own 0))) 2048
    ∧ relockHeld two (two.phys 2048) (two.phys 2049) = false
    ∧ goes (exec (.migrate 1 0) (x 1 mesh1 two)) (fun t => (t.core 2049).queue.length = 1 && t.cur.idle)
    ∧ goes (exec (.migrate 1 0) (x 1 (own 0) two)) (fun t => t.pc = 0x10004 && t.cur.rgn = 0x10000)
    ∧ (let alone := { two with launches := [(1, probeLaunch)] }
       inOwnStage alone 2049 = false ∧ trapped (exec (.migrate 1 0) (handler (x 1 mesh1 alone))) Cause.noSuchCore mesh1) := by decide +kernel
theorem witness_calls : goes (exec (.rcall 3 1 2) (x 1 0x2000 (x 2 mesh1 two))) (fun t => t.calls.map (fun f => f.core) = [2049] && (match t.cur.wait with | .rcall _ => true | _ => false) && t.cur.call = some 1)
    ∧ trapped (exec (.rcall 3 1 2) (handler (x 1 0x2002 (x 2 mesh1 two)))) Cause.misaligned 0x2002
    ∧ (let c : Word := 0x04006001
       contCore 1 c = 2049 ∧ inOwnStage two 2049 = true ∧ goes (exec (.rreply 1 2) (x 1 c (x 2 9 two))) (fun t => t.replies.map (fun r => r.payload) = [9] && t.pc = 0x10004))
    ∧ trapped (exec (.rreply 1 2) (handler (x 1 0x100000000 two))) Cause.noSuchCore 0x100000000 := by decide +kernel
def flight : Flight := { id := 0, src := 2048, core := 2049, task := task0, launch := 1, stage := 0 }
theorem witness_arrivals : (two.core 2049).held = [] ∧ (two.core 2049).queue.length + reservedIn two 2049 < 64
    ∧ goes (exec (.migrationArrive 2049) (two.setCore 2049 { two.core 2049 with held := [{ task0 with fpc := some 0 }] })) (fun t => (t.core 2049).queue.length = 1 && (t.core 2049).held = [])
    ∧ goes (exec (.callArrive 0) { full 2049 two with calls := [flight] }) (fun t => (t.core 2049).held.length = 1 && t.calls = [])
    ∧ goes (exec (.heldTaskEnter 2049) (two.setCore 2049 { two.core 2049 with held := [task0] })) (fun t => (t.core 2049).queue.length = 1 && (t.core 2049).held = [])
    ∧ (let r : RReply := { id := 0, src := 2049, ctx := 1, cont := 0x6001, payload := 9, launch := 1, stage := 0 }
       goes (exec (.replyArrive 0) { strand0 (fun t => { t with call := some 1, wait := .rcall 0x6001 }) two with replies := [r] })
         (fun t => t.readX 3 = 9 && t.cur.wait = .none && t.pc = 0x10004)
       ∧ goes (exec (.replyArrive 0) { two with replies := [r] }) (fun t => t.stale = 1)) := by decide +kernel
theorem witness_search : (two.strand 32784).active = true ∧ (two.strand 32784).idle = true ∧ searchOrder two 2049 = [2049, 2048]
    ∧ goes (exec (.searchRetry 32784) (two.setCore 2049 { two.core 2049 with queue := [task0] }))
        (fun t => (t.strand 32784).pc = 0x2000 && (t.strand 32784).readX 15 = 5 && (t.strand 32784).taskid = 77 && (t.core 2049).queue = [])
    ∧ goes (exec (.searchRetry 32784) two) (fun t => (t.strand 32784).idle) := by decide +kernel

/-! ## Witnesses: barriers, CSRs, traps -/

def bar (b : Barrier) (s : State) : State := s.setBar 1 (barKey 2 0 0) b
theorem witness_arrive : Ok (.arrive 3 2 0) two ∧ barOf two 2 0 = barKey 2 0 0 ∧ two.groupOf probeStrand = some (1, 0) ∧ barHeld two two.fs 2 = []
    ∧ trapped (exec (.arrive 3 2 0) (handler two)) Cause.barConfig 0x200
    ∧ goes (exec (.arrive 3 2 0) (bar { n := 2, p := 7, cur := [16], nxt := [] } two)) (fun t => t.readX 3 = 7 && t.cur.epoch 2 = (8, 0)
        && t.bar 1 (barKey 2 0 0) = { n := 2, p := 7, cur := [16, 16], nxt := [] })
    ∧ goes (exec (.arrive 3 2 0) (bar { n := 1, p := 7, cur := [16], nxt := [] } two)) (fun t => t.readX 3 = 8 && (t.bar 1 (barKey 2 0 0)).nxt = [16])
    ∧ trapped (exec (.arrive 3 2 0) (handler (bar { n := 1, p := 7, cur := [16], nxt := [16] } two))) Cause.barOverrun 0x200 := by decide +kernel
theorem witness_barcfg : Ok (.barcfg 2 2 0) two ∧ goes (exec (.barcfg 2 2 0) (x 2 3 two)) (fun t => (t.bar 1 (barKey 2 0 0)).n = 3)
    ∧ goes (exec (.barcfg 2 2 0) (handler (bar { n := 1, p := 0, cur := [16], nxt := [] } two))) (fun t => t.cur.tCode = Cause.barConfig) := by decide +kernel
theorem witness_waitb : Ok (.waitb 1 2 0) two ∧ goes (exec (.waitb 1 2 0) (bar { n := 1, p := 8, cur := [], nxt := [] } (x 1 7 two))) (fun t => t.pc = 0x10004)
    ∧ goes (exec (.waitb 1 2 0) (bar { n := 1, p := 7, cur := [], nxt := [] } (x 1 7 two))) (fun t => t.cur.wait = .waitb (barKey 2 0 0) 7)
    ∧ goes (exec (.waitb 1 2 0) (bar { n := 1, p := 0x8007, cur := [], nxt := [] } (x 1 7 two))) (fun t => t.cur.wait = .waitb (barKey 2 0 0) 7)
    ∧ goes (exec (.waitb 1 2 0) (bar { n := 1, p := 0x8006, cur := [], nxt := [] } (x 1 7 two))) (fun t => t.pc = 0x10004) := by decide +kernel
theorem witness_phase : (bar { n := 1, p := 7, cur := [16], nxt := [] } two).bar 1 (barKey 2 0 0) = { n := 1, p := 7, cur := [16], nxt := [] }
    ∧ goes (exec (.barrierPhaseComplete 1 (barKey 2 0 0)) (strand0 (fun t => { t with wait := .waitb (barKey 2 0 0) 7 }) (bar { n := 1, p := 7, cur := [16], nxt := [] } two)))
        (fun t => t.cur.wait = .none && t.pc = 0x10004 && (t.bar 1 (barKey 2 0 0)).p = 8)
    ∧ goes (exec (.barrierPhaseComplete 1 (barKey 2 0 0)) (bar { n := 2, p := 7, cur := [16], nxt := [] } two)) (fun t => (t.bar 1 (barKey 2 0 0)).p = 7) := by
  decide +kernel
theorem witness_csr : Ok (.csrr 3 0x001) two ∧ Ok (.csrw 3 1 0x001) two ∧ Ok (.csrs 3 1 0x020) two ∧ Ok (.csrc 3 1 0x078) two ∧ ¬ Ok (.csrr 3 0x7FF) two
    ∧ goes (exec (.csrw 3 1 0x001) (x 1 (-1) two)) (fun t => t.cur.fpc = 0xFFFFFFFF00000F1F && t.readX 3 = 0 && t.pc = 0x10004)
    ∧ goes (exec (.csrw 0 1 0x041) (x 1 0x1007 two)) (fun t => readCsr t 0x041 = 0x1004) := by decide +kernel
theorem witness_traps : two.cur.tActive = false ∧ (handler two).cur.tvec ≠ 0 ∧ trapped (exec (.trap 9) (handler two)) Cause.trapInstr 9
    ∧ trapped (exec (.brk 9) (handler two)) Cause.breakpoint 9
    ∧ goes (exec .eret (strand0 (fun t => { t with tActive := true, tpc := 0x10044 }) two)) (fun t => t.pc = 0x10044 && !t.cur.tActive) := by decide +kernel
theorem witness_group_faults : two.groupOf two.fs = some (1, 0) ∧ (two.launch 1).isSome = true
    ∧ goes (exec (.trap 9) (strand0 (fun t => { t with tActive := true }) two)) (fun t => (t.launch 1).map (fun l => l.fault) = some (some Cause.doubleTrap))
    ∧ goes (exec (.trap 9) two) (fun t => (t.launch 1).map (fun l => (l.fault, l.sts)) = some (some Cause.trapInstr, [.ended]))
    ∧ (let again := two.setLaunch 1 { ((two.launch 1).getD probeLaunch) with fault := some 1 }
       goes (exec (.trap 9) again) (fun t => t.launches = again.launches && t.strands = again.strands)) := by decide +kernel

/-! ## Witnesses: holds, boundaries, commits that note something -/

/-- Seen as held at a boundary on its way to some decks, its pc where it was. -/
def waits (r : Res) (memory : Bool) (ds : List Nat) : Bool :=
  goes r (fun t => t.cur.wait = .held memory && t.cur.exempt && t.pc = 0x10000 && t.crossing = [(probeStrand, ds)])
/-- A store is held: the strand waits with the instruction itself (R137). -/
def holdsStore (r : Res) (i : Instr) (ds : List Nat) : Bool :=
  goes r (fun t => t.cur.wait = .store i && t.cur.exempt && t.pc = 0x10000 && t.crossing = [(probeStrand, ds)])
/-- RegionsCommit, SpawnsAndDepset, MigrationsAndCalls, TasksMove: a relock of deck 0 between core (0, 0) on it and core (1, 0) on deck 1. -/
theorem witness_boundaries : sendHeld apart 2049 = [0] ∧ commitDecks (staged [.enqueue 2049 task0] apart) probeStrand = [0]
    ∧ waits (exec .tend (staged [.enqueue 2049 task0] apart)) false [0]
    ∧ waits (exec (.spawnr 3 1) (desc 1 apart)) false [0] ∧ waits (exec (.migrate 1 0) (x 1 mesh1 apart)) false [0]
    ∧ waits (exec (.rcall 3 1 2) (x 1 0x2000 (x 2 mesh1 apart))) false [0] ∧ waits (exec (.rreply 1 2) (x 1 0x04006001 apart)) false [0]
    ∧ relockHeld apart (apart.phys 2048) (apart.phys 2049) = true
    ∧ goes (exec (.callArrive 0) { apart with calls := [flight] }) (fun t => t.calls.length = 1)
    ∧ goes (exec (.replyArrive 0) { apart with replies := [{ id := 0, src := 2049, ctx := 1, cont := 0x6001, payload := 9, launch := 1, stage := 0 }] })
        (fun t => t.replies.length = 1 && t.stale = 0) := by decide +kernel
/-- MigrationsAndCalls: an address with no destination core. -/
theorem witness_no_destination : (match destCore two 2048 0x8000000000000 with | .error _ => true | .ok _ => false) = true
    ∧ goes (exec (.migrate 1 0) (handler (x 1 0x8000000000000 two))) (fun t => t.cur.tActive)
    ∧ goes (exec (.rcall 3 1 2) (handler (x 1 0x2000 (x 2 0x8000000000000 two)))) (fun t => t.cur.tActive) := by decide +kernel
/-- SpawnsAndDepset, DependenceCounters: a strand with 32 staged operations. -/
def stageful (s : State) : State := staged (List.replicate 32 (.dec 2048 4 1)) s
theorem witness_stage_full : stagedCount (stageful two).cur = 32 ∧ trapped (exec (.spawn 3 1) (handler (stageful (desc 1 two)))) Cause.stageFull 0
    ∧ trapped (exec (.spawnr 3 1) (handler (stageful (desc 1 two)))) Cause.stageFull 0
    ∧ trapped (exec (.depset 3 1 2 9) (handler (stageful (desc 1 two)))) Cause.stageFull 0
    ∧ trapped (exec (.depdec 1 2 3) (handler (stageful (x 1 0x109 two)))) Cause.stageFull 0 := by decide +kernel
/-- DependenceCounters: a reference by X and Y to a core of no stage, and decrements that no group's counter takes. -/
theorem witness_references : trapped (exec (.depdec 1 2 3) (handler (x 1 0x209 two))) Cause.noSuchCore 0x209
    ∧ ctrRefCore two 2048 0x209 = none
    ∧ (let gone := decr 2 (two.setCore 2048 { two.core 2048 with launch := none })
       holdsCounters gone 2048 1 = false ∧ goes (exec (.depDecrementArrive 0) gone) (fun t => (t.launch 1).map (fun l => l.fault) = some (some Cause.depUnderflow)))
    ∧ (let two' := decr 2 (ctr 9 (.armed 6 2048 task0) two)
       goes (exec (.depDecrementArrive 1) { two' with decrs := two'.decrs ++ [{ id := 1, src := 2049, core := 2048, c := 9, amount := 5, launch := 1, stage := 0 }] })
         (fun t => (t.core 2048).ctr 9 = .armed 1 2048 task0 && t.decrs.length = 1)) := by decide +kernel
/-- CommitEffects: an end marker; a task spawned behind one that is held, and one for a deck that changes its role. -/
def changing (s : State) : State := s.setTower 0 { s.tower 0 with st := .drain, change := some { cmask := 0, release := true, deadline := 0, evac := 0, async := none, expired := false } }
theorem witness_commit_notes : goes (exec .region (staged [.endMark 3] linked)) (fun t => t.cur.closed = [3] && t.links.map (fun l => l.closed) = [true])
    ∧ goes (exec .region (staged [.enqueue 2049 task0] (two.setCore 2049 { two.core 2049 with held := [{ task0 with id := 5 }] })))
        (fun t => (t.core 2049).queue.map (fun k => k.id) = [5, 77] && (t.core 2049).held = [])
    ∧ coreTakes (changing two) 2049 = false
    ∧ goes (exec .region (staged [.enqueue 2049 task0] (changing two))) (fun t => (t.core 2049).queue = [] && (t.core 2049).held.length = 1)
    ∧ goes (exec (.heldTaskEnter 2049) (changing (two.setCore 2049 { two.core 2049 with held := [task0] }))) (fun t => (t.core 2049).held.length = 1) := by
  decide +kernel
/-- TasksMove: a task of another core's queue. -/
theorem witness_steal : coreActs two 2049 = true ∧ coreTakes two 2049 = true
    ∧ goes (exec (.searchRetry 32784) (two.setCore 2048 { two.core 2048 with queue := [task0] }))
        (fun t => (t.strand 32784).pc = 0x2000 && !(t.strand 32784).idle && (t.core 2048).queue = []) := by decide +kernel
/-- BarriersCount: a barrier outside a relocking deck. -/
theorem witness_barrier_holds : Ok (.arrive 3 4 0) (busyDeck two) ∧ barHeld (busyDeck two) probeStrand 4 = [0]
    ∧ waits (exec (.arrive 3 4 0) ((busyDeck two).setBar 1 (barKey 4 0 0) { n := 1, p := 7, cur := [], nxt := [] })) false [0]
    ∧ waits (exec (.barcfg 2 4 0) (busyDeck two)) false [0] := by decide +kernel
/-- BarriersRelease: the wait epoch of barrier 0 moves on to w + 1, and not back. -/
theorem witness_wait_epoch : two.phys 2048 < 2048
    ∧ goes (exec (.waitb 1 2 0) (bar { n := 1, p := 8, cur := [], nxt := [] } (x 1 7 two))) (fun t => t.cur.epoch 2 = (0, 8))
    ∧ goes (exec (.waitb 1 2 0) (bar { n := 1, p := 8, cur := [], nxt := [] } (x 1 7 (strand0 (fun t => { t with epochs := Vector.replicate 4 (0, 9) }) two))))
        (fun t => t.cur.epoch 2 = (0, 9)) := by decide +kernel
/-- TrapEffects: after the packet has completed a group fault changes nothing. -/
theorem witness_late_fault :
    let late := two.setLaunch 1 { ((two.launch 1).getD probeLaunch) with ended := true }
    late.groupOf probeStrand = some (1, 0) ∧ goes (exec (.trap 9) late) (fun t => t.launches = late.launches && t.asyncs = late.asyncs) := by decide +kernel

/-! ## Witnesses: the matrix engine -/

/-- One row of 32 bytes, stride 32, for every tile. -/
def tcfg1 : Word := 0x20_0000_1F01
def after (r : Res) : State := match r with | .next t => t | _ => s0
/-- Tiles described, x1 at 0x100 of the scratchpad, accumulators tagged as integers or as floats under plus-times. -/
def mx (float : Bool) : State :=
  core0 (fun c => { c with tcfg := Vector.replicate 8 tcfg1, accs := Vector.replicate 4 { rows := Vector.replicate 32 5, tag := some (float, 0) } }) (x 1 (own 0x100) (pad 0x100 4 0x04030201 s0))
def mma8 : M64 := { ow := true, ksteps := 3, fmtB := 0, fmtA := 0, etypeB := 1, etypeA := 1, sgnB := false, sgnA := false, semiring := 0, tileB := 1, tileA := 0, acc := 2 }
theorem witness_matrix_issue : tcfgValid tcfg1 = true ∧ uv (own 0x100) % 32 = 0 ∧ tcfgStride tcfg1 % 32 = 0
    ∧ Ok (.tld 0 1 0) (mx false) ∧ passes (accessPieces (mx false) probeStrand (.load false) (rowSectors tcfg1 (own 0x100)).flatten) (fun _ ps => ps.length = 1)
    ∧ Ok (.tst 0 1 0) (mx false) ∧ passes (accessPieces (mx false) probeStrand (.put false) (rowSectors tcfg1 (own 0x100)).flatten) (fun _ ps => ps.length = 1)
    ∧ Ok (.tzero 3) (mx false) ∧ Ok (.azero 2 1 true) (mx false) ∧ Ok (.mma mma8) (mx false) ∧ mmaFault (mx false) mma8 = none
    ∧ Ok (.mdrain 0 0 0 8) (mx false) ∧ drainFault (mx false) .plain 0 1 8 0 = none
    ∧ Ok (.mdrainG 0 0 0 8 3) (mx true) ∧ drainFault (mx true) .noise 0 1 8 0 = none
    ∧ Ok (.mdrains 0 0 0 8 3) (mx true) ∧ drainFault (mx true) .scaled 0 1 8 0 = none := by decide +kernel
theorem witness_matrix_issued : [Instr.tld 0 1 0, .tst 0 1 0, .tzero 3, .azero 2 1 true, .mma mma8, .mdrain 0 0 0 8].all (fun i =>
      goes (exec i (mx false)) (fun t => t.curCore.mx.map (fun o => o.instr) = [i] && t.cur.wait = .mx && t.pc = 0x10000)) = true
    ∧ [Instr.mdrainG 0 0 0 8 3, .mdrains 0 0 0 8 3].all (fun i => goes (exec i (mx true)) (fun t => t.curCore.mx.map (fun o => o.instr) = [i])) = true := by
  decide +kernel
theorem witness_matrix_traps : trapped (exec (.tld 0 1 0) (handler (core0 (fun c => { c with tcfg := Vector.replicate 8 0xFFFFFF }) s0))) Cause.tileConfig 0
    ∧ trapped (exec (.tst 0 1 8) (handler (mx false))) Cause.misaligned (own 0x108)
    ∧ trapped (exec (.tld 0 1 0) (handler (x 1 (own 0x1FF800) (mx false)))) Cause.bounds (own 0x1FF800)
    ∧ mmaFault (mx false) { mma8 with ow := false, semiring := 1 } = some (Cause.tileConfig, 10)
    ∧ trapped (exec (.mma { mma8 with ow := false, semiring := 1 }) (handler (mx false))) Cause.tileConfig 10
    ∧ drainFault s0 .plain 2 1 8 0 = some (Cause.tileConfig, 10) ∧ trapped (exec (.mdrain 2 0 0 0xA0) (handler s0)) Cause.tileConfig 10
    ∧ goes (exec (.mslot true 1) (x 1 0x21 s0)) (fun t => t.curCore.slots[16] = 1 && t.curCore.slots[17] = 2 && t.curCore.slots[0] = 0) := by decide +kernel
/-- MatrixOperationsStart and MatrixOperationsComplete: a TLD, a TST, a TZERO, an AZERO and an MMA that are picked, run and end. -/
def issued (i : Instr) : State := after (exec i (mx false))
def started (i : Instr) (array : Bool) : State := after (execMatrixOpStart probeCore array (issued i))
theorem witness_matrix_start : unitFree ((issued (.tld 0 1 0)).core probeCore) false = true ∧ (mxPick (issued (.tld 0 1 0)) probeCore false).isSome = true
    ∧ ((Vector.nth (n := 31) (Vector.nth (n := 7) ((started (.tld 0 1 0) false).core probeCore).tiles 0) 0).toNat = 0x04030201)
    ∧ (mxPick (issued (.tst 0 1 0)) probeCore false).isSome = true ∧ Memory.readN (started (.tst 0 1 0) false).mem (padLoc probeCore 0x100) 4 = 0
    ∧ (mxPick (issued (.azero 2 1 true)) probeCore true).isSome = true
    ∧ (Vector.nth (n := 3) ((started (.azero 2 1 true) true).core probeCore).accs 2).tag = some (false, 1)
    ∧ (Vector.nth (n := 31) (Vector.nth (n := 3) ((started (.azero 2 1 true) true).core probeCore).accs 2).rows 4).toNat % 2 ^ 64 = 0x7FFFFFFF7FFFFFFF
    ∧ (mxPick (issued (.mma mma8)) probeCore true).isSome = true := by decide +kernel
theorem witness_matrix_complete : ((started (.tzero 0) false).core probeCore).mx.map (fun o => (o.running, o.slot)) = [(true, 0)]
    ∧ goes (exec (.matrixOpComplete probeCore 0) (started (.tzero 0) false)) (fun t => t.curCore.mx = [] && t.cur.wait = .none && t.pc = 0x10004)
    ∧ goes (exec (.matrixOpComplete probeCore 0) (started (.mma mma8) true)) (fun t => t.curCore.mx.length = 1)
    ∧ goes (exec (.matrixOpComplete probeCore 0) (after (exec (.arrayFree probeCore) (started (.mma mma8) true)))) (fun t => t.curCore.mx = [] && t.pc = 0x10008) := by
  decide +kernel
/-- IntegerMmaIsAProduct: row 0 of tile 0 is 1, 2, 3, 4, row 0 of tile 1 is 2, 2, 2, 2: 20. -/
def tiles2 : Core :=
  { Core.empty with tcfg := Vector.replicate 8 tcfg1, tiles := (Vector.replicate 8 (Vector.replicate 32 0)).set 0 (Vector.replicate 32 0x04030201) |>.set 1 (Vector.replicate 32 0x02020202) }
def op8 : MxOp := { slot := 0, array := true, instr := .mma mma8, tcfg := Vector.replicate 8 tcfg1, fmts := Vector.replicate 8 0, mcfg := 0, key := 0, pos := 0, temp := 0, fpc := 0, xa := 0, rows := [], span := [], decks := [], crossing := false, shape := none, running := false, freed := false, flags := 0 }
theorem witness_mma : mmaIsInt mma8 = true ∧ mma8.semiring = 0
    ∧ (Vector.nth (n := 31) (mmaRun tiles2 op8 mma8).1.rows 0).toNat % 2 ^ 32 = 20 := by
  decide +kernel

/-- MatrixInstructions: the faults of TST and of each kind of drain: no tag, an integer accumulator, a scale block misaligned or past
the scratchpad, an array turned over to other strands. -/
def turned (s : State) : State := core0 (fun c => { c with mcfg := 1, slots := Vector.replicate 32 3 }) s
theorem witness_drain_traps : trapped (exec (.tst 0 1 0) (handler (x 1 (own 0x1FF800) (mx false)))) Cause.bounds (own 0x1FF800)
    ∧ invTemp (mx false).curCore.smptemp ≠ .invalid
    ∧ trapped (exec (.mdrain 1 0 0 0xA0) (handler s0)) Cause.tileConfig 9
    ∧ trapped (exec (.mdrains 1 0 0 0xA0 3) (handler (mx false))) Cause.tileConfig 9
    ∧ trapped (exec (.mdrainG 1 0 0 0xA0 3) (handler (mx false))) Cause.tileConfig 9
    ∧ trapped (exec (.mdrains 1 0 0 0x8E 3) (handler (x 3 16 (mx true)))) Cause.misaligned 16
    ∧ trapped (exec (.mdrains 1 0 0 0x8E 3) (handler (x 3 0x1FF7A0 (mx true)))) Cause.bounds 0x1FF7A0
    ∧ trapped (exec (.mdrain 1 0 0 0x88) (handler (turned (mx true)))) Cause.modeConflict 0 := by decide +kernel
/-- MatrixOperationsStart: drains to registers, to the Q registers and to a channel. -/
def issuedF (i : Instr) : State := after (exec i (mx true))
def startedF (i : Instr) : State := after (execMatrixOpStart probeCore true (issuedF i))
theorem witness_drains_start : (mxPick (issuedF (.mdrain 1 0 1 0x88)) probeCore true).isSome = true
    ∧ (Vector.nth (n := 7) (startedF (.mdrain 1 0 1 0x88)).cur.q 2) = 5
    ∧ Tbl.get ((startedF (.mdrain 1 0 0 8)).core probeCore).vf 8 0 = 5
    ∧ (mxPick (issuedF (.mdrainG 1 0 0 8 3)) probeCore true).isSome = true
    ∧ (mxPick (issuedF (.mdrains 1 0 0 8 3)) probeCore true).isSome = true := by decide +kernel
/-- MatrixOperationsStart and MatrixOperationsComplete: a transfer to core (1, 0), over the boundary of a deck that relocks after its
issue, starts without its effect and completes with it once the relock has ended. -/
def farTile : State :=
  core0 (fun c => { c with tcfg := Vector.replicate 8 tcfg1 })
    (x 1 (.ofNat 64 (0xFFF * 2 ^ 44 + 2 ^ 38 + 0x100)) { two with ctxs := [(1, { probeCtx with wlog := 1, place := [(0, 0), (1, 128)] })] })
def farIssued : State := busyDeck (after (exec (.tst 0 1 0) farTile))
def farStarted : State := after (execMatrixOpStart probeCore false farIssued)
def free0 (s : State) : State := s.setDeck 0 { s.deck 0 with relock := false }
theorem witness_crossing : unitFree (farIssued.core probeCore) false = true ∧ (mxPick farIssued probeCore false).map (fun o => heldAt farIssued probeStrand o.decks) = some [0]
    ∧ farStarted.curCore.mx.map (fun o => (o.running, o.crossing)) = [(true, true)]
    ∧ goes (exec (.matrixOpComplete probeCore 0) farStarted) (fun t => t.curCore.mx.length = 1)
    ∧ goes (exec (.matrixOpComplete probeCore 0) (free0 farStarted)) (fun t => t.curCore.mx = [] && t.pc = 0x10004 && t.cur.wait = .none) := by
  decide +kernel

/-! ## Witnesses: vectors -/

/-- v2 holds 1.5 in every lane, v3 2.25, v5 bytes 0xFF, v6 bytes 2. -/
def lanes (w v : Nat) : V512 := .ofNat 512 ((List.range (512 / w)).foldl (fun a i => a + v * 2 ^ (w * i)) 0)
def vs : State := core0 (fun c => { c with vf := [(2, lanes 32 0x3FC00000), (3, lanes 32 0x40100000), (5, lanes 8 0xFF), (6, lanes 8 2)] }) (x 1 (own 0x100) (pad 0x100 4 7 s0))
def byteV (d a b : Spec) : V64 := { f32 d a b 0xFE with etype := 1 }
def reg1 (r : Spec) (t : State) : Nat := (regRead t t.fs r).toNat
/-- Every instruction of n0 to n4 and n7, and of the literal and immediate forms: one form that passes its checks and completes. -/
def lit (f : V64) : V64 := { f with b := 0xFF }
def laneForms : List Instr :=
  [ .vadd (f32 1 2 3 0xFE), .vsub (f32 1 2 3 0xFE), .vmul (f32 1 2 3 0xFE), .vfma (f32 1 2 3 4), .vfms (f32 1 2 3 4), .vdiv (f32 1 2 3 0xFE)
  , .vmin (f32 1 2 3 0xFE), .vmax (f32 1 2 3 0xFE), .vabs (f32 1 2 0xFE 0xFE), .vneg (f32 1 2 0xFE 0xFE), .vand (byteV 1 5 6), .vor (byteV 1 5 6)
  , .vxor (byteV 1 5 6), .vandn (byteV 1 5 6), .vshl (byteV 1 5 6), .vshr (byteV 1 5 6), .vsar (byteV 1 5 6), .vcmp { f32 0xB1 2 3 0 with c := 2 }
  , .vsel (f32 1 2 3 0xB4), .vclamp (f32 1 2 3 3), .vmov (f32 1 2 0xFE 0xFE), .vcvt { f32 1 2 0xFE 6 with rnd := 1 }, .vgumbel (f32 1 2 0xFE 0xFE)
  , .vexp2 (f32 1 2 0xFE 0xFE), .vlog2 (f32 1 2 0xFE 0xFE), .vrcp (f32 1 2 0xFE 0xFE), .vrsqrt (f32 1 2 0xFE 0xFE), .vsqrt (f32 1 2 0xFE 0xFE)
  , .vsin (f32 1 2 0xFE 0xFE), .vcos (f32 1 2 0xFE 0xFE), .vtanh (f32 1 2 0xFE 0xFE), .vsigm (f32 1 2 0xFE 0xFE)
  , .vaddVi (i32 1 2 0x4000), .vsubVi (i32 1 2 0x4000), .vmulVi (i32 1 2 0x4000), .vdivVi (i32 1 2 0x4000), .vminVi (i32 1 2 0x4000), .vmaxVi (i32 1 2 0x4000)
  , .vandVi { i32 1 5 3 with etype := 1 }, .vorVi { i32 1 5 3 with etype := 1 }, .vxorVi { i32 1 5 3 with etype := 1 }, .vandnVi { i32 1 5 3 with etype := 1 }
  , .vshlVi { i32 1 5 3 with etype := 1 }, .vshrVi { i32 1 5 3 with etype := 1 }, .vsarVi { i32 1 5 3 with etype := 1 }
  , .vaddLit (lit (f32 1 2 3 0xFE)) 0, .vsubLit (lit (f32 1 2 3 0xFE)) 0, .vmulLit (lit (f32 1 2 3 0xFE)) 0, .vfmaLit (lit (f32 1 2 3 4)) 0, .vdivLit (lit (f32 1 2 3 0xFE)) 0
  , .vcmpLit (lit { f32 0xB1 2 3 0 with c := 2 }) 0, .vselLit (lit (f32 1 2 3 0xB4)) 0
  , .vscale (f32 10 11 12 13), .vdot { byteV 1 5 6 with c := 4 }, .vred (f32 4 2 0xFE 0), .vargmax (f32 8 9 0xFE 7), .vbcast (f32 1 1 0xFE 0xFE)
  , .vins (f32 1 1 0xFE 3), .vperm (f32 1 2 3 0xFE), .vslide (f32 1 2 3 3), .vcomp (f32 1 2 0xFE 0xFE)
  , .vfmsLit (lit (f32 1 2 3 4)) 0, .vminLit (lit (f32 1 2 3 0xFE)) 0, .vmaxLit (lit (f32 1 2 3 0xFE)) 0, .vabsLit (f32 1 0xFF 0xFE 0xFE) 0
  , .vnegLit (f32 1 0xFF 0xFE 0xFE) 0, .vandLit (lit (byteV 1 5 6)) 0, .vorLit (lit (byteV 1 5 6)) 0, .vxorLit (lit (byteV 1 5 6)) 0
  , .vandnLit (lit (byteV 1 5 6)) 0, .vshlLit (lit (byteV 1 5 6)) 0, .vshrLit (lit (byteV 1 5 6)) 0, .vsarLit (lit (byteV 1 5 6)) 0
  , .vclampLit (lit (f32 1 2 3 3)) 0, .vcvtLit { f32 1 0xFF 0xFE 6 with rnd := 1 } 0, .vscaleLit (lit (f32 10 11 12 13)) 0
  , .vdotLit (lit { byteV 1 5 6 with c := 4 }) 0, .vredLit (f32 4 0xFF 0xFE 0) 0, .vargmaxLit (f32 8 0xFF 0xFE 7) 0, .vgumbelLit (f32 1 0xFF 0xFE 0xFE) 0
  , .vmovLit (f32 1 0xFF 0xFE 0xFE) 0, .vpermLit (lit (f32 1 2 3 0xFE)) 0, .vslideLit (lit (f32 1 2 3 3)) 0, .vcompLit (f32 1 0xFF 0xFE 0xFE) 0 ]
def passesLanes (i : Instr) : Bool :=
  match vinsOf i with
  | some v => isLanes v.op && wellFormed (fun n => fmtWidth (vs.curCore.fmtOf n.toNat)) i && vissueFaults vs v (vrun vs i v).beats = none
      && v.endpoints = [] && (v.shapedOps vs.curCore).isEmpty
  | none => false

theorem witness_lane_forms : laneForms.all passesLanes = true := by decide +kernel
def v64len (i : Instr) : Nat := match vinsOf i with | some v => v.len | none => 0
theorem test_lane_forms_complete : laneForms.all (fun i => goes (exec i vs) (fun t => t.pc = 0x10000 + .ofNat 64 (v64len i))) = true := by decide +kernel
/-- IntegerLanes: 0xFF + 2 wraps to 1, and its other operations. -/
theorem witness_integer_lanes : isInt (byteV 1 5 6).etype.toNat = true ∧ Ok (.vadd (byteV 1 5 6)) vs ∧ vissueFaults vs (.of .vadd (byteV 1 5 6)) 1 = none
    ∧ Ok (.vmul (byteV 1 5 6)) vs ∧ Ok (.vandn (byteV 1 5 6)) vs
    ∧ goes (exec (.vadd (byteV 1 5 6)) vs) (fun t => reg1 1 t = (lanes 8 1).toNat)
    ∧ goes (exec (.vmul (byteV 1 5 6)) vs) (fun t => reg1 1 t = (lanes 8 0xFE).toNat)
    ∧ goes (exec (.vandn (byteV 1 5 6)) vs) (fun t => reg1 1 t = (lanes 8 0xFD).toNat)
    ∧ goes (exec (.vadd (f32 1 2 3 0xFE)) vs) (fun t => reg1 1 t = (lanes 32 0x40700000).toNat && t.cur.l0 = lanes 32 0x40700000) := by decide +kernel
/-- x1 at a global page, x2 a stride of 4. -/
def vg : State := x 1 0x20000 (x 2 4 vs)
def vio (op : VOp) (f : V64) (s : State) : Bool :=
  vissueFaults s (.of op f) 1 = none && (VIns.of op f).endpoints = []
theorem witness_vector_memory : Ok (.vld (f32 1 1 0 0xFE)) vs ∧ vio .vld (f32 1 1 0 0xFE) vs ∧ uv (vs.readX 1) % 64 = 0
    ∧ passes (accessBytes vs probeStrand (uv (own 0x100)) 64 (.load false)) (fun _ ps => ps.all (fun p => p.hit.win = some probeCore))
    ∧ goes (exec (.vld (f32 1 1 0 0xFE)) vs) (fun t => reg1 1 t = 7 && t.pc = 0x10008)
    ∧ passes (accessBytes vg probeStrand 0x20000 64 (.load false)) (fun _ ps => !(ps.all (fun p => p.hit.win = some probeCore)))
    ∧ goes (exec (.vld (f32 1 1 0 0xFE)) vg) (fun t => t.pc = 0x10000 && t.cur.wait = .reply { len := 8, xw := [], vw := some (1, 0), decks := [0] })
    ∧ Ok (.vst (f32 1 2 0 0xFE)) vs ∧ vio .vst (f32 1 2 0 0xFE) vs
    ∧ goes (exec (.vst (f32 1 2 0 0xFE)) vs) (fun t => Memory.readN t.mem (padLoc probeCore 0x13C) 4 = 0x3FC00000 && t.pc = 0x10008)
    ∧ Ok (.vlds (f32 1 1 2 0xFE)) vg ∧ vio .vlds (f32 1 1 2 0xFE) vg ∧ passes (lanesAccess vg probeStrand (.load false) 32 [0x20000, 0x2003C]) (fun _ ps => ps.length = 2)
    ∧ goes (exec (.vlds (f32 1 1 2 0xFE)) vg) (fun t => t.cur.wait ≠ .none)
    ∧ Ok (.vgather (f32 1 1 7 0xFE)) vg ∧ vio .vgather (f32 1 1 7 0xFE) vg ∧ goes (exec (.vgather (f32 1 1 7 0xFE)) vg) (fun t => t.cur.wait ≠ .none)
    ∧ Ok (.vsts (f32 1 2 2 0xFE)) vg ∧ vio .vsts (f32 1 2 2 0xFE) vg
    ∧ goes (exec (.vsts (f32 1 2 2 0xFE)) vg) (fun t => Memory.readN t.mem (probeBase + 0x2003C) 4 = 0x3FC00000 && t.pc = 0x10008)
    ∧ Ok (.vscatter (f32 1 2 7 0xFE)) vg ∧ vio .vscatter (f32 1 2 7 0xFE) vg
    ∧ goes (exec (.vscatter (f32 1 2 7 0xFE)) vg) (fun t => Memory.readN t.mem (probeBase + 0x20000) 8 = 0x3FC00000 && t.pc = 0x10008) := by decide +kernel
/-- A receiving endpoint 5 with a message, and a sending endpoint 3 with room. -/
def chans (m : List Msg) (s : State) : State :=
  core0 (fun c => { c with ends := [(3, { send := true }), (5, { send := false })] })
    { s with links := [{ launch := 1, chan := 0, sender := 2048, ks := 3, receiver := 2048, kr := 5, slots := 2, closed := false }], inbox := [(2048 * 16 + 5, m)] }
def msg1 : Msg := { sender := 2048, ks := 3, msg := lanes 32 0x3FC00000, taken := none }
/-- VectorFaultsAndBeats: each kind of fault; an operation that waits for a message, one that runs to its end, one of two beats. -/
def causeOf (f : Option (Byte × Word)) : Option Byte := f.map (fun e => e.1)
theorem witness_vector_faults : causeOf (vissueFaults vs (.of .vadd (f32 1 2 0x10 0xFE)) 1) = some Cause.vregRange
    ∧ causeOf ((VIns.of .vadd (f32 1 2 0x10 0xFE)).specFaults 0 0) = some Cause.vregRange ∧ Ok (.vadd (f32 1 2 0x10 0xFE)) vs
    ∧ goes (exec (.vadd (f32 1 2 0x10 0xFE)) (handler vs)) (fun t => t.cur.tCode = Cause.vregRange && t.pc = 0x400)
    ∧ causeOf (vissueFaults vs (.of .vld (f32 0x10 1 0 0xFE)) 1) = some Cause.vregRange ∧ Ok (.vld (f32 0x10 1 0 0xFE)) vs
    ∧ goes (exec (.vld (f32 0x10 1 0 0xFE)) (handler vs)) (fun t => t.cur.tCode = Cause.vregRange && t.pc = 0x400) := by decide +kernel
def receiving (m : List Msg) : State := after (exec (.vadd (f32 1 2 0xA5 0xFE)) (chans m vs))
def atBeat (w : Wait) (b n : Nat) : Bool := match w with | .vec r => r.beat = b && r.beats = n | _ => false
theorem witness_beats : vinsOf (.vadd (f32 1 2 0xA5 0xFE)) = some (.of .vadd (f32 1 2 0xA5 0xFE)) ∧ vissueFaults (chans [] vs) (.of .vadd (f32 1 2 0xA5 0xFE)) 1 = none
    ∧ atBeat (receiving []).cur.wait 0 1
    ∧ goes (exec (.vectorBeat probeCore) (receiving [])) (fun t => t.pc = 0x10000)
    ∧ goes (exec (.vectorBeat probeCore) (receiving [msg1])) (fun t => t.pc = 0x10008 && reg1 1 t = (lanes 32 0x40400000).toNat && t.cur.wait = .none) := by decide +kernel
/-- A shape of 32 elements of f32 at 0x1000, in h1: two beats. -/
def shaped (s : State) : State :=
  core0 (fun c => { c with h := c.h.set 1 0x400 }) (pad 0x400 32 (0x1000 + 7 * 2 ^ 24 + 1 * 2 ^ 32 + 32 * 2 ^ 64 + 4 * 2 ^ 128) s)
def shapedBeat : State := after (exec (.vadd (f32 0x91 0x91 3 0xFE)) (shaped vs))
theorem witness_two_beats : vissueFaults (shaped vs) (.of .vadd (f32 0x91 0x91 3 0xFE)) 2 = none ∧ atBeat shapedBeat.cur.wait 0 2
    ∧ goes (exec (.vectorBeat probeCore) shapedBeat) (fun t => atBeat t.cur.wait 1 2 && t.pc = 0x10000
        && goes (exec (.vectorBeat probeCore) t) (fun u => u.cur.wait = .none && u.pc = 0x10008
          && Memory.readN u.mem (padLoc probeCore 0x1000) 4 = 0x40100000)) := by decide +kernel
theorem witness_masks : Ok (.mop { f32 0xB1 0xB2 0xB3 1 with etype := 0 }) vs ∧ (VIns.of .mop { f32 0xB1 0xB2 0xB3 1 with etype := 0 }).specFaults 0 0 = none
    ∧ goes (exec (.mop { f32 0xB1 0xB0 0xB3 0 with etype := 0 }) (strand0 (fun t => { t with m := t.m.set 3 5 }) vs)) (fun t => t.cur.m[1] = 5)
    ∧ goes (exec (.mpop { f32 3 0xB3 0xFE 0xFE with etype := 0 }) (strand0 (fun t => { t with m := t.m.set 3 5 }) vs)) (fun t => t.readX 3 = 2)
    ∧ goes (exec (.mfirst { f32 3 0xB3 0xFE 0xFE with etype := 0 }) (strand0 (fun t => { t with m := t.m.set 3 4 }) vs)) (fun t => t.readX 3 = 2)
    ∧ goes (exec (.mset { f32 0xB1 0xFE 3 0 with etype := 0 }) vs) (fun t => t.cur.m[1] = 7) := by decide +kernel
theorem witness_extract : Ok (.vextr (f32 3 2 0xFE 15)) vs ∧ (VIns.of .vextr (f32 3 2 0xFE 15)).specFaults 0 0 = none ∧ fmtFaults vs.curCore (.of .vextr (f32 3 2 0xFE 15)) = none
    ∧ goes (exec (.vextr (f32 3 2 0xFE 15)) vs) (fun t => t.readX 3 = 0x3FC00000)
    ∧ Ok (.vextrLit { f32 3 0xFF 0xFE 0 with etype := 3, sgnA := true } 0xFFFFFFFE) vs
    ∧ goes (exec (.vextrLit { f32 3 0xFF 0xFE 0 with etype := 3, sgnA := true } 0xFFFFFFFE) vs) (fun t => t.readX 3 = -2 && t.pc = 0x1000C) := by decide +kernel
theorem witness_index : Ok (.vxset 1 5) vs ∧ Ok (.vxadd 1 (-3)) vs ∧ Ok (.hset 4 1 0) vs ∧ Ok (.chstat 3 5) vs ∧ Ok (.chclose 3) vs
    ∧ goes (exec (.vxset 0 5) vs) (fun t => t.cur.vx = 5) ∧ goes (exec (.vxadd 0 (-3)) (strand0 (fun t => { t with vx := 1, vxw := 8 }) vs)) (fun t => t.cur.vx = 6)
    ∧ goes (exec (.hset 4 0 0x40) vs) (fun t => t.curCore.h[4] = 0x40) ∧ trapped (exec (.hset 4 0 0x41) (handler vs)) Cause.misaligned 0x41
    ∧ trapped (exec (.hset 4 1 0) (handler (x 1 0x200000 vs))) Cause.bounds 0x200000
    ∧ goes (exec (.chstat 3 5) (chans [msg1] vs)) (fun t => t.readX 3 = 2 * 2 ^ 17 + 1) ∧ goes (exec (.chstat 3 3) (chans [msg1] vs)) (fun t => t.readX 3 = 3 * 2 ^ 17 + 1)
    ∧ goes (exec (.chclose 3) (chans [] vs)) (fun t => t.cur.staged = [.endMark 3]) ∧ trapped (exec (.chclose 5) (handler (chans [] vs))) Cause.chanDir 5 := by decide +kernel

/-- VectorFaultsAndBeats: accesses of n5 that are misaligned, misaligned in a lane, out of bounds, or held at a boundary. -/
theorem witness_access_faults : vio .vld (f32 1 1 0 0xFE) (x 1 (own 0x120) vs) ∧ trapped (exec (.vld (f32 1 1 0 0xFE)) (handler (x 1 (own 0x120) vs))) Cause.misaligned (own 0x120)
    ∧ vio .vst (f32 1 2 0 0xFE) (x 1 (own 0x120) vs) ∧ trapped (exec (.vst (f32 1 2 0 0xFE)) (handler (x 1 (own 0x120) vs))) Cause.misaligned (own 0x120)
    ∧ trapped (exec (.vld (f32 1 1 0 0xFE)) (handler (x 1 (own 0x1FF800) vs))) Cause.bounds (own 0x1FF800)
    ∧ trapped (exec (.vst (f32 1 2 0 0xFE)) (handler (x 1 (own 0x1FF800) vs))) Cause.bounds (own 0x1FF800)
    ∧ trapped (exec (.vlds (f32 1 1 2 0xFE)) (handler (x 2 3 vg))) Cause.misaligned 0x20003
    ∧ trapped (exec (.vscatter (f32 1 2 7 0xFE)) (handler (x 1 0x20002 vg))) Cause.misaligned 0x20002
    ∧ faults (lanesAccess vg probeStrand (.load false) 32 [0x20000, uv (own 0x1FF800)]) Cause.bounds (own 0x1FF800)
    ∧ waits (exec (.vld (f32 1 1 0 0xFE)) (busyDeck vg)) true [0] ∧ holdsStore (exec (.vsts (f32 1 2 2 0xFE)) (busyDeck vg)) (.vsts (f32 1 2 2 0xFE)) [0] := by decide +kernel
/-- VectorMemoryCompletes: a VST under a mask of lane 1 writes its four bytes alone. -/
theorem witness_masked_store : (let s := strand0 (fun t => { t with m := t.m.set 3 2 }) vs
    Ok (.vst { f32 1 2 0 0xFE with mask := 3 }) s ∧ goes (exec (.vst { f32 1 2 0 0xFE with mask := 3 }) s)
      (fun t => Memory.readN t.mem (padLoc probeCore 0x100) 8 = 0x3FC0000000000007 && Memory.readN t.mem (padLoc probeCore 0x108) 8 = 0)) := by decide +kernel
/-- MaskIndexAndChannelInstructions: an element of 5 bits (R180), the last room for an end marker, and none. -/
def fp5 (s : State) : State := core0 (fun c => { c with fmt := c.fmt.set 0 0x192 }) s
theorem witness_narrow_extract : fmtWidth ((fp5 vs).curCore.fmtOf 0) = some 8 ∧ (narrowFmt ((fp5 vs).curCore.fmtOf 0)).bits = 5
    ∧ Ok (.vextr { f32 3 5 0xFE 0 with etype := 9 }) (fp5 vs) ∧ goes (exec (.vextr { f32 3 5 0xFE 0 with etype := 9 }) (fp5 vs)) (fun t => t.readX 3 = 0x1F)
    ∧ trapped (exec (.chclose 3) (handler (staged (List.replicate 32 (.dec 2048 4 1)) (chans [] vs)))) Cause.stageFull 0
    ∧ goes (exec (.chclose 3) (staged (List.replicate 31 (.dec 2048 4 1)) (chans [] vs))) (fun t => t.cur.staged.length = 32)
    ∧ goes (exec (.chclose 3) (handler (staged [.endMark 3] (chans [] vs)))) (fun t => t.cur.tActive) := by decide +kernel
/-- VectorFaultsAndBeats: two strands with an operation each; the pipe takes them in turn. -/
def pair2 : State :=
  let s := receiving [msg1, msg1]
  s.setStrand (probeStrand + 1) { s.cur with taskid := 3 }
theorem witness_pipe_turns : (List.range 16).map (fun i => ((pair2.core probeCore).rotPipe + 1 + i) % 16) = ([] : List Nat) ++ 1 :: [2, 3, 4, 5, 6, 7, 8, 9, 10, 11, 12, 13, 14, 15, 0]
    ∧ goes (exec (.vectorBeat probeCore) pair2) (fun t => (t.strand (probeStrand + 1)).wait = .none && t.cur.wait ≠ .none && (t.core probeCore).rotPipe = 1
        && goes (exec (.vectorBeat probeCore) t) (fun u => u.cur.wait = .none && (u.core probeCore).rotPipe = 0)) := by decide +kernel

/-! ## Witnesses: copies -/

/-- The request words of a copy in x4 to x7. -/
def req (a b c d : Word) (s : State) : State := x 4 a (x 5 b (x 6 c (x 7 d s)))
/-- A plain copy of 8 bytes within the own scratchpad, without a counter. -/
def reqPlain : State := req 0x1000 (own 0x100) (own 0x200) 8 sm
/-- A FIFO of n committed jobs. -/
def jobOf (w0 w1 w2 w3 : Word) : Job :=
  { launch := 1, stage := 0, slot := 0, w0 := w0, w1 := w1, w2 := w2, w3 := w3, started := false, block := none, idx := [], done := 0, rows := [], flags := 0, susp := none }
def fifo (n : Nat) (s : State) : State := core0 (fun c => { c with jobs := List.replicate n (jobOf 0x1000 0 0 64) }) s
def jobsOf (t : State) : List Job := (t.core probeCore).jobs
theorem witness_cpy : Ok (.cpy 3 4 false) reqPlain ∧ copyFault reqPlain 0x1000 (own 0x100) (own 0x200) 8 = none
    ∧ goes (exec (.cpy 3 4 false) reqPlain) (fun t => t.readX 3 = 0 && t.cur.staged = [.copy 0x1000 (own 0x100) (own 0x200) 8] && t.pc = 0x10004)
    ∧ fifoCount (fifo 16 reqPlain) probeCore = 16 ∧ stagedCopies (fifo 16 reqPlain) probeCore = 0
    ∧ goes (exec (.cpy 3 4 true) (fifo 16 reqPlain)) (fun t => t.readX 3 = 1) ∧ goes (exec (.cpy 3 4 false) (fifo 16 reqPlain)) (fun t => t.pc = 0x10000 && t.cur.wait = .held false)
    ∧ goes (exec (.cpy 3 4 true) (staged (List.replicate 16 (.copy 0x1000 0 0 0)) reqPlain)) (fun t => t.readX 3 = 2)
    ∧ trapped (exec (.cpy 3 4 false) (handler (staged (List.replicate 16 (.copy 0x1000 0 0 0)) reqPlain))) Cause.stageFull 0
    ∧ trapped (exec (.cpy 3 4 true) (handler (req 0x1006 0 0 0 sm))) Cause.cpyInvalid 0x1006
    ∧ trapped (exec (.cpy 3 4 true) (handler (req 0x1000 0 0 0x10000000000 sm))) Cause.cpyInvalid 0x1000
    ∧ trapped (exec (.cpy 3 4 true) (handler (req 0x0010900000000 0 0 0 sm))) Cause.noSuchCore 0x0010900000000
    ∧ trapped (exec (.cpy 3 4 true) (handler (req 0x1001 0 0 32 sm))) Cause.misaligned 32 := by decide +kernel
def counted (n : Word) (s : State) : State := core0 (fun c => { c with cpwp := c.cpwp.set 2 n }) s
theorem witness_cpwait : uv ((counted 3 (s3 0 3 0)).readX 2) ≤ 3
    ∧ goes (exec (.cpwait 3 2 2) (counted 3 (s3 0 3 0))) (fun t => t.readX 3 = 3 && t.pc = 0x10004)
    ∧ goes (exec (.cpwait 3 2 2) (counted 3 (s3 0 4 0))) (fun t => t.cur.wait = .cpwait (.cpwait 3 2 2) && t.pc = 0x10000) := by decide +kernel

/-- CopyJobsMove: a plain copy at its start, in progress at its last byte, and done. -/
def plainJob (done : Nat) (st : Bool) : Job := { jobOf 0x1000 (.ofNat 64 (2 ^ 13)) (own 0x21C) 8 with done := done, started := st }
def withJob (j : Job) (s : State) : State := core0 (fun c => { c with jobs := [j] }) s
def engOk (s : State) (acc : AccKind) (l : List (Nat × Nat)) : Bool := match engPieces s probeCore acc l with | .ok _ => true | .error _ => false
def engBad (s : State) (acc : AccKind) (l : List (Nat × Nat)) (c : Byte) : Bool := match engPieces s probeCore acc l with | .ok _ => false | .error e => e.1 = c
def src8 (s : State) : State := s.setMem (Memory.writeN s.mem (probeBase + 2 ^ 13) 8 0x1122334455667788)
theorem witness_plain_copy : (plainJob 0 false).kind = 0 ∧ (plainJob 0 false).channel = 0 ∧ (plainJob 0 true).total = 8
    ∧ goes (exec (.copyJobStart probeCore 0) (withJob (plainJob 0 false) s0)) (fun t => jobsOf t = [plainJob 0 true])
    ∧ engOk s0 .read (sectorsOf (2 ^ 13) 4 5) ∧ engOk s0 .write (sectorsOf (uv (own 0x21C)) 4 5)
    ∧ goes (exec (.copyTransfer probeCore 0) (src8 (withJob (plainJob 0 true) s0))) (fun t => jobsOf t = [plainJob 4 true]
        && Memory.readN t.mem (padLoc probeCore 0x21C) 8 = 0x55667788 && (t.core probeCore).cpwp[0] = 4)
    ∧ goes (exec (.copyTransfer probeCore 0) (src8 (withJob (plainJob 4 true) s0))) (fun t => jobsOf t = [plainJob 8 true]
        && Memory.readN t.mem (padLoc probeCore 0x220) 4 = 0x11223344)
    ∧ goes (exec (.copyJobComplete probeCore 0) (withJob (plainJob 8 true) s0)) (fun t => jobsOf t = [] && t.decrs = [])
    ∧ goes (exec (.copyJobComplete probeCore 0) (withJob { plainJob 8 true with w0 := 0x8000900000000 } s0))
        (fun t => jobsOf t = [] && t.decrs = [{ id := 0, src := probeCore, core := probeCore, c := 9, amount := 1, launch := 1, stage := 0 }]) := by decide +kernel
/-- A source whose translation faults, with the record it leaves; one whose access is refused for good. -/
def badSrc (a : Word) : Job := { plainJob 0 true with w1 := a }
def rooted (s : State) : State := { s with ctxs := [(1, { probeCtx with root := 5 * 2 ^ 48 + 2 ^ 24 })] }
theorem witness_copy_faults : engBad (rooted s0) .read (sectorsOf (2 ^ 40) 4 5) Cause.pageAbsent = true
    ∧ goes (exec (.copyTransfer probeCore 0) (withJob (badSrc 0x10000000000) (rooted s0))) (fun t => (jobsOf t).map (fun j => j.susp.map (fun e => (e.cause, e.va))) = [some (Cause.pageAbsent, 0x10000000000)])
    ∧ engBad s0 .read (sectorsOf (uv (own 0x1FF800)) 4 5) Cause.bounds = true
    ∧ goes (exec (.copyTransfer probeCore 0) (withJob (badSrc (own 0x1FF800)) s0)) (fun t => jobsOf t = [] && (t.launch 1).map (fun l => l.fault) = some (some Cause.cpyFault)) := by decide +kernel
/-- A gather of one row of 4 bytes, row 1 of 2, its block at 0x400 and its index list at 0x440. -/
def gatherJob : Job := jobOf 0x1002 (own 0x100) (own 0x200) (own 0x400)
def gblk : V512 := .ofNat 512 (uv (own 0x440) + 2 ^ 64 + 4 * 2 ^ 96 + 2 * 2 ^ 128)
def gatherAt (s : State) : State := pad 0x104 4 0xABCD (pad 0x440 4 1 (pad 0x400 64 gblk.toNat s))
def gatherGo : Job := { gatherJob with block := some gblk, idx := [1], started := true }
def isDone (r : EngOut) : Bool := match r with | .done _ => true | _ => false
theorem witness_gather : gatherJob.kind = 2 ∧ engOk (gatherAt s0) .read (sectorsOf (uv (own 0x400)) 64 3) ∧ blockBad gatherJob gblk = false
    ∧ goes (exec (.parameterBlockRead probeCore 0) (withJob gatherJob (gatherAt s0))) (fun t => jobsOf t = [{ gatherJob with block := some gblk }])
    ∧ blkCount gblk = 1 ∧ 0 < blkRowb gblk ∧ badIndex gatherGo 0 = false ∧ rowOwner s0 probeCore gatherGo 0 4 = probeCore
    ∧ (match destCore s0 probeCore (uv (own 0x104)) with | .ok k => k | .error _ => 0) = probeCore
    ∧ (match engPieces s0 probeCore .read [(uv (own 0x104), 4)] with | .ok ps => ps.length | .error _ => 0) = 1
    ∧ goes (exec (.gatherRowsArrive probeCore 0 probeCore) (withJob gatherGo (gatherAt s0)))
        (fun t => jobsOf t = [{ gatherGo with done := 4 }] && Memory.readN t.mem (padLoc probeCore 0x200) 4 = 0xABCD) := by decide +kernel
/-- SuspendedAccesses: at the instants just before and at the retry and the expiry. -/
def suspAt (t : Nat) (due : Bool) : Susp := { cause := Cause.pageAbsent, va := 7, since := t, lastTry := t, off := 0, due := due }
def suspended (now : Nat) (due : Bool) : State :=
  { withJob { badSrc (.ofNat 64 (2 ^ 13)) with susp := some (suspAt 5 due) } s0 with reft := .ofNat 64 now }
theorem witness_suspended : goes (exec (.engineFaultRetry (.copy probeCore 0)) (suspended 1000005 false)) (fun t => (jobsOf t).map (fun j => j.done) = [4])
    ∧ goes (exec (.engineFaultRetry (.copy probeCore 0)) (suspended 6 true)) (fun t => (jobsOf t).map (fun j => j.done) = [4])
    ∧ goes (exec (.engineFaultRetry (.copy probeCore 0)) (suspended 1000004 false)) (fun t => t = suspended 1000004 false)
    ∧ goes (exec (.engineFaultExpiry (.copy probeCore 0)) (suspended 1000000004 false)) (fun t => t = suspended 1000000004 false) := by decide +kernel
/-- A last try whose fault is gone lets the job go on, and one that meets it again ends the job. -/
def stuck (now : Nat) : State :=
  { withJob { badSrc 0x10000000000 with susp := some { suspAt 5 false with va := 0x10000000000 } } (rooted s0) with reft := .ofNat 64 now }
theorem witness_expiry : goes (exec (.engineFaultExpiry (.copy probeCore 0)) (suspended 1000000005 false)) (fun t => (jobsOf t).map (fun j => j.done) = [4])
    ∧ ((jobStep (stuck 1000000005) probeCore 0 { badSrc 0x10000000000 with susp := some { suspAt 5 false with va := 0x10000000000 } }).core probeCore).jobs.map
        (fun j => j.susp.map (fun y => (y.lastTry, y.cause))) = [some (1000000005, Cause.pageAbsent)]
    ∧ goes (exec (.engineFaultExpiry (.copy probeCore 0)) (stuck 1000000005)) (fun t => jobsOf t = [] && (t.launch 1).map (fun l => l.fault) = some (some Cause.cpyFault)) := by
  decide +kernel
/-- CopyJobsMove and SuspendedAccesses: a core that has taken its edge of a round moves nothing. -/
def edgedCore (s : State) : State := { s with rounds := [(0, { Round.empty with active := true, edged := [.core 0] })] }
theorem witness_frozen_engine : coreFrozen (edgedCore s0) probeCore = true ∧ coreFrozen s0 probeCore = false
    ∧ (let s := edgedCore (suspended 1000000005 true)
       goes (exec (.engineFaultRetry (.copy probeCore 0)) s) (fun t => t = s) && goes (exec (.engineFaultExpiry (.copy probeCore 0)) s) (fun t => t = s))
    ∧ (let s := edgedCore (withJob (plainJob 0 true) s0); goes (exec (.copyTransfer probeCore 0) s) (fun t => t = s)) := by decide +kernel
/-- CopyJobsMove: a transfer to core (1, 0) over the boundary of a relocking deck; a gather whose row lies at no core. -/
def farJob : Job := { plainJob 0 true with w2 := 0xFFF0400000021C }
def lostGather : Job := { gatherGo with w1 := 0xFFF08000000000 }
theorem witness_copy_boundaries : goes (exec (.copyTransfer probeCore 0) (withJob farJob apart)) (fun t => jobsOf t = [farJob] && t.crossing = [(copySender probeCore 0, [0])])
    ∧ (match destCore two probeCore (lostGather.piece 0).1 with | .error _ => true | .ok _ => false) = true
    ∧ goes (exec (.gatherRowsArrive probeCore 0 probeCore) (withJob lostGather two)) (fun t => jobsOf t = [] && (t.launch 1).map (fun l => l.fault) = some (some Cause.cpyFault)) := by
  decide +kernel

/-! ## Witnesses: coverage -/

/-- A stage of one block of 64 f32 cells at 0x20000, family 1 at level 1 on controller 3, kernel linear, one audit in 2^3. -/
def crec (ctype : Nat) : V512 := .ofNat 512 (0x20000 + 64 * 2 ^ 64 + 2 ^ 80 + 2 ^ 96 + 4 * 2 ^ 112 + ctype * 2 ^ 120 + 4 * 2 ^ 128)
def cblk : BitVec 128 := .ofNat 128 (1 + 4 + 1 * 2 ^ 5 + 4 * 2 ^ 16 + 2 ^ 24 + 3 * 2 ^ 32 + 3 * 2 ^ 40 + 6 * 2 ^ 76)
def cov0 : Cov := { covInit 1 (crec 3) cblk with seed := 1 }
def ctl1 : Ctl := { Ctl.empty with inuse := true, level := 1, launches := 1 }
def covered (c : Cov) (s : State) : State := ({ s with covs := [(16, c)] }).setCtl 1 3 ctl1
def covAt (t : State) : Option Cov := Tbl.look t.covs 16
theorem witness_release : covMalformed (crec 3) cblk = false ∧ covTotal cov0 = 1 ∧ cov0.maxLevel = 6 ∧ covMalformed (crec 11) cblk = true := by decide +kernel
def held (b : Nat) (s : State) : State := strand0 (fun t => { t with batch := some b }) s
theorem witness_coverage_instructions : covOf s0 s0.fs = none ∧ Ok (.cvpt 4) s0 ∧ Ok (.cvdone 1) s0 ∧ Ok (.cvstat 3 6) s0
    ∧ trapped (exec (.cvpt 4) (handler s0)) Cause.covBatch 0 ∧ trapped (exec (.cvdone 1) (handler (x 1 7 s0))) Cause.covBatch 7
    ∧ covOf (covered cov0 s0) s0.fs = some (16, cov0) ∧ (covered cov0 s0).cur.staged = [] ∧ commitBlocked (covered cov0 s0) probeStrand = false
    ∧ goes (exec (.cvpt 4) (covered cov0 (x 1 9 s0))) (fun t => t.cur.wait = .batch 4 && (covAt t).map (fun c => c.requests) = some [probeStrand])
    ∧ trapped (exec (.cvpt 4) (handler (held 0 (covered cov0 s0)))) Cause.covBatch 1
    ∧ goes (exec (.cvdone 1) (held 0 (covered cov0 (x 1 0 s0)))) (fun t => t.cur.staged = [.cvdone 0] && t.pc = 0x10004)
    ∧ trapped (exec (.cvdone 1) (handler (held 0 (covered cov0 (x 1 1 s0))))) Cause.covBatch 1
    ∧ goes (exec (.cvstat 3 0) (core0 (fun c => { c with covctl := 3 }) (covered cov0 s0)))
        (fun t => t.cur.wait = .reply { len := 4, xw := [(3, 0x100001001)], vw := none, decks := [] })
    ∧ goes (exec .covctlReset { covered cov0 s0 with covResets := [(1, 3)] }) (fun t => t.covResets = [] && (t.ctl 1 3).inuse = false && (t.ctl 1 3).launches = 1) := by decide +kernel

/-- BatchesAreGranted: a new block, a returned one, none left. -/
def asking (c : Cov) : State := strand0 (fun t => { t with wait := .batch 4 }) (covered { c with requests := [probeStrand] } s0)
theorem witness_grants : goes (exec (.batchGrant 1 0) (asking cov0)) (fun t => t.cur.batch = some 0 && t.cur.wait = .none && t.pc = 0x10004
      && t.readX 4 = 0 && t.readX 7 = 1 && t.readX 5 &&& t.readX 6 = 0 && (covAt t).map (fun c => c.claimed) = some [(0, 1, 0)])
    ∧ goes (exec (.batchGrant 1 0) (asking { cov0 with next := 1, returned := [0] })) (fun t => t.cur.batch = some 0)
    ∧ goes (exec (.batchGrant 1 0) (asking { cov0 with next := 1 })) (fun t => t.readX 4 = 0x8000000000000000 && t.readX 5 = 0 && t.pc = 0x10004) := by decide +kernel
/-- BlocksAreReconstructed: cells that hold 8 everywhere. -/
def cells8 (s : State) : State := s.setMem (Memory.writeN s.mem (probeBase + 0x20000) 256 (packElems 32 (List.replicate 64 8)))
def doneCov : Cov := { cov0 with next := 1, done := [(0, 1, 0)] }
def recOk (s : State) : Bool := match reconBlock s probeCore doneCov (0, 1, 0) with | .ok _ => true | .error _ => false
theorem witness_reconstruction : recOk (cells8 (covered doneCov s0)) ∧ (covered doneCov s0).ctx 1 ≠ none
    ∧ goes (exec (.blockReconstruct 1 0) (cells8 (covered doneCov s0))) (fun t => (t.ctl 1 3).computed = 32 && (t.ctl 1 3).audited + (t.ctl 1 3).recon = 32
        && (t.ctl 1 3).errsum = 0 && (covAt t).map (fun c => c.values.length + 4 * (t.ctl 1 3).audited) = some 128) := by decide +kernel
def covSusp (c : Cov) (now : Nat) (due : Bool) : State := { cells8 (covered { c with susp := some { suspAt 5 due with va := 0x20000 } } s0) with reft := .ofNat 64 now }
theorem witness_suspended_reconstruction : goes (exec (.engineFaultRetry (.recon 1 0)) (covSusp doneCov 6 true)) (fun t => (t.ctl 1 3).computed = 32)
    ∧ goes (exec (.engineFaultRetry (.recon 1 0)) (covSusp doneCov 1000005 false)) (fun t => (t.ctl 1 3).computed = 32)
    ∧ goes (exec (.engineFaultExpiry (.recon 1 0)) { covSusp doneCov 1000000005 false with ctxs := (rooted s0).ctxs, tlbs := [] })
        (fun t => (t.launch 1).map (fun l => (l.sts, l.covFault)) = some ([.ended], some 0x20000))
    ∧ goes (exec (.engineFaultExpiry (.recon 1 0)) (covSusp doneCov 1000000005 false)) (fun t => (t.ctl 1 3).computed = 32 && (t.launch 1).map (fun l => l.sts) = some [.running]) := by decide +kernel
/-- CoverageInstructions: a full stage, a commit that a boundary holds, COVCTL with and without RESET. -/
def far (c : Cov) (s : State) : State := { s with covs := [(16, c)] }
theorem witness_coverage_forms : trapped (exec (.cvdone 1) (handler (stageful (held 0 (covered cov0 (x 1 0 s0)))))) Cause.stageFull 0
    ∧ commitBlocked (far cov0 (staged [.enqueue 2049 task0] apart)) probeStrand = true
    ∧ waits (exec (.cvpt 4) (far cov0 (staged [.enqueue 2049 task0] apart))) false [0]
    ∧ goes (exec (.csrw 3 1 0x078) (x 1 0x103 s0)) (fun t => t.covResets = [(1, 3)]) ∧ goes (exec (.csrw 3 1 0x078) (x 1 3 s0)) (fun t => t.covResets = [])
    ∧ goes (exec (.csrs 3 1 0x078) (x 1 0x100 (core0 (fun c => { c with covctl := 5 }) s0))) (fun t => t.covResets = [(1, 5)]) := by decide +kernel
/-- CommitEffects and RegionsCommit: a CVDONE commits its claimed block; a TEND returns a block that is only held. -/
def claimedCov : Cov := { cov0 with next := 1, claimed := [(0, 1, 0)] }
theorem witness_batch_ends :
    goes (exec .region (staged [.cvdone 0] (held 0 (covered claimedCov s0)))) (fun t => t.cur.batch = none && (covAt t).map (fun c => (c.done, c.claimed)) = some ([(0, 1, 0)], []))
    ∧ goes (exec .tend (held 0 (covered claimedCov s0))) (fun t => t.cur.batch = none && (covAt t).map (fun c => (c.returned, c.claimed)) = some ([0], [])) := by
  decide +kernel
/-- BlocksAreReconstructed: a stage that no longer runs leaves its values in memory at once. -/
theorem witness_late_reconstruction :
    let s := cells8 (covered doneCov (s0.setLaunch 1 { ((s0.launch 1).getD probeLaunch) with ended := true, sts := [.ended] }))
    stageLive s (stageKey 1 0) = false ∧ recOk s ∧ goes (exec (.blockReconstruct 1 0) s) (fun t => (covAt t).map (fun c => c.values) = some []
      && Memory.readN t.mem (probeBase + 0x20000) 256 = packElems 32 (List.replicate 64 8)) := by decide +kernel

/-! ## Witnesses: launches and groups -/

/-- A queue of context 1 served by thread 0: its QSB at 0x300000 of the cellar tier, its ring of 4096 bytes at 0x400000, where the
context's page tables map the first gigabyte of the tier. -/
def qa : Nat := probeBase + 0x300000
def rootA : Nat := probeBase + 0x1000000
def cell (o n v : Nat) (s : State) : State := s.setMem (Memory.writeN s.mem (probeBase + o) n v)
def tables (s : State) : State :=
  cell 0x1000000 8 (rootA + 0x1000 + 1) (cell 0x1001000 8 (rootA + 0x2000 + 1) (cell 0x1002000 8 (probeBase + 3) s))
def qsb (q st ctx ring rptr : Nat) (s : State) : State :=
  cell (q + 8) 1 st (cell (q + 9) 1 4 (cell (q + 12) 2 7 (cell (q + 16) 4 ctx (cell (q + 20) 4 ring (cell (q + 24) 8 0x400000
    (cell (q + 32) 4 4096 (cell (q + 40) 8 rptr s)))))))
def thr : Thread := { Thread.empty with qsb := some qa, prio := 3 }
def ctxA : Ctx := { probeCtx with root := rootA }
def fe : State :=
  qsb 0x300000 1 1 5 0x400000 (tables { s0 with ctxs := [(1, ctxA)], fq := qa, threads := [(0, thr)] })
def hdr (n : Nat) (rep cont : Bool) : Hdr := { len := n, report := rep, cont := cont, tag := 9 }
theorem witness_queue : qCtx fe qa = 1 ∧ qState fe qa = 1 ∧ qRbase fe qa = 0x400000 ∧ goes (.next fe) (fun s => match feRead s (.ctx 1) 0x400000 8 with | .ok v => v = 0 | .error _ => false) := by decide +kernel
/-- A descriptor at 0x500000: one stage of core (0, 0), two strands at 0x10000, A0 = 6, RNE. -/
def free1 (s : State) : State := { s with cores := [], strands := [], launches := [], nextId := 9 }
def pipe (s : State) : State :=
  cell 0x500000 8 1 (cell 0x500040 8 0x10000 (cell 0x500048 8 6 (cell 0x50006A 4 0x02000101 s)))
def isPipe (r : Except AccFault (Option Pipeline)) (n : Nat) : Bool := match r with | .ok (some p) => p.stages.length = n | _ => false
def launchS : State := free1 (pipe fe)
theorem witness_launch : (partDecks launchS 0).any (deckCompute launchS) = true ∧ (launchS.round 0).active = false ∧ stepPhys launchS = []
    ∧ isPipe (readPipeline launchS (.ctx 1) ctxA 0x500000) 1 = true ∧ coreServes launchS 0 0 = true ∧ tableHeld launchS ctxA = false
    ∧ waitsAhead launchS 3 [0] = false ∧ occupants launchS [0] = []
    ∧ goes (exec (.launch (hdr 48 false false) 0x500000 0x600000 5) launchS) (fun t => (t.launch 9).isSome && (t.core 2048).count = 2
        && (t.strand 32768).readX 1 = 6 && (t.strand 32769).active && !(t.strand 32769).idle && (t.strand 32769).pc = 0x10000 && t.asyncs.length = 1
        && qRptr t qa = 0x400030) := by decide +kernel
/-- StagesComplete: an idle strand and nothing under way; a strand with a task. -/
def launchAsync : Async := { id := 20, qsb := qa, pkt := 0x400000, hdr := hdr 48 true false, kind := .launch 1 }
def idleS : State := strand0 (fun t => { t with idle := true }) { fe with asyncs := [launchAsync] }
theorem witness_stage_complete : (idleS.launch 1).map (fun l => (l.stages.length, l.sts)) = some (1, [.running]) ∧ stageDone idleS 1 0 = true ∧ stageDone fe 1 0 = false
    ∧ goes (exec (.stageComplete 1 0) idleS) (fun t => (t.launch 1).map (fun l => l.sts) = some [.complete] && !(t.core probeCore).bound && t.asyncs = []) := by decide +kernel
/-- DiscardedGroups and the restart: registers saved at the last region, a message taken, a tile written. -/
def groupS : State :=
  let s : State := (chans [{ msg1 with taken := some 0 }] (staged [.recv 5] (s3 7 8 0)))
  core0 (fun c => { c with tiles := c.tiles.set 1 (Vector.replicate 32 1) }) (s.setMem (Memory.writeN s.mem (saveLoc probeStrand) 8 0x55))
def discarded : State := discardGroup groupS 1 0
theorem witness_discard : (groupS.launch 1).map (fun l => l.sts) = some [.running] ∧ groupS.strandsOf 1 0 = [probeStrand] ∧ groupS.coresOf 1 0 = [probeCore]
    ∧ discarded.cur.staged = [] ∧ (inboxOf discarded 2048 5).map (fun m => m.taken) = [none] ∧ discarded.curCore.tiles[1] = Vector.replicate 32 0
    ∧ (discarded.launch 1).map (fun l => l.sts) = some [.discarded] := by decide +kernel
def discardedLa : Launch := { probeLaunch with sts := [.discarded] }
theorem witness_restart : discarded.launch 1 = some { discardedLa with discarded := (((discarded.launch 1).map (fun l => l.discarded)).getD 0) }
    ∧ stageServes discarded discardedLa 0 = true ∧ stageServes { discarded with rounds := [(0, { Round.empty with active := true })] } discardedLa 0 = false
    ∧ goes (exec (.groupRestart 1 0) discarded) (fun t => t.readX 1 = 0x55 && t.pc = 0x10000 && (t.launch 1).map (fun l => l.sts) = some [.running]) := by decide +kernel
/-- PreemptedLaunchesRestart: the launch pre-empted, its core given up and saved. -/
def preempted : State := vacate (preempt groupS none 1) 1
theorem witness_launch_restart : (preempted.launch 1).map (fun l => (l.preempted, l.saved.length)) = some (true, 1) ∧ occupants preempted (launchPhys preempted 1) = []
    ∧ stageServes preempted discardedLa 0 = true ∧ tablePhys preempted 1 = [0]
    ∧ goes (exec (.launchRestart 1) preempted) (fun t => (t.launch 1).map (fun l => (l.preempted, l.sts)) = some (false, [.running]) && (t.core probeCore).bound && t.readX 1 = 0x55) := by decide +kernel

/-- While the LAUNCH that displaced it waits at the head of its queue, a launch does not restart. -/
theorem witness_displaced :
    let s := vacate (preempt { fe with fs := probeStrand } (some (qa, 0x400000)) 1) 1
    displacerWaits s ((s.launch 1).getD probeLaunch) = true ∧ goes (exec (.launchRestart 1) s) (fun t => t = s) := by decide +kernel
/-- DiscardedGroups: an arrival in a phase that is not full is withdrawn, one in a full phase stays; GroupsRestart: registers are zero. -/
theorem witness_withdrawn : goes (.next (discardGroup (bar { n := 1, p := 7, cur := [16], nxt := [16] } (s3 7 8 0)) 1 0))
      (fun t => (t.bar 1 (barKey 2 0 0)).cur = [16] && (t.bar 1 (barKey 2 0 0)).nxt = [16])
    ∧ goes (.next (discardGroup (bar { n := 2, p := 7, cur := [16], nxt := [] } (s3 7 8 0)) 1 0)) (fun t => (t.bar 1 (barKey 2 0 0)).cur = [])
    ∧ goes (exec (.groupRestart 1 0) (strand0 (fun t => { t with l0 := 7 }) (core0 (fun c => { c with vf := [(physReg discarded probeStrand 3, 5)] }) discarded)))
        (fun t => t.cur.l0 = 0 && Tbl.get t.curCore.vf (physReg discarded probeStrand 3) 0 = 0) := by decide +kernel

/-! ## Witnesses: agents -/

/-- Agent 4 of context 1 at 0x7000, with a token context of handle 6 in c1, bound to the table model 3 of four tokens. -/
def ag : Agent :=
  { home := 1, record := 0x700000, qsb := qa, pc := 0x7000, g := Vector.ofFn (fun i => .ofNat 64 i.val)
    ctxs := Vector.ofFn (fun i => if i.val = 1 then 6 else 0), flag := false, prio := 3, weight := 1, ceil := 5, stack := [], st := 0, cause := 0
    tval := 0, prog := Progress.zero, deficit := 7, resident := true, suspendReq := false, stops := [], held := [], cur := none }
def tk : TokCtx := { TokCtx.fresh 3 with toks := [1, 2], pending := 1 }
def mdl : Model := { ctx := 1, cls := 0, log2 := true, v := 4, addr := 0x800000, exit := 0, layers := 1 }
def agentS (a : Agent) (u : TokCtx) : State :=
  { fe with fa := 4, agents := [(4, a)], toks := [(6, u)], models := [(3, mdl)], planners := [(0, { Planner.empty with ring := [4] })], nextId := 30 }
def sa : State := agentS ag tk
def gr (r : Fin 8) (v : Word) : Agent := { ag with g := ag.g.set r v }
def agentIs (p : Agent → Bool) (t : State) : Bool := match t.agent 4 with | some a => p a | none => false
def agFault (r : Res) (c : Byte) (v : Word) : Bool := goes r (agentIs (fun a => a.st = stFaulted && a.cause = c && a.tval = v && a.pc = 0x7000))
theorem witness_agent_scalar : sa.agent sa.fa = some ag
    ∧ goes (exec (.gli 2 0x80000000) sa) (agentIs (fun a => a.g[2] = 0xFFFFFFFF80000000 && a.pc = 0x7008))
    ∧ goes (exec (.glih 2 5) sa) (agentIs (fun a => a.g[2] = 0x500000002)) ∧ goes (exec (.gsub 2 true 0 7) sa) (agentIs (fun a => a.g[2] = -5))
    ∧ goes (exec (.gmul 2 false 3 0) sa) (agentIs (fun a => a.g[2] = 6)) ∧ goes (exec (.gcmp 2 false 3 0 2) sa) (agentIs (fun a => a.flag))
    ∧ goes (exec (.gcmp 2 false 3 0 5) sa) (agentIs (fun a => !a.flag)) ∧ agFault (exec (.gcmp 2 false 3 0 6) sa) Cause.agentIllegal 0x031A0014
    ∧ goes (exec (.gb false 2) sa) (agentIs (fun a => a.pc = 0x7010)) ∧ goes (exec (.gb true 2) sa) (agentIs (fun a => a.pc = 0x7008))
    ∧ goes (exec (.gcall 0xFFFFFFFF) sa) (agentIs (fun a => a.pc = 0x6FF8 && a.stack = [0x7008]))
    ∧ agFault (exec (.gcall 1) (agentS { ag with stack := List.replicate 8 0 } tk)) Cause.agentStack 0x7000 ∧ agFault (exec .gret sa) Cause.agentStack 0x7000
    ∧ goes (exec .gret (agentS { ag with stack := [1, 2] } tk)) (agentIs (fun a => a.pc = 2 && a.stack = [1]))
    ∧ goes (exec (.gpri 0x207) sa) (agentIs (fun a => a.prio = 5 && a.weight = 2)) ∧ agFault (exec (.gpri 7) sa) Cause.ctxRange 7 := by decide +kernel
/-- Agent memory: a doubleword at 0x600000. -/
def sw : State := cell 0x600000 8 0x11223344F5667788 (agentS (gr 3 0x600000) tk)
def hitOk (r : Except AgentFault Hit) : Bool := match r with | .ok _ => true | .error _ => false
def waitA (v : Word) : Agent := { ag with g := (ag.g.set 3 0x600000).set 2 v }
theorem witness_agent_memory : hitOk (agentHit sw 1 0x600000 8 .read) ∧ hitOk (agentHit sw 1 0x600000 8 .write) ∧ sw.poison = []
    ∧ goes (exec (.gld 2 3 true 0) sw) (agentIs (fun a => a.g[2] = 0xFFFFFFFFF5667788 && a.pc = 0x7008))
    ∧ goes (exec (.gst 2 3 false 0) sw) (fun t => Memory.readN t.mem (probeBase + 0x600000) 8 = 2)
    ∧ goes (exec (.gsig 2 3 0) sw) (fun t => Memory.readN t.mem (probeBase + 0x600000) 8 = 0x11223344F566778A)
    ∧ goes (exec (.gwait 2 3 5 0) sw) (agentIs (fun a => a.g[2] = 0x11223344F5667788 && a.pc = 0x7008))
    ∧ goes (exec (.gwait 2 3 0 0) sw) (agentIs (fun a => a.st = stWait && a.pc = 0x7000 && a.cur = some (.gwait 2 3 0 0)))
    ∧ goes (exec (.gwaitRecheck 4) (cell 0x600000 8 2 (agentS { waitA 2 with st := stWait, cur := some (.gwait 2 3 0 0) } tk)))
        (agentIs (fun a => a.st = stReady && a.pc = 0x7008 && a.g[2] = 2))
    ∧ agFault (exec (.gld 2 3 true 1) sw) Cause.agentAddr 0x600001
    ∧ agFault (exec (.gld 2 3 true 0) (agentS (gr 3 0x40000000) tk)) Cause.agentAddr 0x40000000 := by decide +kernel
theorem witness_agents_stop : sa.asyncs = [] ∧ goes (exec (.ghalt 1) sa) (fun t => (t.planner 0).ring = [] && t.toks = [] && agentIs (fun a => a.st = stHalted && a.deficit = 0 && a.pc = 0x7008) t)
    ∧ goes (exec (.agentIllegal Cause.agentIllegal 9 0) sa) (fun t => (t.planner 0).ring = [] && agentIs (fun a => a.st = stFaulted && a.tval = 9) t)
    ∧ goes (exec .gyield { sa with planners := [(0, { Planner.empty with ring := [4, 5] })] }) (fun t => (t.planner 0).ring = [5, 4] && agentIs (fun a => a.deficit = 0 && a.pc = 0x7008) t)
    ∧ goes (exec .gyield { sa with planners := [] }) (agentIs (fun a => a.pc = 0x7008)) := by decide +kernel
def tokIs (h : Nat) (p : TokCtx → Bool) (t : State) : Bool := match t.tok h with | some u => p u | none => false
theorem witness_token_contexts : (modelOf sa 0 3) = some mdl ∧ sa.tok 6 = some tk ∧ modelOf sa 0 9 = none
    ∧ goes (exec (.cnew 0 3) sa) (fun t => tokIs 30 (fun u => u.toks = [] && u.temp = 0x3F800000) t && agentIs (fun a => a.ctxs[0] = 30) t)
    ∧ agFault (exec (.cnew 0 9) sa) Cause.modelAbsent 9 ∧ agFault (exec (.cdrop 2) sa) Cause.ctxEmpty 2
    ∧ goes (exec (.cfork 0 1) sa) (tokIs 30 (fun u => u.toks = [1, 2])) ∧ goes (exec (.clen 2 1) sa) (agentIs (fun a => a.g[2] = 2))
    ∧ goes (exec (.ctok 2 1 1) sa) (agentIs (fun a => a.g[2] = 2)) ∧ agFault (exec (.ctok 2 1 2) sa) Cause.ctxRange 2
    ∧ goes (exec (.cinfo 2 1 4) sa) (agentIs (fun a => a.g[2] = 1)) ∧ goes (exec (.cdrop 1) sa) (fun t => t.toks = [])
    ∧ goes (exec (.ctrim 1 1) sa) (tokIs 6 (fun u => u.toks = [1] && u.pending = 0)) ∧ goes (exec (.cappt 1 3) sa) (tokIs 6 (fun u => u.toks = [1, 2, 3] && u.pending = 2))
    ∧ agFault (exec (.cappt 1 4) sa) Cause.ctxRange 4 ∧ goes (exec (.cbind 1 3) sa) (tokIs 6 (fun u => u.pending = 2))
    ∧ goes (exec (.csets 1 5 0) sa) (tokIs 6 (fun u => u.key = 5)) ∧ agFault (exec (.csets 1 2 5) sa) Cause.ctxRange 2
    ∧ goes (exec (.csetx 1 2 2) sa) (tokIs 6 (fun u => u.depmax = 2)) ∧ agFault (exec (.csetx 1 3 3) sa) Cause.ctxRange 3 := by decide +kernel
/-- A string of n tokens at 0x600000. -/
def str (n : Nat) : State := cell 0x600000 8 (n + 2 ^ 32) (agentS (gr 3 0x600000) tk)
def long (t : State) (total : Nat) : Bool := agentIs (fun a => a.st = stLong && a.prog.total = total && a.pc = 0x7000) t
def readIs (r : Except AgentFault Nat) (n : Nat) : Bool := match r with | .ok c => c = n | .error _ => false
theorem witness_long : readIs (readId (str 3) (gr 3 0x600000) 0x600000) 3
    ∧ goes (exec (.cappend 1 3 0) (str 3)) (fun t => long t 3) ∧ goes (exec (.cappend 1 3 0) (str 0)) (agentIs (fun a => a.pc = 0x7008))
    ∧ agFault (exec (.cappend 1 3 0) (str 0xFFFFF)) Cause.ctxRange 0xFFFFF ∧ goes (exec (.cscore 2 1 3 0) (str 3)) (fun t => long t 3)
    ∧ goes (exec (.cscore 2 1 3 0) (str 0)) (agentIs (fun a => a.g[2] = 0 && a.pc = 0x7008)) ∧ goes (exec (.cchoose 1 2 3 0) (str 1)) (fun t => long t 1)
    ∧ agFault (exec (.cchoose 1 2 3 0) (str 65537)) Cause.ctxRange 65537 ∧ agFault (exec (.cappend 1 3 0) (agentS (gr 3 0x40000000) tk)) Cause.agentAddr 0x40000000
    ∧ goes (exec (.cgen 1 2 3) sa) (fun t => long t 3) ∧ goes (exec (.cgen 1 2 0) sa) (agentIs (fun a => a.g[2] = 0 && !a.flag && a.pc = 0x7008)) := by decide +kernel

/-- Steps: an agent whose CAPPEND of one token has been planned, one that waits for a plan, a step that faults once and twice. -/
def plan1 : Plan := { agent := 4, count := 1, ids := [3], drafts := [], jac := false, mask := none, fault := none }
def longA : Agent := { gr 3 0x600000 with st := stLong, cur := some (.cappend 1 3 0), prog := { Progress.zero with total := 1, addr := 0x600000 } }
def flying (retry : Bool) : State := { agentS longA { tk with pending := 0 } with planners := [(0, { Planner.empty with ring := [4], flight := some { plans := [plan1], retry := retry, cores := [] } })] }
def planIs (p : Planner → Bool) (t : State) : Bool := p (t.planner 0)
theorem witness_step_plan : goes (exec (.stepPlan 0) (flying false)) (fun t => t = flying false)
    ∧ edged { sa with rounds := [(0, { Round.empty with active := true, frozen := true, edged := [.machine] })] } 0 .machine = true
    ∧ (partDecks sa 0).any (deckServes sa) = true
    ∧ goes (exec (.stepPlan 0) { sa with agents := [] }) (planIs (fun p => p.flight = none)) := by decide +kernel
theorem witness_step_complete : (flying false).agents = [(4, longA)] ∧ longCtx (flying false) longA = some (6, { tk with pending := 0 })
    ∧ goes (exec (.stepComplete 0 0 0) (flying false)) (fun t => planIs (fun p => p.flight = none) t
        && agentIs (fun a => a.st = stReady && a.pc = 0x7008 && a.prog = Progress.zero) t && tokIs 6 (fun u => u.toks = [1, 2, 3] && u.pending = 0) t)
    ∧ goes (exec (.stepComplete 0 0 0) sa) (fun t => t = sa) := by decide +kernel
theorem witness_step_fault : goes (exec (.stepFault 0 (some 0x60)) (flying false)) (planIs (fun p => p.flight = none && p.replan = some { plans := [plan1], retry := true, cores := [] }))
    ∧ (flying true).asyncs = [] ∧ agFault (exec (.stepFault 0 (some 0x60)) (flying true)) Cause.modelFault 0x60 := by decide +kernel
/-- BlocksAndAgentsMove: a cached block and one in use; an agent without a slot. -/
def blk (refs : Nat) : Block := { part := 0, model := 3, parent := none, toks := List.replicate 16 1, refs := refs, place := 0, used := 3 }
def pant (refs : Nat) (s : State) : State := { s with pantry := [(8, blk refs)] }
theorem witness_blocks : flightReads (pant 0 sa) 8 = false ∧ goes (exec (.blockMove 8 1) (pant 1 sa)) (fun t => (Tbl.look t.pantry 8).map (fun b => b.place) = some 1)
    ∧ flightReads (pant 1 { flying false with toks := [(6, { tk with blocks := [8] })] }) 8 = true
    ∧ goes (exec (.agentSwapIn 4 0) { agentS { ag with resident := false } tk with slotQueue := [4] }) (fun t => agentIs (fun a => a.resident) t && t.slotQueue = [])
    ∧ goes (exec (.agentSwapIn 4 0) sa) (fun t => t = sa) := by decide +kernel
/-- Cached blocks that fill the machine; one of them is evicted, and one that is used later is not. -/
def fullPantry : State := { sa with agents := [], planners := [], pantry := (8, blk 0) :: List.replicate Config.kvBlocks (9, blk 0) }
theorem witness_eviction : Tbl.look fullPantry.pantry 8 = some (blk 0) ∧ flightReads fullPantry 8 = false ∧ (blk 0).refs = 0
    ∧ Config.kvBlocks ≤ fullPantry.pantry.length + reservedBlocks fullPantry
    ∧ ∀ k c, (k, c) ∈ fullPantry.pantry → c.refs = 0 → (blk 0).used ≤ c.used := by
  refine ⟨rfl, rfl, rfl, ?_, fun k c h _ => ?_⟩
  · simp only [fullPantry, reservedBlocks, List.length_cons, List.length_replicate]
    omega
  · simp only [fullPantry, List.mem_cons, Prod.mk.injEq, List.mem_replicate] at h
    rcases h with ⟨-, rfl⟩ | ⟨-, -, rfl⟩ <;> exact Nat.le_refl _
theorem witness_block_stays : (Tbl.look (pant 1 sa).pantry 8).map (fun b => b.refs) = some 1
    ∧ (let s : State := { pant 0 sa with pantry := [(8, { blk 0 with used := 4 }), (9, blk 0)] }
       goes (exec (.blockMove 8 2) s) (fun t => t = s) && goes (exec (.blockMove 9 2) s) (fun t => (Tbl.look t.pantry 9).map (fun b => b.place) = some 2))
    ∧ namedBlock (pant 1 (agentS longA { tk with blocks := [8] })) 8 = true
    ∧ goes (exec (.blockMove 8 2) (pant 1 (agentS longA { tk with blocks := [8] }))) (fun t => (Tbl.look t.pantry 8).map (fun b => b.place) = some 0) := by decide +kernel
/-- All slots taken: nothing happens where the agent to move out has none. -/
def slots : State := { sa with agents := (4, { ag with resident := false }) :: List.replicate 8192 (5, ag), slotQueue := [4] }
theorem many_resident (n : Nat) : n ≤ (((4, { ag with resident := false }) :: List.replicate n (5, ag)).filter (fun e => e.2.resident)).length := by
  rw [List.filter_cons_of_neg (by simp), List.filter_replicate_of_pos rfl, List.length_replicate]
theorem witness_slots : slots.slotQueue.head? = some 4 ∧ slots.agent 4 = some { ag with resident := false } ∧ 8192 ≤ residentCount slots
    ∧ ∀ o, slots.agent 4 = some o → o.resident = false ∨ inFlight slots (partOf slots o) 4 = true := by
  refine ⟨rfl, rfl, many_resident 8192, fun o h => .inl ?_⟩
  · have e : slots.agent 4 = some { ag with resident := false } := rfl
    rw [e] at h; cases h; rfl

/-! ## Witnesses: steps, and faults of agents -/

/-- CAPPEND's one token at 0x600004, nothing on the cores of the context, which lie at (0, 0) and (1, 0). -/
def ctx2 : Ctx := { ctxA with wlog := 1, place := [(0, 0), (1, 1)] }
def stepS : State := { free1 (cell 0x600004 4 3 (agentS longA { tk with pending := 0 })) with ctxs := [(1, ctx2)] }
def again (s : State) : State := { s with planners := [(0, { Planner.empty with replan := some { plans := [plan1], retry := true, cores := [] } })] }
theorem witness_steps_fly : stepTable stepS 0 [plan1] = [2048, 2049] ∧ readyToPlan stepS 4 = true ∧ (stepS.round 0).active = false
    ∧ occupants stepS [0, 1] = [] ∧ stepPhys stepS = [] ∧ heldAt stepS (2 ^ 62) [0] = []
    ∧ (formNew (refreshRing stepS 0) 0).plans = [plan1]
    ∧ goes (exec (.stepPlan 0) (again stepS)) (planIs (fun p => p.flight = some { plans := [plan1], retry := true, cores := [2048, 2049] } && p.replan = none))
    ∧ goes (exec (.stepPlan 0) (again (agentS ag tk))) (planIs (fun p => p.flight = none && p.replan.isSome)) := by
  decide +kernel
theorem witness_step_held : (let s : State := { stepS with ctxs := [(1, ctxA)], cores := fe.cores, launches := [(1, { probeLaunch with prio := 7 })] }
    occupants s [0] = [1] ∧ prioOf s 1 = 7 ∧ goes (exec (.stepPlan 0) s) (planIs (fun p => p.flight = none))) := by decide +kernel
/-- RingVisits: the demand ends a visit, DEFICIT ends one, and room leaves one open. -/
def forming (room total : Nat) : Forming :=
  visitRing (agentS { longA with weight := 1, prio := 0, prog := { longA.prog with total := total } } { tk with pending := 0 })
    { ring := [4, 9], visiting := false, defs := [(4, 0)], planned := [], room := room, idle := 0 }
theorem witness_ring_visits : (forming 100 1).ring = [9, 4] ∧ Tbl.get (forming 100 1).defs 4 9 = 0 ∧ (forming 100 1).room = 99
    ∧ (forming 100 200).ring = [9, 4] ∧ (forming 100 200).room = 84 ∧ (forming 5 200).visiting = true ∧ Tbl.get (forming 5 200).defs 4 9 = 11 := by decide +kernel
/-- StepsAreFilled: a ring of one agent of weight 1. -/
theorem witness_filled : (stepS.planner 0).ring.Nodup ∧ (stepS.agent 4).map (fun a => a.weight) = some 1 ∧ (stepS.planner 0).ring = [4]
    ∧ (stepS.planner 0).visiting = false ∧ demandOf stepS 4 = 1 := by decide +kernel
/-- StepsFault: a pre-empted step, and an agent that was asked to suspend. -/
theorem witness_step_discards : goes (exec (.stepFault 0 none) (flying false)) (planIs (fun p => p.flight = none && p.replan = none))
    ∧ (let s : State := { flying false with agents := [(4, { longA with suspendReq := true })] }
       goes (exec (.stepFault 0 (some 0x60)) s) (fun t => agentIs (fun a => a.st = stSuspended && a.pc = 0x7000) t
         && planIs (fun p => p.replan = some { plans := [], retry := true, cores := [] }) t)) := by decide +kernel
/-- AgentMemory: poisoned bytes, checked pages, region 8, misalignment and translation for each instruction, an unknown condition, a frozen machine. -/
def poisoned : State := { sw with poison := [locOf (probeBase + 0x600003)] }
def leaf1 (e : Nat) (s : State) : State := cell 0x1002008 8 e s
def at1 (e : Nat) : State := { leaf1 e (agentS (gr 3 0x40000000) tk) with ctxs := [(1, { ctxA with priv := true })] }
def checkedS : State := at1 (probeBase + 2 ^ 30 + 0x103)
def deviceS : State := at1 (8 * 2 ^ 48 + 0x203)
def noWrite : State := at1 (probeBase + 2 ^ 30 + 0x403)
def allFault (s : State) (v : Word) (l : List Instr) : Bool := l.all (fun i => agFault (exec i s) Cause.agentAddr v)
theorem witness_agent_faults : allFault poisoned 0x600000 [.gld 2 3 true 0, .gsig 2 3 0, .gwait 2 3 5 0]
    ∧ allFault checkedS 0x40000000 [.gld 2 3 true 0, .gst 2 3 false 0, .gsig 2 3 0, .gwait 2 3 5 0]
    ∧ allFault deviceS 0x40000000 [.gld 2 3 true 0, .gst 2 3 true 0, .gsig 2 3 0]
    ∧ allFault noWrite 0x40000000 [.gst 2 3 false 0, .gsig 2 3 0]
    ∧ allFault (agentS (gr 3 0x40000000) tk) 0x40000000 [.gst 2 3 false 0, .gsig 2 3 0, .gwait 2 3 5 0]
    ∧ allFault sw 0x600002 [.gst 2 3 true 2, .gsig 2 3 2, .gwait 2 3 5 2]
    ∧ goes (exec (.gld 2 3 false 8) (after (exec (.gst 2 3 false 8) deviceS))) (agentIs (fun a => a.pc = 0x7010 && a.g[2] = devRead deviceS 8))
    ∧ agFault (exec (.gwait 2 3 6 0) sw) Cause.agentIllegal 0x031A001C
    ∧ (let s : State := { sw with rounds := [(0, { Round.empty with active := true, edged := [.machine] })], agents := [(4, { waitA 2 with st := stWait, cur := some (.gwait 2 3 0 0) })] }
       goes (exec (.gwaitRecheck 4) s) (fun t => t = s)) := by decide +kernel
/-- AgentsStop: out of a step to be planned again and of the queue for a slot. -/
theorem witness_agents_leave : (let s : State := { again sa with slotQueue := [4] }
    goes (exec (.ghalt 1) s) (fun t => t.slotQueue = [] && planIs (fun p => (p.replan.map (fun x => x.plans)) = some []) t)) := by decide +kernel
/-- TokenContextInstructions and LongInstructionsStart: empty registers, codes that are not in a table, no room for another context. -/
theorem witness_context_faults : [Instr.cdrop 2, .ctrim 2 0, .cappt 2 0, .cbind 2 3, .csets 2 0 0, .csetx 2 0 0, .cfork 0 2, .clen 0 2, .ctok 0 2 0, .cinfo 0 2 0,
      .cappend 2 3 0, .cgen 2 0 0, .cscore 0 2 3 0, .cchoose 2 0 3 0].all (fun i => agFault (exec i sa) Cause.ctxEmpty 2) = true
    ∧ agentIs (fun a => a.st = stFaulted && a.cause = Cause.agentIllegal) (after (exec (.csets 1 0 7) sa)) = true
    ∧ agentIs (fun a => a.st = stFaulted && a.cause = Cause.agentIllegal) (after (exec (.csetx 1 0 5) sa)) = true := by decide +kernel
def crowded : State := { sa with toks := (6, tk) :: List.replicate (2 ^ 20) (7, tk) }
theorem many_contexts (n : Nat) : n ≤ ((6, tk) :: List.replicate n (7, tk)).length := by
  rw [List.length_cons, List.length_replicate]; exact Nat.le_succ n
theorem witness_crowded : 2 ^ 20 ≤ crowded.toks.length ∧ crowded.tok 6 = some tk := ⟨many_contexts (2 ^ 20), rfl⟩

/-! ## Witnesses: packets -/

def hq : Hdr := hdr 48 false false
/-- PacketsCompleteOrFail: a queue whose mark is written at one location, CONT, REPORT, an incomplete packet before. -/
def marked : State := cell 0x400000 4 0x30005A fe
def busyAsync : Async := { id := 21, qsb := qa, pkt := 0x400040, hdr := hq, kind := .copyh 0x600000 0x610000 8 0x620000 }
def busyQ (n : Nat) (s : State) : State := { s with asyncs := List.replicate n busyAsync }
def ringA : Ring := { ctx := 1, entries := 64, base := 0x800000, headaddr := 0x900000, vector := 12, thresh := 1, timeout := 100, written := 0, waiting := [], unsignalled := 0, oldest := 0 }
def ringed (s : State) : State := { s with rings := [(1 * 1024 + 5, ringA)] }
def locIs (r : Except AccFault (List (Nat × Nat))) (l : List (Nat × Nat)) : Bool := match r with | .ok x => x = l | .error _ => false
theorem witness_packets : qa % 256 = 0 ∧ locIs (extLocs marked (.ctx 1) (sectorsOf (qRptr marked qa) 1 2)) [(probeBase + 0x400000, 1)]
    ∧ asyncsOf marked qa = [] ∧ asyncsOf (busyQ 1 marked) qa ≠ [] ∧ qState marked qa ≠ 3
    ∧ goes (exec (.nop hq) marked) (fun t => qRptr t qa = 0x400030 && Memory.read t.mem (probeBase + 0x400000) = 0)
    ∧ goes (exec (.nop { hq with report := true }) (ringed marked)) (fun t => (Tbl.look t.rings 1029).map (fun r => r.waiting.length) = some 1)
    ∧ goes (exec (.badPacket hq 0x11) marked) (fun t => qRptr t qa = 0x400000 && qState t qa = 3 && qsbGet t qa 80 2 = 1 && qsbGet t qa 88 8 = 0x400000)
    ∧ goes (exec (.badPacket (hdr 48 false true) 0x11) marked) (fun t => qRptr t qa = 0x400030 && qState t qa = 1 && qsbGet t qa 80 2 = 1)
    ∧ goes (exec (.fencePacket hq) (busyQ 1 marked)) (fun t => t = busyQ 1 marked) := by decide +kernel
/-- SignalWords: a word of 7 at 0x600000. -/
def word7 : State := cell 0x600000 8 7 marked
def trOk (r : Except Byte Hit) (p : Hit → Bool) : Bool := match r with | .ok h => p h | .error _ => false
def waitQ (v : Nat) (limit : Nat) : State :=
  cell 0x300040 1 0 (cell 0x300030 8 0x600000 (cell 0x300038 8 v (cell 0x300048 8 limit (cell 0x300008 1 2 word7))))
theorem witness_signal : trOk (translate word7 (.ctx 1) 0x600000 8 .read) (fun h => h.checked = none && h.device = false)
    ∧ trOk (translate word7 (.ctx 1) 0x600000 8 .write) (fun h => h.device = false) ∧ word7.poison = []
    ∧ goes (exec (.signal hq 0x600000 5 0) word7) (fun t => Memory.readN t.mem (probeBase + 0x600000) 8 = 12 && qRptr t qa = 0x400030)
    ∧ goes (exec (.signal hq 0x600000 5 1) word7) (fun t => Memory.readN t.mem (probeBase + 0x600000) 8 = 5)
    ∧ goes (exec (.cond hq 0x600000 7 0 0x400100) word7) (fun t => qRptr t qa = 0x400100) ∧ goes (exec (.cond hq 0x600000 7 4 0x400100) word7) (fun t => qRptr t qa = 0x400030)
    ∧ goes (exec (.cond hq 0x600000 7 6 0) word7) (fun t => qsbGet t qa 80 2 = 1)
    ∧ goes (exec (.waits hq 0x600000 7 5 0) word7) (fun t => qRptr t qa = 0x400030)
    ∧ goes (exec (.waits hq 0x600000 8 5 0) word7) (fun t => qRptr t qa = 0x400000 && qState t qa = 2 && qsbGet t qa 48 8 = 0x600000 && qsbGet t qa 56 8 = 8)
    ∧ goes (exec (.tstamp hq 0x600000) { word7 with reft := 99 }) (fun t => Memory.readN t.mem (probeBase + 0x600000) 8 = 99) := by decide +kernel
def waitIs (r : Except AccFault Bool) (b : Bool) : Bool := match r with | .ok x => x = b | .error _ => false
theorem witness_waits : waitIs (waitHolds (waitQ 7 0) qa) true ∧ waitIs (waitHolds (waitQ 8 0) qa) false ∧ qState (waitQ 7 0) qa = 2
    ∧ threadOf (waitQ 7 0) qa = some 0 ∧ queueFrozen (waitQ 7 0) qa = false ∧ ((waitQ 7 0).thread 0).unmap = false
    ∧ goes (exec (.waitsRecheck 0) (waitQ 7 0)) (fun t => qState t qa = 1 && qRptr t qa = 0x400030) ∧ goes (exec (.waitsRecheck 0) (waitQ 8 0)) (fun t => t = waitQ 8 0)
    ∧ goes (exec (.waitsTimeout qa) { waitQ 8 50 with reft := 50 }) (fun t => qState t qa = 3 && qsbGet t qa 80 2 = 9)
    ∧ goes (exec (.waitsTimeout qa) { waitQ 8 50 with reft := 49 }) (fun t => t = { waitQ 8 50 with reft := 49 }) := by decide +kernel
/-- DataPackets. -/
def pkt48 (o : Nat) (s : State) : State := cell o 8 (48 * 2 ^ 16) s
theorem witness_data_packets : goes (exec (.rearm hq 0x400000 0 0x400000) marked) (fun t => qRptr t qa = 0x400000)
    ∧ goes (exec (.rearm hq 0x400030 48 0x400000) (pkt48 0x400030 marked)) (fun t => Memory.read t.mem (probeBase + 0x400030) = 0x5A && qRptr t qa = 0x400000)
    ∧ goes (exec (.copyh hq 0x600000 0x610000 8 0x620000) marked) (fun t => t.asyncs.length = 1 && qRptr t qa = 0x400030)
    ∧ goes (exec (.copyh hq 0x600000 0x610000 0x10000000000 0) marked) (fun t => qsbGet t qa 80 2 = 1)
    ∧ goes (exec (.copyhComplete 0) (busyQ 1 word7)) (fun t => Memory.readN t.mem (probeBase + 0x610000) 8 = 7 && Memory.readN t.mem (probeBase + 0x620000) 8 = 1 && t.asyncs = [])
    ∧ goes (exec (.ring hq 5 12 64 0x800000 0x900000 1 100) marked) (fun t => (ringed fe).rings = t.rings)
    ∧ rangeFault marked (.ctx 1) 0x800000 2048 .write = none ∧ rangeFault marked (.ctx 1) 0x900000 8 .read = none
    ∧ goes (exec (.ring hq 5 12 0 0x800000 0x900000 1 100) (ringed marked)) (fun t => t.rings = []) ∧ goes (exec (.ring hq 1023 2047 0 0 0 0 0) marked) (fun t => qState t qa = 1)
    ∧ goes (exec (.ring hq 1024 12 64 0x800000 0x900000 1 100) marked) (fun t => qsbGet t qa 80 2 = 1) := by decide +kernel
/-- AgentPackets. -/
def recAgent (a : Agent) : State := agentS { a with record := 0x700000 } tk
def st7 (p : BitVec 3) (r : Res) : Bool := goes r (agentIs (fun a => a.st = p))
theorem witness_agent_packets : agentAt marked 1 0x700000 = none ∧ (marked.ctx 1).isSome ∧ agentAt (recAgent ag) 1 0x700000 = some 4
    ∧ goes (exec (.agentCreate hq 7 0x700000 0x7000 0) marked) (fun t => t.agents.length = 1 && qRptr t qa = 0x400030)
    ∧ goes (exec (.agentSuspend hq 7 0x700000 0x7000 0) marked) (fun t => qsbGet t qa 80 2 = 16)
    ∧ goes (exec (.agentImport hq 7 0x700000 0x7000 0xA00000) (cell 0xA00000 8 0x7008 marked)) (fun t => t.agents.map (fun (e : Nat × Agent) => (e.2.st, e.2.pc)) = [(stSuspended, 0x7008)])
    ∧ goes (exec (.agentCreate hq 7 0x700000 0x7000 0) (recAgent ag)) (fun t => qsbGet t qa 80 2 = 4)
    ∧ inFlight (recAgent ag) 0 4 = false ∧ st7 stSuspended (exec (.agentSuspend hq 7 0x700000 0x7000 0) (recAgent ag))
    ∧ st7 stSuspended (exec (.agentSuspend hq 7 0x700000 0x7000 0) (recAgent { ag with st := stWait, cur := some (.gwait 2 3 0 0) }))
    ∧ goes (exec (.agentExport hq 7 0x700000 0x7000 0xA00000) (recAgent ag)) (fun t => t.agents = [])
    ∧ st7 stReady (exec (.agentResume hq 7 0x700000 0x7000 0) (recAgent { ag with st := stFaulted }))
    ∧ st7 stLong (exec (.agentResume hq 7 0x700000 0x7000 0) (recAgent { longA with st := stSuspended }))
    ∧ goes (exec (.agentRemove hq 7 0x700000 0x7000 0) (recAgent { ag with st := stHalted })) (fun t => t.agents = [] && t.toks = [])
    ∧ goes (exec (.agentRemove hq 7 0x700000 0x7000 0) (recAgent ag)) (fun t => qsbGet t qa 80 2 = 4) := by decide +kernel
/-- ControlPackets: a privileged queue within the window; a partition with a free cluster. -/
def privQ (s : State) : State := cell 0x300009 1 5 { s with regs := [(0x10, .ofNat 64 qa), (0x18, .ofNat 64 (qa + 256))] }
def bare : State := { privQ marked with cores := [], strands := [], launches := [] }
def sec (s : State) : State := { s with ctxs := s.ctxs ++ [(2, { probeCtx with part := 1 })] }
def stat (n : Nat) (r : Res) : Bool := goes r (fun t => qsbGet t qa 80 2 = n)
theorem witness_control_packets : qPriv marked qa = false ∧ qPriv bare qa = true ∧ stat 3 (exec (.ctxnew hq 0 0 0) marked) ∧ stat 3 (exec (.roleset hq 1 0 0 0 0) marked)
    ∧ ctxBusy (sec bare) 2 = false ∧ goes (exec (.ctxfree hq 2 0 0) (sec bare)) (fun t => t.ctxs.length = 1 && qRptr t qa = 0x400030)
    ∧ ctxBusy (recAgent ag) 1 = true ∧ stat 4 (exec (.ctxfree hq 1 0 0) { bare with agents := [(4, ag)] })
    ∧ deckCompute bare 0 = true ∧ goes (exec (.qctlFreq hq 1 14 0) bare) (fun t => t.asyncs.length = 1) ∧ stat 13 (exec (.qctlFreq hq 1 11 0) bare)
    ∧ stat 13 (exec (.qctlFreq hq 2 12 0) bare) ∧ (bare.tower 0).st = .run
    ∧ towerCarries bare 1 = false ∧ bare.bringup = true ∧ goes (exec (.partition hq 0x04 0 0) bare) (fun t => t = bare)
    ∧ goes (exec (.partition hq 0x04 0 0) { bare with bringup := false }) (fun t => (t.tower 1).part = 1 && (t.tower 0).part = 0)
    ∧ goes (exec (.inval hq 1 0x1000 32) marked) (fun t => t.asyncs.map (fun a => a.kind) = [.inval 1 0x1000 32])
    ∧ oldAccess marked 1 = false
    ∧ modelUsed marked 0 3 = false ∧ goes (exec (.qctlModel hq 0x400010003 0x800000 0) marked) (fun t => t.models = [(3, { mdl with layers := 0 })])
    ∧ stat 4 (exec (.qctlModel hq 0x400010003 0x800000 0) sa) ∧ goes (exec (.qctlMask hq 63 0x1000 0) marked) (fun t => t.masks = [(63, (1, 0x1000))])
    ∧ goes (exec (.qctlMask hq 63 0 0) { marked with masks := [(63, (1, 0x1000))] }) (fun t => t.masks = []) := by decide +kernel
/-- INVAL over no page: the tables of the empty context are searched. -/
def invalQ : State := { fe with ctxs := [(1, { probeCtx with root := probeBase + 0x2000000 })], asyncs := [{ busyAsync with kind := .inval 1 0 0 }] }
theorem witness_inval : oldAccess invalQ 1 = false ∧ invalQ.asyncs.length = 1 := by decide +kernel

/-- PacketsCompleteOrFail: a failed packet of a queue in WAIT, HALTED or UNLINKING. -/
def inState (n : Nat) : State := cell 0x300058 8 77 (cell 0x300008 1 n marked)
theorem witness_fail_states : qState (inState 2) qa = 2 ∧ goes (exec (.badPacket hq 0) (inState 2)) (fun t => qState t qa = 2 && t.halts = [(qa, 0x400000)])
    ∧ goes (exec (.badPacket hq 0) { inState 2 with halts := [(qa, 5)] }) (fun t => t.halts = [(qa, 5)])
    ∧ goes (exec (.badPacket hq 0) (inState 3)) (fun t => qState t qa = 3 && qsbGet t qa 88 8 = 77)
    ∧ goes (exec (.badPacket hq 0) (inState 4)) (fun t => qState t qa = 4 && qsbGet t qa 88 8 = 0x400000 && t.halts = [(qa, 0x400000)])
    ∧ goes (exec (.badPacket hq 0) { inState 4 with moves := [(qa, 3, 2)] }) (fun t => qsbGet t qa 88 8 = 77 && t.halts = [(qa, 0x400000)])
    ∧ goes (exec (.badPacket hq 0) { inState 4 with moves := [(qa, 3, 1)] }) (fun t => qsbGet t qa 88 8 = 0x400000 && t.moves = [(qa, 3, 3)])
    ∧ goes (exec (.badPacket hq 0) { inState 4 with moves := [(qa, 3, 3)] }) (fun t => qsbGet t qa 88 8 = 77 && t.halts = []) := by decide +kernel
/-- SignalWords: a WAITS of a queue that a packet has failed meanwhile; a deadline at the end of time. -/
theorem witness_wait_halts : goes (exec (.waitsRecheck 0) { waitQ 7 0 with halts := [(qa, 5)] }) (fun t => qState t qa = 3 && qsbGet t qa 88 8 = 5 && t.halts = [])
    ∧ goes (exec (.waits hq 0x600000 8 5 0xFFFFFFFFFFFFFFFF) { word7 with reft := 99 }) (fun t => qsbGet t qa 72 8 = 0xFFFFFFFFFFFFFFFF)
    ∧ goes (exec (.waits hq 0x600000 8 5 7) { word7 with reft := 99 }) (fun t => qsbGet t qa 72 8 = 106) := by decide +kernel
/-- DataPackets: a ring whose records find no page, the last id, and a REARM over two pages' ring fault. -/
theorem witness_ring_faults : rangeFault marked (.ctx 1) 0x40000000 2048 .write = some Cause.pageAbsent ∧ rangeFault marked (.ctx 1) 0x3FFFFC00 2048 .write = some Cause.pageAbsent
    ∧ goes (exec (.ring hq 5 12 64 0x40000000 0x900000 1 100) marked) (fun t => qsbGet t qa 80 2 = 10 && t.rings = [])
    ∧ goes (exec (.ring hq 5 12 65 0x800000 0x900000 1 100) marked) (fun t => qsbGet t qa 80 2 = 1) := by decide +kernel
/-- AgentPackets: no slot is left for a new agent, and none of another id. -/
theorem many_slots (n : Nat) : ((List.replicate n (5, ag)).filter (fun e => e.2.resident)).length = n := by
  rw [List.filter_replicate_of_pos rfl, List.length_replicate]
theorem witness_no_slot : residentCount { marked with agents := List.replicate 8192 (5, ag) } = 8192 := many_slots 8192
theorem witness_resume_faulted : st7 stReady (exec (.agentResume hq 7 0x700000 0x7000 0) (recAgent { ag with st := stSuspended, cur := some (.gwait 2 3 0 0) }))
    ∧ goes (exec (.agentResume hq 7 0x700000 0x7000 0) (recAgent { ag with st := stSuspended, resident := false })) (fun t => t.slotQueue = [4]) := by decide +kernel
/-- ControlPackets: a new context, whose checked page loses its tag; a frequency that waits for a tower; a deck above its ceiling. -/
def tagAt (n : Nat) : Nat × Tag := (locOf (probeBase + n) / 32, { writer := none, reader := .none, scope := 2, born := 0 })
def fresh1 : State := { leaf1 (probeBase + 2 ^ 30 + 0x103) bare with tags := [tagAt (2 ^ 30), tagAt 0] }
theorem witness_ctxnew : (placeTorus fresh1 0 1 1).isSome = true
    ∧ goes (exec (.ctxnew hq (.ofNat 64 rootA) 0 0x600000) fresh1) (fun t => t.tags = [tagAt 0] && (t.ctx fresh1.nextId).map (fun c => c.priv) = some true
        && Memory.readN t.mem (probeBase + 0x600000) 4 = fresh1.nextId) := by decide +kernel
theorem witness_freq_waits : (let s := bare.setTower 0 { bare.tower 0 with st := .drain }
    (s.tower 0).st ≠ .run ∧ goes (exec (.qctlFreq hq 1 14 0) s) (fun t => t = s)) ∧ stat 13 (exec (.qctlFreq hq 1 16 0) bare) := by decide +kernel

/-! ## Witnesses: queues and rings -/

/-- A queue in the list of priority 3, whose sentinels stand at 0xB00000. -/
def listed (s : State) : State := cell 0xB00300 8 qa { s with regs := [(8, .ofNat 64 (probeBase + 0xB00000))] }
def ready : State := listed (cell 0x300009 1 0 { marked with threads := [] })
def served : State := listed marked
theorem witness_walk : allQueues { fe with regs := [] } = [] ∧ allQueues ready = [(3, qa)] ∧ eligible ready qa = true ∧ qsbOk ready qa = true
    ∧ goes (exec .queueWalk { fe with regs := [] }) (fun t => t.walkgen = 1)
    ∧ goes (exec .queueWalk ready) (fun t => t.threads = [(0, { Thread.empty with qsb := some qa, prio := 3, mapped := 0 })] && t.walkgen = 1)
    ∧ qsbOk (cell 0x300020 4 4097 ready) qa = false
    ∧ goes (exec .queueWalk (cell 0x300020 4 4097 ready)) (fun t => t.threads = [] && qState t qa = 3 && qsbGet t qa 80 2 = 1) := by decide +kernel
theorem witness_wake : ((allQueues ready).filter (fun e => qQid ready e.2 = 7)).map (fun e => e.2) = [qa] ∧ threadOf ready qa = none ∧ threadOf served qa = some 0
    ∧ goes (exec (.queueWake 7) ready) (fun t => qFlags t qa = 2) ∧ goes (exec (.queueWake 7) served) (fun t => t = served)
    ∧ goes (exec (.queueWake 7) (listed (waitQ 7 0))) (fun t => qState t qa = 1) := by decide +kernel
def thrd (f : Thread → Thread) (now : Nat) (s : State) : State := { s with threads := [(0, f thr)], reft := .ofNat 64 now }
def second (s : State) : State := cell 0x300000 8 (probeBase + 0x310000) (qsb 0x310000 1 1 5 0x400000 s)
theorem witness_slices : goes (exec (.sliceExpiry 0) (thrd (fun t => { t with idleSince := some 5 }) 250005 served)) (fun t => qState t qa = 0 && (t.thread 0).unmap)
    ∧ (allQueues (second served)).length = 2
    ∧ goes (exec (.sliceExpiry 0) (thrd id 250000 (second served))) (fun t => (t.thread 0).unmap)
    ∧ goes (exec (.sliceExpiry 0) (thrd (fun t => { t with packets := 4096 }) 0 (second served))) (fun t => (t.thread 0).unmap)
    ∧ goes (exec (.sliceExpiry 0) (thrd id 249999 (second served))) (fun t => !(t.thread 0).unmap)
    ∧ goes (exec .periodicReread { ready with reft := 250000 }) (fun t => t.reread = 250000) ∧ goes (exec .periodicReread { ready with reft := 249999 }) (fun t => t.reread = 0) := by decide +kernel
/-- A NOP of 16 bytes with its check, one with a wrong check. -/
def nopAt (check : Nat) (s : State) : State := cell 0x400000 16 (0x5A + 0x10 * 2 ^ 16 + check * 2 ^ 32 + 9 * 2 ^ 64) s
def fetchIs (s : State) (p : Fetched → Bool) : Bool := p (fetchPacket s qa)
def isPacket (f : Fetched) : Bool := match f with | .packet w => (match decodePacket w with | .nop _ => true | _ => false) | _ => false
def mismatched (s : State) : State := { s with torn := [(qa, (5, qRptr s qa))] }
def torn (now : Nat) (check : Nat) : State := mismatched (thrd id now (nopAt check served))
/-- The ring of an unprivileged queue with CTX = 0, by physical addresses. -/
def bareRing (s : State) : State := cell 0x300010 4 0 (cell 0x300018 8 (probeBase + 0x400000) (cell 0x300028 8 (probeBase + 0x400000) s))
theorem witness_torn : fetchIs (torn 4101 1) (fun f => f = .torn) ∧ fetchIs (torn 4101 0xFFF6) isPacket
    ∧ goes (exec (.queueTorn 0) (torn 4101 1)) (fun t => qState t qa = 3 && qsbGet t qa 80 2 = 12) ∧ goes (exec (.queueTorn 0) (torn 4100 1)) (fun t => t = torn 4100 1)
    ∧ goes (exec (.packetRefetch 0) (torn 4100 0xFFF6)) (fun t => qRptr t qa = 0x400010) ∧ goes (exec (.packetRefetch 0) (torn 4100 1)) (fun t => t = torn 4100 1)
    ∧ goes (exec (.packetRefetch 0) (mismatched (bareRing (torn 4100 0xFFF6)))) (fun t => qState t qa = 3 && qsbGet t qa 80 2 = 3) := by decide +kernel
/-- QueueEvents: a read that comes too late, the end of the slice, a queue that is unmapped and mapped again, time up to the last read. -/
theorem witness_torn_late : goes (exec (.packetRefetch 0) (torn 4102 0xFFF6)) (fun t => qState t qa = 3 && qsbGet t qa 80 2 = 12 && t.torn = [])
    ∧ goes (exec (.queueTorn 0) (torn 4102 0xFFF6)) (fun t => qState t qa = 3 && qsbGet t qa 80 2 = 12) ∧ goes (exec (.queueTorn 0) (torn 4101 0xFFF6)) (fun t => t = torn 4101 0xFFF6)
    ∧ goes (exec (.packetRefetch 0) (thrd (fun t => { t with packets := 4096 }) 9 (torn 9 0xFFF6))) (fun t => qRptr t qa = 0x400000 && (t.thread 0).packets = 0)
    ∧ goes (exec (.packetRefetch 0) (thrd (fun t => { t with unmap := true }) 9 (torn 9 1))) (fun t => t.thread 0 = Thread.empty && t.torn = [(qa, (5, 0x400000))])
    ∧ (passTime 5000 (torn 9 1)).reft = 4101 := by decide +kernel
def rec1 : BitVec 256 := 5
def ringS (f : Ring → Ring) : State := { fe with rings := [(1029, f { ringA with waiting := [rec1] })] }
def ringAt (t : State) (p : Ring → Bool) : Bool := match Tbl.look t.rings 1029 with | some r => p r | none => false
def readIsE (r : Except AccFault Nat) (n : Nat) : Bool := match r with | .ok c => c = n | .error _ => false
theorem witness_rings : readIsE (feRead (ringS id) (.ctx 1) 0x900000 8) 0
    ∧ goes (exec (.ringRecordWrite 1029) (ringS id)) (fun t => Memory.readN t.mem (probeBase + 0x800000) 8 = 0x105 && t.interrupts = [12] && ringAt t (fun r => r.written = 1 && r.unsignalled = 0))
    ∧ goes (exec (.ringRecordWrite 1029) (ringS (fun r => { r with written := 64 }))) (fun t => t = ringS (fun r => { r with written := 64 }))
    ∧ goes (exec (.ringRecordWrite 1029) (ringS (fun r => { r with headaddr := 0x40000000 }))) (fun t => t.rings = [])
    ∧ goes (exec (.ringInterruptTimeout 1029) { ringS (fun r => { r with unsignalled := 1, oldest := 7 }) with reft := 107 }) (fun t => t.interrupts = [12])
    ∧ goes (exec (.ringInterruptTimeout 1029) { ringS (fun r => { r with unsignalled := 1, oldest := 7 }) with reft := 106 }) (fun t => t.interrupts = []) := by decide +kernel

/-! ## Witnesses: clocks, roles, checkpoints, registers, the outside -/

def deck0 (f : Deck → Deck) (now : Nat) : State := { fe.setDeck 0 (f (fe.deck 0)) with reft := .ofNat 64 now }
def locking (w : Option Byte) (d : Deck) : Deck := { d with relock := true, target := 20, relockEnd := 1500, cyc := 150, waiting := w }
theorem witness_clocks : goes (exec (.stepInstant 0) (deck0 (locking none) 1500)) (fun t => (t.deck 0).cur = 20 && (t.deck 0).cyc = 200 && !(t.deck 0).relock)
    ∧ goes (exec (.stepInstant 0) (deck0 (locking (some 21)) 1500)) (fun t => (t.deck 0).target = 21 && (t.deck 0).relockEnd = 3000)
    ∧ goes (exec (.stepInstant 0) (deck0 (locking none) 1499)) (fun t => t = deck0 (locking none) 1499) ∧ deckCompute fe 0 = true
    ∧ goes (exec (.powerLimit 3601) fe) (fun t => (t.deck 0).target = 14 && (t.deck 0).relock) ∧ goes (exec (.powerLimit 3600) fe) (fun t => t = fe)
    ∧ goes (exec (.thermalTrip 0) fe) (fun t => t.thermal = [0] && (t.deck 0).target = 12 && (t.tower 0).trip = some 0)
    ∧ goes (exec (.thermalPowerGate 0) { fe.setTower 0 { fe.tower 0 with trip := some 3 } with reft := 100000003 }) (fun t => (t.tower 0).gated)
    ∧ goes (exec (.thermalPowerGate 0) { fe.setTower 0 { fe.tower 0 with trip := some 3 } with reft := 100000002 }) (fun t => !(t.tower 0).gated)
    ∧ (passTime 100 (deck0 (locking none) 1450)).reft = 1500 ∧ ((passTime 100 fe).deck 0).cyc = 150 := by decide +kernel
/-- RolesChange. The maps that a record lists are fixed by no rule: the witness is for one that lists C C S S. -/
def chg (m : BitVec 4) (d : Nat) : Change := { cmask := m, release := true, deadline := d, evac := 0, async := none, expired := false }
def towerIn (st : TowerSt) (m : BitVec 4) (s : State) : State := s.setTower 0 { s.tower 0 with st := st, change := some (chg m 50) }
def calm : State := { bare with launches := [], trained := true }
theorem witness_roleset (h : Config.mapListed 0 3 = true) : qPriv calm qa = true ∧ roundHolds calm [0] = false ∧ (calm.tower 0).st = .run
    ∧ Config.mapListed 0 3 = true ∧ (∀ e ∈ calm.ctxs, 2 ^ (e.2.wlog + e.2.hlog) ≤ coresUnder calm e.2.part (fun i => if i ∈ [0] then 3 else mapAfter calm i))
    := by
  refine ⟨by decide +kernel, by decide +kernel, by decide +kernel, h, by decide +kernel⟩
theorem witness_roleset_refused : goes (exec (.roleset hq 1 0 3 0 0) { calm with trained := false }) (fun t => t = { calm with trained := false })
    ∧ goes (exec (.roleset hq 1 0 3 0 0) { calm with rounds := [(0, { Round.empty with active := true })] }) (fun t => t.asyncs = []) ∧ stat 5 (exec (.roleset hq 1 0 15 0 0) calm) ∧ stat 1 (exec (.roleset hq 1 2 1 0 0) calm) := by decide +kernel
theorem witness_roles : goes (exec (.drainDeadline 0) { towerIn .drain 3 calm with reft := 50 }) (fun t => (t.tower 0).change.map (fun c => c.expired) = some true)
    ∧ goes (exec (.drainDeadline 0) { towerIn .drain 3 calm with reft := 49 }) (fun t => (t.tower 0).change.map (fun c => c.expired) = some false)
    ∧ runningOn (towerIn .drain 3 calm) (changingDecks (towerIn .drain 3 calm) 0) = [] ∧ ((towerIn .drain 3 calm).planner 0).flight = none
    ∧ runningOn (towerIn .drain 2 fe) (changingDecks (towerIn .drain 2 fe) 0) ≠ [] ∧ goes (exec (.roleFlush 0) (towerIn .drain 2 fe)) (fun t => t = towerIn .drain 2 fe)
    ∧ namesDeck ctxA (decksDown (towerIn .flush 3 calm) 0 3) = false
    ∧ goes (exec (.roleEnumerate 0) (towerIn .flush 3 calm)) (fun t => (t.tower 0).st = .enumerate && (t.tower 0).cmask = 1 && (t.deck 1).cur = 12 && (t.deck 1).ceil = 24)
    ∧ goes (exec (.roleRun 0) { towerIn .enumerate 3 calm with initial := some [] }) (fun t => (t.tower 0).st = .run && (t.tower 0).cmask = 3 && (t.tower 0).change = none)
    ∧ goes (exec (.roleRun 0) (towerIn .enumerate 3 (deck0 (locking none) 0))) (fun t => (t.tower 0).st = .enumerate)
    ∧ fe.trained = false ∧ goes (exec .dramTrained fe) (fun t => t.trained && (t.tower 3).st = .drain) := by decide +kernel
/-- An evacuation of no deck succeeds; one whose list cannot be read fails. -/
theorem witness_flush : (evacuate .phys false calm 0 (decksUp calm 0 1)).2 = none
    ∧ goes (exec (.roleFlush 0) (towerIn .drain 1 calm)) (fun t => (t.tower 0).st = .flush) := by decide +kernel

/-- QueueEvents: a woken queue within its latency tolerance is put off; a wake that is latched; a mark that has come; a slice that begins again. -/
def tolerant (now : Nat) : State := { cell 0x30000E 2 1 (cell 0x300008 2 0x200 ready) with picks := [qa], wakes := [(qa, 5)], reft := .ofNat 64 now }
theorem witness_defer : mayDefer { cell 0x300008 1 1 (tolerant 1004) with reft := 1004 } qa = false ∧ mayDefer (tolerant 1004) qa = true ∧ mayDefer (tolerant 1005) qa = false
    ∧ goes (exec .queueWalk (tolerant 1004)) (fun t => t.threads = [] && t.walkgen = 1) ∧ goes (exec .queueWalk (tolerant 1005)) (fun t => t.threads.length = 1)
    ∧ goes (exec (.queueWake 7) (thrd (fun t => { t with unmap := true }) 9 served)) (fun t => (t.thread 0).latched && qFlags t qa / 2 % 2 = 1 && t.wakes = [(qa, 9)])
    ∧ markHere (thrd (fun t => { t with idleSince := some 5 }) 9 served) qa = true
    ∧ goes (exec (.queueWake 7) (thrd (fun t => { t with idleSince := some 5 }) 9 served)) (fun t => (t.thread 0).idleSince = none)
    ∧ markHere (cell 0x400000 4 0 served) qa = false ∧ goes (exec (.queueWake 7) (cell 0x400000 4 0 served)) (fun t => t = cell 0x400000 4 0 served)
    ∧ goes (exec (.sliceExpiry 0) (thrd id 250000 served)) (fun t => !(t.thread 0).unmap && (t.thread 0).slice = 250000)
    ∧ goes (exec (.sliceExpiry 0) (thrd (fun t => { t with idleSince := some 5 }) 250004 (listed (waitQ 8 0)))) (fun t => qState t qa = 2)
    ∧ (let s := thrd id 249999 served; goes (exec (.sliceExpiry 0) s) (fun t => t = s)) := by decide +kernel
/-- QueueEvents: what a thread that reads a packet again finds: no mark, no page, a full ring, a ninth asynchronous packet, its place. -/
def again0 (s : State) : State := mismatched (thrd id 9 s)
def reportFull (s : State) : State := { s with rings := [(1029, { ringA with waiting := List.replicate 64 rec1 })] }
def asyncNo (i : Nat) : Async := { busyAsync with id := i }
def copyhAt (s : State) : State := cell 0x400000 48 (0x5A + 6 * 2 ^ 8 + 48 * 2 ^ 16 + 0xFFFF * 2 ^ 32) s
def reportAt (s : State) : State := cell 0x400000 16 (0x5A + 16 * 2 ^ 16 + 0xFFFE * 2 ^ 32 + 2 ^ 48) s
def eight (s : State) : State := { s with asyncs := (List.range 8).map (fun i => asyncNo (40 + i)) }
theorem witness_refetch : goes (exec (.packetRefetch 0) (again0 (cell 0x400000 4 0 served))) (fun t => (t.thread 0).idleSince = some 9 && t.torn = [])
    ∧ goes (exec (.packetRefetch 0) (again0 (cell 0x300028 8 0x40000000 served))) (fun t => qState t qa = 3 && qsbGet t qa 80 2 = 10)
    ∧ goes (exec (.packetRefetch 0) (mismatched (thrd (fun t => { t with unmap := true, latched := true }) 9 served)))
        (fun t => t.threads.length = 1 && t.thread 0 = Thread.empty && qState t qa = 4 && t.moves = [(qa, 3, 1)])
    ∧ goes (exec (.packetRefetch 0) (mismatched (thrd (fun t => { t with unmap := true }) 9 served))) (fun t => t.thread 0 = Thread.empty && t.moves = [])
    ∧ (let s := again0 (reportFull (reportAt served))
       goes (exec (.packetRefetch 0) s) (fun t => qRptr t qa = 0x400000 && t.torn = [] && t.rings = s.rings))
    ∧ goes (exec (.packetRefetch 0) (again0 (copyhAt served))) (fun t => t.asyncs.length = 1 && qRptr t qa = 0x400030)
    ∧ goes (exec (.packetRefetch 0) (again0 (eight (copyhAt served)))) (fun t => t.asyncs.length = 8 && Tbl.look t.behind qa = some 40 && qRptr t qa = 0x400000)
    ∧ goes (exec (.packetRefetch 0) (again0 { eight (copyhAt served) with behind := [(qa, 47)] }))
        (fun t => t.asyncs.length = 8 && Tbl.look t.behind qa = some 47) := by decide +kernel
/-- RingEvents: a record that waits in the front end takes its place. -/
theorem witness_reports : goes (exec (.ringRecordWrite 1029) { ringS id with reports := [(1030, 7), (1029, 8), (1029, 9)] })
    (fun t => t.reports = [(1030, 7), (1029, 9)] && ringAt t (fun r => r.waiting = [8])) := by decide +kernel
/-- ClocksAndHeat: time stops at the deadline of a mapped queue's WAITS. -/
theorem witness_deadline : (passTime 100 (thrd id 5 (waitQ 8 50))).reft = 50 ∧ (passTime 40 (thrd id 5 (waitQ 8 50))).reft = 45 := by decide +kernel
/-- ClocksAndHeat: a request for the frequency just reached; a deck whose tower is not in RUN. -/
theorem witness_clock_forms : goes (exec (.stepInstant 0) (deck0 (locking (some 20)) 1500)) (fun t => !(t.deck 0).relock && (t.deck 0).waiting = none)
    ∧ goes (exec (.powerLimit 3601) (towerIn .drain 3 fe)) (fun t => !(t.deck 0).relock && (t.deck 0).pending = some 14)
    ∧ goes (exec (.thermalTrip 0) (towerIn .drain 3 fe)) (fun t => !(t.deck 0).relock && (t.deck 0).pending = some 12)
    ∧ fe.planners.all (fun e => e.2.flight.isNone) = true := by decide +kernel
/-- RolesChange: a step, or a matrix row, holds off the flush; a tower that changes holds off the move of bring-up. -/
def flown (s : State) : State := { s with planners := [(0, { Planner.empty with flight := some { plans := [plan1], retry := false, cores := [2048] } })] }
theorem witness_role_waits : stepPhys (flown calm) = [0] ∧ deckOf 0 ∈ changingDecks (towerIn .drain 2 (flown calm)) 0
    ∧ goes (exec (.roleFlush 0) (towerIn .drain 2 (flown calm))) (fun t => t = towerIn .drain 2 (flown calm))
    ∧ goes (exec .dramTrained (towerIn .drain 3 fe)) (fun t => t = towerIn .drain 3 fe) ∧ goes (exec .dramTrained { fe with trained := true }) (fun t => t = { fe with trained := true })
    ∧ goes (exec .powerOn fe) (fun t => t.ctxs = [] && t.trained = false) := by decide +kernel
/-- A failed evacuation: deck 1's store is mapped, and the list lies where no memory is. -/
def evacS : State :=
  let s := ({ calm with trained := false } : State).setTower 0 { calm.tower 0 with st := .drain, change := some { chg 3 50 with release := false } }
  cell 0x1002008 8 (rootA + 0x3000 + 1) (cell 0x1003000 8 (6 * 2 ^ 48 + 2 ^ 28 + 3) s)
theorem witness_evac_fault : (evacuate .phys true evacS 0 (decksUp evacS 0 3)).2 = some (.ofNat 64 (6 * 2 ^ 48 + 2 ^ 28))
    ∧ goes (exec (.roleFlush 0) evacS) (fun t => (t.tower 0).st = .run && (t.tower 0).change = none) := by decide +kernel
/-- CheckpointRounds. -/
def roundS (r : Round) (s : State) : State := { s with rounds := [(0, r)] }
def openR (w : List (UnitRef × List InputRef)) : Round := { Round.empty with active := true, pending := true, waiting := w }
theorem witness_rounds : goes (exec (.ckptStart 0) calm) (fun t => (t.round 0).active && (t.round 0).waiting.length = 513)
    ∧ goes (exec (.ckptStart 0) (towerIn .drain 3 calm)) (fun t => (t.round 0).refused && !(t.round 0).active)
    ∧ markerReady (roundS (openR [(.core 0, [])]) fe) 0 (.core 0) .frontEnd = true
    ∧ goes (exec (.markerArrive 0 (.core 0) .frontEnd) (roundS (openR [(.core 0, [])]) fe)) (fun t => (t.round 0).waiting = [(.core 0, [.frontEnd])])
    ∧ goes (exec (.markerArrive 0 (.core 0) .frontEnd) fe) (fun t => t = fe)
    ∧ goes (exec (.unitEdge 0 (.core 5)) (roundS (openR [(.core 5, [])]) calm)) (fun t => (t.round 0).edged = []) ∧ unitInputs calm (.core 5) = [.frontEnd]
    ∧ groupsAt calm 5 = [] ∧ jobsRest calm 5 = true
    ∧ goes (exec (.unitEdge 0 (.core 5)) (roundS (openR [(.core 5, [.frontEnd]), (.machine, [])]) calm)) (fun t => (t.round 0).edged = [.core 5] && !(t.round 0).frozen)
    ∧ goes (exec (.unitEdge 0 .machine) (roundS (openR [(.core 5, []), (.machine, [.frontEnd])]) calm)) (fun t => (t.round 0).edged = [.machine])
    ∧ goes (exec (.unitEdge 0 (.queue qa)) (roundS (openR [(.queue qa, [.frontEnd]), (.machine, [])]) calm)) (fun t => (t.round 0).edged = [.queue qa])
    ∧ goes (exec (.ckptRelease 0) (roundS { openR [] with frozen := true } fe)) (fun t => !(t.round 0).active && !(t.round 0).frozen) := by decide +kernel
/-- A core whose copy job runs on discards its groups and does not take its edge; a channel's marker follows its sender's edge. -/
theorem witness_round_waits : (let s := roundS (openR [(.core 0, [.frontEnd]), (.machine, [])]) (withJob (plainJob 0 true) { fe with fs := probeStrand })
      groupsAt s 0 = [(1, 0)] ∧ jobsRest (discardOn s (groupsAt s 0)) 0 = false
      ∧ goes (exec (.unitEdge 0 (.core 0)) s) (fun t => (t.round 0).edged = [] && (t.launch 1).map (fun l => l.sts) = some [.discarded]))
    ∧ unitInputs linked (.core 1) = [.frontEnd, .channel 1 0 2048]
    ∧ markerReady (roundS { openR [(.core 1, [])] with edged := [.core 0] } linked) 0 (.core 1) (.channel 1 0 2048) = true
    ∧ markerReady (roundS (openR [(.core 1, [])]) linked) 0 (.core 1) (.channel 1 0 2048) = false
    ∧ goes (exec (.unitEdge 0 (.core 1)) (roundS (openR [(.core 1, [.frontEnd])]) linked)) (fun t => (t.round 0).edged = []) := by decide +kernel
/-- The last unit's edge: whatever an image's size, the partition is frozen. -/
theorem witness_last_edge : (∀ e ∈ (openR [(UnitRef.machine, [])]).waiting, e.1 = UnitRef.machine) ∧ agentsOf calm 0 = [] ∧ (calm.planner 0).flight = none
    ∧ (openR [(UnitRef.machine, [])]).pending = true := by decide +kernel
def image1 : Image :=
  { ctxs := [(1, ctxA)], cores := [], strands := [], pads := [], launches := [], links := [], marks := [], decrs := [], calls := [], replies := [], covResets := [], halts := [], behind := [], inbox := [], covs := [], agents := [], toks := [], asyncs := [], freqs := [], queues := [] }
/-- An image whose bytes stand at CKPTBUF. -/
def kept (s : State) : State := { s with ctxs := [], images := [(8, 0, image1)], regs := [(0x640, .ofNat 64 (probeBase + 0x700000))] }
theorem witness_restore : goes (exec (.ckptRestore 0) { calm with ctxs := [], regs := [(0x648, 8)], trained := false }) (fun t => (t.round 0).refused)
    ∧ (∀ f ∈ image1.ctxs, f.1 = 1 → f = (1, ctxA)) ∧ (imageAt (kept calm) (ckptBuf (kept calm) 0) (ckptSize (kept calm) 0)).map (fun im => im.ctxs) = some [(1, ctxA)]
    ∧ goes (exec (.ckptRestore 0) (kept calm)) (fun t => (t.round 0).frozen && t.ctx 1 = some ctxA && 1 < t.nextId)
    ∧ goes (exec (.ckptRestore 2) { kept calm with regs := [(0x660, .ofNat 64 (probeBase + 0x700000))] }) (fun t => (t.ctx 1).map (fun c => c.part) = some 2) := by decide +kernel
/-- RegistersAndReadings. -/
def dbgOn (b : Bool) : State := { fe with ctxs := [(1, { ctxA with debug := b })], regs := [(0x200, 1), (0x500, 1)] }
def freeRegs : State := { fe with regs := [] }
theorem witness_registers : allQueues freeRegs = [] ∧ allQueues served ≠ [] ∧ regExists 4 = false ∧ isDebugSet 0x210 = true ∧ isDebugSet 0x338 = true
    ∧ goes (exec (.registerWrite 8 0xFFF) freeRegs) (fun t => t.reg 8 = 0x800) ∧ goes (exec (.registerWrite 8 0x800) served) (fun t => t = served)
    ∧ goes (exec (.registerWrite 0x20 1) freeRegs) (fun t => t = freeRegs) ∧ goes (exec (.registerWrite 0x500 1) freeRegs) (fun t => t.reg 0x500 = 1)
    ∧ goes (exec (.debugRegisterWrite 0x218 0xFFFFFFFFFFFFFFFF) (dbgOn true)) (fun t => (t.ctx 1).map (fun c => c.dbg) = some [(0x218, 0xC000FFFFFFFFFFFF)])
    ∧ goes (exec (.debugRegisterWrite 0x218 1) (dbgOn false)) (fun t => t.reg 0x208 = 228)
    ∧ goes (exec (.attestRequest 0x1234) (dbgOn true)) (fun t => t.attBusy = some 0x1200 && t.reg 0x518 = 1) ∧ goes (exec (.attestRequest 0x1234) freeRegs) (fun t => t.reg 0x518 = 4)
    ∧ goes (exec (.perfReading 0x112) freeRegs) (fun t => t.perfBusy = some (2, 1, 1))
    ∧ goes (exec .perfReadingDone { freeRegs with perfBusy := some (1, 0, 0), perf := [(1, 7), (9, 8), (1025, 5)] }) (fun t => t.reg 0x408 = 0x800000000000000F && t.perfBusy = none)
    ∧ goes (exec (.perfClear 1) { freeRegs with perf := [(1, 7), (2, 9), (9, 8)] }) (fun t => t.perf = [(2, 9)]) := by decide +kernel
theorem witness_attest : ((dbgOn true).ctx ((dbgOn true).reg 0x500).toNat).isSome ∧ ({ dbgOn true with attBusy := some 0x1200 } : State).attBusy = some 0x1200 := by decide +kernel
/-- OutsideAndWalks: bytes of the cellar tier, the last of a sector, an address where no memory is. -/
theorem witness_outside : outsideOk word7 (probeBase + 0x60001E) 2 = true ∧ outsideOk word7 (8 * 2 ^ 48) 2 = false
    ∧ goes (exec (.hostCoherentAccess (.write (probeBase + 0x60001E) [1, 2])) word7) (fun t => Memory.readN t.mem (probeBase + 0x60001E) 2 = 0x201)
    ∧ goes (exec (.remoteMemoryOperation (.write (8 * 2 ^ 48) [1, 2])) word7) (fun t => t = word7)
    ∧ goes (exec (.remoteMemoryOperation (.add (probeBase + 0x600000) 5)) word7) (fun t => Memory.readN t.mem (probeBase + 0x600000) 8 = 12)
    ∧ goes (exec (.hostCoherentAccess (.cas (probeBase + 0x600000) 7 9)) word7) (fun t => Memory.readN t.mem (probeBase + 0x600000) 8 = 9)
    ∧ goes (exec (.hostCoherentAccess (.cas (probeBase + 0x600000) 6 9)) word7) (fun t => Memory.readN t.mem (probeBase + 0x600000) 8 = 7)
    ∧ goes (exec (.pageWalk probeCore 0x600000 0) { word7 with tlbs := [] }) (fun t => (Tbl.get t.tlbs 0 []).map (fun (e : TlbEntry) => (e.size, e.pa)) = [(2 ^ 30, probeBase)])
    ∧ goes (exec (.pageWalk probeCore 0x40000000 0) word7) (fun t => t = word7)
    ∧ goes (exec (.linkCrcRetry (some probeCore)) { word7 with regs := [(0x418, 15)], ctxs := [(1, { ctxA with debug := true })] }) (fun t => t.perf = [(1, 1)]) := by decide +kernel

/-! ## Witnesses: encodings and steps -/

def encIs (r : Option Nat) (w : Nat) : Bool := r = some w
theorem witness_encode : encode (.sext 6 7 1) = some 0x20C83B00 ∧ encode (.addl 3 3 0x100) = some 0x0000010000000000000019C7
    ∧ encode (.vadd { f32 1 2 3 0xFE with etype := 7 }) = some 0xFE0302010000E002 ∧ encode (.tst 2 5 128) = some 0x10002958
    ∧ encode (.cas 3 4 5 4 2) = some 0x00A2A1A0 ∧ encode (.cvstat 5 2) = some 0x000102EC ∧ encode (.mdrainG 1 4 0 16 9) = some 0x4888485D := by decide +kernel
/-- The listing of chapter 21 (R339), and its scoring instruction's fields. -/
theorem test_agent_words : decodeAgent 0x0000000300000101 = some (.cnew 1 3) ∧ decodeAgent 0x0020000000020010 = some (.gli 2 0x200000)
    ∧ decodeAgent 0x000000000014100A = some (.cscore 4 1 2 0) ∧ decodeAgent 0x000000000020001F = some (.ghalt 4)
    ∧ decodeAgent 0x0000000000200107 = some (.cappend 1 4 0) ∧ decodeAgent 0x000000000013010B = some (.cchoose 1 3 2 0)
    ∧ decodeAgent 0x0000000400000018 = some (.gj 4) ∧ decodeAgent 0 = none := by decide +kernel
theorem witness_agent_words : encodeAgent (.gadd 2 true 0 7) = some 0x0000000700420011 ∧ encodeAgent (.cscore 4 1 2 0) = some 0x000000000014100A
    ∧ encodeAgent (.gcmp 2 false 3 0 5) = some 0x029A0014 := by decide +kernel
/-- The SIGNAL packet that follows R374. -/
def sigPkt : Nat := 0x0030035A + 0xFFB7 * 2 ^ 32 + 7 * 2 ^ 64 + 0x400000 * 2 ^ 128 + 2 ^ 192
theorem test_packet : decodePacket sigPkt = .signal { len := 48, report := false, cont := false, tag := 7 } 0x400000 1 0 ∧ checkOf sigPkt 48 = 0xFFB7 := by decide +kernel
theorem witness_packet_words : packetLength (.signal { len := 48, report := false, cont := false, tag := 7 } 0x400000 1 0)
    ∧ (encodePacket (.signal { len := 48, report := false, cont := false, tag := 7 } 0x400000 1 0)).map (fun w => decodePacket w) = some (.signal { len := 48, report := false, cont := false, tag := 7 } 0x400000 1 0) := by
  refine ⟨rfl, by decide +kernel⟩
/-- StepRunsDecodedInstruction: a strand, an agent, a thread, an event, time. -/
def code (w : Nat) : State := State.reset.withFetchWord 96 w
def isInstr (x : Issue) (i : Instr) : Bool := match x with | .instr j => i = j | _ => false
def wordsAre (r : Except AccFault Nat) (n : Nat) : Bool := match r with | .ok w => w = n | .error _ => false
theorem witness_strand_step : (code 0x20C83B00).agenda = [] ∧ (code 0x20C83B00).cur.active ∧ !(code 0x20C83B00).cur.idle ∧ (code 0x20C83B00).cur.wait = .none
    ∧ coreActs (code 0x20C83B00) probeCore = true ∧ isInstr (issueOf (code 0x20C83B00) probeStrand) (.sext 6 7 1)
    ∧ wordsAre (fetchWords (code 0x20C83B00) probeStrand 0x10000 1) 0x20C83B00 ∧ breakHit (code 0x20C83B00) probeStrand = none
    ∧ wordsAre (fetchWords (code 0x0000010000000000000019C7) probeStrand 0x10000 3) 0x0000010000000000000019C7 ∧ lengthOf 0x0000010000000000000019C7 = 12
    ∧ goes (step (code 0x20C83B00)) (fun t => t.pc = 0x10004) ∧ goes (step { code 0x20C83B00 with agenda := [.strand probeStrand] }) (fun t => t.pc = 0x10004) := by decide +kernel
def agentCode : State := { cell 0x7000 8 0x0020000000020010 (agentS ag tk) with agenda := [.agent 4] }
def agentWordIs (r : Except AgentFault Nat) (n : Nat) : Bool := match r with | .ok w => w = n | .error _ => false
theorem witness_agent_step : agentActs agentCode ag = true ∧ agentWordIs (agentFetch agentCode ag ag.pc) 0x0020000000020010
    ∧ goes (step agentCode) (fun t => t.agenda = [] && agentIs (fun a => a.g[2] = 0x200000 && a.pc = 0x7008) t) := by decide +kernel
def packetCode : State := { nopAt 0xFFF6 served with agenda := [.thread 0] }
/-- A ready strand that the rotation meets first is not passed over; one that has issued lately may be. -/
def rotated (l : List Nat) : State := (code 0x20C83B00).setCore probeCore { (code 0x20C83B00).core probeCore with issues := l }
def twin (l : List Nat) : State := { (rotated l).setStrand (probeStrand + 1) (code 0x20C83B00).cur with agenda := [.strand (probeStrand + 1)] }
theorem witness_rotation : passesOver (twin [7]) (probeStrand + 1) = true ∧ passesOver (twin [7, 0]) (probeStrand + 1) = false ∧ passesOver (twin []) (probeStrand + 1) = false
    ∧ goes (step (twin [7])) (fun t => (t.strand (probeStrand + 1)).pc = 0x10000) ∧ goes (step (twin [7, 0])) (fun t => (t.strand (probeStrand + 1)).pc = 0x10004
      && (t.core probeCore).issues = [1, 7, 0]) := by decide +kernel
theorem witness_unit_steps : goes (step { stepS with agenda := [.thread 31] }) (planIs (fun p => p.flight.isSome))
    ∧ goes (step { cell 0x300008 1 4 served with threads := [], moves := [(qa, 3, 1)], agenda := [.thread 0] }) (fun t => t.moves = [] && qState t qa = 1)
    ∧ goes (step { fe with agenda := [.choose [5] [6]] }) (fun t => t.picks = [5] && t.checks = [6]) := by decide +kernel
theorem witness_other_steps : fetchIs packetCode isPacket ∧ qState packetCode qa = 1 ∧ goes (step packetCode) (fun t => qRptr t qa = 0x400010)
    ∧ isEvent (.drainDeadline 0) = true ∧ goes (step { fe with agenda := [.event .queueWalk] }) (fun t => t.walkgen = 1)
    ∧ goes (step { fe with agenda := [.time 5, .time 6] }) (fun t => t.reft = 5 && t.agenda = [.time 6]) := by decide +kernel
/-- MemoryStaysCanonical: a memory with bytes in it, and a step that stores. -/
def storing : State := x 1 (own 0x100) (x 2 0x1234 (code ((encode (.st 2 1 0 3)).getD 0)))
theorem witness_canonical : Memory.wf storing.mem ∧ goes (step storing) (fun t => Memory.wf t.mem && Memory.readN t.mem (padLoc probeCore 0x100) 2 = 0x1234) := by decide +kernel

/-! ## Witnesses: traffic held at a boundary, the pipe's order, corrected errors -/

/-- LoadsAndReplies, DependenceCounters, TasksMove: replies, decrements and calls that a relock holds take their places; one behind them too. -/
theorem witness_held_traffic :
    (let s := waiting { len := 4, xw := [(3, 9)], vw := none, decks := [0] }
     goes (exec (.memoryReply probeStrand) (busyDeck s)) (fun t => t.cur.wait ≠ .none && t.crossing = [(probeStrand, [0])])
       && goes (exec (.memoryReply probeStrand) { s with crossing := [(probeStrand, [0])] }) (fun t => t.readX 3 = 9 && t.crossing = [])) = true
    ∧ goes (exec (.depDecrementArrive 0) (decr 2 apart)) (fun t => t.crossing = [(itemSender 0, [0])])
    ∧ goes (exec (.callArrive 0) { apart with calls := [flight] }) (fun t => t.crossing = [(itemSender 0, [0])])
    ∧ (let s := ctr 9 (.armed 2 2049 task0) apart
       goes (exec (.depDecrementArrive 0) { s with decrs := [{ id := 0, src := 2048, core := 2048, c := 9, amount := 2, launch := 1, stage := 0 }], sent := 1 })
         (fun t => t.decrs = [] && (t.core 2048).ctr 9 = .free && t.calls.length = 1 && t.crossing = [(itemSender 1, [0])])) := by decide +kernel
/-- BarriersRelease: a barrier of the tower, past its phase, holds a strand of a relocking deck until the relock has ended. -/
def bar4 (b : Barrier) (s : State) : State := s.setBar 1 (barKey 4 0 0) b
theorem witness_far_barrier :
    goes (exec (.waitb 1 4 0) (busyDeck (bar4 { n := 1, p := 8, cur := [], nxt := [] } (x 1 7 two))))
      (fun t => t.cur.wait = .waitb (barKey 4 0 0) 7 && t.pc = 0x10000 && t.crossing = [(probeStrand, [0])])
    ∧ goes (exec (.barrierPhaseComplete 1 (barKey 4 0 0)) (busyDeck (bar4 { n := 1, p := 7, cur := [16], nxt := [] } (strand0 (fun t => { t with wait := .waitb (barKey 4 0 0) 7 }) two))))
      (fun t => t.cur.wait = .waitb (barKey 4 0 0) 7 && (t.bar 1 (barKey 4 0 0)).p = 8
        && goes (exec (.barrierPhaseComplete 1 (barKey 4 0 0)) (free0 t)) (fun u => u.cur.wait = .none && u.pc = 0x10004 && (u.bar 1 (barKey 4 0 0)).p = 8)) := by
  decide +kernel
/-- MatrixOperationsComplete: a transfer whose reply a relock holds, and one that a copy's footprint holds from its start on. -/
def farRunning : State := busyDeck (after (execMatrixOpStart probeCore false (after (exec (.tst 0 1 0) farTile))))
def padJob : Job := { jobOf 0x1000 (own 0x100) (own 0x21C) 32 with started := true }
def underCopy : State := withJob padJob (issued (.tst 0 1 0))
def tstHeld : State := after (execMatrixOpStart probeCore false underCopy)
theorem witness_matrix_held : farRunning.curCore.mx.map (fun o => (o.running, o.crossing)) = [(true, false)]
    ∧ goes (exec (.matrixOpComplete probeCore 0) farRunning) (fun t => t.curCore.mx.length = 1 && t.crossing = [(probeStrand, [0])])
    ∧ (mxPick underCopy probeCore false).map (fun o => mxBlocked underCopy probeCore o) = some true
    ∧ tstHeld.curCore.mx.map (fun o => (o.running, o.crossing)) = [(true, true)]
    ∧ goes (exec (.matrixOpComplete probeCore 0) tstHeld) (fun t => t.curCore.mx.length = 1)
    ∧ goes (exec (.matrixOpComplete probeCore 0) (core0 (fun c => { c with jobs := [] }) tstHeld)) (fun t => t.curCore.mx = [] && t.pc = 0x10004) := by decide +kernel
/-- Vector instructions of slot 1 while slot 0, which comes first, has a beat that can be taken: they wait for the pipe. -/
def secondSlot : State :=
  let s := receiving [msg1]
  let t := s.setStrand (probeStrand + 1) { vs.cur with taskid := 3 }
  { t.setCore probeCore { t.core probeCore with rotPipe := 1 } with fs := probeStrand + 1 }
theorem witness_pipe_order : pipeAhead secondSlot probeCore 1 = true ∧ pipeAhead vs probeCore 0 = false
    ∧ goes (exec (.vadd (f32 1 2 3 0xFE)) secondSlot) (fun t => atBeat t.cur.wait 0 1 && t.pc = 0x10000)
    ∧ goes (exec (.vextr (f32 3 2 0xFE 15)) secondSlot) (fun t => atBeat t.cur.wait 0 1 && t.pc = 0x10000)
    ∧ goes (exec (.vld (f32 1 1 0 0xFE)) secondSlot) (fun t => t.cur.wait ≠ .none && t.pc = 0x10000) := by decide +kernel
/-- VectorFaultsAndBeats: a shape over a poisoned byte; a closed source at the first beat of a stochastic rounding, SRSTATE as it was. -/
def srF : V64 := { f32 1 0xA5 0xFE 9 with rnd := 3 }
def closedS : State :=
  let s := fp5 (chans [] (strand0 (fun t => { t with fpc := 0x123400000000 }) (handler vs)))
  { s with links := s.links.map (fun l => { l with closed := true }) }
theorem witness_first_beats : (laneFaults { shaped vs with poison := [padLoc probeCore 0x1004] } (.vadd (f32 0x91 0x91 3 0xFE)) (.of .vadd (f32 0x91 0x91 3 0xFE))).map (fun e => e.1) = some Cause.dataPoison
    ∧ laneFaults (shaped vs) (.vadd (f32 0x91 0x91 3 0xFE)) (.of .vadd (f32 0x91 0x91 3 0xFE)) = none
    ∧ goes (exec (.vcvt srF) closedS) (fun t => t.cur.fpc.toNat / 2 ^ 32 = 0x1244
        && goes (exec (.vectorBeat probeCore) t) (fun u => u.cur.tActive && u.cur.fpc.toNat / 2 ^ 32 = 0x1234)) := by decide +kernel
/-- Launches, GroupsRestart: a relock holds the release of a stage; a launch that has ended does not come back. -/
theorem witness_release_held : goes (exec (.launch (hdr 48 false false) 0x500000 0x600000 5) (busyDeck launchS)) (fun t => (t.launch 9).map (fun l => l.sts) = some [.held])
    ∧ (∀ e ∈ launchS.crossing, deckOf 0 ∉ e.2) ∧ (launchS.deck 0).relock = false
    ∧ goes (exec (.groupRestart 1 0) (busyDeck discarded)) (fun t => (t.launch 1).map (fun l => l.sts) = some [.discarded] && t.crossing = [(stageSender 1 0, [0])])
    ∧ (let s := preempted.setLaunch 1 { ((preempted.launch 1).getD probeLaunch) with ended := true }
       goes (exec (.launchRestart 1) s) (fun t => t = s)) := by decide +kernel
/-- AgentMemory: a register on a checked page; a single-bit error that a read corrects. -/
theorem witness_agent_reads : allFault (at1 (8 * 2 ^ 48 + 0x303)) 0x40000000 [.gld 2 3 false 0, .gst 2 3 false 0, .gsig 2 3 0, .gwait 2 3 5 0]
    ∧ goes (exec (.gwait 2 3 5 0) { sw with soft := [locOf (probeBase + 0x600003), 7] }) (fun t => t.soft = [7])
    ∧ goes (exec (.gst 2 3 false 0) { sw with soft := [locOf (probeBase + 0x600003), 7] }) (fun t => t.soft = [7])
    ∧ goes (exec (.ld 3 1 0 true 2) { sm with soft := [padLoc probeCore 0x101] }) (fun t => t.soft = []) := by decide +kernel

/-! ## Witnesses: stores left behind, stages that wait, accesses of the units outside the cores over a boundary -/

/-- HeldStoresComplete: a store of x2 to own byte 0x100 that a copy's footprint holds; its strand's group is discarded; it completes. -/
def footJob : Job := { jobOf 0x1000 (own 0x400) (own 0x100) 32 with started := true }
def storeHeld : State := after (exec (.st 2 1 0 3) (withJob footJob sm))
def storeLeft : State := discardGroup storeHeld 1 0
theorem witness_store_left : holdsStore (.next storeHeld) (.st 2 1 0 3) [] = false ∧ storeHeld.cur.wait = .store (.st 2 1 0 3)
    ∧ storeLeft.lates.map (fun l => (l.strand, l.instr)) = [(probeStrand, .st 2 1 0 3)] ∧ storeLeft.cur.wait = .none
    ∧ goes (exec (.memoryReply probeStrand) storeLeft) (fun t => t.lates = storeLeft.lates && t.mem = storeLeft.mem)
    ∧ goes (exec (.memoryReply probeStrand) (core0 (fun c => { c with jobs := [] }) storeLeft))
        (fun t => t.lates = [] && Memory.readN t.mem (padLoc probeCore 0x100) 8 = 0x0123456789ABCDEF && t.cur = storeLeft.cur) := by decide +kernel
/-- MemoryFaultsTrap: a store at a boundary; AMOs too. -/
theorem witness_store_held : holdsStore (exec (.st 2 1 0 3) (x 1 (mesh1 + 0x100) apart)) (.st 2 1 0 3) [0]
    ∧ holdsStore (exec (.amoadd 3 1 2 3 3) (x 1 (mesh1 + 0x100) apart)) (.amoadd 3 1 2 3 3) [0] := by decide +kernel
/-- MatrixInstructionsIssue: the one sector of TLD's one row, cut; a drain to a shape captures it. -/
def drainShape : State := core0 (fun c => { c with h := c.h.set 1 0x400 }) (pad 0x400 32 (0x1000 + 7 * 2 ^ 24 + 1 * 2 ^ 32 + 32 * 2 ^ 64 + 4 * 2 ^ 128) (mx true))
theorem witness_matrix_rows : (issued (.tld 0 1 0)).curCore.mx.map (fun o => (o.rows, o.decks, o.shape)) = [([[padLoc probeCore 0x100]], [], none)]
    ∧ rowSectors tcfg1 (own 0x100) = [[((own 0x100).toNat, 32)]] := by decide +kernel
/-- Drained: a drain of row 0 to the shape at 0x1000, of 32 elements, writes all of them. -/
theorem witness_drain_shape : drainFault drainShape .plain 0 1 0x91 0 = none
    ∧ (let s := after (exec (.mdrain 0 0 0 0x91) (core0 (fun c => { c with accs := c.accs.set 0 { tag := some (true, 0), rows := Vector.replicate 32 (5 + 7 * 2 ^ 992) } }) drainShape))
       s.curCore.mx.map (fun o => o.shape.map (fun h => h.count)) = [some 32]
       ∧ goes (execMatrixOpStart probeCore true s) (fun t => Memory.readN t.mem (padLoc probeCore 0x1000) 4 = 5
         && Memory.readN t.mem (padLoc probeCore 0x107C) 4 = 7 && Memory.readN t.mem (padLoc probeCore 0x1080) 4 = 0)) := by decide +kernel
/-- BeatLeaves: beat 1 of 64 elements, f32 2.25 + 0 into element 16 to 31; the result is pushed with the last beat alone. -/
theorem witness_beat_leaves : goes (exec (.vectorBeat probeCore) shapedBeat) (fun t => Memory.readN t.mem (padLoc probeCore 0x1000) 4 = 0x40100000
      && Memory.readN t.mem (padLoc probeCore 0x1040) 4 = 0 && t.cur.l0 = 0
      && goes (exec (.vectorBeat probeCore) t) (fun u => Memory.readN u.mem (padLoc probeCore 0x1040) 4 = 0x40100000 && u.cur.l0 = lanes 32 0x40100000)) := by decide +kernel
/-- SuspendedAccesses: a try that meets a fault elsewhere starts its time anew. -/
theorem witness_new_fault : goes (exec (.engineFaultRetry (.copy probeCore 0)) ({ stuck 6 with cores := (withJob { badSrc 0x10000000000 with susp := some (suspAt 5 true) } (rooted s0)).cores }))
    (fun t => (jobsOf t).map (fun j => j.susp.map (fun y => (y.since, y.va))) = [some (6, 0x10000000000)]) := by decide +kernel
/-- LaunchStarts: a context whose core table names no core. GroupsRestart: a stage that a stage of higher index still held precedes. -/
def twoHeld : State := fe.setLaunch 1 { probeLaunch with stages := probeLaunch.stages ++ probeLaunch.stages, sts := [.held, .held] }
theorem witness_no_core : stat 6 (exec (.launch (hdr 48 false false) 0x500000 0x600000 5) { launchS with ctxs := [(1, { ctxA with place := [] })] })
    ∧ goes (exec (.groupRestart 1 0) twoHeld) (fun t => t = twoHeld)
    ∧ goes (exec (.groupRestart 1 1) twoHeld) (fun t => (t.launch 1).map (fun l => l.sts) = some [.held, .running]) := by decide +kernel
/-- StagesComplete: the add at SIGADDR over a boundary holds the end of the launch, not that of its stage. -/
def meshA : Nat := 0xFFF * 2 ^ 44 + 0x100
def owing : State := busyDeck (idleS.setLaunch 1 { probeLaunch with sigaddr := .ofNat 64 meshA, sigval := 5 })
theorem witness_owed : stageDone owing 1 0 = true
    ∧ goes (exec (.stageComplete 1 0) owing) (fun t => (t.launch 1).map (fun l => (l.sts, l.ended)) = some ([.complete], false) && t.asyncs.length = 1)
    ∧ goes (exec (.stageComplete 1 0) owing) (fun t => goes (exec (.stageComplete 1 0) (free0 t)) (fun u => u.asyncs = []
        && Memory.readN u.mem (padLoc probeCore 0x100) 8 = 5)) := by decide +kernel
/-- SignalWords, DataPackets, RingEvents, AgentMemory, steps: accesses through the mesh window to a relocking deck are held, in order. -/
def waitMesh : State := cell 0x300030 8 meshA (waitQ 0 0)
def meshCopy : State := { marked with asyncs := [{ busyAsync with kind := .copyh (.ofNat 64 meshA) 0x610000 8 0x620000 }] }
def meshRing : State := ringS (fun r => { r with headaddr := .ofNat 64 meshA })
def meshWait : Agent := { waitA 5 with g := ((waitA 5).g.set 3 (.ofNat 64 meshA)), st := stWait, cur := some (.gwait 2 3 0 0) }
theorem witness_mesh_held : goes (exec (.waitsRecheck 0) (busyDeck waitMesh)) (fun t => qState t qa = 2 && t.crossing = [(queueSender qa, [0])])
    ∧ goes (exec (.waitsRecheck 0) waitMesh) (fun t => qState t qa = 1)
    ∧ goes (exec (.copyhComplete 0) (busyDeck meshCopy)) (fun t => t.asyncs.length = 1 && t.crossing = [(packetSender 21, [0])])
    ∧ goes (exec (.copyhComplete 0) meshCopy) (fun t => t.asyncs = [])
    ∧ goes (exec (.ringRecordWrite 1029) (busyDeck meshRing)) (fun t => t.crossing = [(ringSender 1029, [0])] && ringAt t (fun r => r.waiting.length = 1))
    ∧ goes (exec (.ringRecordWrite 1029) (ringS (fun r => { r with base := 0x40000000 }))) (fun t => t.rings = [])
    ∧ goes (exec (.gwaitRecheck 4) (busyDeck (agentS meshWait tk))) (fun t => t.crossing = [(agentSender 4, [0])] && agentIs (fun a => a.st = stWait) t)
    ∧ goes (exec (.stepPlan 0) (busyDeck stepS)) (fun t => t.crossing = [(plannerSender 0, [0])] && planIs (fun p => p.flight = none) t)
    ∧ goes (step (busyDeck { agentCode with agents := [(4, { ag with pc := .ofNat 64 meshA })] })) (fun t => t.crossing = [(agentSender 4, [0])]) := by decide +kernel
/-- DataPackets: a copy that faults at its second page, and one whose signal does. -/
theorem witness_copyh_faults : goes (exec (.copyhComplete 0) { marked with asyncs := [{ busyAsync with kind := .copyh 0x40000000 0x610000 8 0x620000 }] })
      (fun t => t.asyncs = [] && qsbGet t qa 80 2 = 10)
    ∧ goes (exec (.copyhComplete 0) { word7 with asyncs := [{ busyAsync with kind := .copyh 0x600000 0x610000 8 0x620004 }] })
      (fun t => t.asyncs = [] && qsbGet t qa 80 2 = 10 && Memory.readN t.mem (probeBase + 0x610000) 8 = 7) := by decide +kernel
/-- AgentPackets: EXPORT writes the image of an agent that runs, of one that waits and of one that has halted; it fails on a page that is
not there and leaves the agent; IMPORT reads it back. -/
def exported (a : Agent) : State := after (execAgentExport hq 7 0x700000 0x7000 0xA00000 (recAgent a))
def im (t : State) (o n : Nat) : Nat := Memory.readN t.mem (probeBase + 0xA00000 + o) n
theorem witness_export : (exported ag).agents = [] ∧ (exported ag).toks = [] ∧ (exported ag).asyncs = [] ∧ qRptr (exported ag) qa = 0x400030
    ∧ im (exported ag) 0 8 = 0x7000 ∧ im (exported ag) 8 1 = 3 ∧ im (exported ag) 72 8 = 7 ∧ im (exported ag) 84 4 = 6 ∧ im (exported ag) 896 8 = 3 + 2 * 2 ^ 32
    ∧ im (exported ag) 960 8 = 1 + 2 * 2 ^ 32 ∧ im (exported { ag with st := stHalted }) 8 1 = 4
    ∧ im (exported { ag with st := stWait, cur := some (.gwait 2 3 0 0) }) 0 8 = 0x7000
    ∧ goes (exec (.agentExport hq 7 0x700000 0x7000 0x40000000) (recAgent ag)) (fun t => qsbGet t qa 80 2 = 10 && agentIs (fun a => a.st = stSuspended) t) := by decide +kernel
theorem witness_import : goes (exec (.agentImport hq 7 0x700000 0x7000 0xA00000) { exported ag with threads := fe.threads }) (fun t =>
    (t.agent (t.nextId - 1)).any (fun (a : Agent) => a.pc = 0x7000 && a.g[7] = 7 && a.prio = 3 && a.ceil = 5 && a.ctxs[1] ≠ 0
      && (t.tok a.ctxs[1]).any (fun (u : TokCtx) => u.model = 3 && u.toks = [1, 2] && u.pending = 2))) := by decide +kernel
/-- ClocksAndHeat and RolesChange: the last initial step ends bring-up; the last tower asks for the initial frequencies; a table that
names a deck which leaves waits for room. -/
def lone : State := [1, 2, 3].foldl (fun s t => s.setTower t { s.tower t with part := 1 }) calm
theorem witness_bringup : goes (exec (.stepInstant 0) { deck0 (locking none) 1500 with bringup := true, initial := some [(0, false)] }) (fun t => !t.bringup && t.initial = some [])
    ∧ goes (exec (.roleEnumerate 0) (towerIn .flush 0 lone)) (fun t => (t.tower 0).st = .enumerate && t.ctxs = lone.ctxs
        && goes (exec (.roleRun 0) t) (fun u => u = t)) := by decide +kernel
/-- CheckpointRounds: an image whose context's number is in use takes another. -/
theorem witness_fresh : image1.meets calm = true ∧ (image1.fresh calm).ctxs.map (fun e => e.1) = [1 + calm.nextId]
    ∧ goes (exec (.ckptRestore 2) { kept calm with ctxs := calm.ctxs, regs := [(0x660, .ofNat 64 (probeBase + 0x700000))] })
        (fun t => (t.ctx 1).map (fun c => c.part) = some 0 && (t.ctx (1 + calm.nextId)).map (fun c => c.part) = some 2) := by decide +kernel

end Sys2Proof.Tests
end

section
/-!
PROOFS. What reset leaves (R29, R383, R409, R411, R413).
-/

namespace Sys2Proof.Proofs
open Sys2Proof Sys2Proof.Machine Sys2Proof.Claim

/-- Every tower of reset is as power-on leaves it. -/
theorem reset_tower {t : Nat} (h : t < 4) : State.reset.tower t = Tower.powerOn := by
  simp [State.tower, State.reset, Vector.nth, h]
theorem reset_deck {d : Nat} (h : d < 16) : State.reset.deck d = Deck.powerOn := by
  simp [State.deck, State.reset, Vector.nth, h]

/-- Before DRAM is trained no byte of the regions that reach it exists (R255). -/
theorem paOk_untrained {s : State} {pa : Nat} (h : s.trained = false) (hpa : pa / 2 ^ 48 ≤ 4) : paOk s pa = false := by
  unfold paOk
  simp only [h, if_pos hpa, Bool.false_and, ite_self]

/-- Settles O60, field by field of the state of reset. -/
theorem resetState : Obligations.ResetState := by
  refine ⟨Memory.wf_nil, rfl, rfl, fun t ht => ?_, fun d hd => ?_, rfl, rfl, fun pa hpa => ?_⟩
  · rw [reset_tower ht]
    exact ⟨rfl, rfl, rfl⟩
  · rw [reset_deck hd]
    have ht : d / 4 < 4 := by omega
    refine ⟨?_, rfl, rfl, fun _ => ⟨rfl, rfl⟩⟩
    have hc : ∀ i, i < 4 → ((1#4).getLsbD i = true ↔ i = 0) := by decide
    rw [deckCompute, reset_tower ht]
    exact hc _ (Nat.mod_lt _ (by decide))
  · exact paOk_untrained rfl hpa
end Sys2Proof.Proofs
end

section
/-!
PROOFS. Tasks: what arrives at a core, and the search of an idle strand (R70 to R72, R81 to R83).
-/

namespace Sys2Proof.Proofs
open Sys2Proof Sys2Proof.Machine Sys2Proof.Claim

/-! ## What reads of a state rest on -/

theorem core_of_cores {s t : State} (h : t.cores = s.cores) : t.core = s.core := by
  funext k
  rw [State.core, State.core, h]
theorem strand_of_strands {s t : State} (h : t.strands = s.strands) : t.strand = s.strand := by
  funext k
  rw [State.strand, State.strand, h]

/-! ## Arrivals -/

theorem takeNth_of_getElem? {α : Type} {l : List α} {n : Nat} {a : α} (h : l[n]? = some a) :
    takeNth l n = some (a, l.take n ++ l.drop (n + 1)) := by
  induction l generalizing n with
  | nil => simp at h
  | cons b r ih =>
    cases n with
    | zero => simpa [takeNth] using h
    | succ n => simp [takeNth, ih (by simpa using h)]

theorem arrive_open {s : State} {id src dest : Nat} {go : Res}
    (h : heldAt s (itemSender id) (crossDecks (s.phys src) (s.phys dest)) = []) : arrive s id src dest go = go := by
  simp only [arrive, h]
theorem arrive_held {s : State} {id src dest : Nat} {go : Res}
    (h : heldAt s (itemSender id) (crossDecks (s.phys src) (s.phys dest)) ≠ []) :
    arrive s id src dest go = .next (noteHeld s (itemSender id) (heldAt s (itemSender id) (crossDecks (s.phys src) (s.phys dest)))) := by
  unfold arrive
  split
  · exact absurd ‹_› h
  · rfl

/-- A relocking deck on the way is a boundary that holds (R415). -/
theorem heldAt_ne_nil_of_relockHeld {s : State} {a b : Nat} (me : Nat) (h : relockHeld s a b = true) :
    heldAt s me (crossDecks a b) ≠ [] := by
  simp only [relockHeld, Bool.and_eq_true, Bool.or_eq_true, decide_eq_true_eq] at h
  obtain ⟨hne, hr⟩ := h
  intro he
  simp only [heldAt, crossDecks, if_neg hne, List.filter_eq_nil_iff, Bool.or_eq_true, not_or] at he
  exact hr.elim (he _ (by simp)).1 (he _ (by simp)).1

theorem enqueueTask_room {s : State} {core : Nat} {t : Task} (ht : coreTakes s core = true) (hh : (s.core core).held = [])
    (hq : (s.core core).queue.length + reservedIn s core < 64) :
    enqueueTask s core t = s.setCore core { s.core core with queue := (s.core core).queue ++ [{ t with enq := s.reft.toNat }] } := by
  simp [enqueueTask, ht, hh, hq]
theorem enqueueTask_full {s : State} {core : Nat} {t : Task}
    (h : ¬ ((coreTakes s core = true ∧ (s.core core).queue.length + reservedIn s core < 64) ∧ (s.core core).held = [])) :
    enqueueTask s core t = s.setCore core { s.core core with held := (s.core core).held ++ [{ t with enq := s.reft.toNat }] } := by
  unfold enqueueTask
  refine if_neg fun hc => h ?_
  simp only [Bool.and_eq_true, List.isEmpty_iff, decide_eq_true_eq] at hc
  exact ⟨⟨hc.1.1, hc.2⟩, hc.1.2⟩

theorem enterHeld_one_room {s : State} {core : Nat} {t : Task} {r : List Task} (h : (s.core core).held = t :: r)
    (ht : coreTakes s core = true) (hq : (s.core core).queue.length + reservedIn s core < 64) :
    enterHeld s core 1 = s.setCore core { s.core core with
      queue := (s.core core).queue ++ [{ t with enq := s.reft.toNat }], held := r } := by
  simp [enterHeld, h, ht, hq]
theorem enterHeld_one_full {s : State} {core : Nat} {t : Task} {r : List Task} (h : (s.core core).held = t :: r)
    (hf : ¬ (coreTakes s core = true ∧ (s.core core).queue.length + reservedIn s core < 64)) : enterHeld s core 1 = s := by
  simp only [enterHeld, h, Bool.and_eq_true, decide_eq_true_eq, if_neg hf]

/-- Either event by which the oldest held task enters acts alike on a core that holds one. -/
theorem exec_enterHeld {s : State} {core : Nat} {t : Task} {r : List Task} {e : Instr} (h : (s.core core).held = t :: r)
    (he : e = .heldTaskEnter core ∨ e = .migrationArrive core ∧ t.fpc ≠ none) : exec e s = .next (enterHeld s core 1) := by
  rcases he with rfl | ⟨rfl, hf⟩
  · rfl
  · show execMigrationArrive core s = _
    simp only [execMigrationArrive, h, Option.isSome_iff_ne_none.mpr hf, if_true]

theorem applyReply_awaited {s : State} {r : RReply} (h : (s.strand (contCore r.ctx r.cont * 16 + contSlot r.cont)).call
    = some (.ofNat 13 r.cont.toNat)) :
    applyReply s r = s.setStrand (contCore r.ctx r.cont * 16 + contSlot r.cont)
      { (s.strand (contCore r.ctx r.cont * 16 + contSlot r.cont)).writeX (.ofNat 4 (r.cont.toNat / 2 ^ 13)) r.payload with
        call := none, wait := .none, pc := (s.strand (contCore r.ctx r.cont * 16 + contSlot r.cont)).pc + 4 } := by
  unfold applyReply
  exact if_pos h
theorem applyReply_stale {s : State} {r : RReply} (h : (s.strand (contCore r.ctx r.cont * 16 + contSlot r.cont)).call
    ≠ some (.ofNat 13 r.cont.toNat)) : applyReply s r = { s with stale := s.stale + 1 } := by
  unfold applyReply
  exact if_neg h

theorem taskArrivals : TaskArrivals := by
  intro s
  refine ⟨fun n f r hf hr => ?_, fun core t r hh e he => ?_, fun n f r hf hr => ?_⟩
  · subst hr
    have hx : exec (.callArrive n) s = execCallArrive n s := rfl
    simp only [hx, execCallArrive, takeNth_of_getElem? hf]
    refine ⟨heldAt_ne_nil_of_relockHeld _, arrive_held, fun hd => ?_⟩
    rw [arrive_open hd]
    exact ⟨fun h => congrArg _ (enqueueTask_room h.1.1 h.2 h.1.2), fun h => congrArg _ (enqueueTask_full h)⟩
  · rw [exec_enterHeld hh he]
    exact ⟨fun h => congrArg _ (enterHeld_one_room hh h.1 h.2), fun h => congrArg _ (enterHeld_one_full hh h)⟩
  · subst hr
    have hx : exec (.replyArrive n) s = execReplyArrive n s := rfl
    simp only [hx, execReplyArrive, takeNth_of_getElem? hf]
    refine ⟨heldAt_ne_nil_of_relockHeld _, arrive_held, fun hd => ?_⟩
    rw [arrive_open hd]
    exact ⟨fun h => congrArg _ (applyReply_awaited h), fun h => congrArg _ (applyReply_stale h)⟩

/-! ## The order of the search (R71) -/

/-- The distance of a core on the deck, with its number to break ties. -/
def searchDist (s : State) (me c : Nat) : Nat :=
  (((s.phys c % 16 : Int) - (s.phys me % 16 : Nat)).natAbs + ((s.phys c / 16 % 8 : Int) - (s.phys me / 16 % 8 : Nat)).natAbs) * 128
    + s.phys c % 128
/-- The other cores of a stage in the cluster of a core, and those elsewhere in its deck, as a search visits them. -/
def nearCores (s : State) (all : List Nat) (me : Nat) : List Nat :=
  (all.filter (fun c => c ≠ me)).filter (fun c => unitOf 2 (s.phys c) = unitOf 2 (s.phys me))
def farCores (s : State) (all : List Nat) (me : Nat) : List Nat :=
  (List.range 3200).flatMap (fun d => ((all.filter (fun c => c ≠ me)).filter
    (fun c => unitOf 3 (s.phys c) = unitOf 3 (s.phys me) && unitOf 2 (s.phys c) ≠ unitOf 2 (s.phys me))).filter (fun c => searchDist s me c = d))

theorem searchOrder_unbound {s : State} {core : Nat} (h : (s.core core).launch = none) : searchOrder s core = [core] := by
  simp only [searchOrder, h]
theorem searchOrder_bound {s : State} {core l : Nat} (h : (s.core core).launch = some l) :
    searchOrder s core = core :: (nearCores s (s.coresOf l (s.core core).stage) core ++ farCores s (s.coresOf l (s.core core).stage) core) := by
  simp only [searchOrder, h]
  rfl

theorem searchDist_lt (s : State) (me c : Nat) : searchDist s me c < 3200 := by
  unfold searchDist
  omega

/-- Cores of one cluster lie on one deck (R106). -/
theorem deckOf_eq_of_cluster {a b : Nat} (h : unitOf 2 a = unitOf 2 b) : deckOf a = deckOf b := by
  simp only [unitOf, if_true] at h
  omega

theorem mem_nearCores {s : State} {all : List Nat} {me c : Nat} :
    c ∈ nearCores s all me ↔ (c ∈ all ∧ c ≠ me) ∧ unitOf 2 (s.phys c) = unitOf 2 (s.phys me) := by
  simp only [nearCores, List.mem_filter, decide_eq_true_eq]
theorem mem_farCores {s : State} {all : List Nat} {me c : Nat} :
    c ∈ farCores s all me ↔ (c ∈ all ∧ c ≠ me) ∧ deckOf (s.phys c) = deckOf (s.phys me) ∧ unitOf 2 (s.phys c) ≠ unitOf 2 (s.phys me) := by
  have h3 : ∀ p, unitOf 3 p = deckOf p := fun p => rfl
  simp [farCores, searchDist_lt, h3, -List.filter_filter]

/-- The search visits exactly the other cores of the stage on its deck. -/
theorem mem_searchTail {s : State} {all : List Nat} {me c : Nat} :
    c ∈ nearCores s all me ++ farCores s all me ↔ c ∈ all ∧ c ≠ me ∧ deckOf (s.phys c) = deckOf (s.phys me) := by
  rw [List.mem_append, mem_nearCores, mem_farCores]
  constructor
  · rintro (⟨⟨ha, hn⟩, hu⟩ | ⟨⟨ha, hn⟩, hd, -⟩)
    · exact ⟨ha, hn, deckOf_eq_of_cluster hu⟩
    · exact ⟨ha, hn, hd⟩
  · rintro ⟨ha, hn, hd⟩
    by_cases hu : unitOf 2 (s.phys c) = unitOf 2 (s.phys me)
    · exact .inl ⟨⟨ha, hn⟩, hu⟩
    · exact .inr ⟨⟨ha, hn⟩, hd, hu⟩

/-- Elements gathered key by key come in order of their keys. -/
theorem pairwise_flatMap_by_key {α : Type} (l : List α) (f : α → Nat) (n : Nat) :
    ((List.range n).flatMap (fun d => l.filter (fun c => f c = d))).Pairwise (fun a b => f a ≤ f b) := by
  rw [List.pairwise_flatMap]
  refine ⟨fun d _ => ?_, List.pairwise_lt_range.imp fun hlt a ha b hb => ?_⟩
  · refine List.pairwise_of_forall_mem_list fun a ha b hb => ?_
    simp only [List.mem_filter, decide_eq_true_eq] at ha hb
    omega
  · simp only [List.mem_filter, decide_eq_true_eq] at ha hb
    omega

/-- Cores of the cluster come first, the others in order of distance. -/
theorem searchTail_pairwise (s : State) (all : List Nat) (me : Nat) :
    (nearCores s all me ++ farCores s all me).Pairwise (fun a b =>
      unitOf 2 (s.phys a) = unitOf 2 (s.phys me) ∨ (¬ unitOf 2 (s.phys b) = unitOf 2 (s.phys me) ∧ searchDist s me a ≤ searchDist s me b)) := by
  rw [List.pairwise_append]
  refine ⟨List.pairwise_of_forall_mem_list fun a ha b _ => .inl (mem_nearCores.mp ha).2, ?_, fun a ha b _ => .inl (mem_nearCores.mp ha).2⟩
  exact (pairwise_flatMap_by_key _ (searchDist s me) 3200).imp_of_mem fun _ hb h => .inr ⟨(mem_farCores.mp hb).2.2, h⟩

theorem xOf_coreKey {ctx x y : Nat} (hx : x < 64) : xOf (coreKey ctx x y) = x := by unfold xOf coreKey; omega
theorem yOf_coreKey {ctx x y : Nat} (hx : x < 64) (hy : y < 32) : yOf (coreKey ctx x y) = y := by unfold yOf coreKey; omega

/-- The cores of a stage stand in order of x + y × W (R74). -/
theorem stageCores_pairwise {ctx W : Nat} {d : StageDesc} (hx : d.x + d.w ≤ min 64 W) (hy : d.y + d.h ≤ 32) :
    (stageCores ctx d).Pairwise (fun a b => xOf a + yOf a * W < xOf b + yOf b * W) := by
  have key : ∀ i j, i < d.w → j < d.h →
      xOf (coreKey ctx (d.x + i) (d.y + j)) + yOf (coreKey ctx (d.x + i) (d.y + j)) * W = d.x + i + (d.y + j) * W := fun i j hi hj => by
    rw [xOf_coreKey (by omega), yOf_coreKey (by omega) (by omega)]
  unfold stageCores
  rw [List.pairwise_flatMap]
  refine ⟨fun j hj => ?_, List.pairwise_lt_range.imp_of_mem fun {j j'} hj hj' hlt a ha b hb => ?_⟩
  · rw [List.pairwise_map]
    refine List.pairwise_lt_range.imp_of_mem fun {i i'} hi hi' hlt => ?_
    rw [List.mem_range] at hi hi' hj
    rw [key _ _ hi hj, key _ _ hi' hj]
    omega
  · simp only [List.mem_map, List.mem_range] at ha hb hj hj'
    obtain ⟨i, hi, rfl⟩ := ha
    obtain ⟨i', hi', rfl⟩ := hb
    rw [key _ _ hi hj, key _ _ hi' hj']
    have hm : (d.y + j + 1) * W ≤ (d.y + j') * W := Nat.mul_le_mul_right _ (by omega)
    rw [Nat.add_one_mul] at hm
    omega

theorem coresOf_eq {s : State} {l st : Nat} {la : Launch} {d : StageDesc} (hl : s.launch l = some la) (hd : la.stages[st]? = some d) :
    s.coresOf l st = stageCores la.ctx d := by
  simp only [State.coresOf, hl, hd]

theorem filter_near_searchTail (s : State) (all : List Nat) (me : Nat) :
    ((nearCores s all me ++ farCores s all me).filter (fun c => unitOf 2 (s.phys c) = unitOf 2 (s.phys me))).Sublist all := by
  have hf : (farCores s all me).filter (fun c => unitOf 2 (s.phys c) = unitOf 2 (s.phys me)) = [] :=
    List.filter_eq_nil_iff.mpr fun c hc => by simpa using (mem_farCores.mp hc).2.2
  rw [List.filter_append, hf, List.append_nil]
  exact List.filter_sublist.trans (List.filter_sublist.trans List.filter_sublist)

/-! ## Taking a task (R72, R81, R390) -/

/-- The strand as a task starts on it. -/
def startedOn (st : Strand) (t : Task) (now : Nat) : Strand :=
  { st with pc := t.entry, rgn := t.entry, x := Vector.upd t.xs 0 0, taskid := t.id, fpc := t.fpc.getD st.fpc
            tActive := false, idle := false, wait := .none, taskE := t.enq, taskD := now }

theorem writeSave_spec (s : State) (k : Nat) : ∃ soft perf,
    writeSave s k = { s with mem := Memory.writeN s.mem (saveLoc k) 128 (saveValue (s.strand k)), soft := soft, perf := perf } := by
  obtain ⟨soft, perf, hc⟩ := correctAt_spec s true (saveLoc k) 128
  exact ⟨soft, perf, by rw [writeSave, hc]; rfl⟩

/-- What the taking of a task changes: the strand, its save slot, errors there and counters. -/
theorem takeTask_spec (s : State) (k : Nat) (t : Task) : ∃ soft perf, takeTask s k t =
    { s.setStrand k (startedOn (s.strand k) t s.reft.toNat) with
      mem := Memory.writeN s.mem (saveLoc k) 128 (saveValue (startedOn (s.strand k) t s.reft.toNat)), soft := soft, perf := perf } := by
  obtain ⟨soft, perf, hw⟩ := writeSave_spec (s.setStrand k (startedOn (s.strand k) t s.reft.toNat)) k
  rw [State.strand_setStrand] at hw
  have ht : takeTask s k t = (State.count (writeSave (s.setStrand k (startedOn (s.strand k) t s.reft.toNat)) k) (coreOf k) 17
    (s.reft.toNat - (s.strand k).idleAt)).count (coreOf k) 16 (s.reft.toNat - t.enq) := rfl
  rw [ht, count_spec, count_spec, hw]
  exact ⟨_, _, rfl⟩

theorem takeTask_cores (s : State) (k : Nat) (t : Task) : (takeTask s k t).cores = s.cores := by
  obtain ⟨soft, perf, h⟩ := takeTask_spec s k t
  rw [h, State.setStrand_cores]
theorem takeTask_strand (s : State) (k : Nat) (t : Task) : (takeTask s k t).strand k = startedOn (s.strand k) t s.reft.toNat := by
  obtain ⟨soft, perf, h⟩ := takeTask_spec s k t
  have hs : (takeTask s k t).strands = (s.setStrand k (startedOn (s.strand k) t s.reft.toNat)).strands := by rw [h]
  rw [strand_of_strands hs, State.strand_setStrand]
theorem takeTask_mem (s : State) (k : Nat) (t : Task) :
    (takeTask s k t).mem = Memory.writeN s.mem (saveLoc k) 128 (saveValue (startedOn (s.strand k) t s.reft.toNat)) := by
  obtain ⟨soft, perf, h⟩ := takeTask_spec s k t
  rw [h]

theorem saveSum_lt (f : Nat → Word) (n : Nat) : (List.range n).foldl (fun a i => a + (f i).toNat * 2 ^ (64 * i)) 0 < 2 ^ (64 * n) := by
  induction n with
  | zero => simp
  | succ n ih =>
    rw [List.range_succ, List.foldl_append]
    have hf : (f n).toNat + 1 ≤ 2 ^ 64 := (f n).isLt
    have hm : ((f n).toNat + 1) * 2 ^ (64 * n) ≤ 2 ^ 64 * 2 ^ (64 * n) := Nat.mul_le_mul_right _ hf
    rw [Nat.add_one_mul, ← Nat.pow_add] at hm
    have he : 64 * (n + 1) = 64 + 64 * n := by omega
    simp only [List.foldl_cons, List.foldl_nil]
    rw [he]
    omega

/-- TASKID stands at byte 120 of the save slot (R87). -/
theorem saveValue_div (t : Strand) : saveValue t / 256 ^ 120 = t.taskid.toNat := by
  have hlt := saveSum_lt (fun i => Vector.nth (n := 15) t.x (i + 1)) 15
  unfold saveValue
  have hp : (256 : Nat) ^ 120 = 2 ^ (64 * 15) := by rw [show (256 : Nat) = 2 ^ 8 from rfl, ← Nat.pow_mul]
  rw [hp, Nat.add_mul_div_right _ _ (Nat.two_pow_pos (64 * 15)), Nat.div_eq_of_lt hlt, Nat.zero_add]

theorem readN_add (m : List Host.Cell) (n k : Nat) : ∀ a, Memory.readN m a (n + k) = Memory.readN m a n + 256 ^ n * Memory.readN m (a + n) k := by
  induction n with
  | zero => intro a; simp [Memory.readN]
  | succ n ih =>
    intro a
    rw [Nat.add_right_comm]
    simp only [Memory.readN]
    rw [ih (a + 1), Nat.pow_succ, Nat.add_right_comm a 1 n, Nat.add_assoc a n 1]
    ring

/-- The last bytes of what was written are its upper digits. -/
theorem readN_writeN_upper (m : List Host.Cell) (a n k v : Nat) :
    Memory.readN (Memory.writeN m a (n + k) v) (a + n) k = v / 256 ^ n % 256 ^ k := by
  have h := Memory.readN_writeN_same (n + k) m a v
  rw [readN_add, Nat.pow_add, Nat.mod_mul] at h
  have hlt := Memory.readN_lt (Memory.writeN m a (n + k) v) n a
  have hpos : 0 < 256 ^ n := Nat.pow_pos (by decide)
  have hd := congrArg (· / 256 ^ n) h
  simpa [Nat.add_mul_div_left _ _ hpos, Nat.div_eq_of_lt hlt, Nat.div_eq_of_lt (Nat.mod_lt v hpos)] using hd

theorem nth_upd_other {α : Type} {n : Nat} (v : Vector α (n + 1)) (i r : Nat) (a : α) (hr : r < n + 1) (h : r ≠ i) :
    Vector.nth (Vector.upd v i a) r = Vector.nth v r := by
  simp [Vector.nth, Vector.upd, hr, Ne.symm h]

/-! ## The search -/

/-- A search that meets only empty queues goes on with the rest, and counts. -/
theorem searchTask_append {k : Nat} (pre rest : List Nat) : ∀ s : State, (∀ j ∈ pre, (s.core j).queue = []) →
    ∃ s', s' = { s with perf := s'.perf } ∧ searchTask s k (pre ++ rest) = searchTask s' k rest := by
  induction pre with
  | nil => exact fun s _ => ⟨s, rfl, rfl⟩
  | cons c pre ih =>
    intro s h
    have hc : (s.core c).queue = [] := h c (by simp)
    have hs : searchTask s k (c :: pre ++ rest) = searchTask (s.count (coreOf k) 19 1) k (pre ++ rest) := by
      rw [List.cons_append, searchTask, hc]
    have hcore : ∀ j, (s.count (coreOf k) 19 1).core j = s.core j := fun j => by rw [count_spec]; rfl
    obtain ⟨s', h1, h2⟩ := ih (s.count (coreOf k) 19 1) fun j hj => by rw [hcore]; exact h j (List.mem_cons_of_mem _ hj)
    rw [count_spec] at h1
    exact ⟨s', h1, hs.trans h2⟩

theorem searchTask_found {s : State} {k c : Nat} {t : Task} {q : List Task} (post : List Nat) (h : (s.core c).queue = t :: q) :
    searchTask s k (c :: post) = takeTask (s.setCore c { s.core c with queue := q }) k t := by
  rw [searchTask, h]

/-- An idle strand that may search does so in its order. -/
theorem exec_searchRetry {s : State} {k : Nat} (ha : (s.strand k).active = true) (hi : (s.strand k).idle = true)
    (hc : coreActs s (coreOf k) = true) (ht : coreTakes s (coreOf k) = true) :
    exec (.searchRetry k) s = .next (searchTask s k (searchOrder s (coreOf k))) := by
  show execSearchRetry k s = _
  simp only [execSearchRetry, ha, hi, hc, Bool.and_self, if_true, seekTask, ht]

theorem idleStrandsTakeTasks : IdleStrandsTakeTasks := by
  intro s k ha hi hc ht
  rw [exec_searchRetry ha hi hc ht]
  refine ⟨?_, fun pre c post t q ho hpre hq => ?_, fun he => ?_⟩
  · cases hl : (s.core (coreOf k)).launch with
    | none => exact ⟨[], searchOrder_unbound hl, fun l h => (nomatch h), .nil, fun l la d W h => (nomatch h)⟩
    | some l =>
      refine ⟨_, searchOrder_bound hl, fun l' h c => ?_, searchTail_pairwise .., fun l' la d W h hla hd hx hy => ?_⟩
      · cases h
        exact mem_searchTail
      · cases h
        have hsub := filter_near_searchTail s (s.coresOf l (s.core (coreOf k)).stage) (coreOf k)
        exact (coresOf_eq hla hd ▸ stageCores_pairwise hx hy).sublist hsub
  · obtain ⟨s', hp, hs⟩ := searchTask_append pre (c :: post) s hpre
    have hcore : s'.core = s.core := by rw [hp]; rfl
    have hstrand : s'.strand = s.strand := by rw [hp]; rfl
    have hmem : s'.mem = s.mem := by rw [hp]
    rw [ho, hs, searchTask_found post (hcore ▸ hq)]
    refine ⟨_, rfl, ?_⟩
    rw [takeTask_strand, takeTask_mem, core_of_cores (takeTask_cores ..), strand_of_strands (State.setCore_strands ..), hstrand,
      State.setCore_mem, hmem]
    refine ⟨by rw [State.core_setCore], fun j hj => by rw [State.core_setCore_other _ _ _ _ hj, hcore], rfl, rfl, rfl, rfl, rfl, rfl,
      fun r h1 h16 => nth_upd_other _ _ _ _ h16 (by omega), ?_, fun b hb => Memory.read_writeN_other _ _ _ _ _ hb⟩
    rw [readN_writeN_upper _ _ 120 8, saveValue_div]
    exact Nat.mod_eq_of_lt (lt_of_lt_of_le t.id.isLt (by decide))
  · obtain ⟨s', hp, hs⟩ := searchTask_append (k := k) (searchOrder s (coreOf k)) [] s he
    rw [List.append_nil] at hs
    exact ⟨_, rfl, hs ▸ hp⟩

/-- Settles O17: what arrives, and what an idle strand takes. -/
theorem tasksMove : Obligations.TasksMove := ⟨taskArrivals, idleStrandsTakeTasks⟩

end Sys2Proof.Proofs
end

section
/-!
PROOFS. What the front end's completions, frequency requests and discards leave unchanged: each `sans` forgets the fields that
a family of operations writes, so that one equation states that all the others stand.
-/

namespace Sys2Proof.Proofs
open Sys2Proof Sys2Proof.Machine Sys2Proof.Claim

/-! ## Decks and towers -/

theorem nth_upd_same {α : Type} {n : Nat} (v : Vector α (n + 1)) (i : Nat) (a : α) (h : i < n + 1) : Vector.nth (Vector.upd v i a) i = a := by
  simp [Vector.nth, Vector.upd, h]

theorem deck_setDeck_same (s : State) {d : Nat} (x : Deck) (h : d < 16) : (s.setDeck d x).deck d = x := nth_upd_same _ _ _ h
theorem deck_setDeck_other (s : State) {d e : Nat} (x : Deck) (he : e < 16) (h : e ≠ d) : (s.setDeck d x).deck e = s.deck e :=
  nth_upd_other _ _ _ _ he h
theorem tower_setTower_same (s : State) {t : Nat} (x : Tower) (h : t < 4) : (s.setTower t x).tower t = x := nth_upd_same _ _ _ h
theorem tower_setTower_other (s : State) {t u : Nat} (x : Tower) (hu : u < 4) (h : u ≠ t) : (s.setTower t x).tower u = s.tower u :=
  nth_upd_other _ _ _ _ hu h

theorem deck_of_decks {s t : State} (h : t.decks = s.decks) : t.deck = s.deck := by
  funext d
  rw [State.deck, State.deck, h]
theorem tower_of_towers {s t : State} (h : t.towers = s.towers) : t.tower = s.tower := by
  funext d
  rw [State.tower, State.tower, h]
theorem deckCompute_of_towers {s t : State} (h : t.towers = s.towers) : deckCompute t = deckCompute s := by
  funext d
  rw [deckCompute, deckCompute, tower_of_towers h]

/-! ## Folds -/

/-- What every step of a fold keeps, the fold keeps. -/
theorem foldl_keeps {σ α β : Type} (view : σ → β) (f : σ → α → σ) (h : ∀ s a, view (f s a) = view s) (l : List α) (s : σ) :
    view (l.foldl f s) = view s := by
  induction l generalizing s with
  | nil => rfl
  | cons a r ih => rw [List.foldl_cons, ih, h]

/-! ## Writes of the front end (R364, R373, R380, R381) -/

/-- A state without what the front end writes as packets start and complete: memory, the state of its queues and rings. -/
def sansPacket (s : State) : State :=
  { s with mem := [], poison := [], soft := [], perf := [], halts := [], moves := [], threads := [], rings := [], reports := [] }

section
variable {s t : State} (h : sansPacket t = sansPacket s)
include h
theorem packet_towers : t.towers = s.towers := (congrArg State.towers h :)
theorem packet_decks : t.decks = s.decks := (congrArg State.decks h :)
theorem packet_ctxs : t.ctxs = s.ctxs := (congrArg State.ctxs h :)
theorem packet_cores : t.cores = s.cores := (congrArg State.cores h :)
theorem packet_strands : t.strands = s.strands := (congrArg State.strands h :)
theorem packet_launches : t.launches = s.launches := (congrArg State.launches h :)
theorem packet_links : t.links = s.links := (congrArg State.links h :)
theorem packet_decrs : t.decrs = s.decrs := (congrArg State.decrs h :)
theorem packet_crossing : t.crossing = s.crossing := (congrArg State.crossing h :)
theorem packet_agents : t.agents = s.agents := (congrArg State.agents h :)
theorem packet_asyncs : t.asyncs = s.asyncs := (congrArg State.asyncs h :)
end

theorem qsbPut_packet (s : State) (q off n v : Nat) : sansPacket (qsbPut s q off n v) = sansPacket s := rfl

theorem haltQueue_packet (s : State) (q pkt : Nat) : sansPacket (haltQueue s q pkt) = sansPacket s := by
  unfold haltQueue
  dsimp only
  split
  · rfl
  split
  · rfl
  split
  · split
    · split
      · rfl
      split <;> rfl
    · split <;> rfl
  · rfl

theorem ringPost_packet (s : State) (key : Nat) (r : BitVec 256) : sansPacket (ringPost s key r) = sansPacket s := by
  unfold ringPost
  split
  · rfl
  split
  · rfl
  · split <;> rfl

theorem completePacket_packet (s : State) (q : Nat) (pkt : Word) (h : Hdr) (status : Nat) (cov : Bool) (w2 w3 : Nat) :
    sansPacket (completePacket s q pkt h status cov w2 w3) = sansPacket s := by
  have h1 : sansPacket (if status = 0 then s else qsbPut s q 80 2 status) = sansPacket s := by split <;> rfl
  have h2 : sansPacket (if status ≠ 0 && !h.cont then haltQueue (if status = 0 then s else qsbPut s q 80 2 status) q pkt.toNat
      else if status = 0 then s else qsbPut s q 80 2 status) = sansPacket s := by
    split
    · rw [haltQueue_packet, h1]
    · exact h1
  unfold completePacket
  dsimp only
  split
  · rw [ringPost_packet]
    exact h2
  · exact h2

theorem correctAt_packet (s : State) (write : Bool) (loc n : Nat) : sansPacket (correctAt s write loc n) = sansPacket s := by
  obtain ⟨soft, perf, h⟩ := correctAt_spec s write loc n
  rw [h]
  rfl
theorem writeLocs_packet (l : List (Nat × Nat)) : ∀ (s : State) (v : Nat), sansPacket (writeLocs s l v) = sansPacket s := by
  induction l with
  | nil => exact fun _ _ => rfl
  | cons p r ih =>
    obtain ⟨loc, n⟩ := p
    exact fun s v => (ih _ _).trans (correctAt_packet s true loc n)
theorem feWrite_packet {s t : State} {who : Who} {va n v : Nat} (h : feWrite s who va n v = .ok t) : sansPacket t = sansPacket s := by
  unfold feWrite at h
  split at h
  · exact nomatch h
  · cases h
    exact writeLocs_packet ..

theorem countPacket_packet (s : State) (q : Nat) (r : Bool) : sansPacket (countPacket s q r) = sansPacket s := by
  unfold countPacket
  split <;> rfl
theorem advancePast_packet (s : State) (q target : Nat) : sansPacket (advancePast s q target) = sansPacket s := by
  have h1 : sansPacket (match feWrite s (whoOf (qCtx s q)) (qRptr s q) 1 0 with | .ok x => x | .error _ => s) = sansPacket s := by
    split
    · exact feWrite_packet ‹_›
    · rfl
  rw [advancePast, countPacket_packet]
  exact (qsbPut_packet ..).trans h1

/-- A state with one more asynchronous packet, recorded under the next number. -/
def withAsync (s : State) (q : Nat) (h : Hdr) (kind : AsyncKind) : State :=
  { s with asyncs := s.asyncs ++ [{ id := s.nextId, qsb := q, pkt := .ofNat 64 (qRptr s q), hdr := h, kind := kind }]
           nextId := s.nextId + 1 }
theorem startAsync_packet (s : State) (q : Nat) (h : Hdr) (kind : AsyncKind) :
    sansPacket (startAsync s q h kind) = sansPacket (withAsync s q h kind) := advancePast_packet ..

/-- A state without these and the asynchronous packets. -/
def sansFront (s : State) : State := { sansPacket s with asyncs := [] }

theorem front_of_packet {s t : State} (h : sansPacket t = sansPacket s) : sansFront t = sansFront s :=
  congrArg (fun u : State => { u with asyncs := [] }) h

theorem endAsync_front (s : State) (a : Async) (status w3 : Nat) : sansFront (endAsync s a status w3) = sansFront s := by
  rw [endAsync, front_of_packet (completePacket_packet ..)]
  rfl

/-! ## Frequency requests (R412, R416) -/

theorem settleFreqOne_front (f : Nat × Bool → Option (Nat × Bool)) (s : State) (a : Async) :
    sansFront (settleFreqOne f s a) = sansFront s := by
  unfold settleFreqOne
  split
  · dsimp only
    split
    · rfl
    split
    · exact endAsync_front ..
    · rfl
  · rfl

theorem settleFreqAll_front (f : Nat × Bool → Option (Nat × Bool)) (l : List Async) : ∀ s, sansFront (settleFreqAll f s l) = sansFront s := by
  induction l with
  | nil => exact fun _ => rfl
  | cons a r ih => exact fun s => (ih _).trans (settleFreqOne_front f s a)

/-- A state without what frequency requests write outside the decks: completions, and what bring-up waits for. -/
def sansFreq (s : State) : State := { sansFront s with initial := none, bringup := false }

theorem freq_of_front {s t : State} (h : sansFront t = sansFront s) : sansFreq t = sansFreq s :=
  congrArg (fun u : State => { u with initial := none, bringup := false }) h

theorem settleFreq_freq (s : State) (d : Nat) (w : Bool) : sansFreq (settleFreq s d w) = sansFreq s := by
  rw [settleFreq, freq_of_front (settleFreqAll_front ..)]
  rfl
theorem startWaiting_freq (s : State) (d : Nat) : sansFreq (startWaiting s d) = sansFreq s := by
  rw [startWaiting, freq_of_front (settleFreqAll_front ..)]
  rfl

/-- A deck that a request has reached: none starts where it asks for the frequency that the deck has. -/
def requested (x : Deck) (f : Byte) (now : Nat) : Deck :=
  if x.relock then { x with waiting := some f }
  else if f = x.cur then x
  else { x with relock := true, target := f, relockEnd := now + relockTicks, waiting := none }

/-- A request changes its deck as `requested` says, and nothing else but completions and what bring-up waits for. -/
theorem requestFreq_freq (s : State) (a : Option Nat) {d : Nat} (f : Byte) (h : d < 16) :
    sansFreq (requestFreq s a d f) = sansFreq (s.setDeck d (requested (s.deck d) f s.reft.toNat)) := by
  have hs : s.setDeck d (s.deck d) = s := by
    have hv : Vector.upd s.decks d (Vector.nth (n := 15) s.decks d) = s.decks := by
      ext i hi
      simp only [Vector.upd, Vector.nth, Vector.getElem_setIfInBounds]
      split
      · subst d
        rfl
      · rfl
    exact congrArg (fun v => { s with decks := v }) hv
  unfold requestFreq requested
  dsimp only
  split
  · split
    · have hf := settleFreq_freq s d true
      exact congrArg (fun u : State => u.setDeck d { s.deck d with waiting := some f }) hf
    · rfl
  split
  · rw [hs]
  · rfl

theorem decks_of_freq {s t : State} (h : sansFreq t = sansFreq s) : t.deck = s.deck := 
  deck_of_decks (congrArg State.decks h : (sansFreq t).decks = (sansFreq s).decks)

theorem requestFreq_deck_same (s : State) (a : Option Nat) {d : Nat} (f : Byte) (h : d < 16) :
    (requestFreq s a d f).deck d = requested (s.deck d) f s.reft.toNat := by
  rw [decks_of_freq (requestFreq_freq s a f h), deck_setDeck_same _ _ h]
theorem requestFreq_deck_other (s : State) (a : Option Nat) {d e : Nat} (f : Byte) (h : d < 16) (he : e < 16) (hne : e ≠ d) :
    (requestFreq s a d f).deck e = s.deck e := by
  rw [decks_of_freq (requestFreq_freq s a f h), deck_setDeck_other _ _ he hne]

/-- A state without what frequency requests write. -/
def sansDecks (s : State) : State := { sansFreq s with decks := Vector.replicate 16 Deck.powerOn }

theorem decks_of_sansFreq {s t : State} (h : sansFreq t = sansFreq s) : sansDecks t = sansDecks s :=
  congrArg (fun u : State => { u with decks := Vector.replicate 16 Deck.powerOn }) h

theorem setDeck_sans (s : State) (d : Nat) (x : Deck) : sansDecks (s.setDeck d x) = sansDecks s := rfl
theorem requestFreq_sans (s : State) (a : Option Nat) {d : Nat} (f : Byte) (h : d < 16) : sansDecks (requestFreq s a d f) = sansDecks s :=
  (decks_of_sansFreq (requestFreq_freq s a f h)).trans (setDeck_sans ..)

theorem plinthRequest_sans (f : Byte) (s : State) {d : Nat} (h : d < 16) : sansDecks (plinthRequest f s d) = sansDecks s := by
  unfold plinthRequest
  split
  · exact requestFreq_sans s none f h
  · rfl
theorem plinthRequest_deck_same (f : Byte) (s : State) {d : Nat} (h : d < 16) : (plinthRequest f s d).deck d =
    if (s.tower (d / 4)).st = .run then requested (s.deck d) f s.reft.toNat else { s.deck d with pending := some f } := by
  unfold plinthRequest
  split
  · exact requestFreq_deck_same s none f h
  · exact deck_setDeck_same _ _ h
theorem plinthRequest_deck_other (f : Byte) (s : State) {d e : Nat} (h : d < 16) (he : e < 16) (hne : e ≠ d) :
    (plinthRequest f s d).deck e = s.deck e := by
  unfold plinthRequest
  split
  · exact requestFreq_deck_other s none f h he hne
  · exact deck_setDeck_other _ _ he hne

end Sys2Proof.Proofs
end

section
/-!
PROOFS. Step instants, the power limit, thermal events and passing time (R29 to R31, R409 to R413, R416).
-/

namespace Sys2Proof.Proofs
open Sys2Proof Sys2Proof.Machine Sys2Proof.Claim

/-! ## Step instants (R412) -/

theorem execStepInstant_notDue {s : State} {deck : BitVec 4} (h : (s.deck deck.toNat).relock = false ∨ s.reft.toNat < (s.deck deck.toNat).relockEnd) :
    exec (.stepInstant deck) s = .next s := by
  have hx : exec (.stepInstant deck) s = execStepInstant deck s := rfl
  rw [hx, execStepInstant]
  refine if_neg fun hc => ?_
  rw [Bool.and_eq_true, decide_eq_true_eq] at hc
  rcases h with h | h
  · rw [h] at hc
    exact Bool.false_ne_true hc.1
  · omega

/-- The state once a deck's running step has been settled. -/
def steppedState (s : State) (d : Nat) : State := settleFreq (s.setDeck d ((s.deck d).stepped s.reft)) d false

theorem execStepInstant_due {s : State} {deck : BitVec 4} (hr : (s.deck deck.toNat).relock = true)
    (hd : (s.deck deck.toNat).relockEnd ≤ s.reft.toNat) : exec (.stepInstant deck) s =
    .next (match (s.deck deck.toNat).waiting with
      | some w => if w = (s.deck deck.toNat).target then settleFreq (steppedState s deck.toNat) deck.toNat true
                  else beginRelock (startWaiting (steppedState s deck.toNat) deck.toNat) deck.toNat w
      | none => steppedState s deck.toNat) := by
  have hx : exec (.stepInstant deck) s = execStepInstant deck s := rfl
  rw [hx, execStepInstant]
  refine if_pos ?_
  rw [hr, Bool.true_and, decide_eq_true_eq]
  exact hd

theorem steppedState_freq (s : State) (d : Nat) : sansFreq (steppedState s d) = sansFreq (s.setDeck d ((s.deck d).stepped s.reft)) :=
  settleFreq_freq ..
theorem steppedState_deck_same (s : State) {d : Nat} (h : d < 16) : (steppedState s d).deck d = (s.deck d).stepped s.reft := by
  rw [decks_of_freq (steppedState_freq s d), deck_setDeck_same _ _ h]
theorem steppedState_deck_other (s : State) {d e : Nat} (he : e < 16) (hne : e ≠ d) : (steppedState s d).deck e = s.deck e := by
  rw [decks_of_freq (steppedState_freq s d), deck_setDeck_other _ _ he hne]

theorem settleFreqAll_initial (f : Nat × Bool → Option (Nat × Bool)) (s : State) (l : List Async) :
    (settleFreqAll f s l).initial = s.initial ∧ (settleFreqAll f s l).bringup = s.bringup :=
  ⟨(congrArg State.initial (settleFreqAll_front f l s) : _), (congrArg State.bringup (settleFreqAll_front f l s) : _)⟩

/-- The last initial step ends bring-up (R29). -/
theorem steppedState_ends_bringup {s : State} {d : Nat} (h : s.initial = some [(d, false)]) :
    (steppedState s d).initial = some [] ∧ (steppedState s d).bringup = false := by
  have hi : (s.setDeck d ((s.deck d).stepped s.reft)).initial = some [(d, false)] := h
  unfold steppedState settleFreq
  rw [(settleFreqAll_initial ..).1, (settleFreqAll_initial ..).2]
  have hk : settleInitial (fun p => if p = (d, false) then none else some p) (s.setDeck d ((s.deck d).stepped s.reft))
      = { s.setDeck d ((s.deck d).stepped s.reft) with initial := some [], bringup := false } := by
    simp only [settleInitial, hi, Option.map_some, List.filterMap_cons, if_true, List.filterMap_nil]
    simp
  rw [hk]
  exact ⟨rfl, rfl⟩

/-! ## The power limit and thermal events (R30, R31) -/

section Folds
variable {σ β : Type} {val : σ → Nat → β} {f : σ → Nat → σ} {P : σ → Prop}

/-- Where every step of a fold over places changes what is at its own place alone, a place not among them stays as it is. -/
theorem foldl_place_other (l : List Nat) (hP : ∀ s, ∀ i ∈ l, P s → P (f s i)) {j : Nat}
    (hf : ∀ s, ∀ i ∈ l, P s → i ≠ j → val (f s i) j = val s j) (hj : j ∉ l) (s : σ) (hs : P s) : val (l.foldl f s) j = val s j := by
  induction l generalizing s with
  | nil => rfl
  | cons a r ih =>
    rw [List.mem_cons, not_or] at hj
    rw [List.foldl_cons, ih (fun s i hi => hP s i (List.mem_cons_of_mem _ hi)) (fun s i hi => hf s i (List.mem_cons_of_mem _ hi)) hj.2 _
      (hP s a (by simp) hs)]
    exact hf s a (by simp) hs (Ne.symm hj.1)

/-- A place among them, which are distinct, changes as its step does it. -/
theorem foldl_place_same (l : List Nat) (hl : l.Nodup) (hP : ∀ s, ∀ i ∈ l, P s → P (f s i)) {j : Nat} {g : β → β}
    (hf : ∀ s, ∀ i ∈ l, P s → i ≠ j → val (f s i) j = val s j) (hg : ∀ s, P s → val (f s j) j = g (val s j)) (hj : j ∈ l) (s : σ)
    (hs : P s) : val (l.foldl f s) j = g (val s j) := by
  induction l generalizing s with
  | nil => simp at hj
  | cons a r ih =>
    rw [List.nodup_cons] at hl
    have hP' := fun s i (hi : i ∈ r) => hP s i (List.mem_cons_of_mem _ hi)
    have hf' := fun s i (hi : i ∈ r) => hf s i (List.mem_cons_of_mem _ hi)
    have ha := hP s a (by simp) hs
    rw [List.foldl_cons]
    by_cases hja : a = j
    · subst a
      rw [foldl_place_other r hP' hf' hl.1 _ ha, hg s hs]
    · rw [ih hl.2 hP' hf' ((List.mem_cons.mp hj).resolve_left (Ne.symm hja)) _ ha, hf s a (by simp) hs hja]

end Folds

/-- States that differ in frequencies, what waits for them, and completions alone. -/
def SameBoard (s t : State) : Prop := sansDecks t = sansDecks s

theorem SameBoard.towers {s t : State} (h : SameBoard s t) : t.towers = s.towers :=
  (congrArg State.towers h : (sansDecks t).towers = (sansDecks s).towers)
theorem SameBoard.reft {s t : State} (h : SameBoard s t) : t.reft = s.reft :=
  (congrArg State.reft h : (sansDecks t).reft = (sansDecks s).reft)
theorem SameBoard.thermal {s t : State} (h : SameBoard s t) : t.thermal = s.thermal :=
  (congrArg State.thermal h : (sansDecks t).thermal = (sansDecks s).thermal)

theorem requested_idle {x : Deck} {f : Byte} {now : Nat} (hr : x.relock = false) (hw : x.waiting = none) (hf : f ≠ x.cur) :
    requested x f now = { x with relock := true, target := f, relockEnd := now + 1500 } := by
  unfold requested
  rw [hr, if_neg Bool.false_ne_true, if_neg hf, ← hw]
  rfl

/-- What the power manager does to one deck above the limit. -/
def powerStep (s : State) (d : Nat) : State :=
  if deckCompute s d && 12 < (s.deck d).goal.toNat then plinthRequest ((s.deck d).goal - 1) s d else s

theorem execPowerLimit_above {s : State} {draw : Nat} (h : 3600 < draw) :
    exec (.powerLimit draw) s = .next ((List.range 16).foldl powerStep s) := by
  have hx : exec (.powerLimit draw) s = execPowerLimit draw s := rfl
  rw [hx, execPowerLimit, if_pos h]
  rfl
theorem execPowerLimit_within {s : State} {draw : Nat} (h : draw ≤ 3600) : exec (.powerLimit draw) s = .next s := by
  have hx : exec (.powerLimit draw) s = execPowerLimit draw s := rfl
  rw [hx, execPowerLimit, if_neg (by omega)]

theorem powerStep_sans (s : State) {d : Nat} (h : d < 16) : sansDecks (powerStep s d) = sansDecks s := by
  unfold powerStep
  split
  · exact plinthRequest_sans _ _ h
  · rfl
theorem powerStep_deck_other (s : State) {d e : Nat} (h : d < 16) (he : e < 16) (hne : e ≠ d) : (powerStep s d).deck e = s.deck e := by
  unfold powerStep
  split
  · exact plinthRequest_deck_other _ _ h he hne
  · rfl
theorem powerStep_deck_same (s : State) {d : Nat} (h : d < 16) : (powerStep s d).deck d =
    if deckCompute s d && 12 < (s.deck d).goal.toNat then
      (if (s.tower (d / 4)).st = .run then requested (s.deck d) ((s.deck d).goal - 1) s.reft.toNat
       else { s.deck d with pending := some ((s.deck d).goal - 1) })
    else s.deck d := by
  unfold powerStep
  split
  · exact plinthRequest_deck_same _ _ h
  · rfl

theorem powerLimit_deck (s : State) {d : Nat} (h : d < 16) : ((List.range 16).foldl powerStep s).deck d =
    if deckCompute s d && 12 < (s.deck d).goal.toNat then
      (if (s.tower (d / 4)).st = .run then requested (s.deck d) ((s.deck d).goal - 1) s.reft.toNat
       else { s.deck d with pending := some ((s.deck d).goal - 1) })
    else s.deck d := by
  have hlt : ∀ i, i ∈ List.range 16 → i < 16 := fun i => List.mem_range.mp
  refine foldl_place_same (val := State.deck) (P := SameBoard s) (g := fun x =>
      if deckCompute s d && 12 < x.goal.toNat then
        (if (s.tower (d / 4)).st = .run then requested x (x.goal - 1) s.reft.toNat else { x with pending := some (x.goal - 1) })
      else x) _ List.nodup_range
    (fun t i hi ht => (powerStep_sans t (hlt i hi)).trans ht) (fun t i hi _ hne => powerStep_deck_other t (hlt i hi) h (Ne.symm hne))
    (fun t ht => ?_) (List.mem_range.mpr h) s rfl
  rw [powerStep_deck_same t h, deckCompute_of_towers ht.towers, tower_of_towers ht.towers, ht.reft]

theorem byte_sub_one_ne (b : Byte) : b - 1 ≠ b := by bv_omega

/-- A thermal event asks the compute decks of its tower for 1.2 GHz. -/
theorem execThermalTrip_eq (s : State) (tower : BitVec 2) : exec (.thermalTrip tower) s =
    let s1 := (towerCompute s tower.toNat).foldl (plinthRequest 12) s
    .next { s1.setTower tower.toNat { s1.tower tower.toNat with trip := some s.reft.toNat } with thermal := s1.thermal ++ [tower.toNat] } := rfl

theorem mem_towerCompute {s : State} {t d : Nat} : d ∈ towerCompute s t ↔ d / 4 = t ∧ deckCompute s d = true := by
  simp only [towerCompute, List.mem_filterMap, List.mem_range, Option.ite_none_right_eq_some, Option.some.injEq]
  constructor
  · rintro ⟨i, hi, hc, rfl⟩
    exact ⟨by omega, hc⟩
  · rintro ⟨rfl, hc⟩
    have he : 4 * (d / 4) + d % 4 = d := by omega
    exact ⟨d % 4, Nat.mod_lt _ (by decide), he.symm ▸ hc, he⟩
theorem nodup_towerCompute (s : State) (t : Nat) : (towerCompute s t).Nodup := by
  refine List.Nodup.filterMap (fun a b c ha hb => ?_) List.nodup_range
  simp only [Option.mem_def, Option.ite_none_right_eq_some, Option.some.injEq] at ha hb
  omega

theorem thermalRequests_sans (s : State) {t : Nat} (ht : t < 4) (l : List Nat) (hl : ∀ d ∈ l, d / 4 = t) :
    SameBoard s (l.foldl (plinthRequest 12) s) := by
  induction l generalizing s with
  | nil => rfl
  | cons d r ih =>
    have hd : d < 16 := by have := hl d (by simp); omega
    exact (ih (plinthRequest 12 s d) fun e he => hl e (List.mem_cons_of_mem _ he)).trans (plinthRequest_sans 12 s hd)

theorem thermalTrip_deck (s : State) {t d : Nat} (hd : d / 4 = t) (h : d < 16) (hc : deckCompute s d = true) :
    ((towerCompute s t).foldl (plinthRequest 12) s).deck d =
      if (s.tower t).st = .run then requested (s.deck d) 12 s.reft.toNat else { s.deck d with pending := some 12 } := by
  have hlt : ∀ i, i ∈ towerCompute s t → i < 16 := fun i hi => by have := (mem_towerCompute.mp hi).1; omega
  refine foldl_place_same (val := State.deck) (P := SameBoard s) (g := fun x =>
      if (s.tower t).st = .run then requested x 12 s.reft.toNat else { x with pending := some 12 }) _ (nodup_towerCompute s t)
    (fun u i hi hu => (plinthRequest_sans 12 u (hlt i hi)).trans hu)
    (fun u i hi _ hne => plinthRequest_deck_other 12 u (hlt i hi) h (Ne.symm hne)) (fun u hu => ?_) (mem_towerCompute.mpr ⟨hd, hc⟩) s rfl
  rw [plinthRequest_deck_same 12 u h, hd, tower_of_towers hu.towers, hu.reft]

end Sys2Proof.Proofs
end

section
/-!
PROOFS. What a discard leaves unchanged (R88, R90), and the statement on clocks and heat.
-/

namespace Sys2Proof.Proofs
open Sys2Proof Sys2Proof.Machine Sys2Proof.Claim

/-! ## Discards -/

/-- A state without what the stop of a group writes. -/
def sansGroup (s : State) : State :=
  { s with ctxs := [], cores := [], strands := [], inbox := [], covs := [], lates := [], sent := 0, crossing := [] }

theorem returnBatch_group (s : State) (k : Nat) : sansGroup (returnBatch s k) = sansGroup s := by
  unfold returnBatch
  split
  · dsimp only
    split <;> rfl
  · split <;> rfl
  · rfl
theorem leaveLate_group (s : State) (k : Nat) : sansGroup (leaveLate s k) = sansGroup s := by
  unfold leaveLate
  split <;> rfl
theorem discardStrand_group (s : State) (k : Nat) : sansGroup (discardStrand s k) = sansGroup s :=
  (leaveLate_group ..).trans (returnBatch_group s k)
theorem discardStrands_group (l : List Nat) : ∀ s, sansGroup (discardStrands s l) = sansGroup s := by
  induction l with
  | nil => exact fun _ => rfl
  | cons k r ih => exact fun s => (ih _).trans (discardStrand_group s k)
theorem mapCores_group (f : Core → Core) (l : List Nat) : ∀ s, sansGroup (mapCores s f l) = sansGroup s := by
  induction l with
  | nil => exact fun _ => rfl
  | cons k r ih => exact fun s => (ih _).trans rfl
theorem withdrawArrivals_group (s : State) (c g : Nat) : sansGroup (withdrawArrivals s c g) = sansGroup s := by
  unfold withdrawArrivals
  split <;> rfl
theorem stopGroup_group (s : State) (l st : Nat) : sansGroup (stopGroup s l st) = sansGroup s := by
  unfold stopGroup
  split
  · rfl
  · exact (withdrawArrivals_group ..).trans ((mapCores_group ..).trans (discardStrands_group ..))

/-- A state without that and the launches: what the discard of groups writes. -/
def sansRun (s : State) : State := { sansGroup s with launches := [] }

theorem run_of_group {s t : State} (h : sansGroup t = sansGroup s) : sansRun t = sansRun s :=
  congrArg (fun u : State => { u with launches := [] }) h

theorem setStageSt_run (s : State) (l st : Nat) (x : StageSt) : sansRun (setStageSt s l st x) = sansRun s := by
  unfold setStageSt
  split <;> rfl
theorem discardGroup_run (s : State) (l st : Nat) : sansRun (discardGroup s l st) = sansRun s := by
  unfold discardGroup
  split
  · rfl
  · split
    · exact (setStageSt_run ..).trans (run_of_group (stopGroup_group ..))
    · rfl
theorem discardOn_run (l : List (Nat × Nat)) : ∀ s, sansRun (discardOn s l) = sansRun s := by
  induction l with
  | nil => exact fun _ => rfl
  | cons g r ih => exact fun s => (ih _).trans (discardGroup_run s g.1 g.2)

/-- Without a step in flight there is none to discard. -/
theorem discardSteps_idle {s : State} (p : Nat → Bool) (h : ∀ e ∈ s.planners, e.2.flight = none) : discardSteps s p = s := by
  have hf : ∀ (l : List (Nat × Planner)) (t : State), (∀ e ∈ l, e.2.flight = none) → l.foldl (fun (s : State) e => match e.2.flight with
      | some f => if f.cores.any p then discardStep s e.1 none else s
      | none => s) t = t := by
    intro l
    induction l with
    | nil => exact fun t _ => rfl
    | cons e r ih =>
      intro t hl
      rw [List.foldl_cons, hl e (by simp)]
      exact ih t fun x hx => hl x (List.mem_cons_of_mem _ hx)
  exact hf _ _ h
theorem clearDecks_idle {s : State} (ds : List Nat) (h : ∀ e ∈ s.planners, e.2.flight = none) :
    clearDecks s ds = discardOn s (runningOn s ds) := by
  have hp : (discardOn s (runningOn s ds)).planners = s.planners := (congrArg State.planners (discardOn_run (runningOn s ds) s) : _)
  exact discardSteps_idle _ (hp.symm ▸ h)

/-! ## The power gate (R31) -/

theorem execThermalPowerGate_due {s : State} {tower : BitVec 2} {i : Nat} (ht : (s.tower tower.toNat).trip = some i)
    (hg : (s.tower tower.toNat).gated = false) (h : i + 10 ^ 8 ≤ s.reft.toNat) : exec (.thermalPowerGate tower) s =
    .next (clearDecks (s.setTower tower.toNat { s.tower tower.toNat with gated := true }) (towerCompute s tower.toNat)) := by
  have hx : exec (.thermalPowerGate tower) s = execThermalPowerGate tower s := rfl
  simp only [hx, execThermalPowerGate, ht, hg, h, decide_true, Bool.not_false, Bool.and_self, if_true]
theorem execThermalPowerGate_early {s : State} {tower : BitVec 2} {i : Nat} (ht : (s.tower tower.toNat).trip = some i)
    (h : s.reft.toNat < i + 10 ^ 8) : exec (.thermalPowerGate tower) s = .next s := by
  have hx : exec (.thermalPowerGate tower) s = execThermalPowerGate tower s := rfl
  simp only [hx, execThermalPowerGate, ht, Nat.not_le.mpr h, decide_false, Bool.false_and, Bool.false_eq_true, if_false]

/-! ## Passing time (R409 to R412) -/

section Bounds
variable {α : Type} {f : Nat → α → Nat}

theorem foldl_le_start (hf : ∀ m a, f m a ≤ m) (l : List α) : ∀ n, l.foldl f n ≤ n := by
  induction l with
  | nil => exact fun n => le_refl n
  | cons a r ih => exact fun n => (ih _).trans (hf n a)
theorem foldl_le_bound (hf : ∀ m a, f m a ≤ m) {a : α} {b : Nat} (hb : ∀ m, f m a ≤ b) (l : List α) (ha : a ∈ l) : ∀ n, l.foldl f n ≤ b := by
  induction l with
  | nil => simp at ha
  | cons c r ih =>
    intro n
    rcases List.mem_cons.mp ha with rfl | h
    · exact (foldl_le_start hf r _).trans (hb n)
    · exact ih h _
theorem foldl_eq_start (l : List α) {n : Nat} (h : ∀ a ∈ l, f n a = n) : l.foldl f n = n := by
  induction l with
  | nil => rfl
  | cons a r ih =>
    rw [List.foldl_cons, h a (by simp)]
    exact ih fun c hc => h c (List.mem_cons_of_mem _ hc)
end Bounds

/-- What a deck, and what a mapped thread, allow of m ticks. -/
def deckTicks (s : State) (m : Nat) (d : Deck) : Nat := if d.relock then min m (d.relockEnd - s.reft.toNat) else m
def threadTicks (s : State) (m : Nat) (e : Nat × Thread) : Nat :=
  if e.2.qsb.isSome then tornTicks s e.2 (waitTicks s e.2 (min m (e.2.slice + 250000 - s.reft.toNat))) else m

theorem ticksAllowed_eq (s : State) (n : Nat) : ticksAllowed s n = s.threads.foldl (threadTicks s) (s.decks.toList.foldl (deckTicks s) n) := rfl

/-- A queue's deadline bounds k ticks, and so does the last read of its torn packet. -/
def waitBound (s : State) (x : Thread) (q k : Nat) : Prop :=
  qState s q = 2 → x.unmap = false → queueFrozen s q = false → qWaitend s q ≠ 0 → k ≤ qWaitend s q - s.reft.toNat
def tornBound (s : State) (x : Thread) (q k : Nat) : Prop :=
  ∀ i, qState s q = 1 → x.unmap = false → queueFrozen s q = false → tornSince s q = some i → s.reft.toNat ≤ i + 4096 →
    k ≤ i + 4096 - s.reft.toNat

theorem waitTicks_of_qsb {s : State} {x : Thread} {q : Nat} (h : x.qsb = some q) (m : Nat) :
    waitTicks s x m ≤ m ∧ waitBound s x q (waitTicks s x m) ∧ (waitBound s x q m → waitTicks s x m = m) := by
  simp only [waitTicks, h, waitBound, Bool.and_eq_true, decide_eq_true_eq, Bool.not_eq_true', ne_eq]
  split
  · rename_i hc
    obtain ⟨⟨⟨h1, h2⟩, h3⟩, h4⟩ := hc
    exact ⟨Nat.min_le_left .., fun _ _ _ _ => Nat.min_le_right .., fun hb => Nat.min_eq_left (hb h1 h2 h3 h4)⟩
  · rename_i hc
    exact ⟨le_refl m, fun h1 h2 h3 h4 => absurd ⟨⟨⟨h1, h2⟩, h3⟩, h4⟩ hc, fun _ => rfl⟩

theorem tornTicks_of_qsb {s : State} {x : Thread} {q : Nat} (h : x.qsb = some q) (m : Nat) :
    tornTicks s x m ≤ m ∧ tornBound s x q (tornTicks s x m) ∧ (tornBound s x q m → tornTicks s x m = m) := by
  simp only [tornTicks, h, tornBound, Bool.and_eq_true, decide_eq_true_eq, Bool.not_eq_true']
  split
  · rename_i hc
    obtain ⟨⟨h1, h2⟩, h3⟩ := hc
    cases ht : tornSince s q with
    | none => exact ⟨le_refl m, fun i _ _ _ hi => (nomatch hi), fun _ => by rfl⟩
    | some i =>
      by_cases hl : i + 4096 < s.reft.toNat
      · simp only [if_pos hl]
        exact ⟨le_refl m, fun j _ _ _ hj hle => by cases hj; omega, fun _ => trivial⟩
      · simp only [if_neg hl]
        exact ⟨Nat.min_le_left .., fun j _ _ _ hj hle => by cases hj; exact Nat.min_le_right ..,
          fun hb => Nat.min_eq_left (hb i h1 h2 h3 rfl (Nat.not_lt.mp hl))⟩
  · rename_i hc
    exact ⟨le_refl m, fun i h1 h2 h3 => absurd ⟨⟨h1, h2⟩, h3⟩ hc, fun _ => rfl⟩

theorem waitTicks_le (s : State) (x : Thread) (m : Nat) : waitTicks s x m ≤ m := by
  cases h : x.qsb with
  | some q => exact (waitTicks_of_qsb h m).1
  | none => rw [waitTicks, h]
theorem tornTicks_le (s : State) (x : Thread) (m : Nat) : tornTicks s x m ≤ m := by
  cases h : x.qsb with
  | some q => exact (tornTicks_of_qsb h m).1
  | none => rw [tornTicks, h]

theorem deckTicks_le (s : State) (m : Nat) (d : Deck) : deckTicks s m d ≤ m := by
  unfold deckTicks
  split
  · exact Nat.min_le_left ..
  · exact le_refl m
theorem threadTicks_mapped {s : State} {e : Nat × Thread} {q : Nat} (h : e.2.qsb = some q) (m : Nat) :
    threadTicks s m e = tornTicks s e.2 (waitTicks s e.2 (min m (e.2.slice + 250000 - s.reft.toNat))) := by
  rw [threadTicks, h]
  rfl
theorem threadTicks_le (s : State) (m : Nat) (e : Nat × Thread) : threadTicks s m e ≤ m := by
  unfold threadTicks
  split
  · exact (tornTicks_le ..).trans ((waitTicks_le ..).trans (Nat.min_le_left ..))
  · exact le_refl m

/-- What bounds k ticks at a mapped thread: the end of its slice, a deadline, a last read. -/
def threadBound (s : State) (x : Thread) (q k : Nat) : Prop :=
  k ≤ x.slice + 250000 - s.reft.toNat ∧ waitBound s x q k ∧ tornBound s x q k

theorem threadTicks_bound {s : State} {e : Nat × Thread} {q : Nat} (h : e.2.qsb = some q) (m : Nat) :
    threadBound s e.2 q (threadTicks s m e) := by
  rw [threadTicks_mapped h]
  obtain ⟨hw, hwb, -⟩ := waitTicks_of_qsb (s := s) h (min m (e.2.slice + 250000 - s.reft.toNat))
  obtain ⟨ht, htb, -⟩ := tornTicks_of_qsb (s := s) h (waitTicks s e.2 (min m (e.2.slice + 250000 - s.reft.toNat)))
  exact ⟨ht.trans (hw.trans (Nat.min_le_right ..)), fun a b c d => ht.trans (hwb a b c d), htb⟩
theorem threadTicks_of_bound {s : State} {e : Nat × Thread} {m : Nat} (h : ∀ q, e.2.qsb = some q → threadBound s e.2 q m) :
    threadTicks s m e = m := by
  cases hq : e.2.qsb with
  | none => rw [threadTicks, hq]; rfl
  | some q =>
    obtain ⟨h1, h2, h3⟩ := h q hq
    rw [threadTicks_mapped hq, Nat.min_eq_left h1, (waitTicks_of_qsb hq m).2.2 h2, (tornTicks_of_qsb hq m).2.2 h3]

theorem deck_mem (s : State) {e : Nat} (h : e < 16) : s.deck e ∈ s.decks.toList := by
  rw [State.deck, Vector.nth, dif_pos h]
  simp
theorem mem_decks {s : State} {d : Deck} (h : d ∈ s.decks.toList) : ∃ e, e < 16 ∧ s.deck e = d := by
  obtain ⟨i, hi, rfl⟩ := List.mem_iff_getElem.mp h
  have h16 : i < 16 := by simpa using hi
  exact ⟨i, h16, by rw [State.deck, Vector.nth, dif_pos h16]; simp⟩

theorem ticksAllowed_le (s : State) (n : Nat) : ticksAllowed s n ≤ n :=
  (foldl_le_start (threadTicks_le s) _ _).trans (foldl_le_start (deckTicks_le s) _ n)
theorem ticksAllowed_deck (s : State) (n : Nat) {e : Nat} (h : e < 16) (hr : (s.deck e).relock = true) :
    ticksAllowed s n ≤ (s.deck e).relockEnd - s.reft.toNat := by
  have hb : ∀ m, deckTicks s m (s.deck e) ≤ (s.deck e).relockEnd - s.reft.toNat := fun m => by
    rw [deckTicks, hr, if_pos rfl]
    exact Nat.min_le_right ..
  exact (foldl_le_start (threadTicks_le s) _ _).trans (foldl_le_bound (deckTicks_le s) hb _ (deck_mem s h) n)
theorem ticksAllowed_thread (s : State) (n : Nat) {e : Nat × Thread} (he : e ∈ s.threads) {q : Nat} (hq : e.2.qsb = some q) :
    threadBound s e.2 q (ticksAllowed s n) := by
  have hle : ∀ (b : Nat), (∀ m, threadTicks s m e ≤ b) → ticksAllowed s n ≤ b := fun b hb =>
    foldl_le_bound (threadTicks_le s) hb _ he _
  exact ⟨hle _ fun m => (threadTicks_bound hq m).1, fun a b c d => hle _ fun m => (threadTicks_bound hq m).2.1 a b c d,
    fun i a b c d f => hle _ fun m => (threadTicks_bound hq m).2.2 i a b c d f⟩
theorem ticksAllowed_eq_self {s : State} {n : Nat} (hd : ∀ e, e < 16 → (s.deck e).relock = true → n ≤ (s.deck e).relockEnd - s.reft.toNat)
    (ht : ∀ e ∈ s.threads, ∀ q, e.2.qsb = some q → threadBound s e.2 q n) : ticksAllowed s n = n := by
  have h1 : s.decks.toList.foldl (deckTicks s) n = n := foldl_eq_start _ fun d hmem => by
    obtain ⟨e, he, rfl⟩ := mem_decks hmem
    unfold deckTicks
    split
    · exact Nat.min_eq_left (hd e he ‹_›)
    · rfl
  rw [ticksAllowed_eq, h1]
  exact foldl_eq_start _ fun e he => threadTicks_of_bound (ht e he)

/-- Counting cycles changes the counters alone. -/
theorem countCycles_spec (n : Nat) (l : List (Nat × Core)) : ∀ s, countCycles s n l = { s with perf := (countCycles s n l).perf } := by
  induction l with
  | nil => exact fun _ => rfl
  | cons e r ih =>
    intro s
    obtain ⟨k, c⟩ := e
    rw [countCycles]
    split
    · rw [ih, count_spec, count_spec, count_spec]
    · exact ih s

theorem passTime_reft (n : Nat) (s : State) : (passTime n s).reft = s.reft + .ofNat 64 (ticksAllowed s n) := by
  have h : (passTime n s).reft = (countCycles s (ticksAllowed s n) s.cores).reft + .ofNat 64 (ticksAllowed s n) := rfl
  rw [h, countCycles_spec]
theorem passTime_deck (n : Nat) (s : State) {d : Nat} (h : d < 16) : (passTime n s).deck d =
    if deckClocked s d then (s.deck d).tick (ticksAllowed s n) else s.deck d := by
  simp [State.deck, passTime, Vector.nth, h]

/-- Settles O50: the step instants, the power limit, the thermal events and passing time, one after the other. -/
theorem clocksAndHeat : Obligations.ClocksAndHeat := by
  intro s deck tower draw n
  have hd : deck.toNat < 16 := deck.isLt
  have ht : tower.toNat < 4 := tower.isLt
  refine ⟨fun hr hdue => ?_, execStepInstant_notDue, execPowerLimit_within, fun hdraw hr htc hw hp => ?_, ?_, fun i hi hg => ?_, ?_⟩
  · rw [execStepInstant_due hr hdue]
    refine ⟨fun hw => ?_, fun hw => ?_, fun w hw hne => ?_⟩ <;> rw [hw]
    · exact ⟨_, rfl, steppedState_deck_same s hd, fun e he hne => steppedState_deck_other s he hne, steppedState_ends_bringup⟩
    · refine ⟨_, rfl, ?_⟩
      dsimp only
      rw [if_pos rfl, decks_of_freq (settleFreq_freq ..), steppedState_deck_same s hd]
      rfl
    · refine ⟨_, rfl, ?_⟩
      have hf := startWaiting_freq (steppedState s deck.toNat) deck.toNat
      have hreft : (startWaiting (steppedState s deck.toNat) deck.toNat).reft = s.reft :=
        (congrArg State.reft (hf.trans (steppedState_freq s deck.toNat)) : _)
      dsimp only
      rw [if_neg hne, beginRelock, deck_setDeck_same _ _ hd, decks_of_freq hf, steppedState_deck_same s hd, hreft]
      rfl
  · refine ⟨_, execPowerLimit_above hdraw, ?_⟩
    have hg : (s.deck deck.toNat).goal = (s.deck deck.toNat).cur := by rw [Deck.goal, hp, hw, htc]; rfl
    rw [powerLimit_deck s hd, hg, requested_idle hr hw (byte_sub_one_ne _)]
    simp only [Bool.and_eq_true, decide_eq_true_eq]
  · rw [execThermalTrip_eq]
    have hs : SameBoard s ((towerCompute s tower.toNat).foldl (plinthRequest 12) s) :=
      thermalRequests_sans s ht _ fun d hd => (mem_towerCompute.mp hd).1
    refine ⟨_, rfl, congrArg (· ++ [tower.toNat]) hs.thermal, ?_, fun hdt hc hr hw h12 => ?_⟩
    · exact congrArg Tower.trip (tower_setTower_same _ _ ht)
    · refine (thermalTrip_deck s hdt hd hc).trans ?_
      rw [requested_idle hr hw (Ne.symm h12)]
  · refine ⟨fun hdue hfl => ?_, execThermalPowerGate_early hi⟩
    have hcl := clearDecks_idle (s := s.setTower tower.toNat { s.tower tower.toNat with gated := true }) (towerCompute s tower.toNat) hfl
    have hrun : sansRun _ = sansRun _ := discardOn_run (runningOn (s.setTower tower.toNat { s.tower tower.toNat with gated := true }) (towerCompute s tower.toNat))
      (s.setTower tower.toNat { s.tower tower.toNat with gated := true })
    refine ⟨_, execThermalPowerGate_due hi hg hdue, ?_, ?_⟩ <;> rw [hcl]
    · have htw := tower_of_towers (congrArg State.towers hrun)
      exact congrArg Tower.gated ((congrFun htw tower.toNat).trans (tower_setTower_same _ _ ht))
    · exact (congrArg State.mem hrun : _)
  · refine ⟨ticksAllowed s n, ticksAllowed_le s n, passTime_reft n s, ⟨fun e he hr => ticksAllowed_deck s n he hr, fun e he q hq => ?_⟩,
      fun hb => ticksAllowed_eq_self hb.1 fun e he q hq => hb.2 e he q hq, fun hc => ?_, fun hc => ?_⟩
    · exact ticksAllowed_thread s n he hq
    · rw [passTime_deck n s hd, hc]
      rfl
    · rw [passTime_deck n s hd, hc]
      rfl

end Sys2Proof.Proofs
end

section
/-!
PROOFS. The QCTL operations (R27, R262, R355, R358, R377, R378, R416).
-/

namespace Sys2Proof.Proofs
open Sys2Proof Sys2Proof.Machine Sys2Proof.Claim

/-! ## Tables without a key -/

theorem del_cons {α : Type} (e : Nat × α) (r : Tbl α) (k : Nat) :
    Tbl.del (e :: r) k = if e.1 = k then Tbl.del r k else e :: Tbl.del r k := by
  by_cases h : e.1 = k <;> simp [Tbl.del, h]
theorem look_del_same {α : Type} (t : Tbl α) (k : Nat) : Tbl.look (Tbl.del t k) k = none := by
  induction t with
  | nil => rfl
  | cons e r ih =>
    rw [del_cons]
    split
    · exact ih
    · rw [Tbl.look, if_neg ‹_›, ih]
theorem look_del_other {α : Type} (t : Tbl α) {k j : Nat} (h : j ≠ k) : Tbl.look (Tbl.del t k) j = Tbl.look t j := by
  induction t with
  | nil => rfl
  | cons e r ih =>
    rw [del_cons]
    split
    · rename_i hk
      rw [Tbl.look, if_neg (fun he => h (he.symm.trans hk)), ih]
    · rw [Tbl.look, Tbl.look, ih]

/-- Dropping cells by location leaves every other location as it was. -/
theorem read_filter_loc (m : List Host.Cell) (p : Nat → Bool) {b : Nat} (h : p b = true) :
    Memory.read (m.filter (fun c => p c.1)) b = Memory.read m b := by
  induction m with
  | nil => rfl
  | cons c r ih =>
    by_cases hc : c.1 = b
    · simp [Memory.read, hc, h]
    · by_cases hp : p c.1 = true <;> simp [Memory.read, hc, hp, ih]

/-! ## Privilege -/

theorem privOnly_denied {h : Hdr} {s : State} {body : Res} (hp : qPriv s s.fq = false) : privOnly h s body = .next (fail s s.fq h 3) := by
  rw [privOnly, hp]
  rfl
theorem privOnly_granted {h : Hdr} {s : State} {body : Res} (hp : qPriv s s.fq = true) : privOnly h s body = body := if_pos hp

theorem qctl_denied {s : State} {h : Hdr} {a0 a1 a2 : Word} {towers mode : Byte} {maps : W32} (hp : qPriv s s.fq = false) :
    ∀ i ∈ [Instr.ctxnew h a0 a1 a2, .ctxfree h a0 a1 a2, .qctlFreq h a0 a1 a2, .partition h a0 a1 a2, .roleset h towers mode maps a0 a1],
      exec i s = .next (fail s s.fq h 3) := by
  intro i hi
  simp only [List.mem_cons, List.not_mem_nil, or_false] at hi
  rcases hi with rfl | rfl | rfl | rfl | rfl <;> exact privOnly_denied hp

/-! ## CTXNEW and CTXFREE -/

/-- The tags of a new context's checked pages go, no others come. -/
theorem clearTags_spec (s : State) (ctx : Nat) : ∃ tags, clearTags s ctx = { s with tags := tags } ∧ (∀ x ∈ tags, x ∈ s.tags)
    ∧ ∀ p ∈ pagesOf s ctx, leafScope p.leaf ≠ 0 → ∀ x ∈ tags, inPage p.leaf (32 * x.1) = false := by
  unfold clearTags
  split
  · rename_i h
    rw [List.isEmpty_iff] at h
    exact ⟨s.tags, rfl, fun _ hx => hx, fun _ _ _ x hx => by rw [h] at hx; simp at hx⟩
  · refine ⟨_, rfl, fun x hx => (List.mem_filter.mp hx).1, fun p hp hl x hx => ?_⟩
    have hx2 := (List.mem_filter.mp hx).2
    simp only [Bool.not_eq_true', List.any_eq_false, List.mem_filter, decide_eq_true_eq, Bool.not_eq_true] at hx2
    exact hx2 p ⟨hp, hl⟩

theorem dropContext_look_same (s : State) (c : Nat) : (dropContext s c).ctx c = none := look_del_same ..
theorem dropContext_look_other (s : State) {c d : Nat} (h : d ≠ c) : (dropContext s c).ctx d = s.ctx d := look_del_other _ h
/-- Scratchpads lie at 2^56 and above. -/
theorem dropContext_read (s : State) (c : Nat) {b : Nat} (h : b < 2 ^ 56) : Memory.read (dropContext s c).mem b = Memory.read s.mem b := by
  refine read_filter_loc s.mem (fun loc => !(decide (2 ^ 56 ≤ loc) && decide (ctxOf ((loc - 2 ^ 56) / 2 ^ 21) = c))) ?_
  rw [decide_eq_false (Nat.not_le.mpr h)]
  rfl

theorem execCtxfree_idle {s : State} {h : Hdr} {a0 a1 a2 : Word} (hp : qPriv s s.fq = true) (hc : ∃ c, s.ctx a0.toNat = some c)
    (hb : ctxBusy s a0.toNat = false) : exec (.ctxfree h a0 a1 a2) s = .next (finish (dropContext s a0.toNat) s.fq h) := by
  obtain ⟨c, hc⟩ := hc
  refine (privOnly_granted hp).trans ?_
  simp only [hc, hb, Option.isNone_some, Bool.false_eq_true, if_false]
theorem execCtxfree_busy {s : State} {h : Hdr} {a0 a1 a2 : Word} (hp : qPriv s s.fq = true) (hc : ∃ c, s.ctx a0.toNat = some c)
    (hb : ctxBusy s a0.toNat = true) : exec (.ctxfree h a0 a1 a2) s = .next (fail s s.fq h 4) := by
  obtain ⟨c, hc⟩ := hc
  refine (privOnly_granted hp).trans ?_
  simp only [hc, hb, Option.isNone_some, Bool.false_eq_true, if_false, if_true]
  rfl

/-! ## FREQ -/

/-- The decks that a FREQ names. -/
def freqDecks (a0 : Word) : List Nat := (List.range 16).filter a0.getLsbD

theorem execQctlFreq_eq {s : State} {h : Hdr} {a0 a1 a2 : Word} (hp : qPriv s s.fq = true) (hlt : a0.toNat < 2 ^ 16) :
    exec (.qctlFreq h a0 a1 a2) s =
      if (freqDecks a0).any (fun d => (s.tower (d / 4)).st ≠ .run) then .next s
      else if a1.toNat < 12 || (freqDecks a0).any (fun d => !(deckCompute s d) || (s.deck d).ceil.toNat < a1.toNat) then
        .next (fail s s.fq h Status.badFreq)
      else .next (closeFreq (requestAll (startAsync s s.fq h (.freq [])) (some s.nextId) (.ofNat 8 a1.toNat) (freqDecks a0)) s.nextId) :=
  (privOnly_granted hp).trans (if_neg (Nat.not_le.mpr hlt))

theorem freqDecks_any {a0 : Word} {p : Nat → Bool} : (freqDecks a0).any p = true ↔ ∃ d, d < 16 ∧ a0.getLsbD d = true ∧ p d = true := by
  simp only [freqDecks, List.any_filter, List.any_eq_true, List.mem_range, Bool.and_eq_true]

/-! ## PARTITION -/

theorem execPartition_eq {s : State} {h : Hdr} {a0 a1 a2 : Word} (hp : qPriv s s.fq = true) (hlt : a0.toNat < 256) :
    exec (.partition h a0 a1 a2) s =
      if s.bringup then .next s
      else if (List.range 4).any (fun t => BitVec.ofNat 2 (a0.toNat / 2 ^ (2 * t)) ≠ (s.tower t).part && towerCarries s t) then
        .next (fail s s.fq h Status.busy)
      else .next (finish ((List.range 4).foldl (fun (s : State) t =>
        s.setTower t { s.tower t with part := .ofNat 2 (a0.toNat / 2 ^ (2 * t)) }) s) s.fq h) :=
  (privOnly_granted hp).trans (if_neg (Nat.not_le.mpr hlt))

/-- Two bits of a word, as a field of it and as a bit vector. -/
theorem ofNat_two_eq_iff (v : Nat) (b : BitVec 2) : BitVec.ofNat 2 v = b ↔ v % 2 ^ 2 = b.toNat := by
  rw [← BitVec.toNat_inj, BitVec.toNat_ofNat]

/-- Setting a part of each tower in turn sets it in all four. -/
theorem foldl_setTower_part (s : State) (p : Nat → BitVec 2) :
    let t := (List.range 4).foldl (fun (s : State) t => s.setTower t { s.tower t with part := p t }) s
    t = { s with towers := t.towers } ∧ ∀ i : Fin 4, t.towers[i] = { s.towers[i] with part := p i.val } := by
  intro t
  have hs : ∀ x, { t with towers := x } = { s with towers := x } := fun x =>
    foldl_keeps (fun u : State => { u with towers := x }) (fun (s : State) t => s.setTower t { s.tower t with part := p t }) (fun _ _ => rfl) _ s
  refine ⟨hs t.towers, fun i => ?_⟩
  have hg : ∀ (u : State), u.towers[i] = u.tower i.val := fun u => by simp [State.tower, Vector.nth]
  rw [hg, hg]
  refine foldl_place_same (val := State.tower) (P := fun _ => True) (f := fun (s : State) t => s.setTower t { s.tower t with part := p t })
    (g := fun x => { x with part := p i.val }) _ List.nodup_range (fun _ _ _ _ => trivial) (fun u j hj _ hne => ?_) (fun u _ => ?_)
    (List.mem_range.mpr i.isLt) s trivial
  · exact tower_setTower_other _ _ i.isLt (Ne.symm hne)
  · exact tower_setTower_same _ _ i.isLt

/-! ## INVAL -/

theorem execInval_granted {s : State} {h : Hdr} {a0 a1 a2 : Word} (hc : ∃ c, s.ctx a0.toNat = some c)
    (hp : qPriv s s.fq = true ∨ qCtx s s.fq = a0.toNat) :
    exec (.inval h a0 a1 a2) s = .next (startAsync s s.fq h (.inval a0.toNat a1 a2)) := by
  obtain ⟨c, hc⟩ := hc
  have hx : exec (.inval h a0 a1 a2) s = execInval h a0 a1 a2 s := rfl
  rw [hx, execInval, hc, Option.isNone_some, if_neg Bool.false_ne_true, if_neg]
  rw [Bool.and_eq_true, Bool.not_eq_true', decide_eq_true_eq]
  rintro ⟨h1, h2⟩
  rcases hp with hp | hp
  · exact Bool.false_ne_true (h1.symm.trans hp)
  · exact h2 hp

theorem execInvalComplete_eq {s : State} {k c : Nat} {a : Async} {va bytes : Word} (ha : s.asyncs[k]? = some a) (hk : a.kind = .inval c va bytes) :
    exec (.invalComplete k) s =
      if oldAccess s c then .next s else .next (endAsync (invalidate s c va.toNat bytes.toNat) a Status.ok 0) := by
  have hx : exec (.invalComplete k) s = execInvalComplete k s := rfl
  rw [hx, execInvalComplete, ha]
  dsimp only
  rw [hk]

/-- No translation of the context that meets the range is held any more. -/
theorem invalidate_tlbs {s : State} {c va bytes p : Nat} {es : List TlbEntry} (h : (p, es) ∈ (invalidate s c va bytes).tlbs) {e : TlbEntry}
    (he : e ∈ es) (hc : e.ctx = c) : bytes ≠ 0 ∧ (va + bytes ≤ e.base ∨ e.base + e.size ≤ va) := by
  have ht : (invalidate s c va bytes).tlbs = s.tlbs.map (fun (t : Nat × List TlbEntry) => (t.1, t.2.filter (fun (e : TlbEntry) =>
      !(e.ctx = c && (bytes = 0 || (e.base < va + bytes && va < e.base + e.size)))))) := rfl
  rw [ht, List.mem_map] at h
  obtain ⟨t, -, hte⟩ := h
  cases hte
  have hf := (List.mem_filter.mp he).2
  simp only [hc, decide_true, Bool.true_and, Bool.not_eq_true', Bool.or_eq_false_iff, decide_eq_false_iff_not, Bool.and_eq_false_iff,
    Nat.not_lt] at hf
  exact hf

/-! ## MODEL and MASK -/

theorem withPart_spec {h : Hdr} {s : State} {go : Nat → Nat → Res} {c : Ctx} (h0 : qCtx s s.fq ≠ 0) (hc : s.ctx (qCtx s s.fq) = some c) :
    withPart h s go = go (qCtx s s.fq) c.part := by
  rw [withPart, hc]
  exact if_neg h0

/-- A bit of a word, as the packets' fields and as bit vectors read it. -/
theorem bit_toNat (a : Word) (i : Nat) : bit a.toNat i = a.getLsbD i := by
  rw [bit, BitVec.getLsbD, Nat.testBit_eq_decide_div_mod_eq]
  rfl

theorem execCtxnew_placed {s s1 : State} {h : Hdr} {a0 a1 a2 : Word} {place : Tbl Nat} (hp : qPriv s s.fq = true)
    (hw : fld a1.toNat 0 3 ≤ 6) (hh : fld a1.toNat 3 3 ≤ 5) (h6 : fld a1.toNat 6 2 = 0) (h11 : fld a1.toNat 11 53 = 0)
    (ha : a2.toNat % 4 = 0) (hpl : placeTorus s (fld a1.toNat 8 2) (2 ^ fld a1.toNat 0 3) (2 ^ fld a1.toNat 3 3) = some place)
    (hf : feWrite s (whoOf (qCtx s s.fq)) a2.toNat 4 s.nextId = .ok s1) : exec (.ctxnew h a0 a1 a2) s =
      .next (finish (clearTags ({ s1 with nextId := s.nextId + 1 }.setCtx s.nextId
        { root := a0.toNat, wlog := fld a1.toNat 0 3, hlog := fld a1.toNat 3 3, part := fld a1.toNat 8 2, priv := true,
          debug := a1.getLsbD 10, place := place, bars := [], ctls := [], dbg := [] }) s.nextId) s.fq h) := by
  refine (privOnly_granted hp).trans ?_
  have hbad : ¬ ((decide (6 < fld a1.toNat 0 3) || decide (5 < fld a1.toNat 3 3) || decide (fld a1.toNat 6 2 ≠ 0)
      || decide (fld a1.toNat 11 53 ≠ 0)) = true) := by
    simp only [Bool.or_eq_true, decide_eq_true_eq]
    omega
  dsimp only
  rw [if_neg hbad, hpl, hp, bit_toNat]
  dsimp only
  rw [if_neg (not_not.mpr ha), hf]

/-- The model that a MODEL packet defines. -/
def packetModel (s : State) (a0 a1 a2 : Word) : Model :=
  { ctx := qCtx s s.fq, cls := fld a0.toNat 12 4, log2 := a0.getLsbD 16, v := fld a0.toNat 32 16, addr := a1
    exit := fld a2.toNat 0 16, layers := fld a2.toNat 16 16 }

theorem execQctlModel_eq {s : State} {h : Hdr} {a0 a1 a2 : Word} {c : Ctx} (h0 : qCtx s s.fq ≠ 0) (hc : s.ctx (qCtx s s.fq) = some c)
    (h17 : fld a0.toNat 17 15 = 0) (h48 : fld a0.toNat 48 16 = 0) (h32 : fld a2.toNat 32 32 = 0) (hv : 1 ≤ fld a0.toNat 32 16)
    (hcls : fld a0.toNat 12 4 = 0 → fld a0.toNat 32 16 ≤ 4096) : exec (.qctlModel h a0 a1 a2) s =
      if modelUsed s c.part (fld a0.toNat 0 12) then .next (fail s s.fq h Status.busy)
      else .next (finish { s with models := Tbl.put s.models (c.part * 4096 + fld a0.toNat 0 12) (packetModel s a0 a1 a2) } s.fq h) := by
  have hx : exec (.qctlModel h a0 a1 a2) s = execQctlModel h a0 a1 a2 s := rfl
  rw [hx, execQctlModel, withPart_spec h0 hc]
  dsimp only
  rw [bit_toNat, if_neg]
  · rfl
  simp only [Bool.or_eq_true, Bool.and_eq_true, decide_eq_true_eq]
  omega

theorem execQctlMask_eq {s : State} {h : Hdr} {a0 a1 a2 : Word} {c : Ctx} (h0 : qCtx s s.fq ≠ 0) (hc : s.ctx (qCtx s s.fq) = some c)
    (hle : a0.toNat ≤ 63) : exec (.qctlMask h a0 a1 a2) s =
      .next (finish { s with masks := if a1 = 0 then Tbl.del s.masks (c.part * 64 + a0.toNat)
                                      else Tbl.put s.masks (c.part * 64 + a0.toNat) (qCtx s s.fq, a1) } s.fq h) := by
  have hx : exec (.qctlMask h a0 a1 a2) s = execQctlMask h a0 a1 a2 s := rfl
  rw [hx, execQctlMask, withPart_spec h0 hc]
  exact if_neg (Nat.not_lt.mpr hle)

/-- Settles O48: each operation by its equation. -/
theorem controlPackets : Obligations.ControlPackets := by
  intro s h a0 a1 a2 towers mode maps
  refine ⟨qctl_denied, fun hp => ⟨?_, ?_, execCtxfree_busy hp, ?_, ?_, ?_, ?_, ?_⟩, execInval_granted, fun k a c ha hk => ?_,
    fun c h0 hc => ⟨fun h17 h48 h32 hv hcls => ?_, fun hle => ?_⟩⟩
  · intro place s1 hw hh h6 h11 ha hpl hf
    obtain ⟨tags, ht, hsub, hpg⟩ := clearTags_spec ({ s1 with nextId := s.nextId + 1 }.setCtx s.nextId
      { root := a0.toNat, wlog := fld a1.toNat 0 3, hlog := fld a1.toNat 3 3, part := fld a1.toNat 8 2, priv := true,
        debug := a1.getLsbD 10, place := place, bars := [], ctls := [], dbg := [] }) s.nextId
    refine ⟨tags, ?_, hsub, hpg⟩
    rw [execCtxnew_placed hp hw hh h6 h11 ha hpl hf, ht]
    rfl
  · exact fun hc hb => ⟨_, execCtxfree_idle hp hc hb, dropContext_look_same .., fun c hne => dropContext_look_other s hne,
      fun b hb => dropContext_read s _ hb⟩
  · intro ds hlt _ hrun
    have hbusy : ¬ (freqDecks a0).any (fun d => (s.tower (d / 4)).st ≠ .run) = true := by
      simp only [List.any_eq_true, decide_eq_true_eq, not_exists, not_and, not_not]
      exact hrun
    rw [execQctlFreq_eq hp hlt, if_neg hbusy]
    refine ⟨fun hok => if_neg ?_, fun hbad => if_pos ?_⟩
    · simp only [Bool.or_eq_true, decide_eq_true_eq, List.any_eq_true, Bool.not_eq_true', not_or, not_exists, not_and, Nat.not_lt]
      exact ⟨hok.1, fun d hd => ⟨by rw [(hok.2 d hd).1]; decide, (hok.2 d hd).2⟩⟩
    · simp only [Bool.or_eq_true, decide_eq_true_eq, List.any_eq_true, Bool.not_eq_true']
      exact hbad
  · rintro hlt ⟨d, hd, hb, hst⟩
    rw [execQctlFreq_eq hp hlt]
    exact if_pos (freqDecks_any.mpr ⟨d, hd, hb, decide_eq_true hst⟩)
  · intro hlt hb
    rw [execPartition_eq hp hlt]
    exact if_pos hb
  · rintro hlt hb ⟨t, ht, hne, hc⟩
    rw [execPartition_eq hp hlt, if_neg (Bool.eq_false_iff.mp hb)]
    refine if_pos (List.any_eq_true.mpr ⟨t, List.mem_range.mpr ht, ?_⟩)
    rw [Bool.and_eq_true, decide_eq_true_eq]
    exact ⟨fun he => hne ((ofNat_two_eq_iff _ _).mp he), hc⟩
  · intro hlt hb hfree
    have hno : ¬ (List.range 4).any (fun t => BitVec.ofNat 2 (a0.toNat / 2 ^ (2 * t)) ≠ (s.tower t).part && towerCarries s t) = true := by
      simp only [List.any_eq_true, List.mem_range, Bool.and_eq_true, decide_eq_true_eq, not_exists, not_and, Bool.not_eq_true]
      exact fun t ht hne => hfree t ht fun he => hne ((ofNat_two_eq_iff _ _).mpr he)
    rw [execPartition_eq hp hlt, if_neg (Bool.eq_false_iff.mp hb), if_neg hno]
    obtain ⟨h1, h2⟩ := foldl_setTower_part s (fun t => .ofNat 2 (a0.toNat / 2 ^ (2 * t)))
    refine ⟨_, rfl, ?_, fun i => (h2 i).trans ?_⟩
    · exact h1
    · have he : BitVec.ofNat 2 (a0.toNat / 2 ^ (2 * i.val) % 2 ^ 2) = .ofNat 2 (a0.toNat / 2 ^ (2 * i.val)) := by
        rw [ofNat_two_eq_iff, Nat.mod_mod, BitVec.toNat_ofNat]
      exact congrArg (fun b => { s.towers[i] with part := b }) he.symm
  · rw [execInvalComplete_eq ha hk]
    refine ⟨fun ho => ⟨?_, fun p es hes e he hec => ?_⟩, fun ho => if_pos ho⟩
    · exact if_neg (Bool.eq_false_iff.mp ho)
    · obtain ⟨hb, hr⟩ := invalidate_tlbs hes he hec
      exact ⟨hb, hr⟩
  · rw [execQctlModel_eq h0 hc h17 h48 h32 hv hcls]
    exact ⟨fun hu => if_neg (Bool.eq_false_iff.mp hu), fun hu => if_pos hu⟩
  · refine ⟨_, execQctlMask_eq h0 hc hle, rfl, ?_⟩
    show Tbl.look (if a1 = 0 then _ else _) _ = _
    split
    · exact look_del_same ..
    · exact Tbl.look_put_same ..

end Sys2Proof.Proofs
end

section
/-!
PROOFS. LAUNCH and the completion of a stage (R62, R72 to R78, R308, R373, R376, R380, R415).
-/

namespace Sys2Proof.Proofs
open Sys2Proof Sys2Proof.Machine Sys2Proof.Claim

/-! ## Tables filtered by key -/

theorem look_filter_key {α : Type} (t : Tbl α) (p : Nat → Bool) {k : Nat} (h : p k = true) :
    Tbl.look (List.filter (fun e => p e.1) t) k = Tbl.look t k := by
  induction t with
  | nil => rfl
  | cons e r ih =>
    by_cases hp : p e.1 = true
    · rw [List.filter_cons_of_pos (by exact hp), Tbl.look, Tbl.look, ih]
    · have hk : e.1 ≠ k := fun he => hp (he ▸ h)
      rw [List.filter_cons_of_neg (by exact hp), Tbl.look, if_neg hk, ih]

/-! ## Starting strands and cores (R72, R77) -/

/-- A strand that runs from a stage's entry with its arguments. -/
def RunsAtEntry (fpc : Word) (d : StageDesc) (u : Strand) : Prop :=
  u.active = true ∧ u.idle = false ∧ u.pc = d.entry ∧ u.rgn = d.entry ∧ u.wait = .none ∧ u.fpc = fpc
  ∧ ∀ r : XReg, u.readX r = if r = 1 then d.a0 else if r = 2 then d.a1 else if r = 3 then d.a2 else if r = 4 then d.a3 else 0

theorem readX_taskRegs (u : Strand) (a0 a1 a2 a3 : Word) (h : u.x = Vector.upd (taskRegs a0 a1 a2 a3) 0 0) (r : XReg) :
    u.readX r = if r = 1 then a0 else if r = 2 then a1 else if r = 3 then a2 else if r = 4 then a3 else 0 := by
  unfold Strand.readX
  rw [h]
  obtain ⟨n⟩ := r
  fin_cases n <;> rfl

theorem startStrand_same (s : State) (fpc : Word) (d : StageDesc) (k : Nat) : RunsAtEntry fpc d ((startStrand s fpc d k).strand k) := by
  rw [startStrand]
  dsimp only
  rw [takeTask_strand, State.strand_setStrand]
  exact ⟨rfl, rfl, rfl, rfl, rfl, rfl, readX_taskRegs _ _ _ _ _ rfl⟩

theorem takeTask_strand_other (s : State) {k j : Nat} (t : Task) (h : j ≠ k) : (takeTask s k t).strand j = s.strand j := by
  obtain ⟨soft, perf, ht⟩ := takeTask_spec s k t
  have hs : (takeTask s k t).strands = (s.setStrand k (startedOn (s.strand k) t s.reft.toNat)).strands := by rw [ht]
  rw [strand_of_strands hs, State.strand_setStrand_other _ _ _ _ h]

theorem startStrand_other (s : State) (fpc : Word) (d : StageDesc) {k j : Nat} (h : j ≠ k) :
    (startStrand s fpc d k).strand j = s.strand j := by
  rw [startStrand]
  dsimp only
  rw [takeTask_strand_other _ _ h, State.strand_setStrand_other _ _ _ _ h]

/-- Strands that a start has reached run at the entry, and those that did already do so still. -/
theorem startStrands_runs {fpc : Word} {d : StageDesc} {j : Nat} (l : List Nat) : ∀ s : State, j ∈ l ∨ RunsAtEntry fpc d (s.strand j) →
    RunsAtEntry fpc d ((startStrands s fpc d l).strand j) := by
  induction l with
  | nil => exact fun s h => h.resolve_left (by simp)
  | cons k r ih =>
    intro s h
    refine ih _ ?_
    by_cases hk : j = k
    · subst j
      exact .inr (startStrand_same ..)
    · rw [startStrand_other _ _ _ hk]
      exact h.imp_left fun hm => (List.mem_cons.mp hm).resolve_left hk
theorem startStrands_other {fpc : Word} {d : StageDesc} {j : Nat} (l : List Nat) (hj : j ∉ l) : ∀ s : State,
    (startStrands s fpc d l).strand j = s.strand j := by
  induction l with
  | nil => exact fun _ => rfl
  | cons k r ih =>
    rw [List.mem_cons, not_or] at hj
    exact fun s => (ih hj.2 _).trans (startStrand_other _ _ _ hj.1)

/-- A state without what the start of a stage writes at its cores. -/
def sansStart (s : State) : State :=
  { s with ctxs := [], cores := [], strands := [], mem := [], poison := [], soft := [], perf := [], inbox := [], covs := [] }

theorem takeTask_start (s : State) (k : Nat) (t : Task) : sansStart (takeTask s k t) = sansStart s := by
  obtain ⟨soft, perf, h⟩ := takeTask_spec s k t
  rw [h]
  unfold sansStart
  rfl
theorem startStrands_start (fpc : Word) (d : StageDesc) (l : List Nat) : ∀ s, sansStart (startStrands s fpc d l) = sansStart s := by
  induction l with
  | nil => exact fun _ => rfl
  | cons k r ih => exact fun s => (ih _).trans (takeTask_start ..)
theorem startCore_start (s : State) (l st : Nat) (p : Pipeline) (d : StageDesc) (im k : Nat) :
    sansStart (startCore s l st p d im k) = sansStart s := by
  rw [startCore, startStrands_start]
  rfl
theorem startCores_start (l st : Nat) (p : Pipeline) (d : StageDesc) (im : Nat) (ks : List Nat) : ∀ s,
    sansStart (startCores s l st p d im ks) = sansStart s := by
  induction ks with
  | nil => exact fun _ => rfl
  | cons k r ih => exact fun s => (ih _).trans (startCore_start ..)
theorem setCtl_start (s : State) (c id : Nat) (x : Ctl) : sansStart (s.setCtl c id x) = sansStart s := by
  unfold State.setCtl
  split <;> rfl
theorem startCov_start (s : State) (who : Who) (ctx l st : Nat) (d : StageDesc) : sansStart (startCov s who ctx l st d) = sansStart s := by
  unfold startCov
  split
  · rfl
  split
  · rfl
  · exact setCtl_start ..

/-! ## Core tables -/

/-- Where the core tables place the cores of the contexts. -/
def sameTables (s t : State) : Prop := ∀ c, (t.ctx c).map Ctx.place = (s.ctx c).map Ctx.place

theorem phys_of_sameTables {s t : State} (h : sameTables s t) : t.phys = s.phys := by
  funext k
  have hk := h (ctxOf k)
  unfold State.phys
  cases ht : t.ctx (ctxOf k) <;> cases hs : s.ctx (ctxOf k) <;> simp only [ht, hs, Option.map_none, Option.map_some] at hk ⊢
  · exact nomatch hk
  · exact nomatch hk
  · rw [Option.some.inj hk]
theorem sameTables_of_ctxs {s t : State} (h : t.ctxs = s.ctxs) : sameTables s t := fun c => by rw [State.ctx, State.ctx, h]
theorem sameTables.trans {s t u : State} (h1 : sameTables s t) (h2 : sameTables t u) : sameTables s u := fun c => (h2 c).trans (h1 c)

/-- A context rewritten with the same core table. -/
theorem sameTables_setCtx {s : State} {c : Nat} {x : Ctx} (y : Ctx) (hx : s.ctx c = some x) (hy : y.place = x.place) :
    sameTables s (s.setCtx c y) := by
  intro b
  by_cases hb : b = c
  · subst b
    have hsame : (s.setCtx c y).ctx c = some y := Tbl.look_put_same ..
    rw [hsame, hx, Option.map_some, Option.map_some, hy]
  · exact congrArg (Option.map Ctx.place) (Tbl.look_put_other _ _ _ _ hb)
theorem setCtl_tables (s : State) (c id : Nat) (x : Ctl) : sameTables s (s.setCtl c id x) := by
  unfold State.setCtl
  split
  · rename_i hx
    exact sameTables_setCtx _ hx rfl
  · exact fun _ => rfl
theorem startCov_tables (s : State) (who : Who) (ctx l st : Nat) (d : StageDesc) : sameTables s (startCov s who ctx l st d) := by
  unfold startCov
  split
  · exact fun _ => rfl
  split
  · exact fun _ => rfl
  · exact fun c => setCtl_tables s ctx _ _ c

theorem takeTask_ctxs (s : State) (k : Nat) (t : Task) : (takeTask s k t).ctxs = s.ctxs := by
  obtain ⟨soft, perf, h⟩ := takeTask_spec s k t
  rw [h, State.setStrand_ctxs]
theorem startStrands_ctxs (fpc : Word) (d : StageDesc) (l : List Nat) : ∀ s, (startStrands s fpc d l).ctxs = s.ctxs := by
  induction l with
  | nil => exact fun _ => rfl
  | cons k r ih => exact fun s => (ih _).trans (takeTask_ctxs ..)
theorem startCores_ctxs (l st : Nat) (p : Pipeline) (d : StageDesc) (im : Nat) (ks : List Nat) : ∀ s,
    (startCores s l st p d im ks).ctxs = s.ctxs := by
  induction ks with
  | nil => exact fun _ => rfl
  | cons k r ih => exact fun s => (ih _).trans (startStrands_ctxs ..)

/-! ## A core bound and started -/

theorem takeTask_cores_all (fpc : Word) (d : StageDesc) (l : List Nat) : ∀ s, (startStrands s fpc d l).cores = s.cores := by
  induction l with
  | nil => exact fun _ => rfl
  | cons k r ih => exact fun s => (ih _).trans (takeTask_cores ..)

/-- A core bound to stage 0 of a launch, its first strands running at the entry. -/
def StartedCore (l : Nat) (p : Pipeline) (d : StageDesc) (k : Nat) (t : State) : Prop :=
  (t.core k).launch = some l ∧ (t.core k).stage = 0 ∧ (t.core k).bound = true ∧ (t.core k).mode = d.mode ∧ (t.core k).count = d.count
  ∧ ∀ i, i < d.count → RunsAtEntry p.fpc d (t.strand (k * 16 + i))

theorem StartedCore.congr {l : Nat} {p : Pipeline} {d : StageDesc} {k : Nat} {s t : State} (hc : t.core k = s.core k)
    (hs : ∀ i, i < d.count → t.strand (k * 16 + i) = s.strand (k * 16 + i)) (h : StartedCore l p d k s) : StartedCore l p d k t := by
  obtain ⟨h1, h2, h3, h4, h5, h6⟩ := h
  rw [StartedCore, hc]
  exact ⟨h1, h2, h3, h4, h5, fun i hi => hs i hi ▸ h6 i hi⟩

theorem startCore_core_same (s : State) (l st : Nat) (p : Pipeline) (d : StageDesc) (im k : Nat) :
    (startCore s l st p d im k).core k = { boundCore l st p d with jobs := (s.core k).jobs } := by
  rw [startCore, core_of_cores (takeTask_cores_all ..)]
  exact State.core_setCore ..
theorem startCore_core_other (s : State) (l st : Nat) (p : Pipeline) (d : StageDesc) (im : Nat) {k j : Nat} (h : j ≠ k) :
    (startCore s l st p d im k).core j = s.core j := by
  rw [startCore, core_of_cores (takeTask_cores_all ..)]
  exact State.core_setCore_other _ _ _ _ h

theorem startCore_started (s : State) (l : Nat) (p : Pipeline) (d : StageDesc) (im k : Nat) :
    StartedCore l p d k (startCore s l 0 p d im k) := by
  rw [StartedCore, startCore_core_same]
  refine ⟨rfl, rfl, rfl, rfl, rfl, fun i hi => ?_⟩
  rw [startCore]
  exact startStrands_runs _ _ (.inl (List.mem_map.mpr ⟨i, List.mem_range.mpr hi, rfl⟩))

theorem startCore_keeps (s : State) (l : Nat) (p : Pipeline) {d : StageDesc} (im : Nat) {k j : Nat} (hne : k ≠ j) (hd : d.count ≤ 16)
    (h : StartedCore l p d k s) : StartedCore l p d k (startCore s l 0 p d im j) := by
  refine StartedCore.congr (startCore_core_other _ _ _ _ _ _ hne) (fun i hi => ?_) h
  have hout : k * 16 + i ∉ (List.range d.count).map (fun i => j * 16 + i) := by
    simp only [List.mem_map, List.mem_range, not_exists, not_and]
    omega
  rw [startCore, startStrands_other _ hout]
  exact congrArg (Option.getD · Strand.empty)
    (look_filter_key s.strands (fun n => decide (n / 16 ≠ j)) (k := k * 16 + i) (by rw [decide_eq_true_eq]; omega))

theorem startCores_started {l : Nat} {p : Pipeline} {d : StageDesc} {im k : Nat} (hd : d.count ≤ 16) (ks : List Nat) : ∀ s : State,
    k ∈ ks ∨ StartedCore l p d k s → StartedCore l p d k (startCores s l 0 p d im ks) := by
  induction ks with
  | nil => exact fun s h => h.resolve_left (by simp)
  | cons j r ih =>
    intro s h
    refine ih _ ?_
    by_cases hk : k = j
    · subst k
      exact .inr (startCore_started ..)
    · exact h.imp (fun hm => (List.mem_cons.mp hm).resolve_left hk) (startCore_keeps s l p im hk hd)

/-! ## The launch (R77, R376, R415) -/

/-- The launch that a LAUNCH packet starts. -/
def newLaunch (s : State) (q : Nat) (h : Hdr) (sigaddr sigval : Word) (ctx prio : Nat) (p : Pipeline) : Launch :=
  { ctx := ctx, qsb := q, prio := prio, pkt := .ofNat 64 (qRptr s q), hdr := h, sigaddr := sigaddr, sigval := sigval, fpc := p.fpc
    sampling := p.sampling, stages := p.stages, chans := p.chans, sts := p.stages.map (fun (_ : StageDesc) => StageSt.running)
    unconsumed := 0, discarded := 0, preempted := false, everPreempted := false, saved := [], fault := none, covBound := false
    covFault := none, displacer := none, ended := false, dump := none }

/-- A state as a launch has been recorded in it, with its links. -/
def recorded (s : State) (q : Nat) (h : Hdr) (sigaddr sigval : Word) (ctx prio : Nat) (p : Pipeline) : State :=
  { placed s q (qRptr s q) with
    nextId := s.nextId + 1
    launches := Tbl.put (placed s q (qRptr s q)).launches s.nextId (newLaunch s q h sigaddr sigval ctx prio p)
    links := (placed s q (qRptr s q)).links ++ linksFor ctx s.nextId p }

theorem startLaunch_one {s : State} {q : Nat} {h : Hdr} {sigaddr sigval : Word} {ctx prio : Nat} {p : Pipeline} {d : StageDesc}
    {im : Nat} (hp : p.stages = [d]) : startLaunch s q h sigaddr sigval ctx prio p [im] =
      startAsync (startCores (startCov (recorded s q h sigaddr sigval ctx prio p) (whoOf ctx) ctx s.nextId 0 d) s.nextId 0 p d im
        (stageCores ctx d)) q h (.launch s.nextId) := by
  have ho : ((List.range p.stages.length).zip (p.stages.zip [im])).reverse = [(0, d, im)] := by rw [hp]; rfl
  unfold startLaunch
  dsimp only
  rw [ho]
  simp only [startStages, recorded, newLaunch]

theorem fields_of_start {s t : State} (h : sansStart t = sansStart s) :
    t.launches = s.launches ∧ t.decks = s.decks ∧ t.crossing = s.crossing ∧ t.asyncs = s.asyncs ∧ t.nextId = s.nextId :=
  ⟨(congrArg State.launches h : _), (congrArg State.decks h : _), (congrArg State.crossing h : _), (congrArg State.asyncs h : _),
    (congrArg State.nextId h : _)⟩

/-- What a started launch of one stage leaves: the launch, its packet, its cores; the decks, boundaries and core tables as they were. -/
theorem startLaunch_one_spec {s : State} {q : Nat} {h : Hdr} {sigaddr sigval : Word} {ctx prio : Nat} {p : Pipeline} {d : StageDesc}
    {im : Nat} (hp : p.stages = [d]) (hd : d.count ≤ 16) : ∃ t, startLaunch s q h sigaddr sigval ctx prio p [im] = t
      ∧ t.launch s.nextId = some (newLaunch s q h sigaddr sigval ctx prio p) ∧ t.deck = s.deck ∧ t.crossing = s.crossing ∧ t.phys = s.phys
      ∧ (∃ a ∈ t.asyncs, a.kind = .launch s.nextId ∧ a.qsb = q) ∧ ∀ k ∈ stageCores ctx d, StartedCore s.nextId p d k t := by
  have hstart := (startCores_start s.nextId 0 p d im (stageCores ctx d)
    (startCov (recorded s q h sigaddr sigval ctx prio p) (whoOf ctx) ctx s.nextId 0 d)).trans (startCov_start ..)
  have hctxs := startCores_ctxs s.nextId 0 p d im (stageCores ctx d)
    (startCov (recorded s q h sigaddr sigval ctx prio p) (whoOf ctx) ctx s.nextId 0 d)
  have hcore : ∀ k ∈ stageCores ctx d, StartedCore s.nextId p d k (startCores (startCov (recorded s q h sigaddr sigval ctx prio p)
    (whoOf ctx) ctx s.nextId 0 d) s.nextId 0 p d im (stageCores ctx d)) := fun k hk => startCores_started hd _ _ (.inl hk)
  refine ⟨_, startLaunch_one hp, ?_⟩
  generalize startCores _ _ _ _ _ _ _ = u at hstart hctxs hcore
  obtain ⟨hl, hdk, hcr, -, hn⟩ := fields_of_start hstart
  have hu := startAsync_packet u q h (.launch s.nextId)
  have htab : sameTables s (startAsync u q h (.launch s.nextId)) :=
    ((sameTables_of_ctxs rfl).trans (startCov_tables (recorded s q h sigaddr sigval ctx prio p) (whoOf ctx) ctx s.nextId 0 d)).trans
      ((sameTables_of_ctxs hctxs).trans (sameTables_of_ctxs (packet_ctxs hu :)))
  have hls : (startAsync u q h (.launch s.nextId)).launches = (recorded s q h sigaddr sigval ctx prio p).launches :=
    (packet_launches hu :).trans hl
  refine ⟨?_, ?_, ?_, phys_of_sameTables htab, ?_, fun k hk => ?_⟩
  · rw [State.launch, hls]
    exact Tbl.look_put_same ..
  · exact deck_of_decks ((packet_decks hu :).trans hdk)
  · exact (packet_crossing hu :).trans hcr
  · have ha : (startAsync u q h (.launch s.nextId)).asyncs = u.asyncs ++ [_] := (packet_asyncs hu :)
    refine ⟨{ id := u.nextId, qsb := q, pkt := .ofNat 64 (qRptr u q), hdr := h, kind := .launch s.nextId }, ?_, rfl, rfl⟩
    rw [ha]
    exact List.mem_append_right _ (List.mem_singleton.mpr rfl)
  · have hcs : (startAsync u q h (.launch s.nextId)).cores = u.cores := (packet_cores hu :)
    have hss : (startAsync u q h (.launch s.nextId)).strands = u.strands := (packet_strands hu :)
    exact (hcore k hk).congr (congrFun (core_of_cores hcs) k) fun i _ => congrFun (strand_of_strands hss) _

theorem heldAt_ne_nil {s : State} {h : Nat} {ds : List Nat} {d : Nat} (hd : d ∈ ds) (hr : (s.deck d).relock = true) : heldAt s h ds ≠ [] := by
  intro he
  have := List.filter_eq_nil_iff.mp he d hd
  rw [hr, Bool.true_or] at this
  exact this rfl
theorem heldAt_eq_nil {s : State} {h : Nat} {ds : List Nat}
    (hd : ∀ d ∈ ds, (s.deck d).relock = false ∧ ∀ e ∈ s.crossing, d ∉ e.2) : heldAt s h ds = [] := by
  refine List.filter_eq_nil_iff.mpr fun d hm => ?_
  obtain ⟨hr, hc⟩ := hd d hm
  rw [hr, Bool.false_or, List.any_eq_true]
  rintro ⟨e, he, hce⟩
  exact hc e ((List.takeWhile_sublist _).subset (List.mem_filter.mp he).1) (by simpa using hce)

/-- A LAUNCH of a valid descriptor places its launch, or completes with CAPACITY where its core table names no core for a stage. -/
theorem execLaunch_valid {s : State} {h : Hdr} {desc sigaddr sigval : Word} {c : Ctx} {p : Pipeline} {images : List Nat}
    (hc : s.ctx (qCtx s s.fq) = some c) (h0 : qCtx s s.fq ≠ 0) (hcomp : (partDecks s c.part).any (deckCompute s) = true)
    (hp : readPipeline s (whoOf (qCtx s s.fq)) c desc.toNat = .ok (some p)) (ho : ownRecord p = none)
    (hcov : coverageOk s (whoOf (qCtx s s.fq)) p = true) (him : readImages s (whoOf (qCtx s s.fq)) p.stages = .ok images) :
    exec (.launch h desc sigaddr sigval) s =
      if (coresOfStages (qCtx s s.fq) p.stages).any (fun k => (Tbl.look c.place (k % 2048)).isNone) then .next (fail s s.fq h Status.capacity)
      else .next (placeLaunch s s.fq h sigaddr sigval (qCtx s s.fq) c p images) := by
  have hx : exec (.launch h desc sigaddr sigval) s = execLaunch h desc sigaddr sigval s := rfl
  rw [hx, execLaunch, hc]
  dsimp only
  rw [if_neg h0, hcomp, hp]
  dsimp only
  rw [ho]
  dsimp only
  rw [hcov, him]
  rfl

theorem placeLaunch_free {s : State} {q : Nat} {h : Hdr} {sigaddr sigval : Word} {ctx : Nat} {c : Ctx} {p : Pipeline} {images : List Nat}
    (ht : tableHeld s c = false) (hr : (s.round c.part).active = false)
    (hst : ((coresOfStages ctx p.stages).map s.phys).any (stepPhys s).contains = false)
    (hsv : ((coresOfStages ctx p.stages).map s.phys).all (coreServes s c.part) = true)
    (hw : waitsAhead s (queuePrio s q) ((coresOfStages ctx p.stages).map s.phys) = false)
    (hocc : occupants s ((coresOfStages ctx p.stages).map s.phys) = []) :
    placeLaunch s q h sigaddr sigval ctx c p images =
      holdStages (startLaunch s q h sigaddr sigval ctx (queuePrio s q) p images) s.nextId false (List.range p.stages.length).reverse := by
  have hn : ((coresOfStages ctx p.stages).map s.phys).any (fun x => !(coreServes s c.part x)) = false := by
    rw [List.any_eq_false]
    exact fun x hx => by rw [List.all_eq_true.mp hsv x hx]; decide
  unfold placeLaunch
  simp only [ht, hr, hn, hw, hst, hocc, Bool.or_self, Bool.false_eq_true, if_false, List.any_nil, List.all_nil, if_true]
  rfl

theorem stageDecks_eq {s : State} {l : Nat} {la : Launch} {d : StageDesc} (hl : s.launch l = some la) (hd : la.stages = [d]) :
    stageDecks s l 0 = ((stageCores la.ctx d).map (fun k => deckOf (s.phys k))).eraseDups := by
  rw [stageDecks, coresOf_eq hl (d := d) (by rw [hd]; rfl)]

theorem setStageSt_launch {s : State} {l : Nat} {la : Launch} (hl : s.launch l = some la) (st : Nat) (x : StageSt) :
    (setStageSt s l st x).launch l = some { la with sts := la.sts.set st x } := by
  rw [setStageSt, hl]
  exact Tbl.look_put_same ..

theorem stopGroup_launches (s : State) (l st : Nat) : (stopGroup s l st).launches = s.launches :=
  (congrArg State.launches (stopGroup_group s l st) :)

/-- A stage that a boundary holds is bound, its release still to come (R77, R415). -/
theorem holdStages_held {s : State} {l : Nat} {la : Launch} (hl : s.launch l = some la)
    (hh : heldAt s (stageSender l 0) (stageDecks s l 0) ≠ []) :
    (holdStages s l false [0]).launch l = some { la with sts := la.sts.set 0 .held } := by
  have hc : (false || !(heldAt s (stageSender l 0) (stageDecks s l 0)).isEmpty) = true := by
    rw [Bool.false_or, Bool.not_eq_true', List.isEmpty_eq_false_iff]
    exact hh
  rw [holdStages, if_pos hc, holdStages, noteHeld_spec]
  refine setStageSt_launch ?_ 0 .held
  rw [State.launch, stopGroup_launches]
  exact hl

theorem launchStarts : LaunchStarts := by
  intro s h desc sigaddr sigval c p d images q ctx need hc h0 hcomp hp hst ho hcov him hlen hcount
  rw [execLaunch_valid hc h0 hcomp hp ho hcov him]
  have hcores : coresOfStages ctx p.stages = stageCores ctx d := by
    rw [hst, coresOfStages, List.flatMap_cons, List.flatMap_nil, List.append_nil]
  obtain ⟨im, rfl⟩ := List.length_eq_one_iff.mp hlen
  refine ⟨fun ⟨k, hk, hn⟩ => if_pos ?_, fun hall htab hr hsp hsv hw hocc => ?_⟩
  · exact List.any_eq_true.mpr ⟨k, hcores.symm ▸ hk, Option.isNone_iff_eq_none.mpr hn⟩
  have hplaced : ¬ (coresOfStages ctx p.stages).any (fun k => (Tbl.look c.place (k % 2048)).isNone) = true := by
    rw [List.any_eq_true]
    rintro ⟨k, hk, hn⟩
    exact hall k (hcores ▸ hk) (Option.isNone_iff_eq_none.mp hn)
  rw [if_neg hplaced, placeLaunch_free htab hr hsp hsv hw hocc]
  obtain ⟨t, ht, hla, hdeck, hcross, hphys, hasync, hstarted⟩ :=
    startLaunch_one_spec (s := s) (q := q) (h := h) (sigaddr := sigaddr) (sigval := sigval) (ctx := ctx) (prio := queuePrio s q) (im := im) hst hcount
  have hneed : ∀ x, x ∈ need ↔ ∃ k ∈ stageCores ctx d, s.phys k = x := fun x => by
    show x ∈ (coresOfStages ctx p.stages).map s.phys ↔ _
    rw [hcores, List.mem_map]
  have hds : ∀ x, x ∈ stageDecks t s.nextId 0 ↔ ∃ y ∈ need, deckOf y = x := fun x => by
    rw [stageDecks_eq hla hst, List.mem_eraseDups, hphys, List.mem_map]
    simp only [hneed]
    exact ⟨fun ⟨k, hk, he⟩ => ⟨_, ⟨k, hk, rfl⟩, he⟩, fun ⟨_, ⟨k, hk, hy⟩, he⟩ => ⟨k, hk, hy ▸ he⟩⟩
  have hone : (List.range p.stages.length).reverse = [0] := by rw [hst]; rfl
  rw [ht, hone]
  refine ⟨fun ⟨x, hx, hrel⟩ => ?_, fun hfree => ?_⟩
  · have hne : heldAt t (stageSender s.nextId 0) (stageDecks t s.nextId 0) ≠ [] :=
      heldAt_ne_nil ((hds _).mpr ⟨x, hx, rfl⟩) (hdeck ▸ hrel)
    have hsts : (p.stages.map (fun _ => StageSt.running)).set 0 .held = [.held] := by rw [hst]; rfl
    exact ⟨_, _, rfl, holdStages_held hla hne, hst, hsts⟩
  · have hnil : heldAt t (stageSender s.nextId 0) (stageDecks t s.nextId 0) = [] := heldAt_eq_nil fun e he => by
      obtain ⟨y, hy, rfl⟩ := (hds e).mp he
      rw [hdeck, hcross]
      exact hfree y hy
    have hhold : holdStages t s.nextId false [0] = t := by
      rw [holdStages, hnil]
      rfl
    rw [hhold]
    refine ⟨t, _, rfl, hla, hst, congrArg (fun l : List StageDesc => l.map fun _ => StageSt.running) hst, rfl, rfl, rfl, rfl, hasync, fun k hk => ?_⟩
    exact hstarted k hk

end Sys2Proof.Proofs
end

section
/-!
PROOFS. The completion of a stage and of its launch (R78, R308, R373).
-/

namespace Sys2Proof.Proofs
open Sys2Proof Sys2Proof.Machine Sys2Proof.Claim

/-! ## Launches that keep their stages -/

/-- Two records of a launch that differ in counts and marks alone. -/
def SameStages (a b : Launch) : Prop := b.ctx = a.ctx ∧ b.stages = a.stages ∧ b.sts = a.sts ∧ b.sigaddr = a.sigaddr
/-- A launch is in a state with the stages it has in another. -/
def KeepsLaunch (l : Nat) (la : Launch) (t : State) : Prop := ∃ lb, t.launch l = some lb ∧ SameStages la lb

theorem KeepsLaunch.setLaunch {l : Nat} {la lb : Launch} (s : State) (h : SameStages la lb) : KeepsLaunch l la (s.setLaunch l lb) :=
  ⟨lb, Tbl.look_put_same .., h⟩

theorem coresOf_of_keeps {l : Nat} {la : Launch} {s t : State} (hs : s.launch l = some la) (ht : KeepsLaunch l la t) (st : Nat) :
    t.coresOf l st = s.coresOf l st := by
  obtain ⟨lb, hlb, hc, hst, -, -⟩ := ht
  simp only [State.coresOf, hlb, hs, hc, hst]

/-! ## Cores updated in turn -/

/-- What every update of a core keeps, the updates of a list of cores keep. -/
theorem mapCores_core_keeps {P : Core → Prop} {f : Core → Core} (hf : ∀ c, P c → P (f c)) (l : List Nat) {k : Nat} : ∀ s : State,
    P (s.core k) → P ((mapCores s f l).core k) := by
  induction l with
  | nil => exact fun s h => h
  | cons j r ih =>
    refine fun s h => ih _ ?_
    by_cases hk : k = j
    · subst k
      rw [State.core_setCore]
      exact hf _ h
    · rw [State.core_setCore_other _ _ _ _ hk]
      exact h
/-- What an update brings about and updates keep holds of every core of the list. -/
theorem mapCores_core_mem {P Q : Core → Prop} {f : Core → Core} (hQ : ∀ c, P c → Q (f c))
    (hk : ∀ c, Q c → Q (f c)) (l : List Nat) {k : Nat} (hm : k ∈ l) : ∀ s : State, P (s.core k) → Q ((mapCores s f l).core k) := by
  induction l with
  | nil => simp at hm
  | cons j r ih =>
    intro s h
    by_cases hj : k = j
    · subst k
      refine mapCores_core_keeps hk r _ ?_
      rw [State.core_setCore]
      exact hQ _ h
    · refine ih ((List.mem_cons.mp hm).resolve_left hj) _ ?_
      rw [State.core_setCore_other _ _ _ _ hj]
      exact h

/-- Updates of cores change nothing else. -/
theorem mapCores_spec (f : Core → Core) (l : List Nat) : ∀ s, mapCores s f l = { s with cores := (mapCores s f l).cores } := by
  induction l with
  | nil => exact fun _ => rfl
  | cons k r ih =>
    intro s
    rw [mapCores, ih]
    rfl

/-! ## The end of a launch -/

theorem countLeft_spec {s : State} {l : Nat} {la : Launch} (hl : s.launch l = some la) (which : StageSt → Bool) :
    ∃ n, countLeft s l which = s.setLaunch l { la with unconsumed := n } := by
  rw [countLeft, hl]
  exact ⟨_, rfl⟩

theorem signalAdd_packet {s t : State} {who : Who} {va v : Nat} (h : signalAdd s who va v = .ok t) : sansPacket t = sansPacket s := by
  unfold signalAdd at h
  split at h
  · exact nomatch h
  split at h
  · exact nomatch h
  · obtain ⟨soft, perf, hx⟩ := extSeen_spec s who va 8
    rw [feWrite_packet h, hx]
    rfl

/-- How a state stands to a launch that has ended. -/
def LaunchOver (s : State) (l : Nat) (la : Launch) (t : State) : Prop :=
  (∃ lb, t.launch l = some lb ∧ SameStages la lb ∧ lb.ended = true)
  ∧ (∀ st, st < la.stages.length → ∀ k ∈ s.coresOf l st, (s.core k).launch = some l → (t.core k).bound = false)
  ∧ (∀ a ∈ t.asyncs, a.kind ≠ .launch l) ∧ (∀ k ∈ t.links, k.launch ≠ l) ∧ ∀ d ∈ t.decrs, d.launch ≠ l

theorem endLaunch_over {s : State} {l : Nat} {la : Launch} (hl : s.launch l = some la) (status w3 : Nat) :
    LaunchOver s l la (endLaunch s l status w3) := by
  have he : endLaunch s l status w3 = completePacket
      (let s1 := mapCores (s.setLaunch l { la with ended := true }) (fun c => if c.launch = some l then { c with bound := false } else c)
        ((List.range la.stages.length).flatMap (fun st => s.coresOf l st))
       { s1 with asyncs := s1.asyncs.filter (fun a => a.kind ≠ .launch l), links := s1.links.filter (fun k => k.launch ≠ l)
                 decrs := s1.decrs.filter (fun (d : Decr) => d.launch ≠ l), calls := s1.calls.filter (fun (f : Flight) => f.launch ≠ l)
                 replies := s1.replies.filter (fun (r : RReply) => r.launch ≠ l) })
      la.qsb la.pkt la.hdr status la.covBound (la.unconsumed * 2 ^ 32 + la.discarded) w3 := by
    rw [endLaunch, hl]
  rw [he]
  generalize hm : mapCores (s.setLaunch l { la with ended := true }) _ _ = m
  have hspec := mapCores_spec (fun c => if c.launch = some l then { c with bound := false } else c)
    ((List.range la.stages.length).flatMap (fun st => s.coresOf l st)) (s.setLaunch l { la with ended := true })
  rw [hm] at hspec
  have hp := completePacket_packet { m with
      asyncs := m.asyncs.filter (fun a => a.kind ≠ .launch l), links := m.links.filter (fun k => k.launch ≠ l)
      decrs := m.decrs.filter (fun (d : Decr) => d.launch ≠ l), calls := m.calls.filter (fun (f : Flight) => f.launch ≠ l)
      replies := m.replies.filter (fun (r : RReply) => r.launch ≠ l) }
      la.qsb la.pkt la.hdr status la.covBound (la.unconsumed * 2 ^ 32 + la.discarded) w3
  refine ⟨⟨{ la with ended := true }, ?_, ⟨rfl, rfl, rfl, rfl⟩, rfl⟩, fun st hst k hk hcl => ?_, fun a ha => ?_, fun k hk => ?_, fun d hd => ?_⟩
  · rw [State.launch, packet_launches hp, hspec]
    exact Tbl.look_put_same ..
  · rw [core_of_cores (packet_cores hp)]
    show (m.core k).bound = false
    rw [← hm]
    refine mapCores_core_mem (P := fun c => c.launch = some l) (Q := fun c => c.bound = false) (fun c hc => ?_) (fun c hc => ?_) _ (List.mem_flatMap.mpr ⟨st, List.mem_range.mpr hst, hk⟩) (s.setLaunch l { la with ended := true }) hcl
    · rw [if_pos hc]
    · split
      · rfl
      · exact hc
  · rw [packet_asyncs hp] at ha
    simpa using (List.mem_filter.mp ha).2
  · rw [packet_links hp] at hk
    simpa using (List.mem_filter.mp hk).2
  · rw [packet_decrs hp] at hd
    simpa using (List.mem_filter.mp hd).2

theorem SameStages.trans {a b c : Launch} (h1 : SameStages a b) (h2 : SameStages b c) : SameStages a c := by
  obtain ⟨a1, a2, a3, a4⟩ := h1
  obtain ⟨b1, b2, b3, b4⟩ := h2
  exact ⟨b1.trans a1, b2.trans a2, b3.trans a3, b4.trans a4⟩

/-- A launch over after states that differ from a first one elsewhere is over after that. -/
theorem LaunchOver.of_keeps {s u t : State} {l : Nat} {la lb : Launch} (hs : s.launch l = some la) (hu : u.launch l = some lb)
    (hl : SameStages la lb) (hc : ∀ k, (s.core k).launch = some l → (u.core k).launch = some l) (h : LaunchOver u l lb t) :
    LaunchOver s l la t := by
  obtain ⟨⟨lc, h1, h2, h3⟩, h4, h5⟩ := h
  refine ⟨⟨lc, h1, hl.trans h2, h3⟩, fun st hst k hk hkl => h4 st (hl.2.1 ▸ hst) k ?_ (hc k hkl), h5⟩
  rw [coresOf_of_keeps hs ⟨lb, hu, hl⟩]
  exact hk

theorem endOfLaunch_over {s : State} {l : Nat} {la : Launch} (hl : s.launch l = some la) : LaunchOver s l la (endOfLaunch s l) := by
  obtain ⟨n, hn⟩ := countLeft_spec hl (fun _ => true)
  have h1 : (s.setLaunch l { la with unconsumed := n }).launch l = some { la with unconsumed := n } := Tbl.look_put_same ..
  have hcounted : ∀ status w3, LaunchOver s l la (endLaunch (s.setLaunch l { la with unconsumed := n }) l status w3) := fun status w3 =>
    (endLaunch_over h1 status w3).of_keeps hl h1 ⟨rfl, rfl, rfl, rfl⟩ fun _ h => h
  unfold endOfLaunch
  rw [hn]
  dsimp only
  rw [h1]
  dsimp only
  split
  · exact hcounted ..
  · split
    · exact hcounted ..
    · split
      · exact hcounted ..
      · rename_i s2 hs2
        have hp := signalAdd_packet hs2
        have h2 : s2.launch l = some { la with unconsumed := n } := by
          rw [State.launch, packet_launches hp]
          exact h1
        refine (endLaunch_over h2 _ _).of_keeps hl h2 ⟨rfl, rfl, rfl, rfl⟩ fun k h => ?_
        rw [core_of_cores (packet_cores hp)]
        exact h

theorem LaunchOver.stages {s t : State} {l : Nat} {la : Launch} (h : LaunchOver s l la t) : KeepsLaunch l la t :=
  ⟨_, h.1.choose_spec.1, h.1.choose_spec.2.1⟩

/-- The completion of a launch keeps its stages, whether a relock holds its add or not. -/
theorem completeLaunch_keeps {s : State} {l : Nat} {la : Launch} (hl : s.launch l = some la) : KeepsLaunch l la (completeLaunch s l) := by
  unfold completeLaunch
  split
  · exact (endOfLaunch_over (s := dropHeld s (packetSender l)) hl).stages
  · rw [noteHeld_spec]
    exact ⟨la, hl, rfl, rfl, rfl, rfl⟩
theorem completeLaunch_over {s : State} {l : Nat} {la : Launch} (hl : s.launch l = some la)
    (hfree : la.sigaddr = 0 ∨ (s.crossing = [] ∧ ∀ d, (s.deck d).relock = false)) : LaunchOver s l la (completeLaunch s l) := by
  have hh : touchHeld s (packetSender l) (signalTouch s l) = [] := by
    rcases hfree with h0 | ⟨hc, hd⟩
    · have : signalTouch s l = Touch.none := by
        simp only [signalTouch, hl, h0, decide_true, Bool.true_or, if_true]
      rw [this]
      rfl
    · exact heldAt_eq_nil fun d _ => ⟨hd d, fun e he => by rw [hc] at he; simp at he⟩
  unfold completeLaunch
  rw [hh]
  exact endOfLaunch_over (s := dropHeld s (packetSender l)) hl

/-! ## The end of a stage -/

/-- A state without what the end of a stage writes: values of its coverage, counts, counters, its launch. -/
def sansEnd (s : State) : State :=
  { s with ctxs := [], mem := [], soft := [], tags := [], covs := [], launches := [], perf := [], cores := [] }

theorem setCtl_end (s : State) (c id : Nat) (x : Ctl) : sansEnd (s.setCtl c id x) = sansEnd s := by
  unfold State.setCtl
  split <;> rfl
theorem setCtl_cores (s : State) (c id : Nat) (x : Ctl) : (s.setCtl c id x).cores = s.cores := by
  unfold State.setCtl
  split <;> rfl
theorem setCtl_launches (s : State) (c id : Nat) (x : Ctl) : (s.setCtl c id x).launches = s.launches := by
  unfold State.setCtl
  split <;> rfl

theorem endCov_spec {s : State} {l : Nat} (st : Nat) {la : Launch} (hl : s.launch l = some la) :
    sansEnd (endCov s l st) = sansEnd s ∧ (endCov s l st).cores = s.cores ∧ KeepsLaunch l la (endCov s l st) := by
  unfold endCov
  split
  · exact ⟨rfl, rfl, la, hl, rfl, rfl, rfl, rfl⟩
  · rename_i c _
    have h2 : ({ flushValues (s.setCtl c.ctx c.ctl ((s.ctl c.ctx c.ctl).update c true)) c with
        covs := Tbl.del (flushValues (s.setCtl c.ctx c.ctl ((s.ctl c.ctx c.ctl).update c true)) c).covs (stageKey l st) } : State).launch l
        = some la := by
      show Tbl.look (s.setCtl c.ctx c.ctl ((s.ctl c.ctx c.ctl).update c true)).launches l = some la
      rw [setCtl_launches]
      exact hl
    dsimp only
    rw [h2]
    exact ⟨setCtl_end .., setCtl_cores .., .setLaunch _ ⟨rfl, rfl, rfl, rfl⟩⟩

theorem countIdle_spec (f : Strand → Nat) (l : List Nat) : ∀ s, countIdle s f l = { s with perf := (countIdle s f l).perf } := by
  induction l with
  | nil => exact fun _ => rfl
  | cons k r ih =>
    intro s
    rw [countIdle, ih]
    split
    · rw [count_spec]
    · rfl
theorem endIdle_spec (s : State) (l st : Nat) : endIdle s l st = { s with perf := (endIdle s l st).perf } := by
  unfold endIdle
  split
  · exact countIdle_spec ..
  · exact countIdle_spec ..
  · exact countIdle_spec ..
  · rfl

theorem dropCounters_spec {s : State} {l : Nat} (st : Nat) {la : Launch} (hl : s.launch l = some la) :
    sansEnd (dropCounters s l st) = sansEnd s ∧ KeepsLaunch l la (dropCounters s l st)
    ∧ ∀ k, (s.core k).launch = some l → ((dropCounters s l st).core k).launch = some l := by
  have hm := mapCores_spec (fun c => { c with ctrs := [] }) (s.coresOf l st) s
  have hc : ∀ k, (s.core k).launch = some l → ((mapCores s (fun c => { c with ctrs := [] }) (s.coresOf l st)).core k).launch = some l :=
    fun k h => mapCores_core_keeps (P := fun c => c.launch = some l) (f := fun c => { c with ctrs := [] }) (fun _ h => h) _ s h
  unfold dropCounters
  dsimp only
  generalize mapCores s (fun c => { c with ctrs := [] }) (s.coresOf l st) = m at hm hc
  have hml : m.launch l = some la := by rw [hm]; exact hl
  rw [hml]
  exact ⟨by rw [hm]; rfl, .setLaunch _ ⟨rfl, rfl, rfl, rfl⟩, hc⟩

/-- A state in which the last stage of a launch has just ended. -/
def endedStage (s : State) (l st : Nat) : State := setStageSt (dropCounters (endIdle (endCov s l st) l st) l st) l st .complete

theorem endedStage_spec {s : State} {l : Nat} (st : Nat) {la : Launch} (hl : s.launch l = some la) : ∃ lb,
    (endedStage s l st).launch l = some lb ∧ lb.sts = la.sts.set st .complete ∧ lb.ctx = la.ctx ∧ lb.stages = la.stages
    ∧ lb.sigaddr = la.sigaddr ∧ sansEnd (endedStage s l st) = sansEnd s
    ∧ ∀ k, (s.core k).launch = some l → ((endedStage s l st).core k).launch = some l := by
  obtain ⟨h1, h2, l1, hl1, hs1⟩ := endCov_spec st hl
  have hi := endIdle_spec (endCov s l st) l st
  have hl2 : (endIdle (endCov s l st) l st).launch l = some l1 := by rw [hi]; exact hl1
  obtain ⟨h3, ⟨l2, hl3, hs2⟩, h4⟩ := dropCounters_spec st hl2
  obtain ⟨hc, hstg, hsts, hsig⟩ := hs1.trans hs2
  refine ⟨{ l2 with sts := l2.sts.set st .complete }, setStageSt_launch hl3 st .complete, by rw [hsts], hc, hstg, hsig, ?_, fun k hk => ?_⟩
  · have hset : ∀ t : State, sansEnd (setStageSt t l st .complete) = sansEnd t := fun t => by unfold setStageSt; split <;> rfl
    rw [endedStage, hset, h3, hi]
    exact h1
  · have hset : ∀ t : State, (setStageSt t l st .complete).cores = t.cores := fun t => by unfold setStageSt; split <;> rfl
    rw [endedStage, core_of_cores (hset _)]
    refine h4 k ?_
    have hcores : (endIdle (endCov s l st) l st).cores = s.cores := by rw [hi]; exact h2
    rw [core_of_cores hcores]
    exact hk

theorem execStageComplete_last {s : State} {l st : Nat} {la lb : Launch} (hl : s.launch l = some la) (hr : la.sts[st]? = some .running)
    (hd : stageDone s l st = true) (hlb : (endedStage s l st).launch l = some lb) (hall : allEnded lb = true) :
    exec (.stageComplete l st) s = .next (completeLaunch (endedStage s l st) l) := by
  have hx : exec (.stageComplete l st) s = execStageComplete l st s := rfl
  unfold endedStage at hlb ⊢
  rw [hx, execStageComplete, hl]
  simp only [hr, hd, decide_true, Bool.and_self, if_true, hlb, hall]

theorem stagesComplete : StagesComplete := by
  intro s l la hl hlen hsts
  have hr : la.sts[0]? = some .running := by rw [hsts]; rfl
  obtain ⟨lb, hlb, hst, hctx, hstg, hsig, hend, hcores⟩ := endedStage_spec 0 hl
  rw [hsts] at hst
  have hall : allEnded lb = true := by rw [allEnded, hst]; rfl
  have hdone : stageDone s l 0 = true → exec (.stageComplete l 0) s = .next (completeLaunch (endedStage s l 0) l) := fun hd =>
    execStageComplete_last hl hr hd hlb hall
  refine ⟨fun hd => ?_, fun hd hfree => ?_, fun hd => ?_⟩
  · obtain ⟨lc, hlc, -, -, hs, -⟩ := completeLaunch_keeps hlb
    exact ⟨_, lc, hdone hd, hlc, hs.trans hst⟩
  · have hcr : (endedStage s l 0).crossing = s.crossing := (congrArg State.crossing hend :)
    have hdk : (endedStage s l 0).decks = s.decks := (congrArg State.decks hend :)
    have hf : lb.sigaddr = 0 ∨ ((endedStage s l 0).crossing = [] ∧ ∀ d, ((endedStage s l 0).deck d).relock = false) := by
      rw [hsig, hcr, deck_of_decks hdk]
      exact hfree
    obtain ⟨⟨lc, hlc, ⟨-, -, hs, -⟩, he⟩, hb, ha, hk, hdec⟩ := completeLaunch_over hlb hf
    refine ⟨_, lc, hdone hd, hlc, hs.trans hst, fun k hk hkl => hb 0 ?_ k ?_ (hcores k hkl), ha, hk, hdec, he⟩
    · rw [hstg, hlen]
      exact Nat.one_pos
    · simp only [State.coresOf, hlb, hl, hctx, hstg] at hk ⊢
      exact hk
  · have hx : exec (.stageComplete l 0) s = execStageComplete l 0 s := rfl
    have hne : allEnded la = false := by rw [allEnded, hsts]; rfl
    rw [hx, execStageComplete, hl]
    simp only [hr, hd, hne, decide_true, Bool.and_false, Bool.false_and, Bool.false_eq_true, if_false]

/-- Settles O35: the start of a launch, and its end. -/
theorem launches : Obligations.Launches := ⟨launchStarts, stagesComplete⟩

end Sys2Proof.Proofs
end

section
/-!
PROOFS. What the operations on agents, their token contexts and their steps leave unchanged (R314 to R317, R337, R341): everything
but the agents, their contexts and blocks, the planners' rings and larders, what the front end writes, and the ids that new blocks take.
-/

namespace Sys2Proof.Proofs
open Sys2Proof Sys2Proof.Machine Sys2Proof.Claim

/-- A state without what agents, the pantry and the planners write. -/
def sansAgents (s : State) : State :=
  { sansFront s with agents := [], toks := [], pantry := [], planners := [], slotQueue := [], perfPart := [], nextId := 0 }
/-- The step that a partition has in flight, and whether one is to be planned again. -/
def stepsOf (s : State) (p : Nat) : Option Machine.Step × Bool := ((s.planner p).flight, (s.planner p).replan.isSome)

/-- What operations on agents and blocks keep: all that they do not write, and the steps. -/
def agentView (s : State) : State × (Nat → Option Machine.Step × Bool) := (sansAgents s, stepsOf s)

theorem sans_of_view {s t : State} (h : agentView t = agentView s) : sansAgents t = sansAgents s := congrArg Prod.fst h
theorem steps_of_view {s t : State} (h : agentView t = agentView s) (p : Nat) :
    (t.planner p).flight = (s.planner p).flight ∧ (t.planner p).replan.isSome = (s.planner p).replan.isSome :=
  Prod.ext_iff.mp (congrFun (congrArg Prod.snd h) p)

theorem agents_of_front {s t : State} (h : sansFront t = sansFront s) : agentView t = agentView s :=
  congrArg (fun u : State => ({ u with agents := [], toks := [], pantry := [], planners := [], slotQueue := [], perfPart := [], nextId := 0 }, stepsOf u)) h
theorem agents_of_packet {s t : State} (h : sansPacket t = sansPacket s) : agentView t = agentView s := agents_of_front (front_of_packet h)

/-! ## Fields of the view -/

theorem setAgent_agents (s : State) (id : Nat) (a : Agent) : agentView (s.setAgent id a) = agentView s := rfl
theorem setTok_agents (s : State) (h : Nat) (t : TokCtx) : agentView (s.setTok h t) = agentView s := rfl

theorem planner_setPlanner_same (s : State) (p : Nat) (q : Planner) : (s.setPlanner p q).planner p = q := Tbl.get_put_same ..
theorem planner_setPlanner_other (s : State) {p r : Nat} (q : Planner) (h : r ≠ p) : (s.setPlanner p q).planner r = s.planner r :=
  Tbl.get_put_other _ _ _ _ _ h
theorem setPlanner_sans (s : State) (p : Nat) (q : Planner) : sansAgents (s.setPlanner p q) = sansAgents s := rfl
theorem setPlanner_agents {s : State} {p : Nat} {q : Planner} (hf : q.flight = (s.planner p).flight)
    (hr : q.replan.isSome = (s.planner p).replan.isSome) : agentView (s.setPlanner p q) = agentView s := by
  refine Prod.ext rfl (funext fun r => ?_)
  by_cases h : r = p
  · subst r
    exact Prod.ext ((congrArg Planner.flight (planner_setPlanner_same ..)).trans hf)
      ((congrArg (fun x : Planner => x.replan.isSome) (planner_setPlanner_same ..)).trans hr)
  · exact congrArg (fun x : Planner => (x.flight, x.replan.isSome)) (planner_setPlanner_other s q h)

section
variable {s t : State} (h : sansAgents t = sansAgents s)
include h
theorem towers_of_agents : t.towers = s.towers := (congrArg State.towers h :)
theorem decks_of_agents : t.decks = s.decks := (congrArg State.decks h :)
end

/-! ## Blocks (R316, R317) -/

/-- A state without what the taking and the release of blocks write. -/
def sansPantry (s : State) : State := { s with pantry := [], nextId := 0 }

theorem agents_of_pantry {s t : State} (h : sansPantry t = sansPantry s) : agentView t = agentView s :=
  congrArg (fun u : State => ({ sansFront u with agents := [], toks := [], pantry := [], planners := [], slotQueue := [], perfPart := [], nextId := 0 }, stepsOf u)) h

theorem releaseBlock_pantry (s : State) (id : Nat) : sansPantry (releaseBlock s id) = sansPantry s := by
  unfold releaseBlock
  split
  · rfl
  · split <;> rfl
theorem releaseAll_pantry (l : List Nat) : ∀ s, sansPantry (releaseAll s l) = sansPantry s := by
  induction l with
  | nil => exact fun _ => rfl
  | cons b r ih => exact fun s => (ih _).trans (releaseBlock_pantry s b)
theorem shareBlock_pantry (s : State) (id : Nat) : sansPantry (shareBlock s id) = sansPantry s := by
  unfold shareBlock
  split <;> rfl
theorem newBlock_pantry (s : State) (part model : Nat) (parent : Option Nat) (toks : List Nat) (place : BitVec 2) :
    sansPantry (newBlock s part model parent toks place).1 = sansPantry s := rfl
theorem completeBlock_pantry (s : State) (part : Nat) (t : TokCtx) : sansPantry (completeBlock s part t).1 = sansPantry s := by
  unfold completeBlock
  dsimp only
  split
  · exact (shareBlock_pantry ..).trans (releaseAll_pantry ..)
  · exact (newBlock_pantry ..).trans (releaseAll_pantry ..)
theorem completeBlocks_pantry (part n : Nat) : ∀ s t, sansPantry (completeBlocks s part t n).1 = sansPantry s := by
  induction n with
  | zero => exact fun _ _ => rfl
  | succ n ih => exact fun s t => (ih _ _).trans (completeBlock_pantry s part t)
theorem setLast_pantry (s : State) (part : Nat) (t : TokCtx) (place : BitVec 2) : sansPantry (setLast s part t place).1 = sansPantry s := by
  unfold setLast
  dsimp only
  split
  · exact releaseAll_pantry ..
  · exact (newBlock_pantry ..).trans (releaseAll_pantry ..)
theorem computeKv_pantry (s : State) (part : Nat) (t : TokCtx) : sansPantry (computeKv s part t).1 = sansPantry s :=
  (setLast_pantry ..).trans (completeBlocks_pantry ..)
theorem fillBlocks_pantry (part model lo : Nat) (l : List (List Nat)) : ∀ s e parent, sansPantry (fillBlocks s part model lo l e parent) = sansPantry s := by
  induction l with
  | nil => exact fun _ _ _ => rfl
  | cons ids r ih =>
    intro s e parent
    unfold fillBlocks
    split
    · exact ih ..
    split
    · rfl
    · exact (ih ..).trans ((releaseBlock_pantry ..).trans (newBlock_pantry ..))

theorem dropCtx_agents (s : State) (h : Nat) : agentView (dropCtx s h) = agentView s := by
  unfold dropCtx
  split
  · rename_i t _
    have h : agentView (releaseAll s t.held) = agentView s := agents_of_pantry (releaseAll_pantry ..)
    exact h
  · rfl
theorem dropCtxs_agents (l : List Nat) : ∀ s, agentView (dropCtxs s l) = agentView s := by
  induction l with
  | nil => exact fun _ => rfl
  | cons h r ih => exact fun s => (ih _).trans (dropCtx_agents s h)

/-! ## The stop of an agent (R314, R321, R379) -/

theorem leaveRing_agents (s : State) (part id : Nat) : agentView (leaveRing s part id) = agentView s := by
  have hp : agentView (s.setPlanner part { s.planner part with
      ring := (s.planner part).ring.filter (fun x => x ≠ id), visiting := (s.planner part).visiting && (s.planner part).ring.head? ≠ some id
      replan := (s.planner part).replan.map (fun st => { st with plans := st.plans.filter (fun (x : Plan) => x.agent ≠ id) }) }) = agentView s :=
    setPlanner_agents rfl Option.isSome_map
  unfold leaveRing
  dsimp only
  split
  · exact (setAgent_agents ..).trans hp
  · exact hp
theorem writeRecord_agents (s : State) (id : Nat) : agentView (writeRecord s id) = agentView s := by
  unfold writeRecord
  split
  · split
    · exact agents_of_packet (feWrite_packet ‹_›)
    · rfl
  · rfl
theorem stopAgent_agents (s : State) (id : Nat) (st : BitVec 3) : agentView (stopAgent s id st) = agentView s := by
  unfold stopAgent
  split
  · exact (writeRecord_agents ..).trans (leaveRing_agents ..)
  · rfl
theorem removeAgent_agents (s : State) (id : Nat) : agentView (removeAgent s id) = agentView s := by
  unfold removeAgent
  split
  · rename_i a _
    have h : agentView (leaveRing (dropCtxs s a.ctxs.toList) (partOf s a) id) = agentView s := (leaveRing_agents ..).trans (dropCtxs_agents ..)
    exact h
  · rfl
theorem settleOne_agents (s : State) (id : Nat) (x : Async) : agentView (settleOne s id x) = agentView s := by
  unfold settleOne
  split
  · split
    · rfl
    · dsimp only
      split
      · split
        · rename_i hw
          refine Eq.trans (agents_of_packet (completePacket_packet ..)) ((removeAgent_agents ..).trans ?_)
          exact Eq.trans (agents_of_packet (feWrite_packet hw)) rfl
        · exact Eq.trans (agents_of_packet (completePacket_packet ..)) rfl
      · exact Eq.trans (agents_of_packet (completePacket_packet ..)) rfl
      · exact Eq.trans (agents_of_packet (completePacket_packet ..)) rfl
  · rfl
theorem settle_agents (id : Nat) (l : List Async) : ∀ s, agentView (settle s id l) = agentView s := by
  induction l with
  | nil => exact fun _ => rfl
  | cons x r ih => exact fun s => (ih _).trans (settleOne_agents s id x)
theorem settleAgent_agents (s : State) (id : Nat) : agentView (settleAgent s id) = agentView s := settle_agents ..
theorem agentFault_agents (s : State) (id : Nat) (cause : Byte) (tval : Word) (under : Nat) :
    agentView (agentFault s id cause tval under) = agentView s := by
  unfold agentFault
  split
  · dsimp only
    split
    · exact (settleAgent_agents ..).trans ((agents_of_packet (ringPost_packet ..)).trans (stopAgent_agents ..))
    · exact stopAgent_agents ..
  · rfl
theorem suspendNow_agents (s : State) (id : Nat) : agentView (suspendNow s id) = agentView s :=
  (settleAgent_agents ..).trans (stopAgent_agents ..)
theorem suspendAsked_agents (l : List Plan) : ∀ s, agentView (suspendAsked s l) = agentView s := by
  induction l with
  | nil => exact fun _ => rfl
  | cons p r ih =>
    intro s
    rw [suspendAsked, ih]
    split
    · split
      · exact suspendNow_agents ..
      · rfl
    · rfl
theorem faultAll_agents (cause : Byte) (tval : Word) (l : List Plan) : ∀ s, agentView (faultAll s cause tval l) = agentView s := by
  induction l with
  | nil => exact fun _ => rfl
  | cons p r ih => exact fun s => (ih _).trans (agentFault_agents ..)

/-! ## Adoption and the ring (R341, R343) -/

theorem learn_agents (s : State) (part model : Nat) (toks : List Nat) (from_ : Nat) : agentView (learn s part model toks from_) = agentView s := by
  unfold learn
  dsimp only
  split
  · rfl
  · exact setPlanner_agents rfl rfl
theorem endLong_agents (s : State) (id : Nat) (a : Agent) (gd : Option (BitVec 3)) (v : Word) (flag : Option Bool) :
    agentView (endLong s id a gd v flag) = agentView s := rfl
theorem scoreMore_agents {s s1 : State} {part : Nat} {m : Model} {a : Agent} {t : TokCtx} {h cand : Nat} {ids : List Nat} {p p1 : Progress}
    (he : scoreMore s part m a t h cand ids p = .ok (.ok (s1, p1))) : agentView s1 = agentView s := by
  unfold scoreMore at he
  split at he
  · cases he
  split at he
  · cases he
  · cases he
    exact agents_of_pantry (fillBlocks_pantry ..)
theorem chooseWalk_agents {part : Nat} {m : Model} {a : Agent} {t : TokCtx} {h : Nat} (n : Nat) : ∀ {s s1 : State} {ids : List Nat} {p p1 : Progress},
    chooseWalk s part m a t h n ids p = .ok (.ok (s1, p1)) → agentView s1 = agentView s := by
  induction n with
  | zero =>
    intro s s1 ids p p1 he
    cases he
    rfl
  | succ n ih =>
    intro s s1 ids p p1 he
    unfold chooseWalk at he
    split at he
    · cases he
      rfl
    split at he
    · cases he
    dsimp only at he
    split at he
    · cases he
    · cases he
    · rename_i hm
      split at he
      · cases he
        exact scoreMore_agents hm
      · exact (ih he).trans (scoreMore_agents hm)
theorem applyScores_agents {s s1 : State} {part id : Nat} {a : Agent} {h : Nat} {t : TokCtx} {m : Model} {ids : List Nat}
    (he : applyScores s part id a h t m ids = .ok s1) : agentView s1 = agentView s := by
  unfold applyScores at he
  split at he
  · split at he
    · cases he
    · cases he
      exact agentFault_agents ..
    · rename_i hm
      cases he
      split
      · exact (endLong_agents ..).trans (scoreMore_agents hm)
      · exact (setAgent_agents ..).trans (scoreMore_agents hm)
  · split at he
    · cases he
    · cases he
      exact agentFault_agents ..
    · rename_i hm
      have hw := chooseWalk_agents _ hm
      dsimp only at he
      split at he
      · cases he
        exact (setAgent_agents ..).trans hw
      split at he
      · cases he
        exact (agentFault_agents ..).trans hw
      split at he
      · cases he
        exact (agentFault_agents ..).trans hw
      · cases he
        exact (endLong_agents ..).trans ((learn_agents ..).trans ((setTok_agents ..).trans ((agents_of_pantry (computeKv_pantry ..)).trans hw)))
  · cases he
    rfl

theorem learnBlock_agents (s : State) (part h model n : Nat) (t : TokCtx) (toks : List Nat) :
    agentView (learn ((completeBlock s part t).1.setTok h (completeBlock s part t).2) part model toks n) = agentView s :=
  (learn_agents ..).trans ((setTok_agents ..).trans (agents_of_pantry (completeBlock_pantry ..)))
theorem adoptBlock_agents {s s1 : State} {part id : Nat} {a : Agent} {h : Nat} {t : TokCtx} {b : NextBlock}
    (he : adoptBlock s part id a h t b = some s1) : agentView s1 = agentView s := by
  unfold adoptBlock at he
  dsimp only at he
  split at he
  · split at he
    · cases he
      exact (setTok_agents ..).trans (agents_of_pantry (completeBlock_pantry ..))
    split at he
    · cases he
    split at he
    · rename_i hs
      cases he
      exact (applyScores_agents hs).trans ((setTok_agents ..).trans (agents_of_pantry (computeKv_pantry ..)))
    · cases he
  · cases he
    split
    · exact (endLong_agents ..).trans (learnBlock_agents ..)
    · exact (setAgent_agents ..).trans (learnBlock_agents ..)

theorem countPart_agents (s : State) (part ev n : Nat) : agentView (s.countPart part ev n) = agentView s := rfl
theorem dropReplanned_agents (s : State) (part id gone : Nat) : agentView (dropReplanned s part id gone) = agentView s :=
  setPlanner_agents rfl Option.isSome_map
theorem adoptBlocks_agents (id n : Nat) : ∀ s, agentView (adoptBlocks s id n) = agentView s := by
  induction n with
  | zero => exact fun _ => rfl
  | succ n ih =>
    intro s
    unfold adoptBlocks
    split
    · rfl
    split
    · rfl
    split
    · rfl
    dsimp only
    split
    · rfl
    split
    · rfl
    · exact (ih _).trans ((dropReplanned_agents ..).trans ((countPart_agents ..).trans (adoptBlock_agents ‹_›)))
theorem adoptAll_agents (l : List Nat) : ∀ s, agentView (adoptAll s l) = agentView s := by
  induction l with
  | nil => exact fun _ => rfl
  | cons id r ih => exact fun s => (ih _).trans (adoptBlocks_agents ..)
theorem zeroDeficits_agents (l : List Nat) : ∀ s, agentView (zeroDeficits s l) = agentView s := by
  induction l with
  | nil => exact fun _ => rfl
  | cons id r ih =>
    intro s
    rw [zeroDeficits, ih]
    split <;> rfl
theorem refreshRing_agents (s : State) (part : Nat) : agentView (refreshRing s part) = agentView s := by
  have ha := adoptAll_agents ((longAgents s part).filter (fun id => !(inFlight s part id))) s
  unfold refreshRing
  dsimp only
  rw [zeroDeficits_agents, ← ha]
  exact setPlanner_agents rfl rfl

/-! ## The discard of steps (R337) -/

theorem discardStep_agents (s : State) (part : Nat) (fault : Option Byte) : sansAgents (discardStep s part fault) = sansAgents s := by
  unfold discardStep
  dsimp only
  split
  · rfl
  split
  · rw [sans_of_view (refreshRing_agents ..), sans_of_view (suspendAsked_agents ..), sans_of_view (faultAll_agents ..)]
    rfl
  · rw [sans_of_view (refreshRing_agents ..), setPlanner_sans, sans_of_view (suspendAsked_agents ..)]
    rfl
theorem discardSteps_agents (s : State) (p : Nat → Bool) : sansAgents (discardSteps s p) = sansAgents s :=
  foldl_keeps sansAgents _ (fun s e => by
    split
    · split
      · exact discardStep_agents ..
      · rfl
    · rfl) _ _

end Sys2Proof.Proofs
end

section
/-!
PROOFS. Role changes of towers, power-on and bring-up (R18, R22 to R29, R378).
-/

namespace Sys2Proof.Proofs
open Sys2Proof Sys2Proof.Machine Sys2Proof.Claim

/-! ## ROLESET (R22, R378) -/

/-- Towers enter DRAIN with their new maps, the others and the rest of the state stay. -/
theorem startChanges_spec (release : Bool) (m : Nat → BitVec 4) (deadline : Nat) (async : Option Nat) (l : List Nat) (hl : l.Nodup)
    (h4 : ∀ i ∈ l, i < 4) : ∀ (s : State) (evac : Nat), let u := startChanges s release m deadline async evac l
      u = { s with towers := u.towers } ∧ (∀ i, i < 4 → i ∉ l → u.tower i = s.tower i)
      ∧ ∀ i ∈ l, ∃ e, u.tower i = { s.tower i with st := .drain, change := some { cmask := m i, release := release, deadline := deadline
                                                                                  evac := e, async := async, expired := false } } := by
  induction l with
  | nil => exact fun s evac => ⟨rfl, fun _ _ _ => rfl, fun i hi => by simp at hi⟩
  | cons t r ih =>
    intro s evac
    rw [List.nodup_cons] at hl
    have ht : t < 4 := h4 t (by simp)
    obtain ⟨hrest, hother, hin⟩ := ih hl.2 (fun i hi => h4 i (List.mem_cons_of_mem _ hi))
      (s.setTower t { s.tower t with st := .drain, change := some { cmask := m t, release := release, deadline := deadline, evac := .ofNat 64 evac
                                                                    async := async, expired := false } })
      (evac + 8 * deckPages * (decksUp s t (m t)).length)
    refine ⟨hrest, fun i hi hni => ?_, fun i hi => ?_⟩
    · rw [List.mem_cons, not_or] at hni
      exact (hother i hi hni.2).trans (tower_setTower_other _ _ hi hni.1)
    · rcases List.mem_cons.mp hi with rfl | hr
      · exact ⟨_, (hother i ht hl.1).trans (tower_setTower_same _ _ ht)⟩
      · have hne : i ≠ t := fun he => hl.1 (he ▸ hr)
        obtain ⟨e, he⟩ := hin i hr
        rw [tower_setTower_other _ _ (h4 i (List.mem_cons_of_mem _ hr)) hne] at he
        exact ⟨e, he⟩

/-- The towers that a ROLESET names, and the byte of MAPS that it gives one. -/
def namedTowers (towers : Byte) : List Nat := (List.range 4).filter towers.getLsbD
def mapByte (maps : W32) (i : Nat) : Nat := maps.toNat / 2 ^ (8 * i) % 256

theorem mem_namedTowers {towers : Byte} {i : Nat} (h : i ∈ namedTowers towers) : i < 4 := List.mem_range.mp (List.mem_filter.mp h).1
theorem nodup_namedTowers (towers : Byte) : (namedTowers towers).Nodup := List.nodup_range.filter _

/-- What R378 asks of the fields of a ROLESET that names a tower. -/
structure RolesetOk (towers mode : Byte) (maps : W32) : Prop where
  towersLt : towers.toNat < 16
  modeLe : mode.toNat ≤ 1
  named : namedTowers towers ≠ []
  bytes : ∀ i, i < 4 → mapByte maps i < 16 ∧ (i ∉ namedTowers towers → mapByte maps i = 0)

theorem ofNat_mapByte {maps : W32} (i : Nat) : BitVec.ofNat 4 (maps.toNat / 2 ^ (8 * i)) = .ofNat 4 (mapByte maps i) := by
  rw [← BitVec.toNat_inj, BitVec.toNat_ofNat, BitVec.toNat_ofNat, mapByte]
  omega
theorem mapLegal_mapByte {maps : W32} {i : Nat} (h : mapByte maps i < 16) :
    mapLegal i (.ofNat 4 (maps.toNat / 2 ^ (8 * i))) = true ↔ mapByte maps i ≠ 15 ∧ Config.mapListed i (mapByte maps i) = true := by
  have hn : (BitVec.ofNat 4 (mapByte maps i)).toNat = mapByte maps i := by
    rw [BitVec.toNat_ofNat]
    exact Nat.mod_eq_of_lt h
  have h15 : BitVec.ofNat 4 (mapByte maps i) ≠ 0b1111#4 ↔ mapByte maps i ≠ 15 := not_congr (by rw [← BitVec.toNat_inj, hn]; rfl)
  rw [mapLegal, ofNat_mapByte, hn, Bool.and_eq_true, decide_eq_true_eq, h15]

/-- A ROLESET with such fields at a privileged queue: the conditions in their order (R378, R422; log 60). -/
theorem execRoleset_eq {s : State} {h : Hdr} {towers mode : Byte} {maps : W32} {deadline evac : Word} (hp : qPriv s s.fq = true)
    (hok : RolesetOk towers mode maps) : exec (.roleset h towers mode maps deadline evac) s =
      if !s.trained || roundHolds s (namedTowers towers) then .next s
      else if (namedTowers towers).any (fun t => (s.tower t).st ≠ .run) then .next (fail s s.fq h Status.busy)
      else if (namedTowers towers).any (fun t => !(mapLegal t (.ofNat 4 (maps.toNat / 2 ^ (8 * t))))) then .next (fail s s.fq h Status.illegalMap)
      else if s.ctxs.any (fun (e : Nat × Ctx) => coresUnder s e.2.part (fun t => if (namedTowers towers).contains t then
          .ofNat 4 (maps.toNat / 2 ^ (8 * t)) else mapAfter s t) < 2 ^ (e.2.wlog + e.2.hlog)) then .next (fail s s.fq h Status.capacity)
      else .next (startChanges (startAsync s s.fq h (.roleset (namedTowers towers) none)) (mode = 1)
        (fun t => .ofNat 4 (maps.toNat / 2 ^ (8 * t))) (s.reft.toNat + deadline.toNat) (some s.nextId) evac.toNat (namedTowers towers)) := by
  have hbytes : (List.range 4).any (fun t => if (namedTowers towers).contains t then decide (16 ≤ byteAt maps.toNat t)
      else decide (byteAt maps.toNat t ≠ 0)) = false := by
    rw [List.any_eq_false]
    intro i hi
    obtain ⟨h16, h0⟩ := hok.bytes i (List.mem_range.mp hi)
    have hb : byteAt maps.toNat i = mapByte maps i := rfl
    by_cases hc : (namedTowers towers).contains i = true
    · simp only [hc, if_true, hb, decide_eq_true_eq]
      omega
    · have hz := h0 (fun hm => hc (List.contains_iff_mem.mpr hm))
      simp [hb, hz]
  have ht : decide (16 ≤ towers.toNat) = false := decide_eq_false (Nat.not_le.mpr hok.towersLt)
  have hm : decide (1 < mode.toNat) = false := decide_eq_false (Nat.not_lt.mpr hok.modeLe)
  refine (privOnly_granted hp).trans ((if_neg ?_).trans (if_neg ?_))
  · rw [ht, hm]
    exact Bool.eq_false_iff.mp hbytes
  · rw [List.isEmpty_iff]
    exact hok.named

/-! ## Towers, decks and contexts through discards and completions -/

theorem settleRole_front (s : State) (t : Nat) (async : Option Nat) (fault : Option Word) : sansFront (settleRole s t async fault) = sansFront s := by
  unfold settleRole
  split
  · rfl
  split
  · dsimp only
    split
    · split <;> exact endAsync_front ..
    · rfl
  · rfl

theorem discardStages_run (k : Nat) (l : List Nat) : ∀ s, sansRun (discardStages s k l) = sansRun s := by
  induction l with
  | nil => exact fun _ => rfl
  | cons st r ih => exact fun s => (ih _).trans (discardGroup_run s k st)
theorem discardLaunch_run (s : State) (l : Nat) : sansRun (discardLaunch s l) = sansRun s := by
  unfold discardLaunch
  split
  · exact discardStages_run ..
  · rfl
theorem discardCtx_run (s : State) (c : Nat) : sansRun (discardCtx s c) = sansRun s := foldl_keeps sansRun _ discardLaunch_run _ _
theorem moveContexts_run {down : List Nat} (l : List Nat) : ∀ {s u : State}, moveContexts s down l = some u → sansRun u = sansRun s := by
  induction l with
  | nil =>
    intro s u h
    cases h
    rfl
  | cons id r ih =>
    intro s u h
    unfold moveContexts at h
    split at h
    · exact ih h
    split at h
    · cases h
    dsimp only at h
    split at h
    · cases h
    · exact (ih h).trans (discardCtx_run s id)

/-- A change of core tables leaves towers and decks as they are. -/
theorem rewriteTables_board (s : State) (down : List Nat) :
    (rewriteTables s down).towers = s.towers ∧ (rewriteTables s down).decks = s.decks := by
  have hd := discardSteps_agents s (fun k => (affected s down).contains (ctxOf k))
  unfold rewriteTables
  dsimp only
  cases hm : moveContexts (discardSteps s fun k => (affected s down).contains (ctxOf k)) down (affected s down) with
  | none => exact ⟨rfl, rfl⟩
  | some u =>
    have hr := moveContexts_run _ hm
    have htow : u.towers = (discardSteps s fun k => (affected s down).contains (ctxOf k)).towers := (congrArg State.towers hr :)
    have hdecks : u.decks = (discardSteps s fun k => (affected s down).contains (ctxOf k)).decks := (congrArg State.decks hr :)
    exact ⟨htow.trans (towers_of_agents hd), hdecks.trans (decks_of_agents hd)⟩

/-- Without a context that names a deck that leaves there is no table to write. -/
theorem rewriteTables_unaffected {s : State} {down : List Nat} (h : ∀ e ∈ s.ctxs, namesDeck e.2 down = false) : rewriteTables s down = s := by
  have ha : affected s down = [] := by
    rw [affected, List.filter_eq_nil_iff.mpr fun e he => Bool.eq_false_iff.mp (h e he)]
    rfl
  have hd : discardSteps s (fun k => ([] : List Nat).contains (ctxOf k)) = s := by
    have hany : ∀ l : List Nat, l.any (fun k => ([] : List Nat).contains (ctxOf k)) = false := fun l => by simp
    exact foldl_keeps id _ (fun t e => by
      split
      · rw [hany]
        rfl
      · rfl) _ _
  rw [rewriteTables, ha, hd]
  rfl

theorem clearDecks_towers (s : State) (ds : List Nat) : (clearDecks s ds).towers = s.towers := by
  have hr := discardOn_run (runningOn s ds) s
  have htow : (discardOn s (runningOn s ds)).towers = s.towers := (congrArg State.towers hr :)
  exact (towers_of_agents (discardSteps_agents ..)).trans htow

/-! ## DRAIN and FLUSH (R23 to R26) -/

theorem execDrainDeadline_due {s : State} {tower : BitVec 2} {c : Change} (hc : (s.tower tower.toNat).change = some c)
    (hst : (s.tower tower.toNat).st = .drain) (he : c.expired = false) (hd : c.deadline ≤ s.reft.toNat) : exec (.drainDeadline tower) s =
    .next (clearDecks (s.setTower tower.toNat { s.tower tower.toNat with change := some { c with expired := true } }) (changingDecks s tower.toNat)) := by
  have hx : exec (.drainDeadline tower) s = execDrainDeadline tower s := rfl
  simp only [hx, execDrainDeadline, hc, hst, he, hd, decide_true, Bool.not_false, Bool.and_self, if_true]
theorem execDrainDeadline_early {s : State} {tower : BitVec 2} {c : Change} (hc : (s.tower tower.toNat).change = some c)
    (hd : s.reft.toNat < c.deadline) : exec (.drainDeadline tower) s = .next s := by
  have hx : exec (.drainDeadline tower) s = execDrainDeadline tower s := rfl
  simp only [hx, execDrainDeadline, hc, Nat.not_le.mpr hd, decide_false, Bool.and_false, Bool.false_and, Bool.false_eq_true, if_false]

/-- The conditions under which a tower may leave DRAIN. -/
def drained (s : State) (t : Nat) (c : Change) : Bool :=
  (runningOn s (changingDecks s t)).isEmpty && !((stepPhys s).any (fun p => (changingDecks s t).contains (deckOf p)))
    && !((decksUp s t c.cmask).any (storeBusy s))

theorem drained_iff {s : State} {t : Nat} {c : Change} : drained s t c = true ↔ runningOn s (changingDecks s t) = []
    ∧ (∀ p ∈ stepPhys s, deckOf p ∉ changingDecks s t) ∧ ∀ d ∈ decksUp s t c.cmask, storeBusy s d = false := by
  simp only [drained, Bool.and_eq_true, List.isEmpty_iff, Bool.not_eq_true', List.any_eq_false, List.contains_iff_mem, and_assoc, Bool.not_eq_true]

section Flush
variable {s : State} {tower : BitVec 2} {c : Change} (hc : (s.tower tower.toNat).change = some c) (hst : (s.tower tower.toNat).st = .drain)
include hc hst

theorem execRoleFlush_undrained (hd : drained s tower.toNat c = false) : exec (.roleFlush tower) s = .next s := by
  have hx : exec (.roleFlush tower) s = execRoleFlush tower s := rfl
  rw [drained] at hd
  rw [hx, execRoleFlush]
  simp only [hc, hst, decide_true, Bool.true_and, hd, Bool.false_eq_true, if_false]
theorem execRoleFlush_evacuated {s1 : State} (hd : drained s tower.toNat c = true)
    (he : evacuate (evacWho s c.async) (!c.release) s c.evac.toNat (decksUp s tower.toNat c.cmask) = (s1, none)) :
    exec (.roleFlush tower) s = .next ((changingDecks s1 tower.toNat).foldl zeroDeck
      (s1.setTower tower.toNat { s1.tower tower.toNat with st := .flush })) := by
  have hx : exec (.roleFlush tower) s = execRoleFlush tower s := rfl
  rw [drained] at hd
  rw [hx, execRoleFlush]
  simp only [hc, hst, decide_true, Bool.true_and, hd, if_true, he]
theorem execRoleFlush_fault {s1 : State} {va : Word} (hd : drained s tower.toNat c = true)
    (he : evacuate (evacWho s c.async) (!c.release) s c.evac.toNat (decksUp s tower.toNat c.cmask) = (s1, some va)) :
    exec (.roleFlush tower) s = .next (settleRole (meetAll (s1.setTower tower.toNat
      { s1.tower tower.toNat with st := .run, change := none }) tower.toNat) tower.toNat c.async (some va)) := by
  have hx : exec (.roleFlush tower) s = execRoleFlush tower s := rfl
  rw [drained] at hd
  rw [hx, execRoleFlush]
  simp only [hc, hst, decide_true, Bool.true_and, hd, if_true, he]

end Flush

/-- Memory without the cells of some locations reads 0 there and elsewhere as before. -/
theorem read_filter (m : List Host.Cell) (p : Nat → Bool) (b : Nat) :
    Memory.read (m.filter (fun c => p c.1)) b = if p b then Memory.read m b else 0 := by
  split
  · exact read_filter_loc m p ‹_›
  · rename_i hb
    induction m with
    | nil => rfl
    | cons c r ih =>
      by_cases hc : p c.1 = true
      · have hne : c.1 ≠ b := fun he => hb (he ▸ hc)
        simpa [Memory.read, hc, hne] using ih
      · simpa [hc] using ih

theorem zeroDecks_read (l : List Nat) (b : Nat) : ∀ s : State,
    Memory.read (l.foldl zeroDeck s).mem b = if l.any (fun d => inDeck d b) then 0 else Memory.read s.mem b := by
  induction l with
  | nil => exact fun _ => rfl
  | cons d r ih =>
    intro s
    have hz : Memory.read (zeroDeck s d).mem b = if !inDeck d b then Memory.read s.mem b else 0 := read_filter s.mem (fun l => !inDeck d l) b
    rw [List.foldl_cons, ih, hz, List.any_cons]
    cases inDeck d b <;> simp
theorem zeroDecks_towers (l : List Nat) (s : State) : (l.foldl zeroDeck s).towers = s.towers := foldl_keeps State.towers zeroDeck (fun _ _ => rfl) l s

/-! ## Requests that a tower's decks have held (R27) -/

theorem mem_towerDecks {t d : Nat} (ht : t < 4) (h : d ∈ towerDecks t) : d < 16 := by
  simp only [towerDecks, List.mem_map, List.mem_range] at h
  omega
theorem nodup_towerDecks (t : Nat) : (towerDecks t).Nodup := List.nodup_range.map fun a b h => by omega

/-- What frequency requests keep that bring-up looks at: the board, and that no initial step has been asked for. -/
def BeforeInitial (s t : State) : Prop := SameBoard s t ∧ (s.initial = none → t.initial = none)

theorem settleFreq_initial {s : State} (d : Nat) (w : Bool) (h : s.initial = none) : (settleFreq s d w).initial = none := by
  unfold settleFreq
  rw [(settleFreqAll_initial ..).1]
  simp only [settleInitial, h, Option.map_none]
theorem requestFreq_initial {s : State} (d : Nat) (f : Byte) (h : s.initial = none) : (requestFreq s none d f).initial = none := by
  unfold requestFreq
  dsimp only
  split
  · split
    · exact settleFreq_initial d true h
    · exact h
  · split <;> exact h

theorem meetPending_before (s : State) {d : Nat} (hd : d < 16) : BeforeInitial s (meetPending s d) := by
  unfold meetPending
  dsimp only
  split
  · exact ⟨rfl, id⟩
  split
  · exact ⟨(requestFreq_sans _ none _ hd).trans (setDeck_sans ..), fun h => requestFreq_initial d _ h⟩
  · exact ⟨rfl, id⟩
theorem meetAll_before (s : State) {t : Nat} (ht : t < 4) : BeforeInitial s (meetAll s t) := by
  have h : ∀ (l : List Nat) (u : State), (∀ d ∈ l, d < 16) → BeforeInitial u (l.foldl meetPending u) := by
    intro l
    induction l with
    | nil => exact fun u _ => ⟨rfl, id⟩
    | cons d r ih =>
      intro u hl
      have h1 := meetPending_before u (hl d (by simp))
      have h2 := ih (meetPending u d) fun e he => hl e (List.mem_cons_of_mem _ he)
      exact ⟨h2.1.trans h1.1, fun hn => h2.2 (h1.2 hn)⟩
  exact h _ s fun d hd => mem_towerDecks ht hd

/-! ## ENUMERATE (R23, R24) -/

theorem dropRequests_freq (s : State) (d : Nat) : sansFreq (dropRequests s d) = sansFreq s := (settleFreq_freq ..).trans (settleFreq_freq ..)

/-- A deck that enters the compute role (R24): 1.2 GHz, its counters zero. -/
def risenDeck (m : BitVec 4) : Deck :=
  { cyc := 0, frac := 0, clklog := 0, cur := 12, target := 12, ceil := mapCeil m, relock := false, relockEnd := 0, waiting := none, pending := none }

section Enumerate
variable {m : BitVec 4} {up down : List Nat}

theorem enumerateDeck_sans (s : State) {d : Nat} (h : d < 16) : sansDecks (enumerateDeck m up down s d) = sansDecks s := by
  unfold enumerateDeck
  dsimp only
  split
  · exact (setDeck_sans ..).trans (decks_of_sansFreq (dropRequests_freq s d))
  split
  · rfl
  split
  · split
    · exact (requestFreq_sans _ none _ h).trans (setDeck_sans ..)
    · rfl
  · rfl
theorem enumerateDeck_deck_other (s : State) {d e : Nat} (h : d < 16) (he : e < 16) (hne : d ≠ e) :
    (enumerateDeck m up down s d).deck e = s.deck e := by
  unfold enumerateDeck
  dsimp only
  split
  · rw [deck_setDeck_other _ _ he (Ne.symm hne), decks_of_freq (dropRequests_freq s d)]
  split
  · exact deck_setDeck_other _ _ he (Ne.symm hne)
  split
  · split
    · exact (requestFreq_deck_other _ none _ h he (Ne.symm hne)).trans (deck_setDeck_other _ _ he (Ne.symm hne))
    · exact deck_setDeck_other _ _ he (Ne.symm hne)
  · rfl
theorem enumerateDeck_down (s : State) {d : Nat} (h : d < 16) (hd : d ∈ down) :
    (enumerateDeck m up down s d).deck d = { s.deck d with relock := false, waiting := none, pending := none } := by
  rw [enumerateDeck, if_pos (List.contains_iff_mem.mpr hd)]
  exact deck_setDeck_same _ _ h
theorem enumerateDeck_up (s : State) {d : Nat} (h : d < 16) (hd : d ∉ down) (hu : d ∈ up) :
    (enumerateDeck m up down s d).deck d = risenDeck m := by
  rw [enumerateDeck, if_neg (mt List.contains_iff_mem.mp hd), if_pos (List.contains_iff_mem.mpr hu)]
  exact deck_setDeck_same _ _ h

variable {t : Nat} (ht : t < 4)
include ht

theorem enumerateDecks_sans (s : State) : sansDecks ((towerDecks t).foldl (enumerateDeck m up down) s) = sansDecks s := by
  have h : ∀ (l : List Nat) (u : State), (∀ d ∈ l, d < 16) → sansDecks (l.foldl (enumerateDeck m up down) u) = sansDecks u := by
    intro l
    induction l with
    | nil => exact fun _ _ => rfl
    | cons d r ih => exact fun u hl => (ih _ fun e he => hl e (List.mem_cons_of_mem _ he)).trans (enumerateDeck_sans u (hl d (by simp)))
  exact h _ s fun d hd => mem_towerDecks ht hd
theorem enumerateDecks_down (s : State) {d : Nat} (hd : d ∈ towerDecks t) (hdn : d ∈ down) :
    ((towerDecks t).foldl (enumerateDeck m up down) s).deck d = { s.deck d with relock := false, waiting := none, pending := none } := by
  have h16 := mem_towerDecks ht hd
  exact foldl_place_same (val := State.deck) (P := fun _ => True) (g := fun x : Deck => { x with relock := false, waiting := none, pending := none })
    _ (nodup_towerDecks t) (fun _ _ _ _ => trivial) (fun u i hi _ hne => enumerateDeck_deck_other u (mem_towerDecks ht hi) h16 hne)
    (fun u _ => enumerateDeck_down u h16 hdn) hd s trivial
theorem enumerateDecks_up (s : State) {d : Nat} (hd : d ∈ towerDecks t) (hdn : d ∉ down) (hup : d ∈ up) :
    ((towerDecks t).foldl (enumerateDeck m up down) s).deck d = risenDeck m := by
  have h16 := mem_towerDecks ht hd
  exact foldl_place_same (val := State.deck) (P := fun _ => True) (g := fun _ => risenDeck m) _ (nodup_towerDecks t) (fun _ _ _ _ => trivial)
    (fun u i hi _ hne => enumerateDeck_deck_other u (mem_towerDecks ht hi) h16 hne) (fun u _ => enumerateDeck_up u h16 hdn hup) hd s trivial

end Enumerate

theorem mem_decksDown {s : State} {t : Nat} {m : BitVec 4} {d : Nat} (h : d ∈ decksDown s t m) :
    d ∈ towerDecks t ∧ (s.tower t).cmask.getLsbD (d % 4) = true := by
  simp only [decksDown, List.mem_filterMap, List.mem_range, Option.ite_none_right_eq_some, Option.some.injEq, Bool.and_eq_true] at h
  obtain ⟨i, hi, ⟨-, hc⟩, rfl⟩ := h
  have h4 : (4 * t + i) % 4 = i := by omega
  exact ⟨List.mem_map.mpr ⟨i, List.mem_range.mpr hi, rfl⟩, by rwa [h4]⟩
theorem mem_decksUp {s : State} {t : Nat} {m : BitVec 4} {d : Nat} (h : d ∈ decksUp s t m) :
    d ∈ towerDecks t ∧ (s.tower t).cmask.getLsbD (d % 4) = false := by
  simp only [decksUp, List.mem_filterMap, List.mem_range, Option.ite_none_right_eq_some, Option.some.injEq, Bool.and_eq_true,
    Bool.not_eq_true'] at h
  obtain ⟨i, hi, ⟨-, hc⟩, rfl⟩ := h
  have h4 : (4 * t + i) % 4 = i := by omega
  exact ⟨List.mem_map.mpr ⟨i, List.mem_range.mpr hi, rfl⟩, by rwa [h4]⟩

/-- A tower in ENUMERATE, its decks' translations dropped. -/
def enumerating (s : State) (t : Nat) (c : Change) : State :=
  { s.setTower t { s.tower t with st := .enumerate } with
    tlbs := s.tlbs.filter (fun (e : Nat × List TlbEntry) =>
      !((decksUp s t c.cmask ++ decksDown s t c.cmask).contains (if e.1 < 2048 then deckOf e.1 else e.1 - 2048))) }

theorem execRoleEnumerate_flush {s : State} {tower : BitVec 2} {c : Change} (hc : (s.tower tower.toNat).change = some c)
    (hst : (s.tower tower.toNat).st = .flush) : exec (.roleEnumerate tower) s =
    .next (rewriteTables ((towerDecks tower.toNat).foldl
      (enumerateDeck c.cmask (decksUp s tower.toNat c.cmask) (decksDown s tower.toNat c.cmask)) (enumerating s tower.toNat c))
      (decksDown s tower.toNat c.cmask)) := by
  have hx : exec (.roleEnumerate tower) s = execRoleEnumerate tower s := rfl
  rw [hx, execRoleEnumerate]
  simp only [hc, enumerating]
  exact if_pos hst
theorem execRoleEnumerate_enumerate {s : State} {tower : BitVec 2} {c : Change} (hc : (s.tower tower.toNat).change = some c)
    (hst : (s.tower tower.toNat).st = .enumerate) : exec (.roleEnumerate tower) s = .next (rewriteTables s (decksDown s tower.toNat c.cmask)) := by
  have hx : exec (.roleEnumerate tower) s = execRoleEnumerate tower s := rfl
  rw [hx, execRoleEnumerate]
  simp only [hc]
  rw [if_neg (by rw [hst]; decide), if_pos hst]

end Sys2Proof.Proofs
end

section
/-!
PROOFS. The return of a tower to RUN (R27 to R29), and the statement on role changes.
-/

namespace Sys2Proof.Proofs
open Sys2Proof Sys2Proof.Machine Sys2Proof.Claim

/-! ## The steps of bring-up (R29) -/

/-- The compute decks that bring-up still has to step. -/
def unstepped (s : State) : List Nat := (List.range 16).filter (fun d => deckCompute s d && (s.deck d).cur ≠ initialFreq s d)

theorem mem_unstepped {s : State} {d : Nat} : d ∈ unstepped s ↔ d < 16 ∧ deckCompute s d = true ∧ (s.deck d).cur ≠ initialFreq s d := by
  simp only [unstepped, List.mem_filter, List.mem_range, Bool.and_eq_true, decide_eq_true_eq]

/-- The request for a deck's initial frequency. -/
def requestStep (s : State) (d : Nat) : State := requestFreq s none d (initialFreq s d)
/-- The initial frequency of a deck with a given ceiling. -/
def initialOf (d : Nat) (x : Deck) : Byte := .ofNat 8 (12 + Config.initialFreq d % (x.ceil.toNat - 11))

theorem requestInitial_eq (s : State) : requestInitial s =
    { (unstepped s).foldl requestStep s with
      initial := some ((unstepped s).map (fun d => (d, (s.deck d).relock))), bringup := !(unstepped s).isEmpty } := rfl

theorem requested_cur (x : Deck) (f : Byte) (now : Nat) : (requested x f now).cur = x.cur ∧ (requested x f now).ceil = x.ceil := by
  unfold requested
  split
  · exact ⟨rfl, rfl⟩
  · split <;> exact ⟨rfl, rfl⟩
theorem requested_goal {x : Deck} {f : Byte} (now : Nat) (h : x.cur ≠ f) :
    (requested x f now).waiting.getD (requested x f now).target = f := by
  unfold requested
  split
  · rfl
  · rw [if_neg (Ne.symm h)]
    rfl

theorem requestSteps_sans (l : List Nat) : ∀ (s : State), (∀ d ∈ l, d < 16) → SameBoard s (l.foldl requestStep s) := by
  induction l with
  | nil => exact fun _ _ => rfl
  | cons d r ih =>
    intro s hl
    exact (ih _ fun e he => hl e (List.mem_cons_of_mem _ he)).trans (requestFreq_sans s none _ (hl d (by simp)))
theorem requestSteps_deck (s : State) {d : Nat} (hd : d < 16) : ((unstepped s).foldl requestStep s).deck d =
    if d ∈ unstepped s then requested (s.deck d) (initialFreq s d) s.reft.toNat else s.deck d := by
  have hlt : ∀ i ∈ unstepped s, i < 16 := fun i hi => (mem_unstepped.mp hi).1
  have hkeep : ∀ u : State, ∀ i ∈ unstepped s, SameBoard s u → SameBoard s (requestStep u i) := fun u i hi hu =>
    (requestFreq_sans u none _ (hlt i hi)).trans hu
  have hother : ∀ u : State, ∀ i ∈ unstepped s, SameBoard s u → i ≠ d → (requestStep u i).deck d = u.deck d := fun u i hi _ hne =>
    requestFreq_deck_other u none _ (hlt i hi) hd (Ne.symm hne)
  split
  · rename_i hm
    refine foldl_place_same (val := State.deck) (P := SameBoard s) (g := fun x => requested x (initialOf d x) s.reft.toNat) _
      (List.nodup_range.filter _) hkeep hother (fun u hu => ?_) hm s rfl
    rw [requestStep, requestFreq_deck_same u none _ hd, hu.reft]
    rfl
  · exact foldl_place_other (val := State.deck) (P := SameBoard s) _ hkeep hother ‹_› s rfl

theorem requestInitial_towers (s : State) : (requestInitial s).towers = s.towers :=
  (requestSteps_sans (unstepped s) s fun _ hd => (mem_unstepped.mp hd).1).towers

/-- Every compute deck is at its initial frequency or on its way there; bring-up goes on while one is not at it. -/
theorem requestInitial_spec (s : State) : (requestInitial s).initial ≠ none
    ∧ ((requestInitial s).bringup = true ↔ ∃ d, d < 16 ∧ deckCompute (requestInitial s) d = true
        ∧ ((requestInitial s).deck d).cur ≠ initialFreq (requestInitial s) d)
    ∧ ∀ d, d < 16 → deckCompute (requestInitial s) d = true → ((requestInitial s).deck d).cur = initialFreq (requestInitial s) d
        ∨ ((requestInitial s).deck d).waiting.getD ((requestInitial s).deck d).target = initialFreq (requestInitial s) d := by
  have hcomp : deckCompute (requestInitial s) = deckCompute s := deckCompute_of_towers (requestInitial_towers s)
  have hdeck : ∀ {d}, d < 16 → (requestInitial s).deck d =
      if d ∈ unstepped s then requested (s.deck d) (initialFreq s d) s.reft.toNat else s.deck d := fun hd => requestSteps_deck s hd
  have hsame : ∀ {d}, d < 16 → ((requestInitial s).deck d).cur = (s.deck d).cur ∧ initialFreq (requestInitial s) d = initialFreq s d := by
    intro d hd
    have hc : ((requestInitial s).deck d).cur = (s.deck d).cur ∧ ((requestInitial s).deck d).ceil = (s.deck d).ceil := by
      rw [hdeck hd]
      split
      · exact requested_cur ..
      · exact ⟨rfl, rfl⟩
    exact ⟨hc.1, by rw [initialFreq, initialFreq, hc.2]⟩
  refine ⟨Option.some_ne_none _, ?_, fun d hd hc => ?_⟩
  · have hb : (requestInitial s).bringup = true ↔ ∃ d, d ∈ unstepped s := by
      rw [requestInitial_eq]
      simp only [Bool.not_eq_true', List.isEmpty_eq_false_iff_exists_mem]
    rw [hb, hcomp]
    refine exists_congr fun d => mem_unstepped.trans (and_congr_right fun hd => ?_)
    rw [(hsame hd).1, (hsame hd).2]
  · rw [hcomp] at hc
    rw [(hsame hd).1, (hsame hd).2, or_iff_not_imp_left]
    intro hne
    rw [hdeck hd, if_pos (mem_unstepped.mpr ⟨hd, hc, hne⟩)]
    exact requested_goal _ hne

/-! ## ROLE_RUN (R27, R28) -/

/-- The tower serves, the requests that its decks held are met, its part of a ROLESET ends. -/
def returned (s : State) (t : Nat) (c : Change) : State :=
  settleRole (meetAll (s.setTower t { s.tower t with st := .run, cmask := c.cmask, change := none }) t) t c.async none

section Run
variable {s : State} {tower : BitVec 2} {c : Change} (hc : (s.tower tower.toNat).change = some c)
  (hst : (s.tower tower.toNat).st = .enumerate)
include hc

theorem execRoleRun_eq : exec (.roleRun tower) s =
    if (s.tower tower.toNat).st = .enumerate && (towerDecks tower.toNat).all (fun d => !(s.deck d).relock)
        && (affected s (decksDown s tower.toNat c.cmask)).isEmpty then
      .next (if (returned s tower.toNat c).trained && (returned s tower.toNat c).initial.isNone
          && (List.range 4).all (fun u => ((returned s tower.toNat c).tower u).st = .run) then requestInitial (returned s tower.toNat c)
        else returned s tower.toNat c)
    else .next s := by
  have hx : exec (.roleRun tower) s = execRoleRun tower s := rfl
  rw [hx, execRoleRun]
  simp only [hc, returned]
  split
  · exact (apply_ite (Host.Outcome.next : State → Res) _ _ _).symm
  · rfl

theorem execRoleRun_relock {i : Nat} (hi : i < 4) (hr : (s.deck (4 * tower.toNat + i)).relock = true) : exec (.roleRun tower) s = .next s := by
  have hall : (towerDecks tower.toNat).all (fun d => !(s.deck d).relock) = false := by
    rw [List.all_eq_false]
    exact ⟨4 * tower.toNat + i, List.mem_map.mpr ⟨i, List.mem_range.mpr hi, rfl⟩, by rw [hr]; decide⟩
  rw [execRoleRun_eq hc, hall, Bool.and_false, Bool.false_and, if_neg Bool.false_ne_true]
theorem execRoleRun_affected (ha : affected s (decksDown s tower.toNat c.cmask) ≠ []) : exec (.roleRun tower) s = .next s := by
  have he : (affected s (decksDown s tower.toNat c.cmask)).isEmpty = false := by
    rw [Bool.eq_false_iff, Ne, List.isEmpty_iff]
    exact ha
  rw [execRoleRun_eq hc, he, Bool.and_false, if_neg Bool.false_ne_true]

include hst in
theorem execRoleRun_ready (hr : ∀ i, i < 4 → (s.deck (4 * tower.toNat + i)).relock = false)
    (ha : affected s (decksDown s tower.toNat c.cmask) = []) : exec (.roleRun tower) s =
      .next (if (returned s tower.toNat c).trained && (returned s tower.toNat c).initial.isNone
          && (List.range 4).all (fun u => ((returned s tower.toNat c).tower u).st = .run) then requestInitial (returned s tower.toNat c)
        else returned s tower.toNat c) := by
  have hall : (towerDecks tower.toNat).all (fun d => !(s.deck d).relock) = true := by
    rw [List.all_eq_true]
    intro d hd
    obtain ⟨i, hi, rfl⟩ := List.mem_map.mp hd
    rw [hr i (List.mem_range.mp hi)]
    rfl
  rw [execRoleRun_eq hc, hall, ha, hst]
  exact if_pos rfl

end Run

/-- Requests and completions leave the towers as they are. -/
theorem settledTowers (s : State) {t : Nat} (ht : t < 4) (async : Option Nat) (fault : Option Word) :
    (settleRole (meetAll s t) t async fault).towers = s.towers :=
  (congrArg State.towers (settleRole_front (meetAll s t) t async fault) :).trans (meetAll_before s ht).1.towers
theorem returned_before (s : State) {t : Nat} (ht : t < 4) (c : Change) :
    (returned s t c).towers = (s.setTower t { s.tower t with st := .run, cmask := c.cmask, change := none }).towers
    ∧ (returned s t c).trained = s.trained ∧ (s.initial = none → (returned s t c).initial = none) := by
  have hf := settleRole_front (meetAll (s.setTower t { s.tower t with st := .run, cmask := c.cmask, change := none }) t) t c.async none
  have hm := meetAll_before (s.setTower t { s.tower t with st := .run, cmask := c.cmask, change := none }) ht
  have htr := (congrArg State.trained hm.1 :)
  have hft := (congrArg State.trained hf :)
  have hfi := (congrArg State.initial hf :)
  exact ⟨settledTowers _ ht .., hft.trans htr, fun h => hfi.trans (hm.2 h)⟩

/-! ## Bring-up (R29) -/

theorem execDramTrained_held {s : State} (h : s.trained = true ∨ ∃ i, i < 4 ∧ (s.tower i).st ≠ .run) : exec .dramTrained s = .next s := by
  have hx : exec .dramTrained s = execDramTrained s := rfl
  rw [hx, execDramTrained]
  refine if_pos ?_
  simp only [Bool.or_eq_true, List.any_eq_true, List.mem_range, decide_eq_true_eq]
  exact h
theorem execDramTrained_starts {s : State} (h : s.trained = false) (hr : ∀ i, i < 4 → (s.tower i).st = .run) : exec .dramTrained s =
    .next (startChanges { s with trained := true } true initialMap s.reft.toNat none 0 [0, 1, 2, 3]) := by
  have hx : exec .dramTrained s = execDramTrained s := rfl
  rw [hx, execDramTrained]
  refine if_neg ?_
  simp only [h, Bool.false_or, List.any_eq_true, List.mem_range, decide_eq_true_eq, not_exists, not_and, not_not]
  exact hr

theorem initialMap_legal (t : Nat) : initialMap t ≠ 15 ∧ (Config.mapListed t (initialMap t).toNat = true ∨ initialMap t = 1) := by
  unfold initialMap
  dsimp only
  rw [List.getD_eq_getElem?_getD]
  cases hg : (((List.range 15).map (fun i => BitVec.ofNat 4 i)).filter (mapLegal t))[Config.initialMap t
      % (((List.range 15).map (fun i => BitVec.ofNat 4 i)).filter (mapLegal t)).length]? with
  | none => exact ⟨by decide, Or.inr rfl⟩
  | some m =>
    have hm := (List.mem_filter.mp (List.mem_of_getElem? hg)).2
    rw [mapLegal, Bool.and_eq_true, decide_eq_true_eq] at hm
    exact ⟨hm.1, Or.inl hm.2⟩

/-! ## The statement -/

/-- A ROLESET that its conditions allow (R22, R378). -/
theorem roleset_starts {s : State} {h : Hdr} {towers mode : Byte} {maps : W32} {deadline evac : Word} (hp : qPriv s s.fq = true)
    (hok : RolesetOk towers mode maps) (htr : s.trained = true) (hro : roundHolds s (namedTowers towers) = false)
    (hts : ∀ i ∈ namedTowers towers, (s.tower i).st = .run ∧ mapByte maps i ≠ 15 ∧ Config.mapListed i (mapByte maps i) = true)
    (hctx : ∀ e ∈ s.ctxs, 2 ^ (e.2.wlog + e.2.hlog) ≤ coresUnder s e.2.part (fun i => if i ∈ namedTowers towers then
      .ofNat 4 (mapByte maps i) else mapAfter s i)) :
    ∃ u, exec (.roleset h towers mode maps deadline evac) s = .next u
        ∧ (∃ a ∈ u.asyncs, a.kind = .roleset (namedTowers towers) none ∧ a.id = s.nextId)
        ∧ (∀ i ∈ namedTowers towers, (u.tower i).st = .drain ∧ (u.tower i).cmask = (s.tower i).cmask ∧ ∃ c, (u.tower i).change = some c
            ∧ c.cmask = .ofNat 4 (mapByte maps i) ∧ c.release = decide (mode = 1) ∧ c.deadline = s.reft.toNat + deadline.toNat
            ∧ c.async = some s.nextId ∧ c.expired = false)
        ∧ (∀ i, i < 4 → i ∉ namedTowers towers → u.tower i = s.tower i) := by
  have h1 : (!s.trained || roundHolds s (namedTowers towers)) = false := by rw [htr, hro]; rfl
  have h2 : (namedTowers towers).any (fun t => (s.tower t).st ≠ .run) = false := by
    simp only [List.any_eq_false, decide_eq_true_eq, not_not]
    exact fun i hi => (hts i hi).1
  have h3 : (namedTowers towers).any (fun t => !(mapLegal t (.ofNat 4 (maps.toNat / 2 ^ (8 * t))))) = false := by
    simp only [List.any_eq_false, Bool.not_eq_true', Bool.not_eq_false]
    exact fun i hi => (mapLegal_mapByte (hok.bytes i (mem_namedTowers hi)).1).mpr (hts i hi).2
  have hmap : (fun t => if (namedTowers towers).contains t then BitVec.ofNat 4 (maps.toNat / 2 ^ (8 * t)) else mapAfter s t)
      = fun i => if i ∈ namedTowers towers then .ofNat 4 (mapByte maps i) else mapAfter s i := by
    funext i
    simp only [List.contains_iff_mem, ofNat_mapByte]
  have h4 : s.ctxs.any (fun (e : Nat × Ctx) => coresUnder s e.2.part (fun t => if (namedTowers towers).contains t then
      .ofNat 4 (maps.toNat / 2 ^ (8 * t)) else mapAfter s t) < 2 ^ (e.2.wlog + e.2.hlog)) = false := by
    simp only [List.any_eq_false, decide_eq_true_eq, Nat.not_lt]
    intro e he
    rw [hmap]
    exact hctx e he
  have hpk := startAsync_packet s s.fq h (.roleset (namedTowers towers) none)
  have htow : (startAsync s s.fq h (.roleset (namedTowers towers) none)).tower = s.tower := tower_of_towers (packet_towers hpk :)
  have has : (startAsync s s.fq h (.roleset (namedTowers towers) none)).asyncs = s.asyncs ++ [_] := (packet_asyncs hpk :)
  obtain ⟨hrest, hother, hin⟩ := startChanges_spec (mode = 1) (fun t => .ofNat 4 (maps.toNat / 2 ^ (8 * t))) (s.reft.toNat + deadline.toNat)
    (some s.nextId) (namedTowers towers) (nodup_namedTowers towers) (fun i => mem_namedTowers)
    (startAsync s s.fq h (.roleset (namedTowers towers) none)) evac.toNat
  refine ⟨_, (execRoleset_eq hp hok).trans ((if_neg (Bool.eq_false_iff.mp h1)).trans ((if_neg (Bool.eq_false_iff.mp h2)).trans
    ((if_neg (Bool.eq_false_iff.mp h3)).trans (if_neg (Bool.eq_false_iff.mp h4))))), ?_, fun i hi => ?_, fun i hi hni => ?_⟩
  · rw [hrest]
    dsimp only
    rw [has]
    exact ⟨_, List.mem_append_right _ (List.mem_singleton_self _), rfl, rfl⟩
  · obtain ⟨e, he⟩ := hin i hi
    rw [he, htow]
    exact ⟨rfl, rfl, _, rfl, ofNat_mapByte i, rfl, rfl, rfl, rfl⟩
  · rw [hother i hi hni, htow]

theorem roleset_illegal {s : State} {h : Hdr} {towers mode : Byte} {maps : W32} {deadline evac : Word} (hp : qPriv s s.fq = true)
    (hok : RolesetOk towers mode maps) (htr : s.trained = true) (hro : roundHolds s (namedTowers towers) = false)
    (hrun : ∀ i ∈ namedTowers towers, (s.tower i).st = .run)
    (hm : ∃ i ∈ namedTowers towers, mapByte maps i = 15 ∨ Config.mapListed i (mapByte maps i) = false) :
    exec (.roleset h towers mode maps deadline evac) s = .next (fail s s.fq h 5) := by
  have h1 : (!s.trained || roundHolds s (namedTowers towers)) = false := by rw [htr, hro]; rfl
  have h2 : (namedTowers towers).any (fun t => (s.tower t).st ≠ .run) = false := by
    simp only [List.any_eq_false, decide_eq_true_eq, not_not]
    exact hrun
  have h3 : (namedTowers towers).any (fun t => !(mapLegal t (.ofNat 4 (maps.toNat / 2 ^ (8 * t))))) = true := by
    obtain ⟨i, hi, hbad⟩ := hm
    refine List.any_eq_true.mpr ⟨i, hi, ?_⟩
    rw [Bool.not_eq_true', Bool.eq_false_iff, Ne, mapLegal_mapByte (hok.bytes i (mem_namedTowers hi)).1]
    rintro ⟨hne, hl⟩
    rcases hbad with hb | hb
    · exact hne hb
    · exact Bool.false_ne_true (hb.symm.trans hl)
  exact (execRoleset_eq hp hok).trans ((if_neg (Bool.eq_false_iff.mp h1)).trans ((if_neg (Bool.eq_false_iff.mp h2)).trans (if_pos h3)))

theorem roleset_held {s : State} {h : Hdr} {towers mode : Byte} {maps : W32} {deadline evac : Word} (hp : qPriv s s.fq = true)
    (hok : RolesetOk towers mode maps) (hh : s.trained = false ∨ roundHolds s (namedTowers towers) = true) :
    exec (.roleset h towers mode maps deadline evac) s = .next s := by
  refine (execRoleset_eq hp hok).trans (if_pos ?_)
  rcases hh with hh | hh <;> simp [hh]

/-- FLUSH: the decks that change are zero, everything else is as the evacuation left it (R25). -/
theorem roleFlush_evacuated {s s1 : State} {tower : BitVec 2} {c : Change} (hc : (s.tower tower.toNat).change = some c)
    (hst : (s.tower tower.toNat).st = .drain) (hd : drained s tower.toNat c = true)
    (he : evacuate (evacWho s c.async) (!c.release) s c.evac.toNat (decksUp s tower.toNat c.cmask) = (s1, none)) :
    ∃ u, exec (.roleFlush tower) s = .next u ∧ (u.tower tower.toNat).st = .flush
      ∧ (∀ d ∈ changingDecks s1 tower.toNat, ∀ b, inDeck d b = true → Memory.read u.mem b = 0)
      ∧ ∀ b, (∀ d ∈ changingDecks s1 tower.toNat, inDeck d b = false) → Memory.read u.mem b = Memory.read s1.mem b := by
  refine ⟨_, execRoleFlush_evacuated hc hst hd he, ?_, fun d hd b hb => ?_, fun b hb => ?_⟩
  · rw [tower_of_towers (zeroDecks_towers ..), tower_setTower_same _ _ tower.isLt]
  · rw [zeroDecks_read, if_pos (List.any_eq_true.mpr ⟨d, hd, hb⟩)]
  · rw [zeroDecks_read, if_neg (Bool.eq_false_iff.mp (List.any_eq_false.mpr fun d hd => Bool.eq_false_iff.mp (hb d hd)))]
    rfl

/-- An evacuation that fails returns the tower to RUN with its old map (R26). -/
theorem roleFlush_fault {s s1 : State} {va : Word} {tower : BitVec 2} {c : Change} (hc : (s.tower tower.toNat).change = some c)
    (hst : (s.tower tower.toNat).st = .drain) (hd : drained s tower.toNat c = true)
    (he : evacuate (evacWho s c.async) (!c.release) s c.evac.toNat (decksUp s tower.toNat c.cmask) = (s1, some va)) :
    ∃ u, exec (.roleFlush tower) s = .next u ∧ (u.tower tower.toNat).st = .run ∧ (u.tower tower.toNat).change = none := by
  refine ⟨_, execRoleFlush_fault hc hst hd he, ?_⟩
  rw [tower_of_towers (settledTowers _ tower.isLt ..), tower_setTower_same _ _ tower.isLt]
  exact ⟨rfl, rfl⟩

/-- ENUMERATE begins: the tower's decks change their roles (R23, R24). -/
theorem roleEnumerate_flush {s : State} {tower : BitVec 2} {c : Change} (hc : (s.tower tower.toNat).change = some c)
    (hst : (s.tower tower.toNat).st = .flush) : ∃ u, exec (.roleEnumerate tower) s = .next u
      ∧ u.tower tower.toNat = { s.tower tower.toNat with st := .enumerate }
      ∧ ((∀ e ∈ s.ctxs, namesDeck e.2 (decksDown s tower.toNat c.cmask) = false) → u.ctxs = s.ctxs)
      ∧ (∀ d ∈ decksDown s tower.toNat c.cmask, u.deck d = { s.deck d with relock := false, waiting := none, pending := none })
      ∧ ∀ d ∈ decksUp s tower.toNat c.cmask, u.deck d = risenDeck c.cmask := by
  have ht : tower.toNat < 4 := tower.isLt
  have hs := enumerateDecks_sans (m := c.cmask) (up := decksUp s tower.toNat c.cmask) (down := decksDown s tower.toNat c.cmask) ht
    (enumerating s tower.toNat c)
  have hctxs := (congrArg State.ctxs hs :)
  obtain ⟨htow, hdecks⟩ := rewriteTables_board ((towerDecks tower.toNat).foldl
    (enumerateDeck c.cmask (decksUp s tower.toNat c.cmask) (decksDown s tower.toNat c.cmask)) (enumerating s tower.toNat c))
    (decksDown s tower.toNat c.cmask)
  refine ⟨_, execRoleEnumerate_flush hc hst, ?_, fun hn => ?_, fun d hd => ?_, fun d hd => ?_⟩
  · rw [tower_of_towers (htow.trans (SameBoard.towers hs))]
    exact tower_setTower_same _ _ ht
  · rw [rewriteTables_unaffected]
    · exact hctxs
    · intro e he
      exact hn e ((congrArg (e ∈ ·) hctxs :).mp he)
  · rw [deck_of_decks hdecks, enumerateDecks_down ht _ (mem_decksDown hd).1 hd]
    rfl
  · have hnd : d ∉ decksDown s tower.toNat c.cmask := fun h => Bool.false_ne_true ((mem_decksUp hd).2.symm.trans (mem_decksDown h).2)
    rw [deck_of_decks hdecks, enumerateDecks_up ht _ (mem_decksUp hd).1 hnd hd]

/-- The tower serves with its new map, and the last of bring-up asks for the initial frequencies (R27 to R29). -/
theorem roleRun_ready {s : State} {tower : BitVec 2} {c : Change} (hc : (s.tower tower.toNat).change = some c)
    (hst : (s.tower tower.toNat).st = .enumerate) (hr : ∀ i, i < 4 → (s.deck (4 * tower.toNat + i)).relock = false)
    (ha : affected s (decksDown s tower.toNat c.cmask) = []) : ∃ u, exec (.roleRun tower) s = .next u
      ∧ u.tower tower.toNat = { s.tower tower.toNat with st := .run, cmask := c.cmask, change := none }
      ∧ (s.trained = true → s.initial = none → (∀ i, i < 4 → i ≠ tower.toNat → (s.tower i).st = .run) → u.initial ≠ none
          ∧ (u.bringup = true ↔ ∃ d, d < 16 ∧ deckCompute u d = true ∧ (u.deck d).cur ≠ initialFreq u d)
          ∧ ∀ d, d < 16 → deckCompute u d = true → (u.deck d).cur = initialFreq u d
            ∨ (u.deck d).waiting.getD (u.deck d).target = initialFreq u d) := by
  have ht : tower.toNat < 4 := tower.isLt
  obtain ⟨htow, htr, hin⟩ := returned_before s ht c
  have hsame : (returned s tower.toNat c).tower tower.toNat = { s.tower tower.toNat with st := .run, cmask := c.cmask, change := none } := by
    rw [tower_of_towers htow, tower_setTower_same _ _ ht]
  refine ⟨_, execRoleRun_ready hc hst hr ha, ?_, fun htrained hinit hothers => ?_⟩
  · split
    · rw [tower_of_towers (requestInitial_towers _), hsame]
    · exact hsame
  · have hall : (List.range 4).all (fun u => ((returned s tower.toNat c).tower u).st = .run) = true := by
      simp only [List.all_eq_true, List.mem_range, decide_eq_true_eq]
      intro i hi
      by_cases hit : i = tower.toNat
      · rw [hit, hsame]
      · rw [tower_of_towers htow, tower_setTower_other _ _ hi hit]
        exact hothers i hi hit
    have hcond : ((returned s tower.toNat c).trained && (returned s tower.toNat c).initial.isNone
        && (List.range 4).all (fun u => ((returned s tower.toNat c).tower u).st = .run)) = true := by
      rw [htr, htrained, hin hinit, hall]
      rfl
    rw [if_pos hcond]
    exact requestInitial_spec _

/-- Settles O51: ROLESET, then the states of a tower in their order, then power-on and bring-up. -/
theorem rolesChange : Obligations.RolesChange := by
  intro s h towers mode maps deadline evac tower q t x ts m fast
  have ht : t < 4 := tower.isLt
  refine ⟨fun hp h16 hm hne hb => roleset_held hp ⟨h16, hm, hne, hb⟩,
    fun hp h16 hm hne hb htr hro hts hctx => roleset_starts hp ⟨h16, hm, hne, hb⟩ htr hro hts hctx,
    fun hp h16 hm hb htr hro hrun hbad => ?_, fun c hc => ⟨fun hst he => ⟨fun hd => ?_, execDrainDeadline_early hc⟩, fun hst hrun hsteps hbusy => ?_,
      fun hst hbusy => ?_, fun hst => roleEnumerate_flush hc hst, fun hst => ⟨execRoleEnumerate_enumerate hc hst,
        fun ha => execRoleRun_affected hc ha, fun hr ha => roleRun_ready hc hst hr ha, fun i hi hr => execRoleRun_relock hc hi hr⟩⟩,
    ⟨_, rfl, rfl⟩, execDramTrained_held, fun htr hrun => ?_⟩
  · obtain ⟨i, hi, hmi⟩ := hbad
    exact roleset_illegal hp ⟨h16, hm, List.ne_nil_of_mem hi, hb⟩ htr hro hrun ⟨i, hi, hmi⟩
  · refine ⟨_, execDrainDeadline_due hc hst he hd, ?_⟩
    rw [tower_of_towers (clearDecks_towers ..), tower_setTower_same _ _ ht]
  · have hdr : drained s t c = true := drained_iff.mpr ⟨hrun, hsteps, hbusy⟩
    exact ⟨fun he => roleFlush_evacuated hc hst hdr (Prod.ext rfl he), fun va he => roleFlush_fault hc hst hdr (Prod.ext rfl he)⟩
  · refine execRoleFlush_undrained hc hst (Bool.eq_false_iff.mpr fun hdr => ?_)
    obtain ⟨hrun, hsteps, hidle⟩ := drained_iff.mp hdr
    rcases hbusy with hb | ⟨p, hp, hb⟩ | ⟨d, hd, hb⟩
    · exact hb hrun
    · exact hsteps p hp hb
    · exact Bool.false_ne_true ((hidle d hd).symm.trans hb)
  · obtain ⟨hrest, -, hin⟩ := startChanges_spec true initialMap s.reft.toNat none [0, 1, 2, 3] (by decide) (by decide)
      { s with trained := true } 0
    refine ⟨_, execDramTrained_starts htr hrun, ?_, hrest, fun i hi => ?_⟩
    · exact (congrArg State.trained hrest :)
    · obtain ⟨e, he⟩ := hin i (by simp; omega)
      rw [he]
      exact ⟨rfl, _, rfl, rfl, rfl, rfl, (initialMap_legal i).1, (initialMap_legal i).2⟩

end Sys2Proof.Proofs
end

section
/-!
PROOFS. The visits of the planner ring, and the positions of a new step (R330, R343).
-/

namespace Sys2Proof.Proofs
open Sys2Proof Sys2Proof.Machine Sys2Proof.Claim

/-! ## Tables with rising keys -/

/-- The form that `Tbl.put` keeps: strictly rising keys. -/
def KeysRise {α : Type} (t : Tbl α) : Prop := t.Pairwise (fun c d => c.1 < d.1)

section Rising
variable {α : Type}

theorem mem_put {t : Tbl α} (ht : KeysRise t) (k : Nat) (v : α) (e : Nat × α) : e ∈ Tbl.put t k v ↔ e = (k, v) ∨ (e ∈ t ∧ e.1 ≠ k) := by
  induction t with
  | nil => simp [Tbl.put]
  | cons c r ih =>
    obtain ⟨j, w⟩ := c
    obtain ⟨hj, hr⟩ := List.pairwise_cons.mp ht
    have hjr : e ∈ r → j < e.1 := fun he => hj e he
    rw [Tbl.put]
    split
    · simp only [List.mem_cons]
      constructor
      · rintro (h | rfl | h)
        · exact Or.inl h
        · exact Or.inr ⟨Or.inl rfl, by dsimp only; omega⟩
        · exact Or.inr ⟨Or.inr h, by have := hjr h; omega⟩
      · rintro (h | ⟨h, -⟩)
        · exact Or.inl h
        · exact Or.inr h
    split
    · subst k
      simp only [List.mem_cons]
      constructor
      · rintro (h | h)
        · exact Or.inl h
        · exact Or.inr ⟨Or.inr h, by have := hjr h; omega⟩
      · rintro (h | ⟨rfl | h, hne⟩)
        · exact Or.inl h
        · exact absurd rfl hne
        · exact Or.inr h
    · rename_i hlt hne
      rw [List.mem_cons, ih hr, List.mem_cons]
      constructor
      · rintro (rfl | h | ⟨h, hk⟩)
        · exact Or.inr ⟨Or.inl rfl, hne⟩
        · exact Or.inl h
        · exact Or.inr ⟨Or.inr h, hk⟩
      · rintro (h | ⟨rfl | h, hk⟩)
        · exact Or.inr (Or.inl h)
        · exact Or.inl rfl
        · exact Or.inr (Or.inr ⟨h, hk⟩)

theorem keysRise_put {t : Tbl α} (ht : KeysRise t) (k : Nat) (v : α) : KeysRise (Tbl.put t k v) := by
  induction t with
  | nil => exact List.pairwise_singleton ..
  | cons c r ih =>
    obtain ⟨j, w⟩ := c
    obtain ⟨hj, hr⟩ := List.pairwise_cons.mp ht
    rw [Tbl.put]
    split
    · refine List.pairwise_cons.mpr ⟨fun e he => ?_, ht⟩
      rcases List.mem_cons.mp he with rfl | he
      · assumption
      · exact lt_trans ‹_› (hj e he)
    split
    · subst k
      exact List.pairwise_cons.mpr ⟨hj, hr⟩
    · refine List.pairwise_cons.mpr ⟨fun e he => ?_, ih hr⟩
      rcases (mem_put hr k v e).mp he with rfl | ⟨he, -⟩
      · dsimp only
        omega
      · exact hj e he

theorem mem_of_look {t : Tbl α} {k : Nat} {v : α} (h : Tbl.look t k = some v) : (k, v) ∈ t := by
  induction t with
  | nil => exact nomatch h
  | cons c r ih =>
    rw [Tbl.look] at h
    split at h
    · cases h
      subst k
      exact List.mem_cons_self ..
    · exact List.mem_cons_of_mem _ (ih h)

theorem keys_nodup {t : Tbl α} (ht : KeysRise t) : (t.map (fun e => e.1)).Nodup :=
  (List.pairwise_map.mpr ht).imp fun h => Nat.ne_of_lt h

/-- What a replaced entry adds to the sum of a table. -/
theorem sum_put (t : Tbl Nat) (ht : KeysRise t) (k v : Nat) :
    ((Tbl.put t k v).map (fun e => e.2)).sum + Tbl.get t k 0 = (t.map (fun e => e.2)).sum + v := by
  induction t with
  | nil => simp [Tbl.put, Tbl.get, Tbl.look]
  | cons c r ih =>
    obtain ⟨j, w⟩ := c
    obtain ⟨hj, hr⟩ := List.pairwise_cons.mp ht
    rw [Tbl.put]
    split
    · have hnone : Tbl.look ((j, w) :: r) k = none := by
        cases hl : Tbl.look ((j, w) :: r) k with
        | none => rfl
        | some x =>
          rcases List.mem_cons.mp (mem_of_look hl) with he | he
          · cases he
            omega
          · have := hj _ he
            dsimp only at this
            omega
      rw [Tbl.get, hnone]
      simp only [List.map_cons, List.sum_cons, Option.getD_none]
      omega
    split
    · rw [Tbl.get, Tbl.look, if_pos ‹_›]
      simp only [List.map_cons, List.sum_cons, Option.getD_some]
      omega
    · have hg : Tbl.get ((j, w) :: r) k 0 = Tbl.get r k 0 := by rw [Tbl.get, Tbl.look, if_neg ‹_›, Tbl.get]
      have := ih hr
      rw [hg]
      simp only [List.map_cons, List.sum_cons]
      omega

end Rising

theorem foldl_add_eq_sum (l : List Nat) : l.foldl (· + ·) 0 = l.sum := (List.sum_eq_foldl ..).symm

/-! ## One visit (R343) -/

/-- What a visit may spend, what its agent still asks for, and what it takes. -/
def credit (s : State) (f : Forming) (id : Nat) : Nat := Tbl.get f.defs id 0 + (if f.visiting then 0 else quantumOf s id)
def asked (s : State) (f : Forming) (id : Nat) : Nat := demandOf s id - Tbl.get f.planned id 0
def taken (s : State) (f : Forming) (id : Nat) : Nat := min (credit s f id) (min (asked s f id) f.room)

theorem visitRing_cons {s : State} {f : Forming} {id : Nat} {r : List Nat} (h : f.ring = id :: r) : visitRing s f =
    { ring := if asked s f id = taken s f id || credit s f id - taken s f id = 0 then r ++ [id] else f.ring
      visiting := !(asked s f id = taken s f id || credit s f id - taken s f id = 0)
      defs := Tbl.put f.defs id (if asked s f id = taken s f id then 0 else credit s f id - taken s f id)
      planned := if taken s f id = 0 then f.planned else Tbl.put f.planned id (Tbl.get f.planned id 0 + taken s f id)
      room := f.room - taken s f id, idle := if taken s f id = 0 then f.idle + 1 else 0 } := by
  rw [visitRing, h]
  rfl

theorem taken_le (s : State) (f : Forming) (id : Nat) : taken s f id ≤ credit s f id ∧ taken s f id ≤ asked s f id ∧ taken s f id ≤ f.room :=
  ⟨Nat.min_le_left .., (Nat.min_le_right ..).trans (Nat.min_le_left ..), (Nat.min_le_right ..).trans (Nat.min_le_right ..)⟩

theorem get_planned_visit (f : Forming) (id k x : Nat) :
    Tbl.get (if k = 0 then f.planned else Tbl.put f.planned id (Tbl.get f.planned id 0 + k)) x 0
      = Tbl.get f.planned x 0 + if x = id then k else 0 := by
  by_cases hx : x = id
  · subst x
    rw [if_pos rfl]
    split
    · subst k
      rfl
    · exact Tbl.get_put_same ..
  · rw [if_neg hx]
    split
    · rfl
    · exact Tbl.get_put_other _ _ _ _ _ hx

theorem ringVisits : RingVisits := by
  intro s f id r a hr ha d demand k g
  have hd : credit s f id = d := by rw [credit, quantumOf, ha]
  have hk : taken s f id = k := by rw [taken, hd]; rfl
  obtain ⟨hkd, hkm, -⟩ := taken_le s f id
  have hg : g = _ := visitRing_cons hr
  have hdem : asked s f id = demand := rfl
  rw [hd, hk] at hkd
  rw [hk, hdem] at hkm
  rw [hg, hk, hd, hdem]
  refine ⟨rfl, ?_, ?_, fun x hx => ⟨?_, Tbl.get_put_other _ _ _ _ _ hx⟩, fun he => ?_, fun h1 h2 => ?_⟩
  · rw [get_planned_visit, if_pos rfl]
  · dsimp only
    rw [Tbl.get_put_same]
    simp only [eq_comm]
  · rw [get_planned_visit, if_neg hx, Nat.add_zero]
  · have hend : (decide (demand = k) || decide (d - k = 0)) = true := by
      rw [Bool.or_eq_true, decide_eq_true_eq, decide_eq_true_eq]
      omega
    dsimp only
    rw [hend]
    exact ⟨if_pos rfl, rfl⟩
  · have hend : (decide (demand = k) || decide (d - k = 0)) = false := by
      rw [Bool.or_eq_false_iff, decide_eq_false_iff_not, decide_eq_false_iff_not]
      omega
    dsimp only
    rw [hend]
    exact ⟨if_neg Bool.false_ne_true, rfl⟩

/-! ## The forming of a step (R330, R343) -/

/-- What holds of the forming of a step at every visit. -/
structure Forms (s : State) (ring : List Nat) (f : Forming) : Prop where
  perm : f.ring.Perm ring
  plannedRise : KeysRise f.planned
  defsRise : KeysRise f.defs
  within : ∀ e ∈ f.planned, e.1 ∈ ring ∧ 1 ≤ e.2 ∧ e.2 ≤ demandOf s e.1
  total : (f.planned.map (fun e => e.2)).sum + f.room = stepRoom
  resumes : f.visiting = true → ∀ id, f.ring.head? = some id → Tbl.get f.defs id 0 ≠ 0
  spent : ∀ e ∈ f.planned, e.2 = demandOf s e.1 → Tbl.look f.defs e.1 = some 0
  rested : ∃ l r, f.ring = l ++ r ∧ r.length = f.idle ∧ ∀ id ∈ r, demandOf s id ≤ Tbl.get f.planned id 0

section Forms
variable {s : State} {ring : List Nat} {f : Forming}

theorem Forms.planned_le (h : Forms s ring f) (id : Nat) : Tbl.get f.planned id 0 ≤ demandOf s id := by
  rw [Tbl.get]
  cases hl : Tbl.look f.planned id with
  | none => exact Nat.zero_le _
  | some v => exact (h.within _ (mem_of_look hl)).2.2

theorem quantumOf_pos {id : Nat} (h : ∃ a, s.agent id = some a ∧ 1 ≤ a.weight) : 0 < quantumOf s id := by
  obtain ⟨a, ha, hw⟩ := h
  rw [quantumOf, ha]
  positivity

/-- A visit has something to spend: a quantum, or what the visit before left. -/
theorem Forms.credit_pos (h : Forms s ring f) (hw : ∀ id ∈ ring, ∃ a, s.agent id = some a ∧ 1 ≤ a.weight) {id : Nat} {r : List Nat}
    (hr : f.ring = id :: r) : 0 < credit s f id := by
  have hid : id ∈ ring := h.perm.mem_iff.mp (hr ▸ List.mem_cons_self ..)
  rw [credit]
  split
  · rename_i hv
    have := h.resumes hv id (by rw [hr]; rfl)
    omega
  · have := quantumOf_pos (hw id hid)
    omega

/-- A visit keeps it. -/
theorem Forms.visit (h : Forms s ring f) (hw : ∀ id ∈ ring, ∃ a, s.agent id = some a ∧ 1 ≤ a.weight) (hroom : f.room ≠ 0)
    (hidle : f.idle < f.ring.length) : Forms s ring (visitRing s f) := by
  obtain ⟨id, r, hr⟩ := List.exists_cons_of_length_pos (Nat.zero_lt_of_lt hidle)
  have hid : id ∈ ring := h.perm.mem_iff.mp (hr ▸ List.mem_cons_self ..)
  have hle := h.planned_le id
  have hcr := h.credit_pos hw hr
  obtain ⟨hkc, hka, hkr⟩ := taken_le s f id
  have hk0 : taken s f id = 0 → asked s f id = 0 := fun h0 => by
    rw [taken] at h0
    omega
  have hask : asked s f id = demandOf s id - Tbl.get f.planned id 0 := rfl
  rw [visitRing_cons hr]
  constructor <;> dsimp only
  case perm =>
    split
    · refine List.Perm.trans ?_ h.perm
      rw [hr]
      exact List.perm_append_singleton ..
    · exact h.perm
  case plannedRise =>
    split
    · exact h.plannedRise
    · exact keysRise_put h.plannedRise ..
  case defsRise => exact keysRise_put h.defsRise ..
  case within =>
    intro e he
    split at he
    · exact h.within e he
    · rcases (mem_put h.plannedRise _ _ e).mp he with rfl | ⟨he, -⟩
      · dsimp only
        exact ⟨hid, by omega, by omega⟩
      · exact h.within e he
  case total =>
    have ht := h.total
    split
    · omega
    · have := sum_put f.planned h.plannedRise id (Tbl.get f.planned id 0 + taken s f id)
      omega
  case resumes =>
    intro hv x hx
    rw [Bool.not_eq_true', Bool.or_eq_false_iff, decide_eq_false_iff_not, decide_eq_false_iff_not] at hv
    rw [if_neg (by rw [Bool.or_eq_true, decide_eq_true_eq, decide_eq_true_eq]; omega), hr] at hx
    cases hx
    rw [Tbl.get_put_same, if_neg hv.1]
    exact hv.2
  case spent =>
    intro e he heq
    by_cases hx : e.1 = id
    · have hend : asked s f id = taken s f id := by
        split at he
        · omega
        · rcases (mem_put h.plannedRise _ _ e).mp he with rfl | ⟨-, hne⟩
          · dsimp only at heq
            omega
          · exact absurd hx hne
      rw [hx, Tbl.look_put_same, if_pos hend]
    · rw [Tbl.look_put_other _ _ _ _ hx]
      refine h.spent e ?_ heq
      split at he
      · exact he
      · rcases (mem_put h.plannedRise _ _ e).mp he with rfl | ⟨he, -⟩
        · exact absurd rfl hx
        · exact he
  case rested =>
    by_cases h0 : taken s f id = 0
    · have ha := hk0 h0
      have hend : (decide (asked s f id = taken s f id) || decide (credit s f id - taken s f id = 0)) = true := by rw [ha, h0]; rfl
      obtain ⟨l, x, hlx, hlen, hdone⟩ := h.rested
      obtain ⟨l', hl'⟩ : ∃ l', r = l' ++ x := by
        cases l with
        | nil =>
          rw [hlx, List.nil_append] at hidle
          omega
        | cons c l' =>
          rw [hr, List.cons_append, List.cons.injEq] at hlx
          exact ⟨l', hlx.2⟩
      rw [if_pos hend, if_pos h0, if_pos h0]
      refine ⟨l', x ++ [id], by rw [hl', List.append_assoc], by rw [List.length_append, hlen]; rfl, fun y hy => ?_⟩
      rcases List.mem_append.mp hy with hy | hy
      · exact hdone y hy
      · rw [List.mem_singleton.mp hy]
        omega
    · rw [if_neg h0]
      exact ⟨_, [], (List.append_nil _).symm, rfl, fun y hy => by simp at hy⟩

/-- The visits come to an end within the fuel: each plans a position or leaves one more agent of the pass without any. -/
theorem formStep_ends (hw : ∀ id ∈ ring, ∃ a, s.agent id = some a ∧ 1 ≤ a.weight) (n : Nat) : ∀ f : Forming, Forms s ring f →
    f.room * (ring.length + 1) + (ring.length - f.idle) ≤ n →
    Forms s ring (formStep s n f) ∧ ((formStep s n f).room = 0 ∨ ring.length ≤ (formStep s n f).idle) := by
  induction n with
  | zero =>
    intro f h hn
    refine ⟨h, Or.inl ?_⟩
    have h0 : f.room * (ring.length + 1) = 0 := by omega
    exact (Nat.mul_eq_zero.mp h0).resolve_right (Nat.succ_ne_zero _)
  | succ n ih =>
    intro f h hn
    have hlen := h.perm.length_eq
    rw [formStep]
    split
    · rename_i hc
      rw [Bool.or_eq_true, decide_eq_true_eq, decide_eq_true_eq, hlen] at hc
      exact ⟨h, hc⟩
    · rename_i hc
      rw [Bool.or_eq_true, decide_eq_true_eq, decide_eq_true_eq, not_or, Nat.not_le] at hc
      refine ih _ (h.visit hw hc.1 hc.2) ?_
      obtain ⟨id, r, hr⟩ := List.exists_cons_of_length_pos (l := f.ring) (by omega)
      have hk := (taken_le s f id).2.2
      rw [visitRing_cons hr]
      dsimp only
      split
      · rename_i h0
        rw [h0, Nat.sub_zero]
        omega
      · have hroom : (f.room - taken s f id) * (ring.length + 1) + (ring.length + 1) ≤ f.room * (ring.length + 1) := by
          rw [← Nat.succ_mul]
          exact Nat.mul_le_mul_right _ (by omega)
        omega

end Forms

/-- The credits with which a step's visits begin. -/
def startDefs (s : State) (l : List Nat) : Tbl Nat :=
  l.foldl (fun (t : Tbl Nat) (id : Nat) => Tbl.put t id (match s.agent id with | some a => a.deficit | none => 0)) []

theorem startDefs_rise (s : State) (l : List Nat) : KeysRise (startDefs s l) := by
  have h : ∀ (l : List Nat) (t : Tbl Nat), KeysRise t →
      KeysRise (l.foldl (fun (t : Tbl Nat) (id : Nat) => Tbl.put t id (match s.agent id with | some a => a.deficit | none => 0)) t) := by
    intro l
    induction l with
    | nil => exact fun _ ht => ht
    | cons id r ih => exact fun t ht => ih _ (keysRise_put ht ..)
  exact h l [] List.Pairwise.nil
theorem get_startDefs {s : State} {l : List Nat} {id : Nat} {a : Agent} (h : id ∈ l) (ha : s.agent id = some a) :
    Tbl.get (startDefs s l) id 0 = a.deficit := by
  have hother : ∀ (l : List Nat) (t : Tbl Nat), id ∉ l → Tbl.get
      (l.foldl (fun (t : Tbl Nat) (id : Nat) => Tbl.put t id (match s.agent id with | some a => a.deficit | none => 0)) t) id 0 = Tbl.get t id 0 := by
    intro l
    induction l with
    | nil => exact fun _ _ => rfl
    | cons x r ih =>
      intro t hx
      rw [List.mem_cons, not_or] at hx
      exact (ih _ hx.2).trans (Tbl.get_put_other _ _ _ _ _ hx.1)
  have hin : ∀ (l : List Nat) (t : Tbl Nat), id ∈ l → Tbl.get
      (l.foldl (fun (t : Tbl Nat) (id : Nat) => Tbl.put t id (match s.agent id with | some a => a.deficit | none => 0)) t) id 0 = a.deficit := by
    intro l
    induction l with
    | nil => exact fun _ hx => by simp at hx
    | cons x r ih =>
      intro t hx
      by_cases hr : id ∈ r
      · exact ih _ hr
      · obtain rfl := (List.mem_cons.mp hx).resolve_right hr
        rw [List.foldl_cons, hother _ _ hr, Tbl.get_put_same, ha]
  exact hin l [] h

/-- The forming of a new step, before its first visit and after its last. -/
def formStart (s : State) (part : Nat) : Forming :=
  { ring := (s.planner part).ring, visiting := (s.planner part).visiting, defs := startDefs s (s.planner part).ring, planned := []
    room := stepRoom, idle := 0 }
def formEnd (s : State) (part : Nat) : Forming := formStep s ((stepRoom + 1) * ((s.planner part).ring.length + 1)) (formStart s part)

theorem formEnd_spec {s : State} {part : Nat} (hw : ∀ id ∈ (s.planner part).ring, ∃ a, s.agent id = some a ∧ 1 ≤ a.weight)
    (hv : (s.planner part).visiting = true → ∀ id a, (s.planner part).ring.head? = some id → s.agent id = some a → a.deficit ≠ 0) :
    Forms s (s.planner part).ring (formEnd s part)
      ∧ ((formEnd s part).room = 0 ∨ (s.planner part).ring.length ≤ (formEnd s part).idle) := by
  refine formStep_ends hw _ _ ?_ ?_
  · constructor
    case perm => exact List.Perm.refl _
    case plannedRise => exact List.Pairwise.nil
    case defsRise => exact startDefs_rise ..
    case within => exact fun e he => by simp [formStart] at he
    case total => rfl
    case resumes =>
      intro hvis id hid
      have hmem : id ∈ (s.planner part).ring := List.mem_of_mem_head? hid
      obtain ⟨a, ha, -⟩ := hw id hmem
      have hg : Tbl.get (formStart s part).defs id 0 = a.deficit := get_startDefs hmem ha
      rw [hg]
      exact hv hvis id a hid ha
    case spent => exact fun e he => by simp [formStart] at he
    case rested => exact ⟨_, [], (List.append_nil _).symm, rfl, fun y hy => by simp at hy⟩
  · have h1 : (formStart s part).room = stepRoom := rfl
    have h2 : (formStart s part).idle = 0 := rfl
    rw [h1, h2, Nat.succ_mul]
    omega

/-- Setting DEFICITs sets them and nothing else. -/
theorem putDeficits_agent {l : Tbl Nat} (hl : KeysRise l) {id : Nat} {a : Agent} {d : Nat} (hd : Tbl.look l id = some d) :
    ∀ s : State, s.agent id = some a → (putDeficits s l).agent id = some { a with deficit := d } := by
  have hother : ∀ (l : Tbl Nat) (s : State), (∀ e ∈ l, e.1 ≠ id) → (putDeficits s l).agent id = s.agent id := by
    intro l
    induction l with
    | nil => exact fun _ _ => rfl
    | cons e r ih =>
      intro s he
      obtain ⟨k, v⟩ := e
      rw [putDeficits, ih _ fun e h => he e (List.mem_cons_of_mem _ h)]
      split
      · exact Tbl.look_put_other _ _ _ _ (Ne.symm (he (k, v) (List.mem_cons_self ..)))
      · rfl
  induction l with
  | nil => exact nomatch hd
  | cons e r ih =>
    intro s ha
    obtain ⟨k, v⟩ := e
    obtain ⟨hk, hr⟩ := List.pairwise_cons.mp hl
    rw [Tbl.look] at hd
    split at hd
    · subst k
      cases hd
      rw [putDeficits, ha, hother r _ fun e he => Ne.symm (Nat.ne_of_lt (hk e he))]
      exact Tbl.look_put_same ..
    · rename_i hne
      rw [putDeficits]
      refine ih hr hd _ ?_
      split
      · exact (Tbl.look_put_other _ _ _ _ (Ne.symm hne)).trans ha
      · exact ha

/-- A plan is of its agent's so many positions, whatever it reads. -/
theorem planFor_agent (s : State) (part id k : Nat) : (planFor s part id k).agent = id ∧ (planFor s part id k).count = k := by
  unfold planFor
  dsimp only
  split
  · exact ⟨rfl, rfl⟩
  split
  · exact ⟨rfl, rfl⟩
  split
  · exact ⟨rfl, rfl⟩
  split
  · split
    · exact ⟨rfl, rfl⟩
    · split <;> exact ⟨rfl, rfl⟩
  · split <;> exact ⟨rfl, rfl⟩
  · split <;> exact ⟨rfl, rfl⟩

/-- A new step's state and plans (R343). -/
theorem formNew_eq (s : State) (part : Nat) : formNew s part =
    { st := putDeficits (s.setPlanner part { s.planner part with ring := (formEnd s part).ring, visiting := (formEnd s part).visiting }) (formEnd s part).defs
      plans := (formEnd s part).planned.map (fun e => planFor (putDeficits (s.setPlanner part
        { s.planner part with ring := (formEnd s part).ring, visiting := (formEnd s part).visiting }) (formEnd s part).defs) part e.1 e.2)
      retry := false } := rfl

theorem stepsAreFilled : StepsAreFilled := by
  intro s part q f total _ hw hv
  obtain ⟨hf, hend⟩ := formEnd_spec hw hv
  have hplans : f.plans = (formEnd s part).planned.map (fun e => planFor f.st part e.1 e.2) := rfl
  have hagents : f.plans.map (fun x => x.agent) = (formEnd s part).planned.map (fun e => e.1) := by
    rw [hplans, List.map_map]
    exact List.map_congr_left fun e _ => (planFor_agent ..).1
  have hcounts : f.plans.map (fun x => x.count) = (formEnd s part).planned.map (fun e => e.2) := by
    rw [hplans, List.map_map]
    exact List.map_congr_left fun e _ => (planFor_agent ..).2
  have hof : ∀ x ∈ f.plans, ∃ e ∈ (formEnd s part).planned, x.agent = e.1 ∧ x.count = e.2 := fun x hx => by
    rw [hplans] at hx
    obtain ⟨e, he, rfl⟩ := List.mem_map.mp hx
    exact ⟨e, he, planFor_agent ..⟩
  have htotal : total + (formEnd s part).room = 4096 := by
    have ht : total = ((formEnd s part).planned.map (fun e => e.2)).sum := by rw [← hcounts, ← foldl_add_eq_sum]
    rw [ht]
    exact hf.total
  refine ⟨by omega, by rw [hagents]; exact keys_nodup hf.plannedRise, rfl, fun x hx => ?_, ?_, fun x hx hfull => ?_⟩
  · obtain ⟨e, he, ha, hc⟩ := hof x hx
    rw [ha, hc]
    exact hf.within e he
  · rcases hend with hroom | hpass
    · exact Or.inl (by omega)
    · refine Or.inr fun id hid hdem => ?_
      obtain ⟨l, r, hlr, hlen, hdone⟩ := hf.rested
      have hl : l = [] := by
        have h1 := hf.perm.length_eq
        rw [hlr, List.length_append] at h1
        exact List.length_eq_zero_iff.mp (by omega)
      rw [hl, List.nil_append] at hlr
      have hge := hdone id (hlr ▸ hf.perm.mem_iff.mpr hid)
      have hle := hf.planned_le id
      cases hlk : Tbl.look (formEnd s part).planned id with
      | none =>
        rw [Tbl.get, hlk] at hge
        simp only [Option.getD_none] at hge
        omega
      | some v =>
        rw [Tbl.get, hlk] at hge hle
        simp only [Option.getD_some] at hge hle
        refine ⟨planFor f.st part id v, ?_, (planFor_agent ..).1, (planFor_agent ..).2.trans (by omega)⟩
        rw [hplans]
        exact List.mem_map.mpr ⟨_, mem_of_look hlk, rfl⟩
  · obtain ⟨e, he, ha, hc⟩ := hof x hx
    rw [ha, hc] at hfull
    obtain ⟨a, hag, -⟩ := hw e.1 (hf.within e he).1
    rw [ha]
    exact ⟨_, putDeficits_agent hf.defsRise (hf.spent e he hfull) _ hag, rfl⟩

end Sys2Proof.Proofs
end

section
/-!
PROOFS. The ring where no block is adopted, when a step is planned, and how it takes its cores (R19, R330, R337, R363, R415).
-/

namespace Sys2Proof.Proofs
open Sys2Proof Sys2Proof.Machine Sys2Proof.Claim

/-! ## The ring where no block is adopted (R341, R343) -/

/-- Where no agent is LONG, or the pantry is empty, no agent adopts a block. -/
def NoAdoption (s : State) : Prop := s.pantry = [] ∨ ∀ id a, s.agent id = some a → a.st ≠ stLong

theorem adoptBlocks_none {s : State} (h : NoAdoption s) (id n : Nat) : adoptBlocks s id n = s := by
  cases n with
  | zero => rfl
  | succ n =>
    unfold adoptBlocks
    split
    · rfl
    rename_i a ha
    rcases h with h | h
    · have hfind : ∀ part model parent toks, (pantryFind s part model parent toks).isNone = true := fun part model parent toks => by
        rw [pantryFind, h]
        rfl
      split
      · rfl
      split
      · rfl
      · exact if_pos (hfind ..)
    · rw [if_neg (h id a ha)]
theorem adoptAll_none {s : State} (h : NoAdoption s) (l : List Nat) : adoptAll s l = s := by
  induction l with
  | nil => rfl
  | cons id r ih => rw [adoptAll, adoptBlocks_none h, ih]

theorem agent_setAgent_same (s : State) (id : Nat) (a : Agent) : (s.setAgent id a).agent id = some a := Tbl.look_put_same ..
theorem agent_setAgent_other (s : State) {id x : Nat} (a : Agent) (h : x ≠ id) : (s.setAgent id a).agent x = s.agent x := Tbl.look_put_other _ _ _ _ h

theorem zeroDeficits_spec (l : List Nat) : ∀ s, zeroDeficits s l = { s with agents := (zeroDeficits s l).agents } := by
  induction l with
  | nil => exact fun _ => rfl
  | cons id r ih =>
    intro s
    rw [zeroDeficits, ih]
    split <;> rfl
theorem zeroDeficits_agent {id : Nat} {a : Agent} (l : List Nat) : ∀ {s : State}, s.agent id = some a →
    ∃ d, (zeroDeficits s l).agent id = some { a with deficit := d } := by
  induction l generalizing a with
  | nil => exact fun h => ⟨a.deficit, h⟩
  | cons x r ih =>
    intro s h
    rw [zeroDeficits]
    by_cases hx : id = x
    · subst x
      rw [h]
      exact ih (a := { a with deficit := 0 }) (agent_setAgent_same ..)
    · refine ih ?_
      split
      · exact (agent_setAgent_other _ _ hx).trans h
      · exact h

/-- What is left of `refreshRing` where no block is adopted: the ring, and DEFICITs. -/
theorem refreshRing_spec {s : State} (h : NoAdoption s) (part : Nat) : ∃ ring visiting, let u := refreshRing s part
    u = { s with planners := u.planners, agents := u.agents }
    ∧ u.planner part = { s.planner part with ring := ring, visiting := visiting }
    ∧ ∀ id a, s.agent id = some a → ∃ d, u.agent id = some { a with deficit := d } := by
  unfold refreshRing
  dsimp only
  rw [adoptAll_none h]
  refine ⟨eligibleOf s [] (longAgents s part),
    (s.planner part).visiting && (s.planner part).ring.head? = (eligibleOf s [] (longAgents s part)).head?, ?_, ?_,
    fun id a ha => zeroDeficits_agent _ ha⟩
  · rw [zeroDeficits_spec]
    rfl
  · rw [zeroDeficits_spec]
    exact planner_setPlanner_same ..

theorem eligibleOf_no_agents {s : State} (h : s.agents = []) (l : List Nat) : ∀ before, eligibleOf s before l = [] := by
  have hr : ∀ id, readyToPlan s id = false := fun id => by
    rw [readyToPlan, State.agent, h]
    rfl
  induction l with
  | nil => exact fun _ => rfl
  | cons id r ih =>
    intro before
    rw [eligibleOf, hr id]
    exact ih before
theorem zeroDeficits_no_agents {s : State} (h : s.agents = []) (l : List Nat) : zeroDeficits s l = s := by
  induction l with
  | nil => rfl
  | cons id r ih =>
    have ha : s.agent id = none := by
      rw [State.agent, h]
      rfl
    rw [zeroDeficits, ha, ih]
/-- Without agents the ring is empty. -/
theorem refreshRing_no_agents {s : State} (h : s.agents = []) (part : Nat) : ∃ visiting,
    refreshRing s part = s.setPlanner part { s.planner part with ring := [], visiting := visiting } := by
  have hn : NoAdoption s := Or.inr fun id a ha => by
    rw [State.agent, h] at ha
    exact nomatch ha
  unfold refreshRing
  dsimp only
  rw [adoptAll_none hn, eligibleOf_no_agents h]
  exact ⟨_, zeroDeficits_no_agents (s := s.setPlanner part _) h _⟩

theorem formStep_stops (s : State) {f : Forming} (h : f.ring.length ≤ f.idle) (n : Nat) : formStep s n f = f := by
  cases n with
  | zero => rfl
  | succ n =>
    refine if_pos ?_
    rw [Bool.or_eq_true, decide_eq_true h]
    exact Or.inr rfl
/-- An empty ring gives no positions. -/
theorem formNew_empty {s : State} {part : Nat} (h : (s.planner part).ring = []) : (formNew s part).plans = []
    ∧ (formNew s part).st = s.setPlanner part { s.planner part with ring := [], visiting := (s.planner part).visiting } := by
  have he : formEnd s part = formStart s part := formStep_stops s (by rw [formStart, h]; exact le_refl 0) _
  rw [formNew_eq, he, formStart, h]
  exact ⟨rfl, rfl⟩

/-! ## When a step is planned (R19, R330, R337, R419) -/

section Planned
variable {s : State} {part : Nat}

theorem execStepPlan_eq (s : State) (part : Nat) : exec (.stepPlan part) s = .next (planStep s part) := rfl

theorem planStep_flying (h : ∃ f, (s.planner part).flight = some f) : planStep s part = s := by
  obtain ⟨f, hf⟩ := h
  rw [planStep, hf]
  rfl
theorem planStep_unserved (hf : (s.planner part).flight = none) (h : edged s part .machine = true ∨ (s.round part).active = true
    ∨ ∀ d ∈ partDecks s part, deckServes s d = false) : planStep s part = dropHeld s (plannerSender part) := by
  rw [planStep, hf]
  refine (if_neg Bool.false_ne_true).trans (if_pos ?_)
  simp only [Bool.or_eq_true, Bool.not_eq_true', List.any_eq_false, Bool.not_eq_true]
  exact or_assoc.mpr h

/-- The conditions under which steps of a partition are planned. -/
structure PlansSteps (s : State) (part : Nat) : Prop where
  flight : (s.planner part).flight = none
  edge : edged s part .machine = false
  round : (s.round part).active = false
  serves : (partDecks s part).any (deckServes s) = true

variable (hp : PlansSteps s part)
include hp

theorem PlansSteps.idle : ¬((s.planner part).flight.isSome = true) := by
  rw [hp.flight]
  exact Bool.false_ne_true
theorem PlansSteps.opened : ¬((edged s part .machine || (s.round part).active || !((partDecks s part).any (deckServes s))) = true) := by
  rw [hp.edge, hp.round, hp.serves]
  exact Bool.false_ne_true

theorem planStep_waits (h : formPlans (refreshRing s part) part = none) :
    planStep s part = dropHeld (refreshRing s part) (plannerSender part) := by
  rw [planStep, if_neg hp.idle, if_neg hp.opened]
  dsimp only
  rw [h]
theorem planStep_nothing {f : Formed} (h : formPlans (refreshRing s part) part = some f) (hf : f.plans = []) :
    planStep s part = dropHeld f.st (plannerSender part) := by
  rw [planStep, if_neg hp.idle, if_neg hp.opened]
  dsimp only
  rw [h]
  dsimp only
  rw [hf]
  rfl

/-- The logical cores among which the launch of a step chooses (R363; log 66). -/
def freeCores (s : State) (part : Nat) (f : Formed) : List Nat :=
  (stepTable f.st part f.plans).filter (fun k => coreServes (refreshRing s part) part ((refreshRing s part).phys k))
/-- Where some cores of a list are picked, those are chosen. -/
def chosenOf (p l : List Nat) : List Nat := if (l.filter p.contains).isEmpty then l else l.filter p.contains

theorem planStep_flies {f : Formed} (h : formPlans (refreshRing s part) part = some f) (hf : f.plans ≠ [])
    (hfree : freeCores s part f = [] → stepTable f.st part f.plans = []) :
    planStep s part = flyStep (refreshRing s part) part f (chosenOf s.picks (freeCores s part f))
      (chosenOf s.checks (chosenOf s.picks (freeCores s part f))) := by
  have hne : ¬(f.plans.isEmpty = true) := by
    rw [List.isEmpty_iff]
    exact hf
  have hsome : ¬(((freeCores s part f).isEmpty && !(stepTable f.st part f.plans).isEmpty) = true) := by
    rw [Bool.and_eq_true, List.isEmpty_iff, Bool.not_eq_true', Bool.eq_false_iff, Ne, List.isEmpty_iff]
    exact fun hc => hc.2 (hfree hc.1)
  rw [planStep, if_neg hp.idle, if_neg hp.opened]
  dsimp only
  rw [h]
  dsimp only
  rw [if_neg hne]
  exact if_neg hsome

end Planned

theorem formPlans_unready {s : State} {part : Nat} {st : Machine.Step} (h : (s.planner part).replan = some st)
    (hx : ∃ x ∈ st.plans, readyToPlan s x.agent = false) : formPlans s part = none := by
  obtain ⟨x, hx, hr⟩ := hx
  rw [formPlans, h]
  refine if_pos ?_
  rw [Bool.not_eq_true', List.all_eq_false]
  exact ⟨x, hx, by rw [hr]; exact Bool.false_ne_true⟩
theorem formPlans_ready {s : State} {part : Nat} {st : Machine.Step} (h : (s.planner part).replan = some st)
    (hx : ∀ x ∈ st.plans, readyToPlan s x.agent = true) : formPlans s part = some
      { st := s.setPlanner part { s.planner part with replan := none }, retry := true
        plans := st.plans.map (fun (x : Plan) => planFor s part x.agent (min x.count (demandOf s x.agent))) } := by
  rw [formPlans, h]
  refine if_neg ?_
  rw [Bool.not_eq_true', Bool.not_eq_false, List.all_eq_true]
  exact hx
theorem formPlans_new {s : State} {part : Nat} (h : (s.planner part).replan = none) : formPlans s part = some (formNew s part) := by
  rw [formPlans, h]

theorem stepsArePlanned : StepsArePlanned := by
  intro s part p
  refine ⟨fun h => ?_, fun hf h => ?_, fun hf he hr hs st hst hx => ?_, fun hf hre hag => ?_⟩ <;> rw [execStepPlan_eq]
  · rw [planStep_flying h]
  · rw [planStep_unserved hf h]
  · rw [planStep_waits ⟨hf, he, hr, hs⟩ (formPlans_unready hst hx)]
  · refine ⟨_, rfl, ?_⟩
    by_cases hopen : PlansSteps s part
    · obtain ⟨visiting, hring⟩ := refreshRing_no_agents hag part
      have hpl : (refreshRing s part).planner part = { p with ring := [], visiting := visiting } := by
        rw [hring, planner_setPlanner_same]
      have hnone : ((refreshRing s part).planner part).replan = none := by rw [hpl]; exact hre
      have hempty : ((refreshRing s part).planner part).ring = [] := by rw [hpl]
      obtain ⟨hplans, hst⟩ := formNew_empty hempty
      rw [planStep_nothing hopen (formPlans_new hnone) hplans, hst]
      refine ⟨?_, ?_⟩
      · refine (congrArg Planner.flight (planner_setPlanner_same (refreshRing s part) part _)).trans ?_
        rw [hpl]
        exact hf
      · rw [hring]
        rfl
    · have hclosed : edged s part .machine = true ∨ (s.round part).active = true ∨ ∀ d ∈ partDecks s part, deckServes s d = false := by
        by_contra hc
        simp only [not_or, Bool.not_eq_true] at hc
        refine hopen ⟨hf, hc.1, hc.2.1, ?_⟩
        obtain ⟨d, hd, hs⟩ : ∃ d, d ∈ partDecks s part ∧ deckServes s d = true := by simpa using hc.2.2
        exact List.any_eq_true.mpr ⟨d, hd, hs⟩
      rw [planStep_unserved hf hclosed]
      exact ⟨hf, rfl⟩

/-! ## A step takes its cores (R330, R363, R415) -/

theorem evictFor_agents (keep : List Nat) (wanted n : Nat) : ∀ s, agentView (evictFor s keep wanted n) = agentView s := by
  induction n with
  | zero => exact fun _ => rfl
  | succ n ih =>
    intro s
    unfold evictFor
    split
    · rfl
    dsimp only
    split
    · exact (ih _).trans rfl
    · rfl
theorem allocate_agents (l : List Plan) : ∀ (s : State) (keep : List Nat) (taken : Nat),
    agentView (allocate s keep taken l).1 = agentView s := by
  induction l with
  | nil => exact fun s keep taken => evictFor_agents ..
  | cons p r ih =>
    intro s keep taken
    unfold allocate
    dsimp only
    split
    · exact (ih ..).trans (agentFault_agents ..)
    · exact ih ..

theorem writeLayers_planners (cores : List Nat) (l : List Model) : ∀ s, (writeLayers s cores l).planners = s.planners := by
  induction l with
  | nil => exact fun _ => rfl
  | cons m r ih =>
    intro s
    have hm := mapCores_group (fun c => { c with lrb := .ofNat 64 m.exit, lre := .ofNat 64 m.layers }) (cores.filter (fun k => ctxOf k = m.ctx)) s
    exact (ih _).trans (congrArg State.planners hm :)

section Flies
variable {s : State} {part : Nat} {f : Formed} {cores check : List Nat}

/-- The decks at whose boundaries the launch of a step, or what it reads, is held. -/
def flyHeld (s : State) (part : Nat) (f : Formed) (cores : List Nat) : List Nat :=
  heldAt s (plannerSender part) (touchDecks f.st (planTouches (planTouch f.st part) f.plans) ++ (cores.map s.phys).map deckOf).eraseDups
/-- The state in which the blocks of a step are allocated, and what comes of it. -/
def flySeen (part : Nat) (f : Formed) : State :=
  touchSeen (dropHeld f.st (plannerSender part)) (planTouches (planTouch f.st part) f.plans)
def flyBlocks (part : Nat) (f : Formed) : State × List Plan :=
  allocate (flySeen part f) (flightBlocks (flySeen part f)) (reservedBlocks (flySeen part f)) f.plans

theorem flyStep_held (h : flyHeld s part f cores ≠ []) :
    flyStep s part f cores check = noteHeld s (plannerSender part) (flyHeld s part f cores) := by
  have hne : (!(flyHeld s part f cores).isEmpty) = true := by
    rw [Bool.not_eq_true', Bool.eq_false_iff, Ne, List.isEmpty_iff]
    exact h
  unfold flyStep
  exact if_pos hne

theorem flyStep_deferred (h : flyHeld s part f cores = []) (hl : ∃ l ∈ occupants s (cores.map s.phys), 7 ≤ prioOf s l) :
    flyStep s part f cores check = dropHeld s (plannerSender part) := by
  have hne : (!(flyHeld s part f cores).isEmpty) ≠ true := by
    rw [h]
    exact Bool.false_ne_true
  obtain ⟨l, hl, h7⟩ := hl
  unfold flyStep
  refine (if_neg hne).trans (if_pos ?_)
  rw [Bool.or_eq_true, List.any_eq_true]
  refine Or.inl ⟨l, hl, ?_⟩
  rw [decide_eq_true h7, Bool.true_or]

/-- A step that flies: its positions are those whose blocks find room, and nothing else of its planner changes. -/
theorem flyStep_flies (h : flyHeld s part f cores = []) (ho : occupants s (cores.map s.phys) = [])
    (hs : ∀ x ∈ cores.map s.phys, x ∉ stepPhys s) : (flyStep s part f cores check).planner part = { (flyBlocks part f).1.planner part with
          flight := if (flyBlocks part f).2.isEmpty then none else some { plans := (flyBlocks part f).2, retry := f.retry, cores := cores } } := by
  have hphys : (cores.map s.phys).any (stepPhys s).contains = false := by
    simp only [List.any_eq_false, List.contains_iff_mem]
    exact hs
  rw [flyHeld] at h
  unfold flyStep
  dsimp only
  rw [h, ho, hphys]
  simp only [List.isEmpty_nil, Bool.not_true, Bool.false_eq_true, if_false, List.any_nil, Bool.or_false, List.all_nil]
  rw [planner_setPlanner_same]
  have hpl : ∀ (u : State) (l : List Plan), (writeLayers (touchPlans u l) check (checkedModels u part l)).planner = u.planner := fun u l => by
    funext p
    rw [State.planner, writeLayers_planners]
    rfl
  rw [hpl]
  rfl

end Flies

theorem chosenOf_eq (p l : List Nat) : chosenOf p l =
    if l.filter (fun k => k ∈ p) = [] then l else l.filter (fun k => k ∈ p) := by
  have hf : l.filter p.contains = l.filter (fun k => k ∈ p) := List.filter_congr fun k _ => by
    rw [Bool.eq_iff_iff, List.contains_iff_mem, decide_eq_true_eq]
  rw [chosenOf, hf]
  simp only [List.isEmpty_iff]

end Sys2Proof.Proofs
end

section
/-!
PROOFS. The flight, the completion and the fault of a step (R314, R316, R331, R334, R337, R396), and the statement on steps.
-/

namespace Sys2Proof.Proofs
open Sys2Proof Sys2Proof.Machine Sys2Proof.Claim

/-! ## Flight (R330, R337, R363) -/

theorem putDeficits_planners (l : Tbl Nat) : ∀ s, (putDeficits s l).planners = s.planners := by
  induction l with
  | nil => exact fun _ => rfl
  | cons e r ih =>
    intro s
    obtain ⟨id, d⟩ := e
    rw [putDeficits, ih]
    split <;> rfl
theorem planner_of_planners {s t : State} (h : t.planners = s.planners) : t.planner = s.planner := by
  funext p
  rw [State.planner, State.planner, h]

/-- A formed step leaves nothing to plan again. -/
theorem formNew_replan {s : State} {part : Nat} (h : (s.planner part).replan = none) : ((formNew s part).st.planner part).replan = none := by
  rw [formNew_eq, planner_of_planners (putDeficits_planners ..), planner_setPlanner_same]
  exact h
theorem flyBlocks_replan {part : Nat} {f : Formed} (h : (f.st.planner part).replan = none) :
    ((flyBlocks part f).1.planner part).replan = none := by
  obtain ⟨soft, perf, hs⟩ := touchSeen_spec (dropHeld f.st (plannerSender part)) (planTouches (planTouch f.st part) f.plans)
  have ha := (steps_of_view (allocate_agents f.plans (flySeen part f) (flightBlocks (flySeen part f)) (reservedBlocks (flySeen part f))) part).2
  have hst : (flySeen part f).planner part = f.st.planner part := by
    rw [flySeen, hs]
    rfl
  rw [hst, h] at ha
  exact Option.isSome_eq_false_iff.mp ha |> Option.isNone_iff_eq_none.mp

theorem stepsFly : StepsFly := by
  intro s part f s1 q table free picked cores phys me touch ds st r hf he hr hs hne hform hfree
  have hp : PlansSteps s part := ⟨hf, he, hr, hs⟩
  have hplans : formPlans s1 part = some f := by
    rcases hform with ⟨hq, hfn⟩ | ⟨st, hq, hready, hst, hretry, hpl⟩
    · rw [formPlans_new hq, hfn]
    · rw [formPlans_ready hq hready, ← hst, ← hretry, ← hpl]
  have hreplan : (f.st.planner part).replan = none := by
    rcases hform with ⟨hq, hfn⟩ | ⟨st, -, -, hst, -, -⟩
    · rw [hfn]
      exact formNew_replan hq
    · rw [hst, planner_setPlanner_same]
  have hcores : chosenOf s.picks (freeCores s part f) = cores := chosenOf_eq ..
  have hfly := planStep_flies hp hplans hne hfree
  rw [hcores] at hfly
  refine ⟨fun h => ?_, fun h ho hx => ⟨_, rfl, ?_⟩, fun h hl => ?_⟩
  · rw [execStepPlan_eq, hfly]
    exact congrArg _ (flyStep_held h)
  · have hpl := flyStep_flies (check := chosenOf s.checks cores) (f := f) h ho hx
    rw [hfly, hpl]
    refine ⟨?_, (flyBlocks_replan hreplan).trans ?_⟩
    · simp only [List.isEmpty_iff]
      rfl
    · rcases hform with ⟨hq, -⟩ | ⟨-, -, -, -, hretry, -⟩
      · rw [hq, ite_self]
      · rw [hretry]
        rfl
  · rw [execStepPlan_eq, hfly]
    exact congrArg _ (flyStep_deferred h hl)

/-! ## What the end of a step touches (R415) -/

theorem planTouches_none {f : Plan → Touch} {l : List Plan} (h : ∀ p ∈ l, f p = Touch.none) : planTouches f l = Touch.none := by
  have hl : ∀ (l : List Plan), (∀ p ∈ l, f p = Touch.none) → l.foldl (fun t p => t.append (f p)) Touch.none = Touch.none := by
    intro l
    induction l with
    | nil => exact fun _ => rfl
    | cons p r ih =>
      intro hr
      rw [List.foldl_cons, hr p (List.mem_cons_self ..)]
      exact ih fun x hx => hr x (List.mem_cons_of_mem _ hx)
  exact hl l h
theorem whenTouch_nothing (s : State) (h : Nat) (go : State → Res) : whenTouch s h Touch.none go = go (dropHeld s h) := rfl

/-- Nothing stands at a boundary and no deck relocks. -/
def NothingHeld (s : State) : Prop := s.crossing = [] ∧ ∀ d, (s.deck d).relock = false

theorem heldAt_free {s : State} (h : NothingHeld s) (x : Nat) (ds : List Nat) : heldAt s x ds = [] := by
  obtain ⟨hc, hr⟩ := h
  unfold heldAt
  rw [hc]
  refine List.filter_eq_nil_iff.mpr fun d _ => ?_
  rw [hr d]
  exact Bool.false_ne_true
theorem stepEnd_free {s : State} (h : NothingHeld s) (part : Nat) (plans : List Plan) (t : State) :
    stepEnd part plans s t = .next (dropHeld t (plannerSender part)) := whenTouch_open (heldAt_free h ..)
/-- A step whose agents run on writes nothing that a relock could hold. -/
theorem stepEnd_running {s t : State} {part : Nat} {plans : List Plan} (h : ∀ p ∈ plans, ∀ b, t.agent p.agent = some b → ¬(stSuspended ≤ b.st)) :
    stepEnd part plans s t = .next (dropHeld t (plannerSender part)) := by
  have hn : planTouches (stoppedTouch s t) plans = Touch.none := planTouches_none fun p hp => by
    rw [stoppedTouch]
    split
    · refine if_neg ?_
      rw [Option.any_eq_true]
      rintro ⟨b, hb, hst⟩
      exact h p hp b hb (of_decide_eq_true hst)
    · rfl
  rw [stepEnd, hn, whenTouch_nothing]

/-! ## Completion (R331, R334) -/

/-- Blocks change where the KV of a context is; what the context says stays. -/
theorem completeBlock_tok (s : State) (part : Nat) (t : TokCtx) :
    ∃ blocks last, (completeBlock s part t).2 = { t with blocks := blocks, last := last } := by
  unfold completeBlock
  dsimp only
  split <;> exact ⟨_, _, rfl⟩
theorem completeBlocks_tok (part n : Nat) : ∀ s t, ∃ blocks last, (completeBlocks s part t n).2 = { t with blocks := blocks, last := last } := by
  induction n with
  | zero => exact fun s t => ⟨t.blocks, t.last, rfl⟩
  | succ n ih =>
    intro s t
    obtain ⟨b, l, h⟩ := completeBlock_tok s part t
    obtain ⟨b2, l2, h2⟩ := ih (completeBlock s part t).1 (completeBlock s part t).2
    rw [completeBlocks]
    exact ⟨b2, l2, h2.trans (by rw [h])⟩
theorem setLast_tok (s : State) (part : Nat) (t : TokCtx) (place : BitVec 2) : ∃ last, (setLast s part t place).2 = { t with last := last } := by
  unfold setLast
  dsimp only
  split <;> exact ⟨_, rfl⟩
theorem computeKv_tok (s : State) (part : Nat) (t : TokCtx) :
    ∃ blocks last, (computeKv s part t).2 = { t with blocks := blocks, last := last } := by
  obtain ⟨b, l, h⟩ := completeBlocks_tok part (t.computed / 16 - t.blocks.length) s t
  obtain ⟨l2, h2⟩ := setLast_tok (completeBlocks s part t (t.computed / 16 - t.blocks.length)).1 part
    (completeBlocks s part t (t.computed / 16 - t.blocks.length)).2 0
  exact ⟨b, l2, h2.trans (by rw [h])⟩

/-- A state without its planners. -/
def sansPlanners (s : State) : State := { s with planners := [] }

theorem learn_planners (s : State) (part model : Nat) (toks : List Nat) (from_ : Nat) : sansPlanners (learn s part model toks from_) = sansPlanners s := by
  unfold learn
  dsimp only
  split <;> rfl
theorem touchLarder_planners (part : Nat) (l : List Plan) : ∀ s, sansPlanners (touchLarder s part l) = sansPlanners s := by
  induction l with
  | nil => exact fun _ => rfl
  | cons p r ih =>
    intro s
    rw [touchLarder, ih]
    split <;> rfl

/-- A CAPPEND's tokens are appended and computed; with its last ones the instruction ends (R334). -/
theorem applyPlan_append {s : State} {part : Nat} {pl : Plan} {a : Agent} {h : Nat} {u : TokCtx} {m : Model} {cd : BitVec 4} {g : BitVec 3} {imm : W32}
    (hfault : pl.fault = none) (ha : s.agent pl.agent = some a) (hl : longCtx s a = some (h, u)) (hm : modelOf s part u.model = some m)
    (hp : u.pending = 0) (hc : pl.count = pl.ids.length) (hne : pl.ids ≠ []) (hcur : a.cur = some (.cappend cd g imm))
    (hend : a.prog.total ≤ a.prog.done + pl.ids.length) : applyPlan s part pl =
      let q := computeKv s part { u with toks := u.toks ++ pl.ids }
      .ok (endLong (learn (q.1.setTok h q.2) part u.model q.2.toks u.toks.length) pl.agent
        { a with prog := { a.prog with done := a.prog.done + pl.ids.length } } none 0 none, []) := by
  have hown : pl.count - u.pending ≠ 0 := by
    rw [hp, hc, Nat.sub_zero]
    exact fun h0 => hne (List.length_eq_zero_iff.mp h0)
  rw [applyPlan, hfault]
  dsimp only
  rw [ha]
  dsimp only
  rw [hl]
  dsimp only
  rw [hm]
  dsimp only
  rw [if_neg hown, computePending, if_pos hp, hcur]
  dsimp only
  rw [if_pos hend]

/-- An agent past its instruction, with its registers (R331). -/
def pastLong (a : Agent) (done : Nat) : Agent := { ({ a with prog := { a.prog with done := done } } : Agent).finish with flag := a.flag }

/-- The state once the tokens of a plan are appended and their agent's instruction has ended. -/
def appended (s : State) (part : Nat) (pl : Plan) (a : Agent) (h : Nat) (u : TokCtx) : State :=
  let q := computeKv s part { u with toks := u.toks ++ pl.ids }
  (learn (q.1.setTok h q.2) part u.model q.2.toks u.toks.length).setAgent pl.agent (pastLong a (a.prog.done + pl.ids.length))

theorem put_only {α : Type} (k : Nat) (v w : α) : Tbl.put [(k, v)] k w = [(k, w)] := by simp [Tbl.put]

theorem appended_spec {s : State} {part : Nat} {pl : Plan} {a : Agent} {h : Nat} {u : TokCtx} (ha : s.agents = [(pl.agent, a)]) :
    (appended s part pl a h u).agents = [(pl.agent, pastLong a (a.prog.done + pl.ids.length))]
    ∧ (∃ blocks last, (appended s part pl a h u).tok h = some { u with toks := u.toks ++ pl.ids, blocks := blocks, last := last })
    ∧ (appended s part pl a h u).mem = s.mem := by
  have hkv := computeKv_pantry s part { u with toks := u.toks ++ pl.ids }
  obtain ⟨blocks, last, htok⟩ := computeKv_tok s part { u with toks := u.toks ++ pl.ids }
  unfold appended
  generalize computeKv s part { u with toks := u.toks ++ pl.ids } = q at hkv htok
  have hlearn := learn_planners (q.1.setTok h q.2) part u.model q.2.toks u.toks.length
  dsimp only
  generalize learn (q.1.setTok h q.2) part u.model q.2.toks u.toks.length = v at hlearn
  have hag : v.agents = s.agents := (congrArg State.agents hlearn :).trans (congrArg State.agents hkv :)
  have hmem : v.mem = s.mem := (congrArg State.mem hlearn :).trans (congrArg State.mem hkv :)
  have hto : v.toks = Tbl.put q.1.toks h q.2 := (congrArg State.toks hlearn :)
  refine ⟨?_, ⟨blocks, last, ?_⟩, hmem⟩
  · refine (congrArg (fun t => Tbl.put t pl.agent _) (hag.trans ha)).trans (put_only ..)
  · rw [← htok]
    exact (congrArg (Tbl.look · h) hto).trans (Tbl.look_put_same ..)

theorem endStep_of_applied {s s1 : State} {part idle stall : Nat} {f : Machine.Step}
    (h : applyPlans (touchLarder s part f.plans) part f.plans = .ok (s1, [])) : ∃ n, endStep part idle stall f s =
      refreshRing (suspendAsked ((mapToks (s1.setPlanner part { s1.planner part with flight := none }) (monitorDepth idle stall)
        (stepCtxs s f.plans)).countPart part 24 n) f.plans) part := by
  rw [endStep]
  dsimp only
  rw [h]
  exact ⟨_, rfl⟩

theorem longCtx_of_toks {s t : State} (h : t.toks = s.toks) : longCtx t = longCtx s := by
  funext a
  simp only [longCtx, State.tok, h]
theorem modelOf_of_models {s t : State} (h : t.models = s.models) : modelOf t = modelOf s := by
  funext part id
  rw [modelOf, modelOf, h]

theorem suspendAsked_none {s : State} (l : List Plan) (h : ∀ p ∈ l, ∀ a, s.agent p.agent = some a → a.suspendReq = false) : suspendAsked s l = s := by
  induction l with
  | nil => rfl
  | cons p r ih =>
    have hr := ih fun x hx => h x (List.mem_cons_of_mem _ hx)
    cases ha : s.agent p.agent with
    | none => rw [suspendAsked, ha, hr]
    | some a =>
      have hs := h p (List.mem_cons_self ..) a ha
      rw [suspendAsked, ha]
      dsimp only
      rw [hs, if_neg Bool.false_ne_true, hr]

theorem agent_only {s : State} {id : Nat} {a : Agent} (h : s.agents = [(id, a)]) : s.agent id = some a := by
  rw [State.agent, h]
  exact if_pos rfl
theorem eq_of_agent_only {s : State} {id x : Nat} {a b : Agent} (h : s.agents = [(id, a)]) (hx : s.agent x = some b) : b = a := by
  rw [State.agent, h, Tbl.look] at hx
  split at hx
  · cases hx
    rfl
  · exact nomatch hx

/-- Where the machine's only agent is not LONG, its step's end leaves the ring nothing to adopt. -/
theorem noAdoption_only {s : State} {id : Nat} {a : Agent} (h : s.agents = [(id, a)]) (hst : a.st ≠ stLong) : NoAdoption s :=
  Or.inr fun _ _ hx => eq_of_agent_only h hx ▸ hst

theorem mapToks_one {s : State} {h : Nat} {t : TokCtx} (f : TokCtx → TokCtx) (ht : s.tok h = some t) : mapToks s f [h] = s.setTok h (f t) := by
  rw [mapToks, ht]
  rfl
theorem monitorDepth_off {idle stall : Nat} {t : TokCtx} (h : t.spec = 0) : monitorDepth idle stall t = t := if_pos h

/-- The state once the step of the only agent's last tokens is over, but for the ring. -/
def landed (s : State) (part h n : Nat) (w : TokCtx) : State :=
  ((s.setPlanner part { s.planner part with flight := none }).setTok h w).countPart part 24 n

/-- The step that appends the last tokens of the only agent's CAPPEND ends as `landed` says. -/
theorem endStep_append {s : State} {part idle stall : Nat} {a : Agent} {h : Nat} {u : TokCtx} {m : Model} {f : Machine.Step} {pl : Plan}
    {cd : BitVec 4} {g : BitVec 3} {imm : W32} (hag : s.agents = [(pl.agent, a)]) (hcur : a.cur = some (.cappend cd g imm))
    (hl : longCtx s a = some (h, u)) (hp : u.pending = 0) (hspec : u.spec = 0) (hm : modelOf s part u.model = some m)
    (hplans : f.plans = [pl]) (hfault : pl.fault = none) (hc : pl.count = pl.ids.length) (hne : pl.ids ≠ [])
    (hend : a.prog.total ≤ a.prog.done + pl.ids.length) (hsus : a.suspendReq = false) :
    ∃ (v : State) (n : Nat) (w : TokCtx) (blocks : List Nat) (last : Option Nat), endStep part idle stall f s = refreshRing (landed v part h n w) part
      ∧ v.agents = [(pl.agent, pastLong a (a.prog.done + pl.ids.length))] ∧ v.mem = s.mem
      ∧ w = { u with toks := u.toks ++ pl.ids, blocks := blocks, last := last } := by
  have hlard := touchLarder_planners part f.plans s
  have hbag : (touchLarder s part f.plans).agents = [(pl.agent, a)] := (congrArg State.agents hlard :).trans hag
  have hbmem : (touchLarder s part f.plans).mem = s.mem := (congrArg State.mem hlard :)
  have htoks : (touchLarder s part f.plans).toks = s.toks := (congrArg State.toks hlard :)
  have hmodels : (touchLarder s part f.plans).models = s.models := (congrArg State.models hlard :)
  have hbl : longCtx (touchLarder s part f.plans) a = some (h, u) := by rw [longCtx_of_toks htoks, hl]
  have hbm : modelOf (touchLarder s part f.plans) part u.model = some m := by rw [modelOf_of_models hmodels, hm]
  have happ : applyPlans (touchLarder s part f.plans) part f.plans = .ok (appended (touchLarder s part f.plans) part pl a h u, []) := by
    generalize touchLarder s part f.plans = b at hbag hbl hbm
    rw [hplans, applyPlans, applyPlan_append hfault (agent_only hbag) hbl hbm hp hc hne hcur hend]
    rfl
  obtain ⟨n, hstep⟩ := endStep_of_applied (idle := idle) (stall := stall) happ
  obtain ⟨hvag, ⟨blocks, last, hvtok⟩, hvmem⟩ := appended_spec (part := part) (h := h) (u := u) hbag
  have hctxs : stepCtxs s f.plans = [h] := by
    rw [hplans, stepCtxs, List.filterMap_cons, agent_only hag, Option.bind_some, hl]
    rfl
  refine ⟨appended (touchLarder s part f.plans) part pl a h u, n, _, blocks, last, ?_, hvag, hvmem.trans hbmem, rfl⟩
  have hws : ({ u with toks := u.toks ++ pl.ids, blocks := blocks, last := last } : TokCtx).spec = 0 := hspec
  generalize ({ u with toks := u.toks ++ pl.ids, blocks := blocks, last := last } : TokCtx) = w at hvtok hws
  generalize appended (touchLarder s part f.plans) part pl a h u = v at hstep hvag hvtok
  have hmap := mapToks_one (s := v.setPlanner part { v.planner part with flight := none }) (monitorDepth idle stall) hvtok
  rw [hstep, hctxs, hmap, monitorDepth_off hws, suspendAsked_none]
  · rfl
  · intro p hpl b hb
    have hb2 : b = pastLong a (a.prog.done + pl.ids.length) := eq_of_agent_only (s := landed v part h n _) hvag hb
    rw [hb2]
    exact hsus

theorem stepsComplete : StepsComplete := by
  intro s part idle stall
  have hx : exec (.stepComplete part idle stall) s = execStepComplete part idle stall s := rfl
  refine ⟨fun hf => ?_, fun id a h u m f pl cd g imm hag hcur hl hpend hspec hm hf hplans hid hfault hc hne hend hsus _ => ?_⟩
  · rw [hx, execStepComplete, hf]
  subst hid
  have htouch : planTouches (completionTouch s part) f.plans = Touch.none := planTouches_none fun p hp => by
    rw [hplans, List.mem_singleton] at hp
    rw [hp, completionTouch, planModel, agent_only hag, Option.bind_some, Option.bind_some, hl, Option.bind_some, hm]
    dsimp only [Option.map_some]
    rw [hcur]
  obtain ⟨v, n, w, blocks, last, hstep, hvag, hvmem, hw⟩ := endStep_append (s := dropHeld s (plannerSender part)) (idle := idle) (stall := stall)
    hag hcur hl hpend hspec hm hplans hfault hc hne hend hsus
  have hrest : NoAdoption (landed v part h n w) := noAdoption_only (s := landed v part h n w) hvag (show stReady ≠ stLong by decide)
  obtain ⟨ring, visiting, hspecs, hpl, hagent⟩ := refreshRing_spec hrest part
  obtain ⟨d, hd⟩ := hagent pl.agent _ (agent_only (s := landed v part h n w) hvag)
  have hrun : ∀ p ∈ f.plans, ∀ b, (refreshRing (landed v part h n w) part).agent p.agent = some b → ¬(stSuspended ≤ b.st) := fun p hp b hb => by
    rw [hplans, List.mem_singleton] at hp
    rw [hp, hd] at hb
    cases hb
    exact (show ¬(stSuspended ≤ stReady) by decide)
  refine ⟨dropHeld (refreshRing (landed v part h n w) part) (plannerSender part), { pastLong a (a.prog.done + pl.ids.length) with deficit := d }, w, ?_, ?_, hd, ?_,
    rfl, rfl, rfl, rfl, rfl, rfl, rfl, ?_, ?_, ?_, ?_⟩
  · rw [hx, execStepComplete, hf]
    dsimp only
    rw [htouch, whenTouch_nothing, hstep, stepEnd_running hrun]
  · refine (congrArg Planner.flight hpl).trans ?_
    exact congrArg Planner.flight (planner_setPlanner_same v part { v.planner part with flight := none })
  · have ht : (refreshRing (landed v part h n w) part).toks = (landed v part h n w).toks := by rw [hspecs]
    exact (congrArg (Tbl.look · h) ht).trans (Tbl.look_put_same ..)
  · rw [hw]
  · rw [hw]
    exact hpend
  · rw [hw]
  · have hmem : (refreshRing (landed v part h n w) part).mem = (landed v part h n w).mem := by rw [hspecs]
    rw [dropHeld_mem, hmem]
    exact hvmem

end Sys2Proof.Proofs
end

section
/-!
PROOFS. The fault of a step (R314, R337, R396), and the statement on steps.
-/

namespace Sys2Proof.Proofs
open Sys2Proof Sys2Proof.Machine Sys2Proof.Claim

/-! ## An agent stops (R314, R321) -/

/-- An agent out of the ring in a state that it entered. -/
def stoppedAgent (a : Agent) (st : BitVec 3) : Agent := { a with st := st, suspendReq := false, deficit := 0 }

theorem leaveRing_agent {s : State} {part id : Nat} {a : Agent} (h : s.agent id = some a) :
    ∃ planners, leaveRing s part id = { s with planners := planners, agents := Tbl.put s.agents id { a with deficit := 0 } } := by
  unfold leaveRing
  dsimp only
  have ha : ∀ q, (s.setPlanner part q).agent id = some a := fun _ => h
  rw [ha]
  exact ⟨_, rfl⟩

theorem writeRecord_packet (s : State) (id : Nat) : sansPacket (writeRecord s id) = sansPacket s := by
  unfold writeRecord
  split
  · split
    · exact feWrite_packet ‹_›
    · rfl
  · rfl

section Only
variable {s : State} {id : Nat} {a : Agent} (hag : s.agents = [(id, a)])
include hag

/-- The machine's only agent stops. -/
theorem stopAgent_only (st : BitVec 3) : (stopAgent s id st).agents = [(id, stoppedAgent a st)] ∧ (stopAgent s id st).asyncs = s.asyncs := by
  have hput : (s.setAgent id { a with st := st, suspendReq := false }).agents = [(id, { a with st := st, suspendReq := false })] :=
    (congrArg (fun t => Tbl.put t id _) hag).trans (put_only ..)
  obtain ⟨planners, hl⟩ := leaveRing_agent (part := partOf s a) (agent_only hput)
  rw [hput, put_only] at hl
  rw [stopAgent, agent_only hag]
  dsimp only
  have hw := writeRecord_packet (leaveSlotQueue (leaveRing (s.setAgent id { a with st := st, suspendReq := false }) (partOf s a) id) id) id
  refine ⟨(packet_agents hw).trans ?_, (packet_asyncs hw).trans ?_⟩
  · exact (congrArg State.agents hl : _)
  · exact (congrArg State.asyncs hl : _)

variable (has : s.asyncs = [])
include has

theorem suspendNow_only : (suspendNow s id).agents = [(id, stoppedAgent a stSuspended)] := by
  obtain ⟨h1, h2⟩ := stopAgent_only hag stSuspended
  rw [suspendNow, settleAgent, h2, has]
  exact h1

theorem agentFault_only (cause : Byte) (tval : Word) (under : Nat) :
    (agentFault s id cause tval under).agents = [(id, stoppedAgent { a with cause := cause, tval := tval } stFaulted)] := by
  have hput : (s.setAgent id { a with cause := cause, tval := tval }).agents = [(id, { a with cause := cause, tval := tval })] :=
    (congrArg (fun t => Tbl.put t id _) hag).trans (put_only ..)
  obtain ⟨h1, h2⟩ := stopAgent_only hput stFaulted
  rw [agentFault, agent_only hag]
  dsimp only
  rw [agent_only h1]
  dsimp only
  have hr := ringPost_packet (stopAgent (s.setAgent id { a with cause := cause, tval := tval }) id stFaulted)
  have has2 : (agentReport (stopAgent (s.setAgent id { a with cause := cause, tval := tval }) id stFaulted)
      (stoppedAgent { a with cause := cause, tval := tval } stFaulted) tval under).asyncs = [] := (packet_asyncs (hr _ _)).trans (h2.trans has)
  rw [settleAgent, has2]
  exact (packet_agents (hr _ _)).trans h1

end Only

/-! ## The discard of a step (R337, R396) -/

/-- The planner without its step. -/
def unflown (s : State) (part : Nat) : State := s.setPlanner part { s.planner part with flight := none }
/-- The plans whose agents are LONG. -/
def stillLong (s : State) (l : List Plan) : List Plan :=
  l.filter (fun (q : Plan) => match s.agent q.agent with | some a => a.st = stLong | none => false)
/-- The step that is to be planned again. -/
def planAgain (l : List Plan) : Machine.Step := { plans := l, retry := true, cores := [] }

section Discard
variable {s : State} {part : Nat} {f : Machine.Step} (hf : (s.planner part).flight = some f)
include hf

theorem execStepFault_eq (fault : Option (BitVec 8)) :
    exec (.stepFault part fault) s = stepEnd part f.plans s (discardStep s part fault) := by
  have hx : exec (.stepFault part fault) s = execStepFault part fault s := rfl
  rw [hx, execStepFault, hf]

theorem discardStep_fault (hr : f.retry = false) (c : Byte) : discardStep s part (some c) =
    refreshRing ((suspendAsked (unflown s part) f.plans).setPlanner part { (suspendAsked (unflown s part) f.plans).planner part with
      replan := some (planAgain (stillLong (suspendAsked (unflown s part) f.plans) f.plans)) }) part := by
  rw [discardStep, hf]
  dsimp only
  rw [hr]
  rfl
theorem discardStep_preempted (hr : f.retry = false) : discardStep s part none =
    refreshRing ((suspendAsked (unflown s part) f.plans).setPlanner part { (suspendAsked (unflown s part) f.plans).planner part with
      replan := none }) part := by
  rw [discardStep, hf]
  dsimp only
  rw [hr]
  rfl
theorem discardStep_second (hr : f.retry = true) (c : Byte) : discardStep s part (some c) =
    refreshRing (suspendAsked (faultAll (unflown s part) Cause.modelFault (c.setWidth 64) f.plans) f.plans) part := by
  rw [discardStep, hf]
  dsimp only
  rw [hr]
  rfl

end Discard

theorem unflown_flight (s : State) (part : Nat) : ((unflown s part).planner part).flight = none :=
  congrArg Planner.flight (planner_setPlanner_same ..)
theorem suspendAsked_flight (s : State) (part : Nat) (l : List Plan) : ((suspendAsked (unflown s part) l).planner part).flight = none :=
  (steps_of_view (suspendAsked_agents l (unflown s part)) part).1.trans (unflown_flight ..)

/-- The ring is refreshed once a step is to be planned again, where no block is adopted. -/
theorem refreshRing_replan {s : State} {part : Nat} (hn : NoAdoption s) (hf : (s.planner part).flight = none) (again : Option Machine.Step) :
    let u := refreshRing (s.setPlanner part { s.planner part with replan := again }) part
    (u.planner part).flight = none ∧ (u.planner part).replan = again ∧ ∀ id a, s.agent id = some a → ∃ d, u.agent id = some { a with deficit := d } := by
  obtain ⟨ring, visiting, -, hpl, hag⟩ := refreshRing_spec (s := s.setPlanner part { s.planner part with replan := again }) hn part
  have hset := planner_setPlanner_same s part { s.planner part with replan := again }
  dsimp only
  rw [hpl, hset]
  exact ⟨hf, rfl, hag⟩

/-- The first fault of a step whose agents are LONG (R337). -/
theorem stepFault_first {s : State} {part : Nat} {f : Machine.Step} (c : BitVec 8) (hf : (s.planner part).flight = some f) (hr : f.retry = false)
    (hp : s.pantry = []) (hl : ∀ p ∈ f.plans, ∃ a, s.agent p.agent = some a ∧ a.st = stLong ∧ a.suspendReq = false) :
    ∃ t, exec (.stepFault part (some c)) s = .next t ∧ (t.planner part).flight = none
      ∧ (t.planner part).replan = some { plans := f.plans, retry := true, cores := [] } := by
  have hs : suspendAsked (unflown s part) f.plans = unflown s part := suspendAsked_none _ fun p hpl a ha => by
    obtain ⟨b, hb, -, hsus⟩ := hl p hpl
    cases hb.symm.trans ha
    exact hsus
  have hleft : stillLong (unflown s part) f.plans = f.plans := List.filter_eq_self.mpr fun p hpl => by
    obtain ⟨b, hb, hst, -⟩ := hl p hpl
    have hb2 : (unflown s part).agent p.agent = some b := hb
    rw [hb2]
    exact decide_eq_true hst
  have hd := discardStep_fault hf hr c
  rw [hs, hleft] at hd
  obtain ⟨h1, h2, h3⟩ := refreshRing_replan (s := unflown s part) (Or.inl hp) (unflown_flight ..) (some (planAgain f.plans))
  rw [← hd] at h1 h2 h3
  refine ⟨dropHeld (discardStep s part (some c)) (plannerSender part), (execStepFault_eq hf _).trans (stepEnd_running fun p hpl b hb => ?_), h1, h2⟩
  obtain ⟨a, ha, hst, -⟩ := hl p hpl
  obtain ⟨d, hd⟩ := h3 p.agent a ha
  cases hd.symm.trans hb
  dsimp only
  rw [hst]
  decide

theorem stepsFault : StepsFault := by
  intro s part c f hf free
  refine ⟨fun hr hp hl => stepFault_first c hf hr hp hl, fun hfree hr => ?_, fun id a pl hfree hr hplans hid hag _ has hsus => ?_,
    fun id a pl hfree hr hplans hid hag _ has => ?_⟩
  · refine ⟨_, (execStepFault_eq hf none).trans (stepEnd_free hfree ..), ?_⟩
    have hv := steps_of_view (refreshRing_agents ((suspendAsked (unflown s part) f.plans).setPlanner part
      { (suspendAsked (unflown s part) f.plans).planner part with replan := none }) part) part
    rw [← discardStep_preempted hf hr, planner_setPlanner_same] at hv
    exact ⟨hv.1.trans (suspendAsked_flight ..), Option.isSome_eq_false_iff.mp hv.2 |> Option.isNone_iff_eq_none.mp⟩
  · subst hid
    have hu : (unflown s part).agents = [(pl.agent, a)] := hag
    have hasked : suspendAsked (unflown s part) f.plans = suspendNow (unflown s part) pl.agent := by
      rw [hplans, suspendAsked, agent_only hu]
      exact if_pos hsus
    have hsn : (suspendNow (unflown s part) pl.agent).agents = [(pl.agent, stoppedAgent a stSuspended)] := suspendNow_only hu has
    have hleft : stillLong (suspendNow (unflown s part) pl.agent) f.plans = [] := by
      rw [hplans, stillLong, List.filter_cons, agent_only hsn]
      rfl
    have hfl := suspendAsked_flight s part f.plans
    have hd := discardStep_fault hf hr c
    rw [hasked] at hfl hd
    rw [hleft] at hd
    obtain ⟨h1, h2, h3⟩ := refreshRing_replan (noAdoption_only hsn (show stSuspended ≠ stLong by decide)) hfl (some (planAgain []))
    rw [← hd] at h1 h2 h3
    obtain ⟨d, hb⟩ := h3 pl.agent _ (agent_only hsn)
    exact ⟨dropHeld (discardStep s part (some c)) (plannerSender part), _, (execStepFault_eq hf _).trans (stepEnd_free hfree ..), hb, rfl, rfl, rfl, rfl, h1, h2⟩
  · subst hid
    have hfault : (faultAll (unflown s part) Cause.modelFault (c.setWidth 64) f.plans).agents =
        [(pl.agent, stoppedAgent { a with cause := Cause.modelFault, tval := c.setWidth 64 } stFaulted)] := by
      rw [hplans]
      exact agentFault_only (s := unflown s part) hag has Cause.modelFault (c.setWidth 64) 0
    have hasked : suspendAsked (faultAll (unflown s part) Cause.modelFault (c.setWidth 64) f.plans) f.plans
        = faultAll (unflown s part) Cause.modelFault (c.setWidth 64) f.plans := suspendAsked_none _ fun p _ b hb => by
      rw [eq_of_agent_only hfault hb]
      rfl
    have hd := discardStep_second hf hr c
    rw [hasked] at hd
    have hv := (steps_of_view (refreshRing_agents (faultAll (unflown s part) Cause.modelFault (c.setWidth 64) f.plans) part) part).1
    have hfl := (steps_of_view (faultAll_agents Cause.modelFault (c.setWidth 64) f.plans (unflown s part)) part).1.trans (unflown_flight s part)
    obtain ⟨ring, visiting, -, -, h3⟩ := refreshRing_spec (noAdoption_only hfault (show stFaulted ≠ stLong by decide)) part
    obtain ⟨d, hb⟩ := h3 pl.agent _ (agent_only hfault)
    rw [← hd] at hv hb
    exact ⟨dropHeld (discardStep s part (some c)) (plannerSender part), _, (execStepFault_eq hf _).trans (stepEnd_free hfree ..), hv.trans hfl, hb,
      rfl, rfl, rfl, rfl, rfl⟩

/-- Settles O42: steps planned, visits of the ring, steps filled, flown, completed and faulted. -/
theorem stepsRun : Obligations.StepsRun :=
  ⟨stepsArePlanned, ringVisits, stepsAreFilled, stepsFly, stepsComplete, stepsFault⟩

end Sys2Proof.Proofs
end

section
/-!
PROOFS. The decoder reads from the words of an instruction that instruction (R92 to R112, R119).
-/

namespace Sys2Proof.Proofs
open Sys2Proof Sys2Proof.Machine Sys2Proof.Claim Sys2Proof.Laws

/-- The words of an instruction decode to it: for each native one by the law of its constructor; the others have no words. -/
theorem encodable (i : Instr) : Encodable.Statement i := by
  cases i with
  | add => apply Encodable.add | sub => apply Encodable.sub | mul => apply Encodable.mul | mulh => apply Encodable.mulh
  | mulhn => apply Encodable.mulhn | div => apply Encodable.div | divn => apply Encodable.divn | rem => apply Encodable.rem
  | remn => apply Encodable.remn | and => apply Encodable.and | or => apply Encodable.or | xor => apply Encodable.xor
  | andn => apply Encodable.andn | shl => apply Encodable.shl | shr => apply Encodable.shr | sar => apply Encodable.sar
  | min => apply Encodable.min | max => apply Encodable.max | minn => apply Encodable.minn | maxn => apply Encodable.maxn
  | slt => apply Encodable.slt | sltn => apply Encodable.sltn | clz => apply Encodable.clz | ctz => apply Encodable.ctz
  | popc => apply Encodable.popc | sext => apply Encodable.sext | zext => apply Encodable.zext | addi => apply Encodable.addi
  | andi => apply Encodable.andi | ori => apply Encodable.ori | xori => apply Encodable.xori | shli => apply Encodable.shli
  | shri => apply Encodable.shri | sari => apply Encodable.sari | slti => apply Encodable.slti | lih => apply Encodable.lih
  | fadd => apply Encodable.fadd | fsub => apply Encodable.fsub | fmul => apply Encodable.fmul | fdiv => apply Encodable.fdiv
  | fsqrt => apply Encodable.fsqrt | fma => apply Encodable.fma | fmin => apply Encodable.fmin | fmax => apply Encodable.fmax
  | feq => apply Encodable.feq | flt => apply Encodable.flt | fle => apply Encodable.fle | funord => apply Encodable.funord
  | fcvt => apply Encodable.fcvt | fclass => apply Encodable.fclass | ld => apply Encodable.ld | st => apply Encodable.st
  | lda => apply Encodable.lda | stl => apply Encodable.stl | amoadd => apply Encodable.amoadd | amoswap => apply Encodable.amoswap
  | amoand => apply Encodable.amoand | amoor => apply Encodable.amoor | amoxor => apply Encodable.amoxor | amomin => apply Encodable.amomin
  | amomax => apply Encodable.amomax | amominn => apply Encodable.amominn | amomaxn => apply Encodable.amomaxn | cas => apply Encodable.cas
  | fence => apply Encodable.fence | br => apply Encodable.br | j => apply Encodable.j | jal => apply Encodable.jal
  | jr => apply Encodable.jr | jalr => apply Encodable.jalr | region => apply Encodable.region | tend => apply Encodable.tend
  | spawn => apply Encodable.spawn | spawnr => apply Encodable.spawnr | depset => apply Encodable.depset | deprd => apply Encodable.deprd
  | depdec => apply Encodable.depdec | rcall => apply Encodable.rcall | rreply => apply Encodable.rreply
  | migrate => apply Encodable.migrate | arrive => apply Encodable.arrive | waitb => apply Encodable.waitb
  | barcfg => apply Encodable.barcfg | waitw => apply Encodable.waitw | csrr => apply Encodable.csrr | csrw => apply Encodable.csrw
  | csrs => apply Encodable.csrs | csrc => apply Encodable.csrc | trap => apply Encodable.trap | eret => apply Encodable.eret
  | brk => apply Encodable.brk | tld => apply Encodable.tld | tst => apply Encodable.tst | tzero => apply Encodable.tzero
  | azero => apply Encodable.azero | mdrain => apply Encodable.mdrain | mdrainG => apply Encodable.mdrainG
  | mdrains => apply Encodable.mdrains | mslot => apply Encodable.mslot | cpy => apply Encodable.cpy | cpwait => apply Encodable.cpwait
  | cvpt => apply Encodable.cvpt | cvdone => apply Encodable.cvdone | cvstat => apply Encodable.cvstat | vxset => apply Encodable.vxset
  | hset => apply Encodable.hset | vxadd => apply Encodable.vxadd | chstat => apply Encodable.chstat | chclose => apply Encodable.chclose
  | psend => apply Encodable.psend | precv => apply Encodable.precv | vadd => apply Encodable.vadd | vsub => apply Encodable.vsub
  | vmul => apply Encodable.vmul | vfma => apply Encodable.vfma | vfms => apply Encodable.vfms | vdiv => apply Encodable.vdiv
  | vmin => apply Encodable.vmin | vmax => apply Encodable.vmax | vabs => apply Encodable.vabs | vneg => apply Encodable.vneg
  | vand => apply Encodable.vand | vor => apply Encodable.vor | vxor => apply Encodable.vxor | vandn => apply Encodable.vandn
  | vshl => apply Encodable.vshl | vshr => apply Encodable.vshr | vsar => apply Encodable.vsar | vcmp => apply Encodable.vcmp
  | vsel => apply Encodable.vsel | vclamp => apply Encodable.vclamp | vcvt => apply Encodable.vcvt | vscale => apply Encodable.vscale
  | vdot => apply Encodable.vdot | vred => apply Encodable.vred | vargmax => apply Encodable.vargmax | vgumbel => apply Encodable.vgumbel
  | vmov => apply Encodable.vmov | vbcast => apply Encodable.vbcast | vextr => apply Encodable.vextr | vins => apply Encodable.vins
  | vperm => apply Encodable.vperm | vslide => apply Encodable.vslide | vcomp => apply Encodable.vcomp | vexp2 => apply Encodable.vexp2
  | vlog2 => apply Encodable.vlog2 | vrcp => apply Encodable.vrcp | vrsqrt => apply Encodable.vrsqrt | vsqrt => apply Encodable.vsqrt
  | vsin => apply Encodable.vsin | vcos => apply Encodable.vcos | vtanh => apply Encodable.vtanh | vsigm => apply Encodable.vsigm
  | vld => apply Encodable.vld | vst => apply Encodable.vst | vlds => apply Encodable.vlds | vsts => apply Encodable.vsts
  | vgather => apply Encodable.vgather | vscatter => apply Encodable.vscatter | mop => apply Encodable.mop | mpop => apply Encodable.mpop
  | mfirst => apply Encodable.mfirst | mset => apply Encodable.mset | vaddVi => apply Encodable.vaddVi | vsubVi => apply Encodable.vsubVi
  | vmulVi => apply Encodable.vmulVi | vdivVi => apply Encodable.vdivVi | vminVi => apply Encodable.vminVi
  | vmaxVi => apply Encodable.vmaxVi | vandVi => apply Encodable.vandVi | vorVi => apply Encodable.vorVi | vxorVi => apply Encodable.vxorVi
  | vandnVi => apply Encodable.vandnVi | vshlVi => apply Encodable.vshlVi | vshrVi => apply Encodable.vshrVi
  | vsarVi => apply Encodable.vsarVi | mma => apply Encodable.mma | vaddLit => apply Encodable.vaddLit | vsubLit => apply Encodable.vsubLit
  | vmulLit => apply Encodable.vmulLit | vfmaLit => apply Encodable.vfmaLit | vfmsLit => apply Encodable.vfmsLit
  | vdivLit => apply Encodable.vdivLit | vminLit => apply Encodable.vminLit | vmaxLit => apply Encodable.vmaxLit
  | vabsLit => apply Encodable.vabsLit | vnegLit => apply Encodable.vnegLit | vandLit => apply Encodable.vandLit
  | vorLit => apply Encodable.vorLit | vxorLit => apply Encodable.vxorLit | vandnLit => apply Encodable.vandnLit
  | vshlLit => apply Encodable.vshlLit | vshrLit => apply Encodable.vshrLit | vsarLit => apply Encodable.vsarLit
  | vcmpLit => apply Encodable.vcmpLit | vselLit => apply Encodable.vselLit | vclampLit => apply Encodable.vclampLit
  | vcvtLit => apply Encodable.vcvtLit | vscaleLit => apply Encodable.vscaleLit | vdotLit => apply Encodable.vdotLit
  | vredLit => apply Encodable.vredLit | vargmaxLit => apply Encodable.vargmaxLit | vgumbelLit => apply Encodable.vgumbelLit
  | vmovLit => apply Encodable.vmovLit | vextrLit => apply Encodable.vextrLit | vpermLit => apply Encodable.vpermLit
  | vslideLit => apply Encodable.vslideLit | vcompLit => apply Encodable.vcompLit | lil => apply Encodable.lil
  | addl => apply Encodable.addl
  | _ => exact no_words rfl

/-- Settles O55, constructor by constructor. -/
theorem encodedInstructionsDecode : Obligations.EncodedInstructionsDecode := encodable

/-- Settles O57: each word is what the encoder writes for the instruction beside it; the last is of no major. -/
theorem wordsDecode : Obligations.WordsDecode := by
  have read {i : Instr} {w : Nat} (h : encode i = some w) : decode w = .ok i := encodable i w h
  exact ⟨read rfl, read rfl, read rfl, read rfl, read rfl, read rfl, read rfl, read rfl, read rfl, read rfl, read rfl, read rfl,
    read rfl, read rfl, read rfl, read rfl, read rfl, read rfl, read rfl, read rfl, read rfl, read rfl, rfl⟩

end Sys2Proof.Proofs
end

section
/-!
PROOFS. What an ill-formed instruction raises (R115, R116).
-/

namespace Sys2Proof.Proofs
open Sys2Proof Sys2Proof.Machine Sys2Proof.Claim

theorem bits_eq {i : Instr} {w : Nat} (he : encode i = some w) : bits i = instrBits w := by
  rw [bits, he, Option.getD_some]

/-- What an instruction that is checked does with an unassigned selector. -/
theorem traps_of_selector {i : Instr} {s : State} {body : Res} {w : Nat} {c : Byte} (hx : exec i s = checked i s body)
    (he : encode i = some w) (h : selector (w % 2 ^ 64) = some c) : Traps i s c (bits i) := by
  rw [bits_eq he]
  exact hx.trans (checked_selector he h)

/-- What it does with a reserved field or value. -/
theorem traps_of_reserved {i : Instr} {s : State} {body : Res} {w : Nat} (hx : exec i s = checked i s body) (he : encode i = some w)
    (hs : selector (w % 2 ^ 64) = none) (h : reserved s.widths i = true) : Traps i s Cause.reservedField (bits i) := by
  rw [bits_eq he]
  exact hx.trans (checked_reserved he hs h)

/-- Every vector instruction is checked: in each branch of vinsOf that gives one, by the equation of its meaning. -/
theorem exec_checked_of_vins {i : Instr} {v : VIns} (s : State) (h : vinsOf i = some v) : ∃ body, exec i s = checked i s body := by
  unfold vinsOf at h
  split at h
  case h_97 => cases h
  all_goals exact ⟨_, rfl⟩

/-- Every instruction with selector fields, reserved fields or reserved values is checked, branch by branch of hasChecks; the last
branch has none. -/
theorem exec_checked {i : Instr} (s : State) (h : hasChecks i = true) : ∃ body, exec i s = checked i s body := by
  unfold hasChecks at h
  rw [Bool.or_eq_true] at h
  rcases h with hv | hc
  · obtain ⟨v, hv⟩ := Option.isSome_iff_exists.mp hv
    exact exec_checked_of_vins s hv
  · split at hc
    case h_47 => cases hc
    all_goals exact ⟨_, rfl⟩

/-- Settles O2: such an instruction goes through the checks of R116, which look at its selectors first. -/
theorem illFormedInstructionsTrap : Obligations.IllFormedInstructionsTrap := by
  intro s i w hi he
  obtain ⟨body, hx⟩ := exec_checked s hi
  exact ⟨fun _ h => traps_of_selector hx he h, fun hs h => traps_of_reserved hx he hs h⟩

end Sys2Proof.Proofs
end

section
/-!
PROOFS. Branches and jumps (R107, R151, R152).
-/

namespace Sys2Proof.Proofs
open Sys2Proof Sys2Proof.Machine Sys2Proof.Claim

/-! ## The jumps -/

theorem onlyStrand_setCur (s : State) (t : Strand) : OnlyStrand s (s.setCur t) :=
  ⟨rfl, fun _ hk => State.strand_setCur_other s t _ hk⟩
theorem onlyStrand_setPc {s t : State} (h : OnlyStrand s t) (p : Word) : OnlyStrand s (t.setPc p) := by
  obtain ⟨heq, hother⟩ := h
  have hfs : t.fs = s.fs := by rw [heq]
  refine ⟨?_, fun k hk => ?_⟩
  · rw [heq]
    rfl
  · rw [State.strand_setPc_other _ _ _ (hfs ▸ hk), hother k hk]

/-- A jump changes the pc alone. -/
theorem movesPc_of_jumpTo {i : Instr} {s : State} {p : Word} (h : exec i s = jumpTo p s) : MovesPc i s p :=
  ⟨s.setPc p, h, onlyStrand_setCur s _, State.setPc_pc s p, by rw [State.setPc_cur]; rfl⟩

theorem readX_writeX (s : State) (d r : XReg) (v : Word) : (s.writeX d v).readX r = if r = d ∧ r ≠ 0 then v else s.readX r := by
  by_cases hr : r = d
  · subst hr
    by_cases h0 : r = 0
    · subst h0
      rfl
    · rw [if_pos ⟨rfl, h0⟩, State.readX_writeX_same _ _ _ h0]
  · rw [if_neg fun h => hr h.1, State.readX_writeX_other _ _ _ _ hr]

/-- What a write of xd and a move of the pc change. -/
theorem writeX_setPc_changes (s : State) (d : XReg) (v p : Word) :
    OnlyStrand s ((s.writeX d v).setPc p) ∧ (∀ r, ((s.writeX d v).setPc p).readX r = if r = d ∧ r ≠ 0 then v else s.readX r)
    ∧ ((s.writeX d v).setPc p).pc = p ∧ { ((s.writeX d v).setPc p).cur with pc := s.cur.pc, x := s.cur.x } = s.cur := by
  refine ⟨onlyStrand_setPc (onlyStrand_setCur s _) p, fun r => ?_, State.setPc_pc _ p, ?_⟩
  · rw [State.readX_setPc, readX_writeX]
  · rw [State.setPc_cur, State.writeX_cur]
    unfold Strand.writeX
    split <;> rfl

/-- A jump that links changes xd besides. -/
theorem jumps_of_jumpTo {i : Instr} {s : State} {d : XReg} {v p : Word} (h : exec i s = jumpTo p (s.writeX d v)) : Jumps i s d v p :=
  ⟨_, h, writeX_setPc_changes s d v p⟩

/-- Four times a sign-extended offset is the low 64 bits of the exact product (R8). -/
theorem four_mul_signExtend {n : Nat} (off : BitVec n) : 4 * off.signExtend 64 = low (4 * off.toInt) := by
  rw [low, BitVec.ofInt_mul]
  rfl

theorem indirectTarget_eq (s : State) (a : XReg) (imm : BitVec 17) : indirectTarget a imm s = s.readX a + low imm.toInt := rfl

/-! ## BR -/

/-- Order 3 of R116 for a word of BR: its condition code. -/
theorem selector_of_major_br {w : Nat} (h : majorBits w = 0x24) :
    selector w = if 6 ≤ fld w 15 3 then some Cause.illegalOp else none := by
  simp [selector, h, firstOf]

theorem selector_br {a b : XReg} {cond : BitVec 3} {off : BitVec 14} {w : Nat} (h : encode (.br a b cond off) = some w) :
    selector (w % 2 ^ 64) = if 6 ≤ cond.toNat then some Cause.illegalOp else none := by
  have ha := a.isLt; have hb := b.isLt; have hc := cond.isLt; have ho := off.isLt
  have hw : w = 0x24 + put a 7 + put b 11 + put cond 15 + put off 18 := (Option.some.inj h).symm
  simp only [put] at hw
  have hm : majorBits (w % 2 ^ 64) = 0x24 := by unfold majorBits; omega
  have hf : fld (w % 2 ^ 64) 15 3 = cond.toNat := by unfold fld; omega
  rw [selector_of_major_br hm, hf]

/-- BR with an assigned condition code is well-formed: it has no other field that could be reserved. -/
theorem wellFormed_br {cw : BitVec 3 → Option Nat} {a b : XReg} {cond : BitVec 3} {off : BitVec 14} (hc : cond.toNat ≤ 5) :
    wellFormed cw (.br a b cond off) = true := by
  obtain ⟨w, hw⟩ : ∃ w, encode (.br a b cond off) = some w := ⟨_, rfl⟩
  have hs : selector (w % 2 ^ 64) = none := by rw [selector_br hw, if_neg (by omega)]
  have hr : reserved cw (.br a b cond off) = false := rfl
  simp only [wellFormed, selectorsOk, fieldsOk, hw, hs, hr, Option.isNone_none, Bool.not_false, Bool.and_self]

/-- The model's condition is the row of R107. -/
theorem condHolds_iff {c : Nat} {x y : Word} (hc : c ≤ 5) : condHolds c x y = true ↔
    (c = 0 ∧ x = y) ∨ (c = 1 ∧ x ≠ y) ∨ (c = 2 ∧ sv x < sv y) ∨ (c = 3 ∧ sv x ≥ sv y) ∨ (c = 4 ∧ uv x < uv y) ∨ (c = 5 ∧ uv x ≥ uv y) := by
  interval_cases c <;> simp [condHolds, sv, uv, BitVec.slt, BitVec.ult]

theorem exec_br {s : State} {a b : XReg} {cond : BitVec 3} {off : BitVec 14} (hc : cond.toNat ≤ 5) : exec (.br a b cond off) s =
    jumpTo (if condHolds cond.toNat (s.readX a) (s.readX b) then s.pc + low (4 * off.toInt) else s.pc + 4) s := by
  rw [← four_mul_signExtend off]
  exact checked_ok (wellFormed_br hc)

/-- Settles O12: each jump by its target, BR by its condition code. -/
theorem branchesAndJumps : Obligations.BranchesAndJumps := by
  intro s d a b cond off far imm
  have hfar := four_mul_signExtend far
  refine ⟨fun hh => ?_, fun hh hc => ?_, fun hc => ?_, ?_, ?_, fun ht => ?_, fun ht => ?_⟩
  · have hc : cond.toNat ≤ 5 := by omega
    exact movesPc_of_jumpTo ((exec_br hc).trans (by rw [if_pos ((condHolds_iff hc).mpr hh)]))
  · exact movesPc_of_jumpTo ((exec_br hc).trans (by rw [if_neg fun h => hh ((condHolds_iff hc).mp h)]))
  · obtain ⟨w, hw⟩ : ∃ w, encode (.br a b cond off) = some w := ⟨_, rfl⟩
    exact traps_of_selector rfl hw ((selector_br hw).trans (if_pos hc))
  · exact movesPc_of_jumpTo (hfar ▸ rfl)
  · exact jumps_of_jumpTo (hfar ▸ rfl)
  · rw [← indirectTarget_eq] at ht ⊢
    exact ⟨movesPc_of_jumpTo (if_neg (not_not.mpr ht)), jumps_of_jumpTo (if_neg (not_not.mpr ht))⟩
  · rw [← indirectTarget_eq] at ht ⊢
    exact ⟨if_pos ht, if_pos ht⟩

end Sys2Proof.Proofs
end

section
/-!
PROOFS. The CSRs and the instructions on them (R7, R113, R172, R173).
-/

namespace Sys2Proof.Proofs
open Sys2Proof Sys2Proof.Machine Sys2Proof.Claim

/-- The model's writable bits are those of the statement. -/
theorem csrBits_eq_csrMask (n : Nat) : csrBits n = csrMask n := by
  have h1 : n ≤ 0x017 ↔ n < 0x018 := by omega
  have h2 : n ≤ 0x01F ↔ n < 0x020 := by omega
  simp only [csrBits, csrMask, h1, h2]

/-! ## What a write changes -/

/-- What a write to a CSR leaves unchanged: all but the strand in focus, the cores and the resets under way, and of the strand
its registers and its pc. -/
def OnlyCsrs (s t : State) : Prop :=
  t = { s with strands := t.strands, cores := t.cores, covResets := t.covResets } ∧ (∀ k, k ≠ s.fs → t.strand k = s.strand k)
  ∧ t.cur.x = s.cur.x ∧ t.cur.pc = s.cur.pc

theorem onlyCsrs_refl (s : State) : OnlyCsrs s s := ⟨rfl, fun _ _ => rfl, rfl, rfl⟩
theorem onlyCsrs_setCur {s : State} {u : Strand} (hx : u.x = s.cur.x) (hp : u.pc = s.cur.pc) : OnlyCsrs s (s.setCur u) :=
  ⟨rfl, fun _ hk => State.strand_setCur_other s u _ hk, by rw [State.setCur_cur, hx], by rw [State.setCur_cur, hp]⟩
theorem onlyCsrs_setCurCore (s : State) (c : Core) (r : List (Nat × Nat)) : OnlyCsrs s { s.setCurCore c with covResets := r } :=
  ⟨rfl, fun _ _ => rfl, rfl, rfl⟩

/-! ## What a read returns -/

@[simp] theorem curCore_setCurCore (s : State) (c : Core) : (s.setCurCore c).curCore = c := by
  simp [State.curCore, State.setCurCore]
@[simp] theorem cur_setCurCore (s : State) (c : Core) : (s.setCurCore c).cur = s.cur := rfl

/-- The CSRs of a strand that a write reaches, and d for the others. -/
def csrOfStrand (t : Strand) (d : Word) (n : Nat) : Word :=
  if n = 0x001 then t.fpc
  else if n = 0x002 then t.vx.setWidth 64
  else if n = 0x003 then t.vxw.setWidth 64
  else if n = 0x040 then .ofNat 64 (tcauseCsr t)
  else if n = 0x041 then t.tpc
  else if n = 0x042 then t.tval
  else if n = 0x043 then t.tvec
  else d

/-- The CSRs of a core that a write reaches, and d for the others. -/
def csrOfCore (c : Core) (d : Word) (n : Nat) : Word :=
  if 0x010 ≤ n ∧ n < 0x018 then Vector.nth (n := 7) c.tcfg (n - 0x010)
  else if 0x018 ≤ n ∧ n < 0x020 then Vector.nth (n := 7) c.fmt (n - 0x018)
  else if n = 0x020 then c.mcfg
  else if n = 0x070 then c.smpkey
  else if n = 0x071 then c.smppos
  else if n = 0x072 then c.smptemp
  else if n = 0x074 then c.lrb
  else if n = 0x075 then c.lre
  else if n = 0x078 then c.covctl
  else d

/-- Two cores that differ in nothing that their read-only CSRs show. -/
def SameReadOnlyCsrs (c c' : Core) : Prop :=
  c.mode = c'.mode ∧ c.count = c'.count ∧ c.sampling = c'.sampling ∧ c.stage = c'.stage ∧ c.cpwp = c'.cpwp

theorem strandCsr_setCurCore {s : State} {c : Core} (hm : c.mode = s.curCore.mode) (hc : c.count = s.curCore.count)
    (hs : c.sampling = s.curCore.sampling) : strandCsr (s.setCurCore c) = strandCsr s := by
  simp only [strandCsr, curCore_setCurCore, hm, hc, hs]
  rfl
theorem coreCsr_setCurCore {s : State} {c : Core} (h : c.stage = s.curCore.stage) : coreCsr (s.setCurCore c) = coreCsr s := by
  simp only [coreCsr, curCore_setCurCore, h]
  rfl

theorem readCsr_tcfg {s : State} {n : Nat} (h : 0x010 ≤ n ∧ n < 0x018) : readCsr s n = Vector.nth (n := 7) s.curCore.tcfg (n - 0x010) := by
  have hn : n ≠ 1 ∧ n ≠ 2 ∧ n ≠ 3 := by omega
  simp [readCsr, hn, h]
theorem readCsr_fmt {s : State} {n : Nat} (h : 0x018 ≤ n ∧ n < 0x020) : readCsr s n = Vector.nth (n := 7) s.curCore.fmt (n - 0x018) := by
  have hn : n ≠ 1 ∧ n ≠ 2 ∧ n ≠ 3 ∧ ¬ (0x010 ≤ n ∧ n < 0x018) := by omega
  simp [readCsr, hn, h]

/-- A read after an update of the strand in focus: what it holds now, or what the CSR read as before. -/
theorem readCsr_setCur {s : State} {u : Strand} (htask : u.taskid = s.cur.taskid) (hrgn : u.rgn = s.cur.rgn) (n : Nat) :
    readCsr (s.setCur u) n = csrOfStrand u (readCsr s n) n := by
  unfold csrOfStrand
  split_ifs with h1 h2 h3 h4 h5 h6 h7
  case neg =>
    simp only [readCsr, State.setCur_cur, if_neg h1, if_neg h2, if_neg h3, if_neg h4, if_neg h5, if_neg h6, if_neg h7, htask, hrgn]
    rfl
  all_goals
    subst n
    simp [readCsr]
/-- The same after an update of its core. -/
theorem readCsr_setCurCore {s : State} {c : Core} (h : SameReadOnlyCsrs c s.curCore) (n : Nat) :
    readCsr (s.setCurCore c) n = csrOfCore c (readCsr s n) n := by
  obtain ⟨hm, hc, hs, hst, hw⟩ := h
  unfold csrOfCore
  split_ifs with h1 h2 h3 h4 h5 h6 h7 h8 h9
  case neg =>
    simp only [readCsr, curCore_setCurCore, cur_setCurCore, if_neg h1, if_neg h2, if_neg h3, if_neg h4, if_neg h5, if_neg h6, if_neg h7,
      if_neg h8, if_neg h9, strandCsr_setCurCore hm hc hs, coreCsr_setCurCore hst, hw]
    rfl
  · rw [readCsr_tcfg h1, curCore_setCurCore]
  · rw [readCsr_fmt h2, curCore_setCurCore]
  all_goals
    subst n
    simp [readCsr]

theorem csrOfStrand_self (s : State) (n : Nat) : csrOfStrand s.cur (readCsr s n) n = readCsr s n := by
  unfold csrOfStrand
  split_ifs
  case neg => rfl
  all_goals
    subst n
    simp [readCsr]
theorem csrOfCore_self (s : State) (n : Nat) : csrOfCore s.curCore (readCsr s n) n = readCsr s n := by
  unfold csrOfCore
  split_ifs with h1 h2
  case neg => rfl
  · exact (readCsr_tcfg h1).symm
  · exact (readCsr_fmt h2).symm
  all_goals
    subst n
    simp [readCsr]

theorem readCsr_setPc (s : State) (p : Word) (n : Nat) : readCsr (s.setPc p) n = readCsr s n :=
  (readCsr_setCur (u := s.cur.setPc p) rfl rfl n).trans (csrOfStrand_self s n)
theorem readCsr_writeX (s : State) (d : XReg) (v : Word) (n : Nat) : readCsr (s.writeX d v) n = readCsr s n := by
  rw [State.writeX, readCsr_setCur (by simp) (by simp)]
  simp only [csrOfStrand, tcauseCsr, Strand.writeX_fpc, Strand.writeX_vx, Strand.writeX_vxw, Strand.writeX_tActive, Strand.writeX_tCode,
    Strand.writeX_tpc, Strand.writeX_tval, Strand.writeX_tvec]
  exact csrOfStrand_self s n

/-! ## What a write leaves in its CSR and in the others -/

/-- CSR n of t reads as w, every other one and the rest of the machine as in s. -/
structure CsrWritten (s : State) (n : Nat) (w : Word) (t : State) : Prop where
  frame : OnlyCsrs s t
  same : readCsr t n = w
  other : ∀ j, j ≠ n → readCsr t j = readCsr s j

theorem csrWritten_setCur {s : State} {u : Strand} {n : Nat} {w : Word} (hx : u.x = s.cur.x ∧ u.pc = s.cur.pc)
    (hr : u.taskid = s.cur.taskid ∧ u.rgn = s.cur.rgn) (hsame : csrOfStrand u (readCsr s n) n = w)
    (hother : ∀ j, j ≠ n → ∀ d, csrOfStrand u d j = csrOfStrand s.cur d j) : CsrWritten s n w (s.setCur u) where
  frame := onlyCsrs_setCur hx.1 hx.2
  same := (readCsr_setCur hr.1 hr.2 n).trans hsame
  other j hj := by rw [readCsr_setCur hr.1 hr.2, hother j hj, csrOfStrand_self]

theorem csrWritten_setCurCore {s : State} {c : Core} {n : Nat} {w : Word} (r : List (Nat × Nat)) (hc : SameReadOnlyCsrs c s.curCore)
    (hsame : csrOfCore c (readCsr s n) n = w) (hother : ∀ j, j ≠ n → ∀ d, csrOfCore c d j = csrOfCore s.curCore d j) :
    CsrWritten s n w { s.setCurCore c with covResets := r } where
  frame := onlyCsrs_setCurCore s c r
  same := (readCsr_setCurCore hc n).trans hsame
  other j hj := (readCsr_setCurCore hc j).trans (by rw [hother j hj, csrOfCore_self])

/-- What CSR n holds after a write: the writable bits of the value, and of the old value the whole of a read-only CSR and bit 63 of
TCAUSE. -/
def csrAfter (old value : Word) (n : Nat) : Word :=
  (value &&& csrBits n) ||| (old &&& (if csrBits n = 0 then 0xFFFFFFFFFFFFFFFF else if n = 0x040 then 0x8000000000000000 else 0))

theorem csrAfter_writable {old value : Word} {n : Nat} (hm : csrMask n ≠ 0) (hn : n ≠ 0x040) : csrAfter old value n = value &&& csrMask n := by
  rw [csrAfter, csrBits_eq_csrMask, if_neg hm, if_neg hn]
  simp
theorem csrAfter_readOnly {old value : Word} {n : Nat} (hm : csrMask n = 0) : csrAfter old value n = old := by
  have h1 : value &&& (0 : Word) = 0 := BitVec.and_zero
  have h2 : old &&& 0xFFFFFFFFFFFFFFFF = old := BitVec.and_allOnes
  rw [csrAfter, csrBits_eq_csrMask, if_pos hm, hm, h1, h2]
  exact BitVec.zero_or

/-- Fewer bits hold all that a mask of as many ones lets through. -/
theorem setWidth_setWidth_mask {n : Nat} {m : Word} (v : Word) (h : m.toNat < 2 ^ n) : ((v &&& m).setWidth n).setWidth 64 = v &&& m := by
  have hlt : (v &&& m).toNat < 2 ^ n := by
    rw [BitVec.toNat_and]
    exact Nat.and_lt_two_pow _ h
  apply BitVec.eq_of_toNat_eq
  rw [BitVec.toNat_setWidth, BitVec.toNat_setWidth, Nat.mod_eq_of_lt hlt]
  exact Nat.mod_eq_of_lt (v &&& m).isLt

/-- TCAUSE: its code in bits 7:0, bit 63 while a handler runs (R386). -/
theorem tcauseCsr_bits : ∀ (c : Byte) (a : Bool),
    BitVec.ofNat 64 (c.toNat + if a then 2 ^ 63 else 0) = c.setWidth 64 ||| (if a then 0x8000000000000000 else 0)
    ∧ BitVec.ofNat 64 (c.toNat + if a then 2 ^ 63 else 0) &&& (0x8000000000000000 : Word) = if a then 0x8000000000000000 else 0 := by
  decide

/-- A write to TCAUSE changes the code. -/
theorem tcause_after (v : Word) (t : Strand) :
    BitVec.ofNat 64 (tcauseCsr { t with tCode := (v &&& csrMask 0x040).setWidth 8 }) = csrAfter (.ofNat 64 (tcauseCsr t)) v 0x040 := by
  rw [csrAfter, csrBits_eq_csrMask, if_neg (by decide), if_pos rfl]
  unfold tcauseCsr
  rw [(tcauseCsr_bits _ _).1, (tcauseCsr_bits _ _).2, setWidth_setWidth_mask v (by decide)]

theorem csrMask_tcfg {n : Nat} (h : 0x010 ≤ n ∧ n < 0x018) : csrMask n = 0xFFFFFFFF00FFFFFF := by
  rw [csrMask, if_neg (by omega), if_neg (by omega), if_pos h]
theorem csrMask_fmt {n : Nat} (h : 0x018 ≤ n ∧ n < 0x020) : csrMask n = 0xCFFFF := by
  rw [csrMask, if_neg (by omega), if_neg (by omega), if_neg (by omega), if_pos h]

/-- What a write to a CSR does (R7, R113): its writable bits take the value's, and nothing else is written. -/
theorem writeCsr_spec (s : State) (n : Nat) (value : Word) : CsrWritten s n (csrAfter (readCsr s n) value n) (writeCsr s n value) := by
  have writable {n : Nat} (h : csrMask n ≠ 0 ∧ n ≠ 0x040) := csrAfter_writable (old := readCsr s n) (value := value) h.1 h.2
  unfold writeCsr
  dsimp only
  refine iteInduction (fun h => ?fpc) fun _ => iteInduction (fun h => ?vx) fun _ => iteInduction (fun h => ?vxw) fun _ =>
    iteInduction (fun h => ?tcfg) fun _ => iteInduction (fun h => ?fmt) fun _ => iteInduction (fun h => ?mcfg) fun _ =>
    iteInduction (fun h => ?tcause) fun _ => iteInduction (fun h => ?tpc) fun _ => iteInduction (fun h => ?tval) fun _ =>
    iteInduction (fun h => ?tvec) fun _ => iteInduction (fun h => ?smpkey) fun _ => iteInduction (fun h => ?smppos) fun _ =>
    iteInduction (fun h => ?smptemp) fun _ => iteInduction (fun h => ?lrb) fun _ => iteInduction (fun h => ?lre) fun _ =>
    iteInduction (fun h => iteInduction (fun _ => ?covctlReset) fun _ => ?covctl) fun _ => ?readOnly
  case fpc | tpc | tval | tvec =>
    subst h
    exact csrWritten_setCur ⟨rfl, rfl⟩ ⟨rfl, rfl⟩ (writable (by decide)).symm
      fun j hj d => by simp only [csrOfStrand, tcauseCsr, if_neg hj]
  case vx | vxw =>
    subst h
    refine csrWritten_setCur ⟨rfl, rfl⟩ ⟨rfl, rfl⟩ ?_ fun j hj d => by simp only [csrOfStrand, tcauseCsr, if_neg hj]
    rw [writable (by decide)]
    exact setWidth_setWidth_mask (n := 16) (m := 0xFFFF) value (by decide)
  case tcause =>
    subst h
    exact csrWritten_setCur ⟨rfl, rfl⟩ ⟨rfl, rfl⟩ (tcause_after value s.cur)
      fun j hj d => by simp only [csrOfStrand, if_neg hj]
  case mcfg | smpkey | smppos | smptemp | lrb | lre | covctl | covctlReset =>
    subst h
    exact csrWritten_setCurCore _ ⟨rfl, rfl, rfl, rfl, rfl⟩ (writable (by decide)).symm
      fun j hj d => by simp only [csrOfCore, if_neg hj]
  case tcfg =>
    refine csrWritten_setCurCore _ ⟨rfl, rfl, rfl, rfl, rfl⟩ ?_ fun j hj d => ?_
    · rw [writable ⟨by rw [csrMask_tcfg h]; decide, by omega⟩, csrOfCore, if_pos h]
      exact nth_upd_same _ _ _ (by omega)
    · by_cases hr : 0x010 ≤ j ∧ j < 0x018
      · rw [csrOfCore, if_pos hr, csrOfCore, if_pos hr]
        exact nth_upd_other _ _ _ _ (by omega) (by omega)
      · simp only [csrOfCore, if_neg hr]
  case fmt =>
    have hn : ¬ (0x010 ≤ n ∧ n < 0x018) := by omega
    refine csrWritten_setCurCore _ ⟨rfl, rfl, rfl, rfl, rfl⟩ ?_ fun j hj d => ?_
    · rw [writable ⟨by rw [csrMask_fmt h]; decide, by omega⟩, csrOfCore, if_neg hn, if_pos h]
      exact nth_upd_same _ _ _ (by omega)
    · by_cases hr : 0x018 ≤ j ∧ j < 0x020
      · have hj' : ¬ (0x010 ≤ j ∧ j < 0x018) := by omega
        rw [csrOfCore, if_neg hj', if_pos hr, csrOfCore, if_neg hj', if_pos hr]
        exact nth_upd_other _ _ _ _ (by omega) (by omega)
      · simp only [csrOfCore, if_neg hr]
  case readOnly =>
    rw [csrAfter_readOnly (by simp [csrMask, *])]
    exact ⟨onlyCsrs_refl s, rfl, fun _ _ => rfl⟩

/-! ## The instructions -/

/-- Registers read alike from the same array. -/
theorem readX_of_x {t u : Strand} (h : t.x = u.x) (r : XReg) : t.readX r = u.readX r := by
  simp only [Strand.readX, h]

/-- After the write of a CSR, xd takes a value and the pc moves on. -/
theorem csrWritten_retire {s s1 : State} {n : Nat} {w : Word} (h : CsrWritten s n w s1) (d : XReg) (v : Word) :
    let t := (s1.writeX d v).setPc (s1.pc + 4)
    (∀ r, t.readX r = if r = d ∧ r ≠ 0 then v else s.readX r) ∧ t.pc = s.pc + 4 ∧ readCsr t n = w
    ∧ (∀ j, j ≠ n → readCsr t j = readCsr s j) ∧ t.mem = s.mem ∧ (∀ k, k ≠ s.fs → t.strand k = s.strand k)
    ∧ t = { s with strands := t.strands, cores := t.cores, covResets := t.covResets } := by
  obtain ⟨⟨hs, hstrand, hx, hpc⟩, hsame, hother⟩ := h
  have hfs : s1.fs = s.fs := by rw [hs]
  have hmem : s1.mem = s.mem := by rw [hs]
  obtain ⟨⟨-, hstrand'⟩, hx', hpc', -⟩ := writeX_setPc_changes s1 d v (s1.pc + 4)
  refine ⟨fun r => ?_, ?_, ?_, fun j hj => ?_, hmem, fun k hk => ?_, ?_⟩
  · rw [hx', State.readX, readX_of_x hx]
    rfl
  · rw [hpc', State.pc, hpc]
    rfl
  · rw [readCsr_setPc, readCsr_writeX, hsame]
  · rw [readCsr_setPc, readCsr_writeX, hother j hj]
  · rw [hstrand' k (hfs ▸ hk), hstrand k hk]
  · rw [hs]
    rfl

/-- An instruction that writes a CSR. -/
theorem exec_csrOp {i : Instr} {s : State} {d : XReg} {csr : BitVec 12} {new : Word → Word}
    (hx : exec i s = csrOp i d csr (fun c => some (new c)) s) (hok : Ok i s) :
    let s1 := writeCsr s csr.toNat (new (readCsr s csr.toNat))
    exec i s = .next ((s1.writeX d (readCsr s csr.toNat)).setPc (s1.pc + 4)) :=
  (hx.trans (checked_ok hok)).trans (writeAndRetire_spec 4 d _ _)

/-- CSRR writes no CSR. -/
theorem exec_csrr {s : State} {d : XReg} {csr : BitVec 12} (hok : Ok (.csrr d csr) s) :
    exec (.csrr d csr) s = .next ((s.writeX d (readCsr s csr.toNat)).setPc (s.pc + .ofNat 64 4)) := by
  have hx : exec (.csrr d csr) s = csrOp (.csrr d csr) d csr (fun _ => none) s := rfl
  exact (hx.trans (checked_ok hok)).trans (writeAndRetire_spec 4 d _ s)

/-- Settles O20: CSRR only reads; each of the others is a write of a value of its own. -/
theorem csrAccess : Obligations.CsrAccess := by
  intro s d a csr
  have hwrite (v : Word) := csrWritten_retire (writeCsr_spec s csr.toNat v) d (readCsr s csr.toNat)
  refine ⟨fun hok => ⟨_, exec_csrr hok, writeX_setPc_changes s d _ _⟩, fun hok => ?csrw, fun hok => ?csrs, fun hok => ?csrc⟩
  case csrw => exact ⟨_, exec_csrOp (new := fun _ => s.readX a) rfl hok, hwrite _⟩
  case csrs => exact ⟨_, exec_csrOp (new := fun old => old ||| s.readX a) rfl hok, hwrite _⟩
  case csrc => exact ⟨_, exec_csrOp (new := fun old => old &&& ~~~(s.readX a)) rfl hok, hwrite _⟩

end Sys2Proof.Proofs
end

section
/-!
PROOFS. The integer instructions (R117 to R123).
-/

namespace Sys2Proof.Proofs
open Sys2Proof Sys2Proof.Machine Sys2Proof.Claim

/-! ## Results written to xd -/

theorem writes_of_writeAndRetire {i : Instr} {s : State} {d : XReg} {v : Word} {n : Nat} (h : exec i s = writeAndRetire n d v s) :
    Writes i s d v n :=
  ⟨_, h.trans (writeAndRetire_spec n d v s), writeX_setPc_changes s d v _⟩

/-- The same with the result as the model computes it. -/
theorem writes_of_result {i : Instr} {s : State} {d : XReg} {v w : Word} {n : Nat} (hv : w = v) (h : exec i s = writeAndRetire n d w s) :
    Writes i s d v n :=
  hv ▸ writes_of_writeAndRetire h

/-! ## The low 64 bits of exact results (R8) -/

theorem low_natCast (n : Nat) : low n = .ofNat 64 n := rfl
@[simp] theorem low_uv (x : Word) : low (uv x) = x := by rw [low_natCast, uv, BitVec.ofNat_toNat, BitVec.setWidth_eq]
@[simp] theorem low_sv (x : Word) : low (sv x) = x := BitVec.ofInt_toInt
theorem low_add (y z : Int) : low (y + z) = low y + low z := BitVec.ofInt_add y z
theorem low_mul (y z : Int) : low (y * z) = low y * low z := BitVec.ofInt_mul y z
theorem low_sub (y z : Int) : low (y - z) = low y - low z := by
  rw [eq_sub_iff_add_eq, ← low_add, Int.sub_add_cancel]

/-- A left shift is a multiplication by a power of two. -/
theorem shiftLeft_eq_mul_low (x : Word) (n : Nat) : x <<< n = x * low (2 ^ n) := by
  have h : low (2 ^ n) = BitVec.twoPow 64 n := by
    apply BitVec.eq_of_toNat_eq
    rw [BitVec.toNat_twoPow, show (2 ^ n : Int) = ((2 ^ n : Nat) : Int) by push_cast; rfl, low_natCast, BitVec.toNat_ofNat]
  rw [h, BitVec.shiftLeft_eq_mul_twoPow]

theorem shiftLeft_eq_low (x : Word) (n : Nat) : x <<< n = low (uv x * 2 ^ n) := by
  rw [shiftLeft_eq_mul_low, low_mul, low_uv]

/-- A logical right shift is a division of the unsigned value. -/
theorem ushiftRight_eq_low (x : Word) (n : Nat) : x >>> n = low ((uv x / 2 ^ n : Nat) : Int) := by
  apply BitVec.eq_of_toNat_eq
  rw [BitVec.toNat_ushiftRight, Nat.shiftRight_eq_div_pow, low_natCast, BitVec.toNat_ofNat]
  exact (Nat.mod_eq_of_lt (Nat.lt_of_le_of_lt (Nat.div_le_self _ _) x.isLt)).symm

/-- An arithmetic right shift is a division of the signed value, rounded down. -/
theorem sshiftRight_eq_low (x : Word) (n : Nat) : x.sshiftRight n = low (sv x / 2 ^ n) := by
  rw [← low_sv (x.sshiftRight n), sv, BitVec.toInt_sshiftRight, Int.shiftRight_eq_div_pow]
  rfl

theorem flagWord_slt (x y : Word) : flagWord (x.slt y) = if sv x < sv y then 1 else 0 :=
  if_congr (by rw [BitVec.slt, decide_eq_true_eq]; rfl) rfl rfl
theorem flagWord_ult (x y : Word) : flagWord (x.ult y) = if uv x < uv y then 1 else 0 :=
  if_congr (by rw [BitVec.ult, decide_eq_true_eq]; rfl) rfl rfl

/-! ## Counts of bits (R120) -/

theorem clzN_zero (n : Nat) : clzN 0 n = n := by
  induction n with
  | zero => rfl
  | succ n ih => rw [clzN, Nat.zero_testBit, if_neg Bool.false_ne_true, ih, Nat.add_comm]

/-- The zero bits above the highest one bit, that bit and those below it are all the bits. -/
theorem clzN_add_log2 {a : Nat} (ha : a ≠ 0) : ∀ n, a < 2 ^ n → clzN a n + (Nat.log2 a + 1) = n
  | 0, h => by omega
  | n + 1, h => by
    unfold clzN
    split
    next hbit => rw [(Nat.log2_eq_iff ha).mpr ⟨Nat.ge_two_pow_of_testBit hbit, h⟩, Nat.zero_add]
    next hbit =>
      have hlt : a < 2 ^ n := by
        rw [Nat.testBit_eq_decide_div_mod_eq, decide_eq_true_eq] at hbit
        have hq : a / 2 ^ n < 2 := Nat.div_lt_of_lt_mul h
        exact Nat.lt_of_div_eq_zero (Nat.two_pow_pos n) (by generalize a / 2 ^ n = q at *; omega)
      have ih := clzN_add_log2 ha n hlt
      omega

theorem clz_value (x : Word) : BitVec.ofNat 64 (clzN x.toNat 64) = if uv x = 0 then 64 else .ofNat 64 (63 - Nat.log2 (uv x)) := by
  unfold uv
  split
  next h =>
    rw [h, clzN_zero]
    rfl
  next h =>
    have hsum := clzN_add_log2 h 64 x.isLt
    congr 1
    omega

theorem ctzN_zero (n : Nat) : ∀ i, ctzN 0 i n = n := by
  induction n with
  | zero => exact fun _ => rfl
  | succ n ih => exact fun i => by rw [ctzN, Nat.zero_testBit, if_neg Bool.false_ne_true, ih, Nat.add_comm]

/-- The bit behind the zero bits is the lowest one bit. -/
theorem ctzN_lowest {a : Nat} (ha : a ≠ 0) : ∀ n i, a % 2 ^ i = 0 → a < 2 ^ (i + n) →
    a % 2 ^ (i + ctzN a i n) = 0 ∧ a / 2 ^ (i + ctzN a i n) % 2 = 1
  | 0, i, hlow, hlt => absurd ((Nat.mod_eq_of_lt hlt).symm.trans hlow) ha
  | n + 1, i, hlow, hlt => by
    have hbit : a.testBit i = true ↔ a / 2 ^ i % 2 = 1 := by rw [Nat.testBit_eq_decide_div_mod_eq, decide_eq_true_eq]
    unfold ctzN
    split
    next h => exact ⟨hlow, hbit.mp h⟩
    next h =>
      have hz : a / 2 ^ i % 2 = 0 := by rw [hbit] at h; omega
      have hlow' : a % 2 ^ (i + 1) = 0 := by rw [Nat.mod_pow_succ, hlow, hz, Nat.mul_zero]
      rw [← Nat.add_assoc]
      exact ctzN_lowest ha n (i + 1) hlow' (by rwa [Nat.add_right_comm])

theorem popN_eq_length (x : Word) (n : Nat) : popN x.toNat n = ((List.range n).filter x.getLsbD).length := by
  induction n with
  | zero => rfl
  | succ n ih =>
    rw [popN, ih, List.range_succ, List.filter_append, List.length_append, Nat.add_comm, List.filter_singleton]
    congr 1
    unfold BitVec.getLsbD
    split <;> simp [*]

/-! ## Register instructions (R120) -/

theorem integerRegisterResults : IntegerRegisterResults := by
  intro s d a b x y sh
  refine ⟨?add, ?sub, ?mul, ?mulh, ?mulhn, ?and, ?or, ?xor, ?andn, ?shl, ?shr, ?sar, ?min, ?max, ?minn, ?maxn, ?slt, ?sltn, ?clz, ?ctz, ?popc⟩
  case add => exact writes_of_result (by rw [low_add, low_uv, low_uv]) rfl
  case sub => exact writes_of_result (by rw [low_sub, low_uv, low_uv]) rfl
  case mul => exact writes_of_result (by rw [low_mul, low_uv, low_uv]) rfl
  case mulhn => exact writes_of_result (low_natCast _).symm rfl
  case mulh | and | or | xor | andn | min | max | minn | maxn => exact writes_of_writeAndRetire rfl
  case shl => exact writes_of_result (shiftLeft_eq_low _ _) rfl
  case shr => exact writes_of_result (ushiftRight_eq_low _ _) rfl
  case sar => exact writes_of_result (sshiftRight_eq_low _ _) rfl
  case slt => exact writes_of_result (flagWord_slt _ _) rfl
  case sltn => exact writes_of_result (flagWord_ult _ _) rfl
  case clz => exact writes_of_result (clz_value _) rfl
  case ctz =>
    refine ⟨ctzN (s.readX a).toNat 0 64, writes_of_writeAndRetire rfl, fun h => ?_, fun h => ?_⟩
    · rw [show (s.readX a).toNat = 0 from h, ctzN_zero]
    · have hlow := ctzN_lowest h 64 0 (by rw [Nat.pow_zero, Nat.mod_one]) (by rw [Nat.zero_add]; exact (s.readX a).isLt)
      rwa [Nat.zero_add] at hlow
  case popc => exact writes_of_result (congrArg _ (popN_eq_length _ 64)) rfl

/-! ## Division (R121) -/

theorem remS_value {x y : Word} (hy : y ≠ 0) : remS x y = low (sv x - sv y * Int.tdiv (sv x) (sv y)) := by
  rw [← Int.tmod_def, remS, if_neg hy]
  rfl

/-- Settles O1, by the branches of the model's quotients and remainders: a divisor that is not zero, one that is, and the one quotient that
wraps. -/
theorem divisionResults : Obligations.DivisionResults := by
  intro s d a b
  refine ⟨fun hy => ⟨?_, ?_, ?_, ?_⟩, fun hy => ⟨?_, ?_, ?_, ?_⟩, fun ⟨hx, hy⟩ => ?_⟩
  · exact writes_of_result (if_neg hy) rfl
  · exact writes_of_result (if_neg hy) rfl
  · exact writes_of_result (remS_value hy) rfl
  · exact writes_of_result (if_neg hy) rfl
  · exact writes_of_result (if_pos hy) rfl
  · exact writes_of_result (if_pos hy) rfl
  · exact writes_of_result (if_pos hy) rfl
  · exact writes_of_result (if_pos hy) rfl
  · have hy' : s.readX b ≠ 0 := fun h => by rw [h] at hy; revert hy; decide
    have hx' : s.readX a = low (-(2 ^ 63)) := by rw [← hx, low_sv]
    constructor
    · refine writes_of_result ((if_neg hy').trans ?_) rfl
      rw [show (s.readX a).toInt = _ from hx, show (s.readX b).toInt = _ from hy, hx']
      decide
    · refine writes_of_result ((remS_value hy').trans ?_) rfl
      rw [hx, hy]
      decide

/-! ## Extensions (R119, R120) -/

/-- An instruction with assigned selectors, and no reserved field or value. -/
theorem wellFormed_of {cw : BitVec 3 → Option Nat} {i : Instr} {w : Nat} (he : encode i = some w) (hs : selector (w % 2 ^ 64) = none)
    (hr : reserved cw i = false) : wellFormed cw i = true := by
  simp only [wellFormed, selectorsOk, fieldsOk, he, hs, hr, Option.isNone_none, Bool.not_false, Bool.and_self]

/-- Order 3 of R116 for a word of m0: its funct6. -/
theorem selector_of_major_m0 {w : Nat} (h : majorBits w = 0) (hf : fld w 19 6 < 27) : selector w = none := by
  have hn : ¬ 27 ≤ fld w 19 6 := by omega
  simp [selector, h, firstOf, hn]

/-- The words of SEXT and ZEXT: a funct6 of m0 with a width code. -/
theorem selector_extension {k : Nat} (hk : k < 27) (d a : XReg) (w : BitVec 3) :
    selector ((k * 2 ^ 19 + put d 7 + put a 11 + put w 29) % 2 ^ 64) = none := by
  have hd := d.isLt; have ha := a.isLt; have hw := w.isLt
  refine selector_of_major_m0 ?_ ?_
  · simp only [majorBits, put]; omega
  · simp only [fld, put]; omega

theorem wellFormed_sext {cw : BitVec 3 → Option Nat} {d a : XReg} {w : BitVec 3} (h : w.toNat ≤ 2) : wellFormed cw (.sext d a w) = true :=
  wellFormed_of rfl (selector_extension (k := 25) (by decide) d a w) (decide_eq_false (by omega))
theorem wellFormed_zext {cw : BitVec 3 → Option Nat} {d a : XReg} {w : BitVec 3} (h : w.toNat ≤ 2) : wellFormed cw (.zext d a w) = true :=
  wellFormed_of rfl (selector_extension (k := 26) (by decide) d a w) (decide_eq_false (by omega))

/-- The low n bits, sign-extended, have the value of their residue around zero. -/
theorem signExtend_low_bits (x : Word) (n : Nat) : (x.setWidth n).signExtend 64 = low (Int.bmod (uv x) (2 ^ n)) := by
  rw [uv, ← BitVec.toInt_setWidth]
  rfl

theorem zeroExtend_low_bits (x : Word) (n : Nat) : (x.setWidth n).setWidth 64 = .ofNat 64 (uv x % 2 ^ n) := by
  rw [uv, ← BitVec.toNat_setWidth, BitVec.ofNat_toNat]

theorem extensionResults : ExtensionResults := fun _ _ _ _ hw =>
  ⟨writes_of_result (signExtend_low_bits _ _) (checked_ok (wellFormed_sext hw)),
    writes_of_result (zeroExtend_low_bits _ _) (checked_ok (wellFormed_zext hw))⟩

/-! ## Immediates and literals (R122, R123) -/

theorem simm17_eq_low (imm : BitVec 17) : simm17 imm = low imm.toInt := rfl
theorem sv_simm17 (imm : BitVec 17) : sv (simm17 imm) = imm.toInt := BitVec.toInt_signExtend_of_le (by decide)

/-- LIH: the immediate above the low 32 bits. -/
theorem lih_value (x : Word) (imm : BitVec 17) :
    (simm17 imm) <<< 32 + (x.setWidth 32).setWidth 64 = low (imm.toInt * 2 ^ 32 + uv x % 2 ^ 32) := by
  rw [low_add, low_mul, shiftLeft_eq_mul_low, zeroExtend_low_bits, simm17_eq_low, ← low_natCast]
  rfl

theorem immediateResults : ImmediateResults := by
  intro s d a imm sh lit x
  refine ⟨?addi, ?andi, ?ori, ?xori, ?shli, ?shri, ?sari, ?slti, ?lih, ?lil, ?addl⟩
  case addi => exact writes_of_result (by rw [low_add, low_uv, simm17_eq_low]) rfl
  case andi | ori | xori => exact writes_of_writeAndRetire rfl
  case shli => exact writes_of_result (shiftLeft_eq_low _ _) rfl
  case shri => exact writes_of_result (ushiftRight_eq_low _ _) rfl
  case sari => exact writes_of_result (sshiftRight_eq_low _ _) rfl
  case slti => exact writes_of_result (sv_simm17 imm ▸ flagWord_slt x (simm17 imm)) rfl
  case lih => exact writes_of_result (lih_value _ _) rfl
  case lil => exact writes_of_writeAndRetire rfl
  case addl =>
    rw [low_add, low_uv]
    exact writes_of_writeAndRetire rfl

/-- Settles O3: the register instructions, the divisions, the extensions, and the immediate and literal forms. -/
theorem integerResults : Obligations.IntegerResults := ⟨integerRegisterResults, divisionResults, extensionResults, immediateResults⟩

end Sys2Proof.Proofs
end

section
/-!
PROOFS. Scalar floating point (R124 to R130).
-/

namespace Sys2Proof.Proofs
open Sys2Proof Sys2Proof.Machine Sys2Proof.Claim

/-! ## Results with flags (R125) -/

/-- After the flags, xd is written and the pc moves on. -/
theorem wroteFlags_setFlags (s : State) (d : XReg) (v : Word) (f : Byte) (n : Nat) :
    WroteFlags s d v f n (((setFlags s s.fs f).writeX d v).setPc ((setFlags s s.fs f).pc + .ofNat 64 n)) := by
  obtain ⟨⟨hstate, hother⟩, hx, hpc, hcur⟩ := writeX_setPc_changes (setFlags s s.fs f) d v ((setFlags s s.fs f).pc + .ofNat 64 n)
  have hcur1 : (setFlags s s.fs f).cur = s.cur.orFlags f := State.setCur_cur s _
  have hread (r : XReg) : (setFlags s s.fs f).readX r = s.readX r := by rw [State.readX, hcur1]; rfl
  have hpc1 : (setFlags s s.fs f).pc = s.pc := by rw [State.pc, hcur1]; rfl
  rw [hcur1] at hcur
  refine ⟨⟨hstate, fun k hk => ?_⟩, fun r => ?_, ?_, ?_, ?_⟩
  · rw [hother k hk]
    exact State.strand_setCur_other s _ k hk
  · rw [hx, hread]
  · rw [hpc, hpc1]
  · exact congrArg Strand.fpc hcur
  · exact congrArg (fun u : Strand => { u with fpc := s.cur.fpc }) hcur

theorem writesFlags_of_fpRetire {i : Instr} {s : State} {d : XReg} {r : FRes} (h : exec i s = fpRetire d r s) :
    WritesFlags i s d (.ofNat 64 r.bits) r.flags 4 :=
  ⟨_, h.trans (writeAndRetire_spec 4 d _ _), wroteFlags_setFlags s d _ _ 4⟩

/-- The same with the pattern and the flags as a statement has them. -/
theorem writesFlags_of_result {i : Instr} {s : State} {d : XReg} {r : FRes} {v : Word} {f : Byte} (hv : .ofNat 64 r.bits = v)
    (hf : r.flags = f) (h : exec i s = fpRetire d r s) : WritesFlags i s d v f 4 :=
  hv ▸ hf ▸ writesFlags_of_fpRetire h

/-! ## Conversions (R129) -/

theorem ofNat_toNat_ofInt (z : Int) : BitVec.ofNat 64 (BitVec.ofInt 64 z).toNat = low z := by
  rw [BitVec.ofNat_toNat, BitVec.setWidth_eq]
  rfl

/-- Settles O4, form by form. -/
theorem conversionResults : Obligations.ConversionResults := by
  intro s d a rsel xc sel dbl hok f m0 m v i x
  have hx : exec i s = fpRetire d (fcvtRes xc sel dbl m v) s := checked_ok hok
  refine ⟨?signed, ?unsigned, ?ofSigned, ?ofUnsigned, ?widen, ?narrow⟩
  case signed =>
    rintro ⟨rfl, rfl⟩
    exact writesFlags_of_result (ofNat_toNat_ofInt _) rfl hx
  case unsigned | ofSigned | ofUnsigned =>
    rintro ⟨rfl, rfl⟩
    exact writesFlags_of_fpRetire hx
  case widen =>
    rintro ⟨rfl, rfl⟩
    exact writesFlags_of_fpRetire hx
  case narrow =>
    rintro ⟨rfl, rfl⟩
    have hv : fpBits true v = v.toNat := Nat.mod_eq_of_lt v.isLt
    rw [← hv]
    exact writesFlags_of_fpRetire hx

/-! ## Values and comparisons (R126 to R128, R130) -/

theorem ofNat_ite (b : Bool) : BitVec.ofNat 64 (if b then 1 else 0) = if b then 1 else 0 := by cases b <;> rfl

/-- A comparison writes 1 or 0. -/
theorem writesFlags_of_fpCompare {i : Instr} {s : State} {d a b : XReg} {dbl : Bool} {c : Val → Val → Bool × Byte} {h : Bool} {f : Byte}
    (hc : c (fpRead s dbl a) (fpRead s dbl b) = (h, f)) (hx : exec i s = fpCompare c dbl d a b s) :
    WritesFlags i s d (if h then 1 else 0) f 4 := by
  unfold fpCompare at hx
  rw [hc] at hx
  exact writesFlags_of_result (ofNat_ite h) rfl hx

/-- An exact result rounded once. -/
theorem writesFlags_of_fpRound {i : Instr} {s : State} {d : XReg} {dbl : Bool} {r : VRes} (h : exec i s = fpRetire d (fpRound s dbl r) s) :
    WritesFlags i s d (.ofNat 64 (roundTo (fpFmt dbl) s.mode false r.val).bits) ((roundTo (fpFmt dbl) s.mode false r.val).flags ||| r.flags) 4 :=
  writesFlags_of_fpRetire h

/-- A minimum or maximum is not flushed (R127). -/
theorem writesFlags_of_fpMinMax {i : Instr} {s : State} {d a b : XReg} {mx dbl : Bool} (h : exec i s = fpMinMax mx dbl d a b s) :
    let r := minMaxV mx (fpRead s dbl a) (fpRead s dbl b)
    WritesFlags i s d (.ofNat 64 (roundTo (fpFmt dbl) Mode.rne false r.val).bits)
      ((roundTo (fpFmt dbl) Mode.rne false r.val).flags ||| r.flags) 4 :=
  writesFlags_of_fpRetire h

theorem scalarFloatValues : ScalarFloatValues := by
  intro s d a b c dbl f p m x y z once cond
  refine ⟨?add, ?sub, ?mul, ?div, ?fma, ?sqrt, ?min, ?max, ?eq, ?lt, ?le, ?unord, ?fclass⟩
  case add | sub | mul | div | fma => exact writesFlags_of_fpRound (dbl := dbl) rfl
  case sqrt => exact writesFlags_of_fpRetire (r := sqrtRes f m x) rfl
  case min | max => exact writesFlags_of_fpMinMax (dbl := dbl) rfl
  case eq => exact writesFlags_of_fpCompare (c := cmpEq) rfl rfl
  case lt => exact writesFlags_of_fpCompare (c := cmpLt) rfl rfl
  case le => exact writesFlags_of_fpCompare (c := cmpLe) rfl rfl
  case unord => exact writesFlags_of_fpCompare (c := cmpUnord) rfl rfl
  case fclass => exact writes_of_writeAndRetire rfl

/-! ## NaN operands (R125, R126, R191) -/

/-- The exact result of an arithmetic operation with a NaN operand. -/
def nanOf (x y : Val) : VRes := { val := .nan false, flags := nvIf (x.isSnan || y.isSnan) }

theorem eq_nan_of_isNan {x : Val} (h : x.isNan = true) : ∃ q, x = .nan q := by
  cases x with
  | nan q => exact ⟨q, rfl⟩
  | fin => cases h
  | inf => cases h

/-- What holds where the first operand is a NaN, and where the second is. -/
theorem of_nan_operand {P : Val → Val → Prop} (hl : ∀ q y, P (.nan q) y) (hr : ∀ x q, P x (.nan q)) {x y : Val}
    (h : x.isNan = true ∨ y.isNan = true) : P x y := by
  rcases h with h | h
  · obtain ⟨q, rfl⟩ := eq_nan_of_isNan h
    exact hl q y
  · obtain ⟨q, rfl⟩ := eq_nan_of_isNan h
    exact hr x q

theorem addV_nan (m : Mode) {x y : Val} (h : x.isNan = true ∨ y.isNan = true) : addV m x y = nanOf x y :=
  of_nan_operand (P := fun x y => addV m x y = nanOf x y) (fun q y => by cases y <;> rfl) (fun x q => by cases x <;> rfl) h
theorem mulV_nan {x y : Val} (h : x.isNan = true ∨ y.isNan = true) : mulV x y = nanOf x y :=
  of_nan_operand (P := fun x y => mulV x y = nanOf x y) (fun q y => by cases y <;> rfl) (fun x q => by cases x <;> rfl) h
theorem divV_nan {x y : Val} (h : x.isNan = true ∨ y.isNan = true) : divV x y = nanOf x y :=
  of_nan_operand (P := fun x y => divV x y = nanOf x y) (fun q y => by cases y <;> rfl) (fun x q => by cases x <;> rfl) h

theorem isNan_negate (x : Val) : x.negate.isNan = x.isNan := by cases x <;> rfl
theorem isSnan_negate (x : Val) : x.negate.isSnan = x.isSnan := by cases x <;> rfl

/-- The canonical NaN of the two widths. -/
theorem canonNan_bits (dbl : Bool) (f : Byte) :
    BitVec.ofNat 64 (canonNan (fpFmt dbl) f).bits = if dbl then 0x7FF8000000000000 else 0x7FC00000 := by cases dbl <;> rfl
theorem canonNan_flags (dbl : Bool) (f : Byte) : (canonNan (fpFmt dbl) f).flags = f := by cases dbl <;> rfl

/-- An operation whose exact result is that NaN. -/
theorem writesFlags_of_nan {i : Instr} {s : State} {d : XReg} {dbl : Bool} {x y : Val} {r : VRes} (hr : r = nanOf x y)
    (hx : exec i s = fpRetire d (fpRound s dbl r) s) :
    WritesFlags i s d (if dbl then 0x7FF8000000000000 else 0x7FC00000) (if x.isSnan || y.isSnan then 16 else 0) 4 := by
  subst hr
  have hw : WritesFlags i s d (.ofNat 64 (canonNan (fpFmt dbl) 0).bits) ((canonNan (fpFmt dbl) 0).flags ||| nvIf (x.isSnan || y.isSnan)) 4 :=
    writesFlags_of_fpRound hx
  rw [canonNan_bits, canonNan_flags, show (0 : Byte) ||| nvIf (x.isSnan || y.isSnan) = _ from BitVec.zero_or] at hw
  exact hw

theorem nanResultsAreCanonical : NanResultsAreCanonical := by
  intro s d a b dbl f m x y nan
  refine ⟨fun h => ?_, fun h => ?_⟩
  · have hneg : x.isNan = true ∨ y.negate.isNan = true := by rwa [isNan_negate]
    have hsub := writesFlags_of_nan (i := .fsub d a b dbl) (s := s) (d := d) (dbl := dbl) (addV_nan m hneg) rfl
    rw [isSnan_negate] at hsub
    simp only [List.forall_mem_cons]
    exact ⟨writesFlags_of_nan (addV_nan m h) rfl, hsub, writesFlags_of_nan (mulV_nan h) rfl, writesFlags_of_nan (divV_nan h) rfl,
      List.forall_mem_nil _⟩
  · obtain ⟨q, hq⟩ := eq_nan_of_isNan h
    have hr : sqrtRes (fpFmt dbl) m x = canonNan (fpFmt dbl) (nvIf x.isSnan) := by rw [hq]; rfl
    refine writesFlags_of_result (r := sqrtRes (fpFmt dbl) m x) ?_ ?_ rfl
    · rw [hr, canonNan_bits]
    · rw [hr, canonNan_flags]
      rfl

/-- Settles O5: the operations on all operands, and on NaN operands. -/
theorem scalarFloatResults : Obligations.ScalarFloatResults := ⟨scalarFloatValues, nanResultsAreCanonical⟩

end Sys2Proof.Proofs
end

section
/-!
PROOFS. What an access of at most one sector comes to (R263), and what the count of its bytes changes (R265, R408).
-/

namespace Sys2Proof.Proofs
open Sys2Proof Sys2Proof.Machine Sys2Proof.Claim

/-! ## Accesses within a sector -/

theorem sectorsOf_nothing (va fuel : Nat) : sectorsOf va 0 fuel = [] := by
  cases fuel with
  | zero => rfl
  | succ f => exact if_pos rfl

theorem sectorsOf_one {va n : Nat} (hn : n ≠ 0) (h : va % 32 + n ≤ 32) (fuel : Nat) : sectorsOf va n (fuel + 1) = [(va, n)] := by
  have hk : min n (32 - va % 32) = n := by omega
  rw [sectorsOf, if_neg hn]
  simp only [hk, Nat.sub_self, sectorsOf_nothing]

/-- A power of two up to a sector's size, at a multiple of itself, lies in one sector. -/
theorem aligned_in_sector {va k : Nat} (hk : k ≤ 5) (h : va % 2 ^ k = 0) : va % 32 + 2 ^ k ≤ 32 := by
  interval_cases k <;> omega

theorem raceCheck_tags {s s1 : State} {k : Nat} {h : Hit} {w at' : Bool} (hr : raceCheck s k h w at' = some s1) :
    ∃ tags, s1 = { s with tags := tags } := by
  unfold raceCheck at hr
  split at hr
  · cases hr
    exact ⟨s.tags, rfl⟩
  · dsimp only at hr
    split at hr
    · cases hr
      exact ⟨_, rfl⟩
    · cases hr

/-- An access of k that its checks let go on, as one piece, from s to s1. -/
structure OnePiece (s s1 : State) (k va n : Nat) (m : AccMode) (p : Piece) : Prop where
  start : p.va = va
  length : p.n = n
  lands : Machine.translate s (.core (coreOf k)) va n (if m.write then .write else .read) = .ok p.hit
  tags : ∃ tags, s1 = { s with tags := tags }

theorem checkPiece_ok {s s1 : State} {k va n : Nat} {m : AccMode} {p : Piece} (h : checkPiece s k va n m = .ok (s1, p)) :
    OnePiece s s1 k va n m p := by
  unfold checkPiece at h
  split at h
  · cases h
  next hit ht =>
    split at h
    · cases h
    · split at h
      · cases h
      next s2 hr =>
        split_ifs at h
        cases h
        exact ⟨rfl, rfl, ht, raceCheck_tags hr⟩

theorem checkPieces_one {s s1 : State} {k va n : Nat} {m : AccMode} {ps : List Piece} (h : checkPieces s k m [(va, n)] = .ok (s1, ps)) :
    ∃ p, ps = [p] ∧ OnePiece s s1 k va n m p := by
  rw [checkPieces] at h
  split at h
  · cases h
  next s2 p hp =>
    rw [checkPieces] at h
    cases h
    exact ⟨p, rfl, checkPiece_ok hp⟩

theorem accessIssue_ok {s s1 : State} {k : Nat} {m : AccMode} {l touched : List (Nat × Nat)} {ps : List Piece}
    (h : accessIssue s k m l touched = .ok s1 ps) : checkPieces s k m l = .ok (s1, ps) := by
  unfold accessIssue at h
  split at h
  · cases h
  next s2 qs hc =>
    split at h
    · cases h
    · split_ifs at h
      cases h
      exact hc

theorem accessParts_ok {s s1 : State} {k : Nat} {m : AccMode} {l touched : List (Nat × Nat)} {ps : List Piece}
    (h : accessParts s k m l touched = .ok s1 ps) : accessIssue s k m l touched = .ok s1 ps := by
  unfold accessParts at h
  split at h
  next s2 qs hi =>
    split at h
    · cases h
      exact hi
    · cases h
  · exact h

/-- The only piece of an access within a sector. -/
theorem accessBytes_ok {s s1 : State} {k va n : Nat} {m : AccMode} {ps : List Piece} (hn : n ≠ 0) (hin : va % 32 + n ≤ 32)
    (h : accessBytes s k va n m = .ok s1 ps) : ∃ p, ps = [p] ∧ OnePiece s s1 k va n m p := by
  rw [accessBytes, sectorsOf_one hn hin] at h
  exact checkPieces_one (accessIssue_ok (accessParts_ok h))

/-! ## Counts and corrections -/

/-- The count of an access's bytes changes the single-bit errors and the counters alone. -/
theorem countPieces_spec (core : Nat) (write : Bool) (ps : List Piece) : ∀ s : State,
    ∃ soft perf, countPieces s core write ps = { s with soft := soft, perf := perf } := by
  induction ps with
  | nil => exact fun s => ⟨s.soft, s.perf, rfl⟩
  | cons p r ih =>
    intro s
    obtain ⟨soft, perf, hc⟩ := correctAt_spec s write p.hit.loc p.n
    have hstep : ∃ soft perf, countPieces s core write [p] = { s with soft := soft, perf := perf } := by
      simp only [countPieces, List.foldl, correctSoft, hc]
      split
      · exact ⟨_, _, count_spec ..⟩
      · exact ⟨_, _, rfl⟩
    obtain ⟨soft1, perf1, hs⟩ := hstep
    obtain ⟨soft2, perf2, hr⟩ := ih (countPieces s core write [p])
    exact ⟨soft2, perf2, hr.trans (by rw [hs])⟩

/-- A write overwrites the single-bit errors of its bytes. -/
theorem correctAt_true (s : State) (loc n : Nat) :
    correctAt s true loc n = { s with soft := s.soft.filter (fun a => !(loc ≤ a && a < loc + n)) } := by
  have hin (a : Nat) (ha : a ∈ s.soft) :
      (s.soft.filter (fun a => loc ≤ a && a < loc + n)).contains a = (loc ≤ a && a < loc + n) := by
    rw [Bool.eq_iff_iff, List.contains_iff_mem, List.mem_filter]
    exact and_iff_right ha
  unfold correctAt
  dsimp only
  split
  next he =>
    have hall : s.soft.filter (fun a => !(loc ≤ a && a < loc + n)) = s.soft := by
      rw [List.filter_eq_self]
      intro a ha
      rw [← hin a ha, List.isEmpty_iff.mp he]
      rfl
    rw [hall]
  next =>
    rw [List.filter_congr fun a ha => by rw [hin a ha]]
    rfl

/-! ## The bytes of one piece -/

theorem pow256 (n : Nat) : 256 ^ n = 2 ^ (8 * n) := by rw [Nat.pow_mul]

theorem readPieces_one (m : List Host.Cell) (p : Piece) : readPieces m [p] = Memory.readN m p.hit.loc p.n := by
  simp [readPieces]

/-- What a write to one piece reads back as, and the bytes that it leaves. -/
theorem writePieces_one_same (s : State) {p : Piece} {n : Nat} (hn : p.n = n) (v : Nat) :
    Memory.readN (writePieces s [p] v).mem p.hit.loc n = v % 2 ^ (8 * n) := by
  subst hn
  rw [← pow256]
  exact Memory.readN_writeN_same ..
theorem writePieces_one_other (s : State) {p : Piece} {n : Nat} (hn : p.n = n) (v : Nat) {b : Nat}
    (h : b < p.hit.loc ∨ p.hit.loc + n ≤ b) : Memory.read (writePieces s [p] v).mem b = Memory.read s.mem b := by
  subst hn
  exact Memory.read_writeN_other _ _ _ _ _ h

/-- Less than a sector clears no poison (R265). -/
theorem clearPoison_part {n : Nat} (h : n < 32) (poison : List Nat) (loc : Nat) : clearPoison poison loc n = poison :=
  if_neg fun hc => by omega

/-- The values of n bytes as the statements write them. -/
theorem ext_eq (sx : Bool) (n v : Nat) : ext sx n v = if sx then sextBytes n v else zextBytes n v := by
  unfold ext sextBytes zextBytes
  split
  · rw [← BitVec.toInt_ofNat']
    rfl
  · rw [← BitVec.toNat_ofNat v (8 * n), BitVec.ofNat_toNat]

theorem sextBytes_toInt {n : Nat} (hn : n ≤ 8) (v : Nat) : (sextBytes n v).toInt = sb n v := by
  rw [sextBytes, BitVec.toInt_signExtend_of_le (by omega), BitVec.toInt_ofNat']
  rfl

/-! ## What an access leaves -/

/-- An access changes memory, its marks, the race tags and the counters; the rest of the machine is as it was (R265, R270, R408). -/
def AccessOnly (s t : State) : Prop :=
  t = { s with mem := t.mem, poison := t.poison, soft := t.soft, tags := t.tags, perf := t.perf }

theorem accessOnly_of_tags {s s1 : State} (h : ∃ tags, s1 = { s with tags := tags }) : AccessOnly s s1 ∧ s1.mem = s.mem := by
  obtain ⟨tags, rfl⟩ := h
  exact ⟨rfl, rfl⟩

theorem AccessOnly.writePieces {s t : State} (h : AccessOnly s t) (p : Piece) (v : Nat) : AccessOnly s (writePieces t [p] v) := by
  unfold AccessOnly at h ⊢
  rw [h]
  rfl

theorem countPieces_mem (t : State) (core : Nat) (write : Bool) (ps : List Piece) : (countPieces t core write ps).mem = t.mem := by
  obtain ⟨soft, perf, hc⟩ := countPieces_spec core write ps t
  rw [hc]

theorem AccessOnly.countPieces {s t : State} (h : AccessOnly s t) (core : Nat) (write : Bool) (ps : List Piece) :
    AccessOnly s (countPieces t core write ps) := by
  obtain ⟨soft, perf, hc⟩ := countPieces_spec core write ps t
  unfold AccessOnly at h ⊢
  rw [hc, h]

@[simp] theorem setCur_mem (s : State) (t : Strand) : (s.setCur t).mem = s.mem := rfl
@[simp] theorem setPc_mem (s : State) (p : Word) : (s.setPc p).mem = s.mem := rfl

/-- The strand waits after its access: its own wait is what else has changed. -/
theorem AccessOnly.waits {s t : State} (h : AccessOnly s t) (w : Wait) :
    let u := t.setCur { t.cur with wait := w }
    u.cur = { s.cur with wait := w } ∧ (∀ k, k ≠ s.fs → u.strand k = s.strand k)
    ∧ u = { s with strands := u.strands, mem := u.mem, poison := u.poison, soft := u.soft, tags := u.tags, perf := u.perf } := by
  have hcur : t.cur = s.cur := by rw [h]; rfl
  have hfs : t.fs = s.fs := by rw [h]
  refine ⟨by rw [State.setCur_cur, hcur], fun k hk => ?_, ?_⟩
  · rw [State.strand_setCur_other _ _ _ (hfs ▸ hk), h]
    rfl
  · rw [h]
    rfl

/-- The strand goes on after its access. -/
theorem AccessOnly.retires {s t : State} (h : AccessOnly s t) :
    let u := t.setPc (t.pc + 4)
    u.strands = (s.setPc (s.pc + 4)).strands ∧ u.cores = s.cores
    ∧ u = { s with strands := u.strands, mem := u.mem, poison := u.poison, soft := u.soft, tags := u.tags, perf := u.perf } := by
  rw [h]
  exact ⟨rfl, rfl, rfl⟩

/-! ## The checks of an instruction -/

/-- A well-formed instruction has no reserved field or value. -/
theorem reserved_of_ok {i : Instr} {s : State} (h : Ok i s) : reserved s.widths i = false := by
  have hf : fieldsOk s.widths i = true := (Bool.and_eq_true_iff.mp h).2
  simpa [fieldsOk] using hf

end Sys2Proof.Proofs
end

section
/-!
PROOFS. Stores, and accesses of the own scratchpad (R117, R132, R135, R252).
-/

namespace Sys2Proof.Proofs
open Sys2Proof Sys2Proof.Machine Sys2Proof.Claim

/-! ## Stores (R132, R135) -/

theorem storeAt_passes {i : Instr} {n : Nat} {v ea : Word} {s s1 : State} {ps : List Piece} (ha : uv ea % n = 0)
    (h : accessBytes s s.fs (uv ea) n (AccMode.put (n = 8)) = .ok s1 ps) :
    storeAt i n v ea s = retire 4 (countPieces (writeOf s1 ps (uv v % 2 ^ (8 * n))) (coreOf s.fs) true ps) := by
  unfold uv at ha h
  rw [storeAt, if_neg (not_not.mpr ha), h]
  simp only [pow256, uv]

theorem exec_store {s : State} {t a : XReg} {off : BitVec 11} {scope : BitVec 3} {size : BitVec 2} {i : Instr}
    (hi : i ∈ [Instr.st t a off size, .stl t a off scope size]) (hok : Ok i s) :
    exec i s = storeAt i (2 ^ size.toNat) (s.readX t) (s.readX a + low off.toInt) s := by
  rcases List.mem_pair.mp hi with rfl | rfl
  · exact checked_ok hok
  · exact checked_ok hok

/-- A register of the module takes the write of its address (R383). -/
theorem writeOf_device {s : State} {p : Piece} (h : p.hit.device = true) (v : Nat) :
    writeOf s [p] v = devWrite s (p.hit.pa.getD 0 % 2 ^ 48) (.ofNat 64 v) := if_pos h
/-- Memory takes the bytes. -/
theorem writeOf_memory {s : State} {p : Piece} (h : p.hit.device = false) (v : Nat) : writeOf s [p] v = writePieces s [p] v :=
  if_neg (by rw [h]; decide)

/-- Settles O7: the access is one piece, and what follows its write touches no memory. -/
theorem storesComplete : Obligations.StoresComplete := by
  intro s s1 ps t a off scope size i hi hok n ea ha hacc
  have hsz : size.toNat ≤ 5 := by omega
  obtain ⟨p, rfl, hp⟩ := accessBytes_ok (Nat.two_pow_pos _).ne' (aligned_in_sector hsz ha) hacc
  have hx := (exec_store hi hok).trans (storeAt_passes ha hacc)
  refine ⟨p, rfl, hp.length, hp.start, fun hd => ?_, fun hd => ?_⟩
  · rw [hx, writeOf_device hd]
  · obtain ⟨honly, hmem⟩ := accessOnly_of_tags hp.tags
    rw [writeOf_memory hd] at hx
    refine ⟨_, hx, ?_, fun b hb => ?_, ((honly.writePieces p _).countPieces _ _ _).retires⟩
    · rw [setPc_mem, countPieces_mem, writePieces_one_same _ hp.length, Nat.mod_mod]
    · rw [setPc_mem, countPieces_mem, writePieces_one_other _ hp.length _ hb, hmem]

/-! ## The own window (R252) -/

/-- Where n bytes at an offset of a core's own scratchpad lie, as the core reaches them. -/
def ownPiece (core va n : Nat) : Piece :=
  { va := va, n := n, hit := { loc := padLoc core (va % 2 ^ 44), leaf := none, pa := none, win := some core } }

theorem translate_own {s : State} {core va n : Nat} {acc : AccKind} (hw : va / 2 ^ 44 = 0xFFE)
    (hb : va % 2 ^ 44 + n ≤ reserveBase (s.core core)) (hf : acc ≠ .fetch) :
    Machine.translate s (.core core) va n acc = .ok (ownPiece core va n).hit := by
  have hlt : ¬ 2 ^ 56 ≤ va := by omega
  unfold Machine.translate
  dsimp only
  rw [if_neg hlt, if_pos hw, windowHit, if_neg (Nat.not_lt.mpr hb), if_neg hf]
  rfl

/-- A window is no checked page and no register: what is left to check of a piece is the poison that it reads. -/
theorem checkPiece_own {s : State} {k va n : Nat} {m : AccMode} (hw : va / 2 ^ 44 = 0xFFE)
    (hb : va % 2 ^ 44 + n ≤ reserveBase (s.core (coreOf k)))
    (hp : m.reads = true → ∀ i, i < n → padLoc (coreOf k) (va % 2 ^ 44) + i ∉ s.poison) :
    checkPiece s k va n m = .ok (s, ownPiece (coreOf k) va n) := by
  have hpoison : (m.reads && (List.range n).any (fun i => s.poison.contains ((ownPiece (coreOf k) va n).hit.loc + i))) = false := by
    rw [Bool.and_eq_false_imp]
    intro hr
    simpa [ownPiece] using hp hr
  rw [checkPiece, translate_own hw hb (by split <;> decide)]
  dsimp only
  rw [if_neg (by simp [ownPiece, Hit.device]), show raceCheck s k (ownPiece (coreOf k) va n).hit m.store m.atomic = some s from rfl]
  dsimp only
  rw [if_neg (by simp [ownPiece, Hit.checked]), if_neg (by rw [hpoison]; decide)]
  rfl

theorem watchHit_none {s : State} {k : Nat} (h : ∀ c, s.ctx (ctxOf (coreOf k)) = some c → c.dbg = []) (va n : Nat) (w : Bool) :
    watchHit s k va n w = none := by
  unfold watchHit
  split
  · rfl
  next c hc =>
    have hoff (i : Nat) : dbgTask (Tbl.get c.dbg i 0#64) (s.strand k).taskid = false := by
      simp [h c hc, Tbl.get, Tbl.look, dbgTask]
    simp [hoff]

theorem footprintBlocks_none {s : State} {core : Nat} (h : (s.core core).jobs = []) (va n : Nat) (w : Bool) :
    footprintBlocks s core va n w = false := by
  rw [footprintBlocks, h]
  rfl

/-- An access of the own window crosses no boundary. -/
theorem piecesDecks_own (s : State) (core va n : Nat) : piecesDecks s core [ownPiece core va n] = [] := by
  simp [piecesDecks, ownPiece, hitDecks, crossDecks]

/-- An aligned access below the reserve of the own window goes on at once, with its own bytes. -/
theorem accessBytes_own {s : State} {k va n : Nat} {m : AccMode} (hn : n ≠ 0) (hin : va % 32 + n ≤ 32) (hw : va / 2 ^ 44 = 0xFFE)
    (hb : va % 2 ^ 44 + n ≤ reserveBase (s.core (coreOf k))) (hj : (s.core (coreOf k)).jobs = [])
    (hd : ∀ c, s.ctx (ctxOf (coreOf k)) = some c → c.dbg = [])
    (hp : m.reads = true → ∀ i, i < n → padLoc (coreOf k) (va % 2 ^ 44) + i ∉ s.poison) :
    accessBytes s k va n m = .ok s [ownPiece (coreOf k) va n] := by
  have hwatch : lowestWatch s k m [(va, n)] = none := by
    simp [lowestWatch, watchHit_none hd]
  have hissue : accessIssue s k m [(va, n)] [(va, n)] = .ok s [ownPiece (coreOf k) va n] := by
    simp [accessIssue, checkPieces, checkPiece_own hw hb hp, hwatch, footprintBlocks_none hj]
  rw [accessBytes, sectorsOf_one hn hin, accessPieces, accessParts, hissue]
  simp only [piecesDecks_own, heldAt_nil]

theorem correctAt_clean {s : State} {loc n : Nat} (h : ∀ i, i < n → loc + i ∉ s.soft) (write : Bool) : correctAt s write loc n = s := by
  have hnone : s.soft.filter (fun a => loc ≤ a && a < loc + n) = [] := by
    rw [List.filter_eq_nil_iff]
    intro a ha hin
    simp only [Bool.and_eq_true, decide_eq_true_eq] at hin
    exact h (a - loc) (by omega) (by rwa [Nat.add_sub_cancel' hin.1])
  simp only [correctAt, hnone, List.isEmpty_nil, if_true]

/-- Accesses of the own scratchpad are not counted (R408). -/
theorem countPieces_own (s : State) (core va n : Nat) (write : Bool) :
    countPieces s core write [ownPiece core va n] = correctAt s write (ownPiece core va n).hit.loc n := by
  simp [countPieces, correctSoft, byteEvent, ownPiece]

theorem loadAt_own {t : XReg} {n : Nat} {sx : Bool} {ea : Word} {s s1 : State} {ps : List Piece} (ha : uv ea % n = 0)
    (hw : uv ea / 2 ^ 44 = 0xFFE) (h : accessBytes s s.fs (uv ea) n (AccMode.load (n = 8)) = .ok s1 ps) :
    loadAt t n sx ea s = writeAndRetire 4 t (ext sx n (readOf s1 ps)) (countPieces s1 (coreOf s.fs) false ps) := by
  unfold uv at ha hw h
  rw [loadAt, if_neg (not_not.mpr ha), h]
  dsimp only
  rw [if_pos (show ownWindow ea = true from decide_eq_true hw), ext_eq]

/-- Settles O8: a load by the value that its reply would carry, a store by the write of its one piece. -/
theorem ownScratchpadAccess : Obligations.OwnScratchpadAccess := by
  intro s t a off sx size n ea core o loc ha hw hb hj hd
  have hin : uv ea % 32 + n ≤ 32 := aligned_in_sector (by omega) ha
  have hn : n ≠ 0 := (Nat.two_pow_pos _).ne'
  refine ⟨fun hok hclean => ?load, fun hok => ?store⟩
  case load =>
    have hacc := accessBytes_own (m := AccMode.load (n = 8)) hn hin hw hb hj hd fun _ i hi => (hclean i hi).1
    have hread : readOf s [ownPiece core (uv ea) n] = Memory.readN s.mem loc n := readPieces_one ..
    have hcount : countPieces s core false [ownPiece core (uv ea) n] = s :=
      (countPieces_own ..).trans (correctAt_clean (fun i hi => (hclean i hi).2) false)
    have hx : exec (.ld t a off sx size) s = loadAt t n sx ea s := checked_ok hok
    rw [loadAt_own ha hw hacc, hread, hcount] at hx
    exact writes_of_writeAndRetire hx
  case store =>
    have hacc := accessBytes_own (m := AccMode.put (n = 8)) hn hin hw hb hj hd (fun h => by cases h)
    have hx : exec (.st t a off size) s = storeAt (.st t a off size) n (s.readX t) ea s := checked_ok hok
    have hlt : n < 32 := Nat.lt_of_le_of_lt (Nat.pow_le_pow_right (by decide) (show size.toNat ≤ 3 by omega)) (by decide)
    rw [storeAt_passes ha hacc, writeOf_memory rfl, countPieces_own, correctAt_true] at hx
    refine ⟨_, hx, ?_, fun b hb => ?_, ?_, rfl⟩
    · exact (writePieces_one_same _ rfl _).trans (Nat.mod_mod _ _)
    · exact writePieces_one_other _ rfl _ hb
    · simp only [writePieces, ownPiece, clearPoison_part hlt]
      rfl

end Sys2Proof.Proofs
end

section
/-!
PROOFS. Atomics, FENCE and WAITW (R139, R140, R144, R145, R171).
-/

namespace Sys2Proof.Proofs
open Sys2Proof Sys2Proof.Machine Sys2Proof.Claim

/-! ## The nine atomics (R139) -/

/-- The reply that will write the old value. -/
def oldReply (s1 : State) (core : Nat) (ps : List Piece) (d : XReg) (n old : Nat) : Wait :=
  .reply { len := 4, xw := [(d, ext true n old)], vw := none, decks := piecesDecks s1 core ps }

theorem amoAt_passes {i : Instr} {op : Nat} {d a b : XReg} {n : Nat} {s s1 : State} {p : Piece} (ha : uv (s.readX a) % n = 0)
    (h : accessBytes s s.fs (uv (s.readX a)) n (AccMode.rmw true) = .ok s1 [p]) :
    amoAt i op d a b n s = waitFor (oldReply s1 (coreOf s.fs) [p] d n (readPieces s1.mem [p]))
      (countPieces (countPieces (writePieces s1 [p] (amoValue op n (readPieces s1.mem [p]) (uv (s.readX b) % 2 ^ (8 * n)))) (coreOf s.fs) false [p])
        (coreOf s.fs) true [p]) := by
  unfold uv at ha h
  rw [amoAt]
  dsimp only
  rw [if_neg (not_not.mpr ha), h]
  simp only [oldReply, ext_eq, pow256, uv, if_true]

/-- A sum and a swapped operand are kept modulo the width. -/
theorem amoValue_add (n o x : Nat) : amoValue 0 n o x % 2 ^ (8 * n) = (o + x) % 2 ^ (8 * n) := Nat.mod_mod _ _
theorem amoValue_swap (n o x : Nat) : amoValue 1 n o x % 2 ^ (8 * n) = x % 2 ^ (8 * n) := Nat.mod_mod _ _
theorem amoValue_signedMin {n : Nat} (hn : n ≤ 8) (o x : Nat) : amoValue 5 n o x = if sb n o ≤ sb n x then o else x := by
  rw [← sextBytes_toInt hn, ← sextBytes_toInt hn]
  rfl
theorem amoValue_signedMax {n : Nat} (hn : n ≤ 8) (o x : Nat) : amoValue 6 n o x = if sb n o ≥ sb n x then o else x := by
  rw [← sextBytes_toInt hn, ← sextBytes_toInt hn]
  rfl

/-- An atomic of operation op, of a word or a doubleword, whose new value is f of the old one and the operand. -/
theorem amoDoes_of_amoAt {i : Instr} {s : State} {d a b : XReg} {scope : BitVec 3} {size : BitVec 4} {op : Nat} {f : Nat → Nat → Nat}
    (hx : exec i s = checked i s (amoAt i op d a b (2 ^ size.toNat) s))
    (hr : reserved s.widths i = (scope = 0 || (size ≠ 2 && size ≠ 3)))
    (hf : 2 ^ size.toNat ≤ 8 → ∀ o x, amoValue op (2 ^ size.toNat) o x % 2 ^ (8 * 2 ^ size.toNat) = f o x % 2 ^ (8 * 2 ^ size.toNat)) :
    AmoDoes i s d a b (2 ^ size.toNat) f := by
  intro s1 ps hok ha hacc
  have hsz : size.toNat ≤ 3 := by
    have hres := hr.symm.trans (reserved_of_ok hok)
    simp only [Bool.or_eq_false_iff, Bool.and_eq_false_iff, decide_eq_false_iff_not, not_not] at hres
    rcases hres.2 with rfl | rfl <;> decide
  have hn : 2 ^ size.toNat ≤ 8 := Nat.pow_le_pow_right (n := 2) (by decide) hsz
  obtain ⟨p, rfl, hp⟩ := accessBytes_ok (Nat.two_pow_pos _).ne' (aligned_in_sector (by omega) ha) hacc
  obtain ⟨honly, hmem⟩ := accessOnly_of_tags hp.tags
  have hold : readPieces s1.mem [p] = Memory.readN s.mem p.hit.loc (2 ^ size.toNat) := by rw [readPieces_one, hp.length, hmem]
  have he := hx.trans ((checked_ok hok).trans (amoAt_passes ha hacc))
  rw [hold] at he
  obtain ⟨hcur, hother, hframe⟩ := (((honly.writePieces p _).countPieces _ _ _).countPieces _ _ _).waits _
  refine ⟨p, _, rfl, hp.length, he, ⟨?_, hcur⟩, fun c hc => ?_, hother, hframe⟩
  · rw [setCur_mem, countPieces_mem, countPieces_mem, writePieces_one_same _ hp.length, hf hn]
  · rw [setCur_mem, countPieces_mem, countPieces_mem, writePieces_one_other _ hp.length _ hc, hmem]

theorem arithmeticAtomics : ArithmeticAtomics := by
  intro s d a b scope size n
  refine ⟨?add, ?swap, ?and, ?or, ?xor, ?min, ?max, ?minn, ?maxn⟩
  case add => exact amoDoes_of_amoAt rfl rfl fun _ => amoValue_add n
  case swap => exact amoDoes_of_amoAt rfl rfl fun _ => amoValue_swap n
  case and | or | xor | minn | maxn => exact amoDoes_of_amoAt rfl rfl fun _ _ _ => rfl
  case min => exact amoDoes_of_amoAt rfl rfl fun hn o x => by rw [amoValue_signedMin hn]
  case max => exact amoDoes_of_amoAt rfl rfl fun hn o x => by rw [amoValue_signedMax hn]

/-! ## CAS (R140) -/

theorem casHolds_eq {d a : XReg} {n : Nat} {s : State} {h : Hit}
    (ht : Machine.translate s (.core (coreOf s.fs)) (uv (s.readX a)) n .write = .ok h) :
    casHolds d a n s = decide (Memory.readN s.mem h.loc n = uv (s.readX d) % 2 ^ (8 * n)) := by
  unfold uv at ht
  rw [casHolds, ht, ← pow256]
  rfl

theorem casAt_passes {i : Instr} {d a b : XReg} {n : Nat} {s s1 : State} {p : Piece} (ha : uv (s.readX a) % n = 0)
    (h : accessBytes s s.fs (uv (s.readX a)) n (AccMode.rmw (casHolds d a n s)) = .ok s1 [p]) :
    casAt i d a b n s = waitFor (oldReply s1 (coreOf s.fs) [p] d n (readPieces s1.mem [p]))
      (if casHolds d a n s then
        countPieces (countPieces (writePieces s1 [p] (uv (s.readX b) % 2 ^ (8 * n))) (coreOf s.fs) false [p]) (coreOf s.fs) true [p]
       else countPieces s1 (coreOf s.fs) false [p]) := by
  unfold uv at ha h
  rw [casAt]
  dsimp only
  rw [if_neg (not_not.mpr ha), h]
  simp only [oldReply, ext_eq, pow256, uv, if_true]
  split <;> rfl

theorem compareAndSwapCompletes : CompareAndSwapCompletes := by
  intro s s1 ps h d a b scope size hok n ea win ha ht hacc
  obtain ⟨p, rfl, hp⟩ := accessBytes_ok (Nat.two_pow_pos _).ne' (aligned_in_sector (by omega) ha) hacc
  obtain ⟨honly, hmem⟩ := accessOnly_of_tags hp.tags
  have hhit : p.hit = h := Except.ok.inj (hp.lands.symm.trans ht)
  have hold : readPieces s1.mem [p] = Memory.readN s.mem h.loc n := by rw [readPieces_one, hp.length, hmem, hhit]
  have hx : exec (.cas d a b scope size) s = casAt (.cas d a b scope size) d a b n s := checked_ok hok
  have he := hx.trans (casAt_passes ha (casHolds_eq ht ▸ hacc))
  rw [hold, casHolds_eq ht] at he
  by_cases hwin : win
  · rw [if_pos (decide_eq_true hwin)] at he
    obtain ⟨hcur, hother, hframe⟩ := (((honly.writePieces p _).countPieces _ _ _).countPieces _ _ _).waits _
    refine ⟨_, he, fun _ => ⟨?_, fun c hc => ?_⟩, fun hn => absurd hwin hn, hcur, hother, hframe⟩
    · rw [setCur_mem, countPieces_mem, countPieces_mem, ← hhit, writePieces_one_same _ hp.length, Nat.mod_mod]
    · rw [← hhit] at hc
      rw [setCur_mem, countPieces_mem, countPieces_mem, writePieces_one_other _ hp.length _ hc, hmem]
  · rw [if_neg (by simpa using hwin)] at he
    obtain ⟨hcur, hother, hframe⟩ := (honly.countPieces _ _ _).waits _
    refine ⟨_, he, fun hw => absurd hw hwin, fun _ => ?_, hcur, hother, hframe⟩
    rw [setCur_mem, countPieces_mem, hmem]

/-- Settles O9: the nine atomics by their operation, CAS by whether it finds what it expects. -/
theorem atomicsComplete : Obligations.AtomicsComplete := ⟨arithmeticAtomics, compareAndSwapCompletes⟩

/-! ## FENCE (R144, R145) -/

theorem fenceCompletes : FenceCompletes := fun _ _ _ hok => movesPc_of_jumpTo (checked_ok hok)

/-! ## WAITW (R171) -/

theorem waitwAt_passes {i : Instr} {d a b : XReg} {c n : Nat} {s s1 : State} {ps : List Piece} (ha : uv (s.readX a) % n = 0)
    (h : accessBytes s s.fs (uv (s.readX a)) n (waitwRead n) = .ok s1 ps) :
    let s2 := countPieces s1 (coreOf s.fs) false ps
    waitwAt i d a b c n s = if waitCond c n (readOf s1 ps) (uv (s.readX b) % 2 ^ (8 * n)) then
        writeAndRetire 4 d (ext true n (readOf s1 ps)) (s2.setCur { s2.cur with wait := .none })
      else waitFor (.waitw i) s2 := by
  unfold uv at ha h
  dsimp only
  rw [waitwAt]
  dsimp only
  rw [if_neg (not_not.mpr ha), h]
  simp only [ext_eq, pow256, uv, if_true]

theorem zextBytes_toNat {n : Nat} (hn : n ≤ 8) (v : Nat) : (zextBytes n v).toNat = v % 2 ^ (8 * n) := by
  have hlt : v % 2 ^ (8 * n) < 2 ^ 64 :=
    Nat.lt_of_lt_of_le (Nat.mod_lt _ (Nat.two_pow_pos _)) (Nat.pow_le_pow_right (by decide) (by omega))
  rw [zextBytes, BitVec.toNat_setWidth, BitVec.toNat_ofNat, Nat.mod_eq_of_lt hlt]

/-- Sign extension of n bytes loses nothing of them. -/
theorem sextBytes_inj {n : Nat} (hn : n ≤ 8) {v w : Nat} : sextBytes n v = sextBytes n w ↔ v % 2 ^ (8 * n) = w % 2 ^ (8 * n) := by
  rw [← BitVec.toInt_inj, sextBytes, sextBytes, BitVec.toInt_signExtend_of_le (by omega), BitVec.toInt_signExtend_of_le (by omega),
    BitVec.toInt_inj, ← BitVec.toNat_inj, BitVec.toNat_ofNat, BitVec.toNat_ofNat]

/-- The condition of a WAITW in numbers (R107, R171). -/
theorem waitCond_iff {c n v w : Nat} (hc : c ≤ 5) (hn : n ≤ 8) (hw : w < 2 ^ (8 * n)) : waitCond c n v w = true ↔
    (c = 0 ∧ v % 2 ^ (8 * n) = w) ∨ (c = 1 ∧ v % 2 ^ (8 * n) ≠ w) ∨ (c = 2 ∧ sb n v < sb n w) ∨ (c = 3 ∧ sb n w ≤ sb n v)
    ∨ (c = 4 ∧ v % 2 ^ (8 * n) < w) ∨ (c = 5 ∧ w ≤ v % 2 ^ (8 * n)) := by
  have hinj : sextBytes n v = sextBytes n w ↔ v % 2 ^ (8 * n) = w := by rw [sextBytes_inj hn, Nat.mod_eq_of_lt hw]
  have hzw : (zextBytes n w).toNat = w := by rw [zextBytes_toNat hn, Nat.mod_eq_of_lt hw]
  unfold waitCond
  split
  · rw [condHolds_iff hc]
    simp only [uv, zextBytes_toNat hn v, hzw]
    omega
  · rw [condHolds_iff hc]
    simp only [sv, sextBytes_toInt hn, ne_eq, hinj]
    omega

/-- The recheck is a read of the waiting strand, whichever strand is in focus. -/
theorem exec_waitwRecheck {s t : State} {d a b : XReg} {scope cond : BitVec 3} {dbl : Bool} (f : Nat)
    (hwait : s.cur.wait = .waitw (.waitw d a b scope cond dbl))
    (hat : waitwAt (.waitw d a b scope cond dbl) d a b cond.toNat (if dbl then 8 else 4) s = .next t) :
    exec (.waitwRecheck s.fs) { s with fs := f } = .next { t with fs := f } := by
  have hx : execWaitwRecheck s.fs { s with fs := f } = .next { t with fs := f } := by
    unfold execWaitwRecheck
    rw [show (({ s with fs := f } : State).strand s.fs).wait = _ from hwait]
    dsimp only
    rw [hat]
  exact hx

theorem waitwCompletes : WaitwCompletes := by
  intro s s1 ps d a b scope cond dbl i n m ha hacc v w c holds s2
  have hn : n ≤ 8 := by cases dbl <;> decide
  have hm : m = waitwRead n := by cases dbl <;> rfl
  have hw : w < 2 ^ (8 * n) := Nat.mod_lt _ (Nat.two_pow_pos _)
  have hat := waitwAt_passes (i := i) (d := d) (b := b) (c := c) ha (hm ▸ hacc)
  have met (hh : holds) : waitwAt i d a b c n s = writeAndRetire 4 d (ext true n v) (s2.setCur { s2.cur with wait := .none }) :=
    hat.trans (if_pos ((waitCond_iff (by omega) hn hw).mpr hh))
  refine ⟨fun hh hok => ?_, fun hh hc hok => ?_, fun hh hwait f => ?_⟩
  · exact ⟨_, ((checked_ok hok).trans (met hh)).trans (writeAndRetire_spec ..), writeX_setPc_changes ..⟩
  · exact (checked_ok hok).trans (hat.trans (if_neg fun hcond => hh ((waitCond_iff hc hn hw).mp hcond)))
  · exact ⟨_, exec_waitwRecheck f hwait ((met hh).trans (writeAndRetire_spec ..)), writeX_setPc_changes ..⟩

/-- Settles O10: a FENCE retires, a WAITW goes by its condition. -/
theorem fencesAndWordWaits : Obligations.FencesAndWordWaits := ⟨fenceCompletes, waitwCompletes⟩

end Sys2Proof.Proofs
end

section
/-!
PROOFS. Accesses from outside, page walks and link retries (R142, R262, R265, R408).
-/

namespace Sys2Proof.Proofs
open Sys2Proof Sys2Proof.Machine Sys2Proof.Claim

/-! ## Bytes -/

/-- Each byte of a write reads back as its part of the value. -/
theorem read_writeN_same (n : Nat) : ∀ (m : List Host.Cell) (a v k : Nat), k < n →
    Memory.read (Memory.writeN m a n v) (a + k) = .ofNat 8 (v / 256 ^ k) := by
  induction n with
  | zero => exact fun _ _ _ _ h => absurd h (Nat.not_lt_zero _)
  | succ n ih =>
    intro m a v k hk
    rw [Memory.writeN]
    cases k with
    | zero =>
      have hlt : a < a + 1 := Nat.lt_succ_self a
      show Memory.read (Memory.writeN _ (a + 1) n _) a = _
      rw [Memory.read_writeN_other _ _ _ _ _ (.inl hlt), Memory.read_write_same, Nat.pow_zero, Nat.div_one]
    | succ k =>
      rw [show a + (k + 1) = a + 1 + k by omega, ih _ _ _ _ (by omega), Nat.div_div_eq_div_mul, Nat.pow_succ, Nat.mul_comm]

/-- The bytes of a list's value are those of the list. -/
theorem bytesValue_byte : ∀ (data : List Byte) (k : Nat) (hk : k < data.length), BitVec.ofNat 8 (bytesValue data / 256 ^ k) = data[k]
  | b :: r, 0, _ => by
    apply BitVec.eq_of_toNat_eq
    have hb := b.isLt
    simp only [bytesValue, Nat.pow_zero, Nat.div_one, BitVec.toNat_ofNat, List.getElem_cons_zero]
    omega
  | b :: r, k + 1, hk => by
    have hb := b.isLt
    have hdiv : bytesValue (b :: r) / 256 ^ (k + 1) = bytesValue r / 256 ^ k := by
      rw [Nat.pow_succ, Nat.mul_comm, ← Nat.div_div_eq_div_mul, bytesValue, show (b.toNat + 256 * bytesValue r) / 256 = bytesValue r by omega]
    rw [hdiv]
    exact bytesValue_byte r k (by simpa using hk)

/-! ## Writes from outside (R142, R265) -/

/-- What a write of bytes within one sector that exist does. -/
theorem outsideWrite_ok {s : State} {pa n : Nat} (hn : n ≠ 0) (hin : pa % 32 + n ≤ 32) (hok : outsideOk s pa n = true) (v : Nat) :
    outsideWrite s pa n v = Claim.put s (locOf pa) n v := by
  rw [outsideWrite, if_pos hok, sectorsOf_one hn hin, List.map_singleton, writeLocs, correctAt_true]
  rfl
theorem outsideWrite_absent {s : State} {pa n : Nat} (hok : ¬ outsideOk s pa n = true) (v : Nat) : outsideWrite s pa n v = s := if_neg hok

/-- The host and another device reach memory alike. -/
theorem exec_outside {i : Instr} {x : ExtAccess} (s : State) (hi : i ∈ [Instr.hostCoherentAccess x, .remoteMemoryOperation x]) :
    exec i s = .next (outsideAccess x s) := by
  rcases List.mem_pair.mp hi with rfl | rfl
  · rfl
  · rfl

/-! ## TLB fills (R262) -/

theorem mem_fillTlb_same (s : State) (key size evict : Nat) (e : TlbEntry) : e ∈ Tbl.get (fillTlb s key size evict e).tlbs key [] := by
  simp only [fillTlb, Tbl.get_put_same]
  exact List.mem_append_right _ (List.mem_singleton_self e)
theorem fillTlb_other (s : State) {key k : Nat} (size evict : Nat) (e : TlbEntry) (h : k ≠ key) :
    Tbl.get (fillTlb s key size evict e).tlbs k [] = Tbl.get s.tlbs k [] := Tbl.get_put_other _ _ _ _ _ h

theorem execPageWalk_leaf {s : State} {core evict : Nat} {va : Word} {l : Leaf} (h : walk s (ctxOf core) (uv va) = .ok l) :
    let x : TlbEntry := { ctx := ctxOf core, base := l.base, size := l.size, leaf := l.entry, pa := l.pa }
    exec (.pageWalk core va evict) s =
      .next (fillTlb (fillTlb s (2048 + deckOf (s.phys core)) deckTlbSize evict x) (s.phys core) coreTlbSize evict x) := by
  have hx : exec (.pageWalk core va evict) s = execPageWalk core va evict s := rfl
  unfold uv at h
  rw [hx, execPageWalk, h]
theorem execPageWalk_fault {s : State} {core evict : Nat} {va : Word} {c : Byte} (h : walk s (ctxOf core) (uv va) = .error c) :
    exec (.pageWalk core va evict) s = .next s := by
  have hx : exec (.pageWalk core va evict) s = execPageWalk core va evict s := rfl
  unfold uv at h
  rw [hx, execPageWalk, h]

/-- Settles O54: a write from outside lands as one piece, or not at all; a walk fills the deck's TLB and then the core's. -/
theorem outsideAndWalks : Obligations.OutsideAndWalks := by
  intro s pa data v e va core evict loc n ok old
  refine ⟨fun i hi hn hin => ⟨fun hok => ?write, fun hok => ?absent⟩, fun ha hok => ⟨fun i hi => ?add, fun i hi => ?cas⟩,
    fun i hi => exec_outside s hi, fun l hl => ?leaf, fun c hc => execPageWalk_fault hc, rfl, rfl⟩
  case write =>
    refine ⟨_, (exec_outside s hi).trans (congrArg _ (outsideWrite_ok (by omega) hin hok _)), fun k => ?_, fun b hb => ?_, rfl⟩
    · exact (read_writeN_same n _ loc _ k k.isLt).trans (bytesValue_byte data k k.isLt)
    · exact Memory.read_writeN_other n _ _ _ b hb
  case absent => exact (exec_outside s hi).trans (congrArg _ (outsideWrite_absent hok _))
  case add =>
    have hx : outsideAccess (.add pa v) s = outsideWrite s pa 8 ((old + uv v) % 2 ^ 64) := if_pos ha
    rw [exec_outside s hi, hx, outsideWrite_ok (by decide) (by omega) hok]
  case cas =>
    have hx : outsideAccess (.cas pa e v) s = if old = uv e then outsideWrite s pa 8 (uv v) else s :=
      if_congr (by simp [ha, old, loc, uv]) rfl rfl
    rw [exec_outside s hi, hx, outsideWrite_ok (by decide) (by omega) hok]
  case leaf =>
    refine ⟨_, execPageWalk_leaf hl, rfl, mem_fillTlb_same .., fun hp => ?_⟩
    rw [fillTlb_other _ _ _ _ (by omega)]
    exact mem_fillTlb_same ..

end Sys2Proof.Proofs
end

section
/-!
PROOFS. Dependence counters: DEPRD, DEPDEC, and the arrival of a decrement (R155 to R162).
-/

namespace Sys2Proof.Proofs
open Sys2Proof Sys2Proof.Machine Sys2Proof.Claim

/-! ## Reading a counter (R160) -/

theorem ctrRead_free {s : State} {core i : Nat} (hs : s.cur.staged = []) (hc : (s.core core).ctr i = .free) : ctrRead s core i = 0 := by
  simp only [ctrRead, hc, hs, List.foldl_nil]
theorem ctrRead_armed {s : State} {core i v h : Nat} {t : Task} (hs : s.cur.staged = []) (hc : (s.core core).ctr i = .armed v h t) :
    ctrRead s core i = .ofNat 64 (2 * 2 ^ 32 + v) := by
  simp only [ctrRead, hc, hs, List.foldl_nil]
theorem ctrRead_foreign {s : State} {core i k : Nat} (hc : (s.core core).ctr i = .reserved k) (hk : k ≠ slotOf s.fs) :
    ctrRead s core i = .ofNat 64 (2 ^ 32) := by
  simp only [ctrRead, hc, if_neg hk]
/-- A strand reads through its own DEPSET, which has not committed. -/
theorem ctrRead_staged {s : State} {core i v h : Nat} {t : Task} (hs : s.cur.staged = [.arm i v h t])
    (hc : (s.core core).ctr i = .reserved (slotOf s.fs)) (hv : 0 < v) : ctrRead s core i = .ofNat 64 (2 * 2 ^ 32 + v) := by
  simp only [ctrRead, hc, hs, if_true, List.foldl_cons, List.foldl_nil, ctrStep, if_neg hv.ne']

theorem deprd_writes {s : State} {d : XReg} {c : BitVec 8} {v : Word} (h : ctrRead s (coreOf s.fs) c.toNat = v) :
    Writes (.deprd d c) s d v 4 := writes_of_result h rfl

/-! ## Counter references (R155) -/

/-- The core that a reference of a strand of a core names: its own where OWN is set. -/
def refCore (core : Nat) (r : Word) : Nat :=
  if uv r / 2 ^ 19 % 2 = 1 then core else coreKey (ctxOf core) (uv r / 2 ^ 8 % 64) (uv r / 2 ^ 14 % 32)
/-- A valid reference: no bit above 19, and the own core or one in a stage of the launch. -/
def RefValid (s : State) (core : Nat) (r : Word) : Prop :=
  uv r < 2 ^ 20 ∧ (uv r / 2 ^ 19 % 2 = 1 ∨ ∃ l la st, (s.core core).launch = some l ∧ s.launch l = some la ∧ st < la.stages.length
    ∧ refCore core r ∈ s.coresOf l st)

theorem any_inStage_iff {s : State} {k l n : Nat} :
    (List.range n).any (fun st => inStage s k l st) = true ↔ ∃ st, st < n ∧ k ∈ s.coresOf l st := by
  simp only [inStage, List.any_eq_true, List.mem_range, List.contains_iff_mem]

/-- Without OWN, a reference with no bit above 19 names its core if some stage of the launch has it. -/
theorem ctrRefCore_foreign {s : State} {core k : Nat} {r : Word} (hr : uv r < 2 ^ 20) (ho : ¬ uv r / 2 ^ 19 % 2 = 1) :
    ctrRefCore s core r = some k ↔ k = refCore core r ∧ ∃ l la st, (s.core core).launch = some l ∧ s.launch l = some la
      ∧ st < la.stages.length ∧ refCore core r ∈ s.coresOf l st := by
  have hk : coreKey (ctxOf core) (fld r.toNat 8 6) (fld r.toNat 14 5) = refCore core r := (if_neg ho).symm
  have hr' : ¬ 2 ^ 20 ≤ r.toNat := Nat.not_le.mpr hr
  have ho' : ¬ fld r.toNat 19 1 = 1 := ho
  rw [ctrRefCore, if_neg hr', if_neg ho']
  dsimp only
  rw [hk]
  cases hl : (s.core core).launch with
  | none => exact ⟨fun h => (nomatch h), fun ⟨_, _, _, _, h, _⟩ => (nomatch h)⟩
  | some l =>
    dsimp only
    cases hla : s.launch l with
    | none => exact ⟨fun h => (nomatch h), fun ⟨_, l', la, _, h, hla', _⟩ => by cases h; rw [hla] at hla'; cases hla'⟩
    | some la =>
      dsimp only
      rw [Option.ite_none_right_eq_some, any_inStage_iff, Option.some_inj]
      constructor
      · rintro ⟨⟨st, hst, hm⟩, rfl⟩
        exact ⟨rfl, l, la, st, rfl, hla, hst, hm⟩
      · rintro ⟨rfl, l', la', st, h, hla', hst, hm⟩
        cases h
        cases hla.symm.trans hla'
        exact ⟨⟨st, hst, hm⟩, rfl⟩

theorem ctrRefCore_valid {s : State} {core : Nat} {r : Word} (h : RefValid s core r) : ctrRefCore s core r = some (refCore core r) := by
  obtain ⟨hr, h⟩ := h
  by_cases ho : uv r / 2 ^ 19 % 2 = 1
  · have hr' : ¬ 2 ^ 20 ≤ r.toNat := Nat.not_le.mpr hr
    rw [ctrRefCore, refCore, if_pos ho, if_neg hr']
    exact if_pos ho
  · exact (ctrRefCore_foreign hr ho).mpr ⟨rfl, h.resolve_left ho⟩
theorem ctrRefCore_invalid {s : State} {core : Nat} {r : Word} (h : ¬ RefValid s core r) : ctrRefCore s core r = none := by
  by_cases hr : uv r < 2 ^ 20
  · have ho : ¬ uv r / 2 ^ 19 % 2 = 1 := fun ho => h ⟨hr, .inl ho⟩
    exact Option.eq_none_iff_forall_ne_some.mpr fun k hk => h ⟨hr, .inr ((ctrRefCore_foreign hr ho).mp hk).2⟩
  · have hr' : 2 ^ 20 ≤ r.toNat := Nat.not_lt.mp hr
    rw [ctrRefCore, if_pos hr']

/-! ## DEPDEC (R161) -/

theorem depdec_traps_of_invalid {s : State} {a : XReg} {scope : BitVec 3} {n : BitVec 10} (hok : Ok (.depdec a scope n) s)
    (h : ¬ RefValid s (coreOf s.fs) (s.readX a)) : Traps (.depdec a scope n) s Cause.noSuchCore (s.readX a) :=
  (checked_ok hok).trans (by rw [ctrRefCore_invalid h]; rfl)
theorem exec_depdec_valid {s : State} {a : XReg} {scope : BitVec 3} {n : BitVec 10} (hok : Ok (.depdec a scope n) s)
    (h : RefValid s (coreOf s.fs) (s.readX a)) : exec (.depdec a scope n) s = if 32 ≤ stagedCount s.cur then trap s Cause.stageFull 0
      else retire 4 (stage s (.dec (refCore (coreOf s.fs) (s.readX a)) (uv (s.readX a) % 256) n.toNat)) :=
  (checked_ok hok).trans (by rw [ctrRefCore_valid h]; rfl)

/-- An instruction that stages an operation changes its strand's staged work and its pc. -/
theorem retire_stage (s : State) (o : Staged) : ∃ t, retire 4 (stage s o) = .next t ∧ OnlyStrand s t
    ∧ t.cur = { s.cur with pc := s.pc + 4, staged := s.cur.staged ++ [o] } := by
  refine ⟨_, retire_spec 4 (stage s o), onlyStrand_setPc (onlyStrand_setCur s _) _, ?_⟩
  rw [State.setPc_cur, State.pc, stage_cur]
  rfl

theorem decrementsStage : DecrementsStage := by
  intro s d a c scope n
  refine ⟨fun hs => ⟨fun hc => deprd_writes (ctrRead_free hs hc), fun v h t hc => deprd_writes (ctrRead_armed hs hc)⟩,
    fun k hc hk => deprd_writes (ctrRead_foreign hc hk), fun v h t hs hc hv => deprd_writes (ctrRead_staged hs hc hv), fun hok => ?_⟩
  refine ⟨depdec_traps_of_invalid hok, fun hv hfull => (exec_depdec_valid hok hv).trans (if_pos hfull), fun hv hroom => ?_⟩
  rw [exec_depdec_valid hok hv, if_neg (Nat.not_le.mpr hroom)]
  exact retire_stage s _

/-! ## The arrival of a decrement (R157, R161, R415) -/

/-- A state in which a decrement has come off the fabric. -/
def tookDecr (s : State) (x : Decr) (r : List Decr) : State := dropHeld { s with decrs := r } (itemSender x.id)

theorem exec_depDecrementArrive {s : State} {n : Nat} {x : Decr} (hx : s.decrs[n]? = some x) : exec (.depDecrementArrive n) s =
    arrive s x.id x.src x.core (.next (applyDecr (tookDecr s x (s.decrs.take n ++ s.decrs.drop (n + 1))) x)) := by
  show execDepDecrementArrive n s = _
  rw [execDepDecrementArrive, takeNth_of_getElem? hx]
  rfl

/-- The fault of a decrement that its counter cannot take (R157). -/
def underflowFault (x : Decr) : FaultInfo := asyncFault Cause.depUnderflow 0xFFFF (underflowTval x.core x.c x.amount) x.core 0
/-- A state with the counter of a decrement replaced. -/
def putCtr (s : State) (x : Decr) (y : Ctr) : State :=
  s.setCore x.core { s.core x.core with ctrs := Tbl.put (s.core x.core).ctrs x.c y }

theorem applyDecr_unheld {s : State} {x : Decr} (h : holdsCounters s x.core x.launch = false) :
    applyDecr s x = groupFault s x.launch x.stage (underflowFault x) := by
  simp only [applyDecr, h, Bool.not_false, if_true, underflowFault]

section Held
variable {s : State} {x : Decr} (hh : holdsCounters s x.core x.launch = true)
include hh

theorem applyDecr_armed {v h : Nat} {t : Task} (hc : (s.core x.core).ctr x.c = .armed v h t) : applyDecr s x =
    if v < x.amount then groupFault s ((s.core x.core).launch.getD 0) (s.core x.core).stage (underflowFault x)
    else if v = x.amount then releaseTask (putCtr s x .free) x h t
    else putCtr s x (.armed (v - x.amount) h t) := by
  simp only [applyDecr, hh, hc, Bool.not_true, Bool.false_eq_true, if_false, underflowFault, putCtr]
theorem applyDecr_unarmed (hc : ∀ v h t, (s.core x.core).ctr x.c ≠ .armed v h t) :
    applyDecr s x = groupFault s ((s.core x.core).launch.getD 0) (s.core x.core).stage (underflowFault x) := by
  simp only [applyDecr, hh, Bool.not_true, Bool.false_eq_true, if_false, underflowFault]
end Held

theorem releaseTask_open {s : State} {x : Decr} {home : Nat} {t : Task}
    (h : heldAt s (itemSender s.sent) (crossDecks (s.phys x.core) (s.phys home)) = []) : releaseTask s x home t = enqueueTask s home t := by
  simp only [releaseTask, h]
theorem releaseTask_held {s : State} {x : Decr} {home : Nat} {t : Task}
    (h : heldAt s (itemSender s.sent) (crossDecks (s.phys x.core) (s.phys home)) ≠ []) : releaseTask s x home t =
      noteHeld (s.sendCall { id := 0, src := x.core, core := home, task := t, launch := (s.core x.core).launch.getD 0,
                             stage := (s.core x.core).stage })
        (itemSender s.sent) (heldAt s (itemSender s.sent) (crossDecks (s.phys x.core) (s.phys home))) := by
  unfold releaseTask
  split
  · exact absurd ‹_› h
  · rfl

/-- The core of a counter that is replaced runs the stage that it ran. -/
theorem putCtr_core (s : State) (x : Decr) (y : Ctr) : ((putCtr s x y).core x.core).launch = (s.core x.core).launch
    ∧ ((putCtr s x y).core x.core).stage = (s.core x.core).stage := by
  rw [putCtr, State.core_setCore]
  exact ⟨rfl, rfl⟩

theorem decrementsArrive : DecrementsArrive := by
  intro s n x r hx hr
  subst hr
  rw [exec_depDecrementArrive hx]
  refine ⟨fun hne hrl => heldAt_ne_nil_of_relockHeld _ (by simpa [relockHeld, hne] using hrl), arrive_held, fun hd hh => ?_, fun hd hh => ?_⟩
  · rw [arrive_open hd]
    exact congrArg _ (applyDecr_unheld hh)
  rw [arrive_open hd]
  have armed {v h : Nat} {t : Task} := applyDecr_armed (v := v) (h := h) (t := t) (s := tookDecr s x (s.decrs.take n ++ s.decrs.drop (n + 1))) hh
  refine ⟨fun v h t hc hlt => ?_, fun v h t hc heq => ?_, fun v h t hc hlt => ?_, fun hc => congrArg _ (applyDecr_unarmed hh hc)⟩
  · rw [armed hc, if_neg (Nat.not_lt.mpr hlt.le), if_neg hlt.ne']
    rfl
  · rw [armed hc, if_neg (Nat.not_lt.mpr heq.le), if_pos heq.symm]
    refine ⟨fun he => congrArg _ (releaseTask_open he), fun he => ?_⟩
    have hrel := releaseTask_held (s := putCtr (tookDecr s x (s.decrs.take n ++ s.decrs.drop (n + 1))) x .free) (t := t) he
    rw [(putCtr_core ..).1, (putCtr_core ..).2] at hrel
    exact congrArg _ hrel
  · rw [armed hc, if_pos hlt]
    rfl

/-- Settles O15: DEPRD and DEPDEC, and the arrival of what DEPDEC sends. -/
theorem dependenceCounters : Obligations.DependenceCounters := ⟨decrementsStage, decrementsArrive⟩

end Sys2Proof.Proofs
end

section
/-!
PROOFS. Barriers: ARRIVE and BARCFG (R166 to R168, R170, R270, R415).
-/

namespace Sys2Proof.Proofs
open Sys2Proof Sys2Proof.Machine Sys2Proof.Claim

/-! ## A barrier of a context after an update -/

/-- Only the contexts change with a barrier. -/
theorem setBar_spec (s : State) (ctx key : Nat) (b : Barrier) : s.setBar ctx key b = { s with ctxs := (s.setBar ctx key b).ctxs } := by
  unfold State.setBar
  split <;> rfl
@[simp] theorem setBar_strand (s : State) (ctx key : Nat) (b : Barrier) : (s.setBar ctx key b).strand = s.strand := by
  rw [setBar_spec]
  rfl
@[simp] theorem setBar_fs (s : State) (ctx key : Nat) (b : Barrier) : (s.setBar ctx key b).fs = s.fs := by
  rw [setBar_spec]
@[simp] theorem setBar_cur (s : State) (ctx key : Nat) (b : Barrier) : (s.setBar ctx key b).cur = s.cur := by
  rw [State.cur, setBar_strand, setBar_fs, State.cur]

theorem bar_of_ctxs {s t : State} (h : t.ctxs = s.ctxs) : t.bar = s.bar := by
  funext c j
  rw [State.bar, State.bar, State.ctx, State.ctx, h]

theorem setBar_absent {s : State} {ctx : Nat} (h : s.ctx ctx = none) (key : Nat) (b : Barrier) : s.setBar ctx key b = s := by
  rw [State.setBar, h]
theorem ctx_setBar_same {s : State} {ctx : Nat} {c : Ctx} (hc : s.ctx ctx = some c) (key : Nat) (b : Barrier) :
    (s.setBar ctx key b).ctx ctx = some { c with bars := Tbl.put c.bars key b } := by
  rw [State.setBar, hc]
  exact Tbl.look_put_same ..
theorem ctx_setBar_other (s : State) {ctx c : Nat} (key : Nat) (b : Barrier) (h : c ≠ ctx) : (s.setBar ctx key b).ctx c = s.ctx c := by
  unfold State.setBar
  split
  · exact Tbl.look_put_other _ _ _ _ h
  · rfl

theorem bar_setBar_same {s : State} {ctx : Nat} {c : Ctx} (hc : s.ctx ctx = some c) (key : Nat) (b : Barrier) :
    (s.setBar ctx key b).bar ctx key = b := by
  rw [State.bar, ctx_setBar_same hc]
  exact Tbl.get_put_same ..
theorem bar_setBar_other (s : State) {ctx key c j : Nat} (b : Barrier) (h : (c, j) ≠ (ctx, key)) :
    (s.setBar ctx key b).bar c j = s.bar c j := by
  by_cases hc : c = ctx
  · have hj : j ≠ key := fun hj => h (by rw [hc, hj])
    subst hc
    cases hx : s.ctx c with
    | none => rw [setBar_absent hx]
    | some x =>
      rw [State.bar, State.bar, ctx_setBar_same hx, hx]
      exact Tbl.get_put_other _ _ _ _ _ hj
  · rw [State.bar, State.bar, ctx_setBar_other s key b hc]
/-- No core moves with a barrier. -/
theorem setBar_sameTables (s : State) (ctx key : Nat) (b : Barrier) : sameTables s (s.setBar ctx key b) := by
  intro c
  by_cases hc : c = ctx
  · subst hc
    cases hx : s.ctx c with
    | none => rw [setBar_absent hx, hx]
    | some x =>
      rw [ctx_setBar_same hx]
      rfl
  · rw [ctx_setBar_other s key b hc]

/-- A barrier that counts participants is one of a context that exists. -/
theorem ctx_of_bar_count {s : State} {ctx key : Nat} (h : (s.bar ctx key).n ≠ 0) : ∃ c, s.ctx ctx = some c := by
  cases hc : s.ctx ctx with
  | none => exact absurd (by rw [State.bar, hc]; rfl) h
  | some c => exact ⟨c, rfl⟩

/-! ## Fields and epochs (R166, R167, R270) -/

/-- The scopes and numbers that the barrier instructions have (R166, R167). -/
theorem barrier_fields {scope : BitVec 3} {id : BitVec 10}
    (h : (!(barrierScopeOk scope) || decide (barrierCount scope ≤ id.toNat)) = false) :
    (2 ≤ scope.toNat ∧ scope.toNat ≤ 5) ∧ id.toNat < 16 := by
  simp only [Bool.or_eq_false_iff, Bool.not_eq_false', barrierScopeOk, Bool.and_eq_true, decide_eq_true_eq, decide_eq_false_iff_not,
    Nat.not_le] at h
  obtain ⟨hs, hi⟩ := h
  have hle : barrierCount scope ≤ 16 := by
    unfold barrierCount
    split <;> decide
  exact ⟨hs, lt_of_lt_of_le hi hle⟩

theorem arriveEpoch_epoch {scope : Nat} (h : 2 ≤ scope ∧ scope ≤ 5) (t : Strand) (q : Half) :
    (t.arriveEpoch scope q).epoch scope = (q + 1, (t.epoch scope).2) := nth_upd_same _ _ _ (by omega)
theorem waitEpoch_epoch {scope : Nat} (h : 2 ≤ scope ∧ scope ≤ 5) (t : Strand) (w : Half) :
    (t.waitEpoch scope w).epoch scope =
      ((t.epoch scope).1, if earlier (w + 1) (t.epoch scope).2 then (t.epoch scope).2 else w + 1) := nth_upd_same _ _ _ (by omega)

/-! ## ARRIVE (R168) -/

section Arrive
variable {s : State} {d : XReg} {scope : BitVec 3} {id : BitVec 10}

/-- A state in which the strand in focus has counted in phase q of its barrier, which stands as b from then on. -/
def countedIn (s : State) (scope : BitVec 3) (id : BitVec 10) (b : Barrier) (q : Half) : State :=
  let s1 := s.setBar (ctxOf (coreOf s.fs)) (barOf s scope id) b
  if id = 0 then s1.setCur (s1.cur.arriveEpoch scope.toNat q) else s1
/-- Its strand: for barrier 0 with a new arrive epoch. -/
def countedStrand (s : State) (scope : BitVec 3) (id : BitVec 10) (q : Half) : Strand :=
  if id = 0 then s.cur.arriveEpoch scope.toNat q else s.cur

theorem countedIn_cur (b : Barrier) (q : Half) : (countedIn s scope id b q).cur = countedStrand s scope id q := by
  unfold countedIn countedStrand
  split
  · rw [State.setCur_cur, setBar_cur]
  · rw [setBar_cur]
theorem countedIn_fs (b : Barrier) (q : Half) : (countedIn s scope id b q).fs = s.fs := by
  unfold countedIn
  split
  · rw [State.setCur_fs, setBar_fs]
  · rw [setBar_fs]
theorem countedIn_strand (b : Barrier) (q : Half) {k : Nat} (hk : k ≠ s.fs) : (countedIn s scope id b q).strand k = s.strand k := by
  unfold countedIn
  split
  · rw [State.strand_setCur_other _ _ _ (by rwa [setBar_fs]), setBar_strand]
  · rw [setBar_strand]
theorem countedIn_ctxs (b : Barrier) (q : Half) :
    (countedIn s scope id b q).ctxs = (s.setBar (ctxOf (coreOf s.fs)) (barOf s scope id) b).ctxs := by
  unfold countedIn
  split <;> rfl
theorem countedIn_spec (b : Barrier) (q : Half) : countedIn s scope id b q =
    { s with strands := (countedIn s scope id b q).strands, ctxs := (countedIn s scope id b q).ctxs } := by
  unfold countedIn
  split
  · rw [setBar_spec]
    rfl
  · rw [setBar_spec]

/-- What is counted changes the epochs alone. -/
theorem countedStrand_spec (q : Half) : countedStrand s scope id q = { s.cur with epochs := (countedStrand s scope id q).epochs } := by
  unfold countedStrand
  split <;> rfl

/-- An ARRIVE completed: the barrier is b, the phase is in xd, and for barrier 0 there is a new arrive epoch. -/
theorem countedIn_retires {b : Barrier} (hb : (s.bar (ctxOf (coreOf s.fs)) (barOf s scope id)).n ≠ 0)
    (hs : 2 ≤ scope.toNat ∧ scope.toNat ≤ 5) (q : Half) :
    ∃ t, writeAndRetire 4 d (q.setWidth 64) (countedIn s scope id b q) = .next t ∧ t.bar (ctxOf (coreOf s.fs)) (barOf s scope id) = b
      ∧ (∀ r, t.readX r = if r = d ∧ r ≠ 0 then q.setWidth 64 else s.readX r) ∧ t.pc = s.pc + 4
      ∧ (id ≠ 0 → t.cur.epochs = s.cur.epochs)
      ∧ (id = 0 → t.cur.epoch scope.toNat = (q + 1, (s.cur.epoch scope.toNat).2))
      ∧ { t.cur with pc := s.cur.pc, x := s.cur.x, epochs := s.cur.epochs } = s.cur
      ∧ t = { s with strands := t.strands, ctxs := t.ctxs } ∧ ∀ k, k ≠ s.fs → t.strand k = s.strand k := by
  obtain ⟨c, hc⟩ := ctx_of_bar_count hb
  have hcur := countedIn_cur (s := s) (scope := scope) (id := id) b q
  have hspec := countedStrand_spec (s := s) (scope := scope) (id := id) q
  have hp : (countedIn s scope id b q).pc = s.pc := by rw [State.pc, hcur, hspec]; rfl
  have hx : ∀ r, (countedIn s scope id b q).readX r = s.readX r := fun r => by rw [State.readX, hcur, hspec]; rfl
  obtain ⟨⟨heq, hother⟩, hread, hpc, hframe⟩ := writeX_setPc_changes (countedIn s scope id b q) d (q.setWidth 64) (s.pc + 4)
  have hepochs : (((countedIn s scope id b q).writeX d (q.setWidth 64)).setPc (s.pc + 4)).cur.epochs = (countedStrand s scope id q).epochs := by
    rw [State.setPc_cur, State.writeX_cur, Strand.setPc_epochs, Strand.writeX_epochs, hcur]
  rw [writeAndRetire_spec, hp]
  generalize ((countedIn s scope id b q).writeX d (q.setWidth 64)).setPc (s.pc + 4) = t at *
  refine ⟨t, rfl, ?_, fun r => by rw [hread, hx], hpc, fun h0 => ?_, fun h0 => ?_, ?_, ?_, fun k hk => ?_⟩
  · have hctxs : t.ctxs = (s.setBar (ctxOf (coreOf s.fs)) (barOf s scope id) b).ctxs := by
      rw [heq]
      exact countedIn_ctxs b q
    rw [bar_of_ctxs hctxs, bar_setBar_same hc]
  · rw [hepochs, countedStrand, if_neg h0]
  · rw [Strand.epoch, hepochs, countedStrand, if_pos h0]
    exact arriveEpoch_epoch hs _ _
  · have := congrArg (fun u : Strand => { u with pc := s.cur.pc, x := s.cur.x, epochs := s.cur.epochs }) hframe
    rw [hcur, hspec] at this
    exact this
  · rw [heq, countedIn_spec]
  · rw [hother k (by rwa [countedIn_fs]), countedIn_strand _ _ hk]

end Arrive

theorem holds_of_barHeld {i : Instr} {s : State} {k scope : Nat} {go : Res} (h : barHeld s k scope ≠ [])
    (hx : exec i s = if !(barHeld s k scope).isEmpty then hold (barHeld s k scope) s else go) : Holds i s false (barHeld s k scope) := by
  rw [if_pos (by simpa using h)] at hx
  exact hx

theorem exec_arrive {s : State} {d : XReg} {scope : BitVec 3} {id : BitVec 10} (hok : Ok (.arrive d scope id) s)
    (hn : (s.bar (ctxOf (coreOf s.fs)) (barOf s scope id)).n ≠ 0) : exec (.arrive d scope id) s =
    if !(barHeld s s.fs scope.toNat).isEmpty then hold (barHeld s s.fs scope.toNat) s
    else match (s.bar (ctxOf (coreOf s.fs)) (barOf s scope id)).arrive
        (stageKey ((s.groupOf s.fs).getD (0, 0)).1 ((s.groupOf s.fs).getD (0, 0)).2) with
      | none => trap s Cause.barOverrun (barTval scope id)
      | some (q, b) => writeAndRetire 4 d (q.setWidth 64) (countedIn s scope id b q) :=
  (checked_ok hok).trans (if_neg hn)
theorem exec_arrive_open {s : State} {d : XReg} {scope : BitVec 3} {id : BitVec 10} {l st : Nat} (hok : Ok (.arrive d scope id) s)
    (hn : (s.bar (ctxOf (coreOf s.fs)) (barOf s scope id)).n ≠ 0) (hg : s.groupOf s.fs = some (l, st))
    (hh : barHeld s s.fs scope.toNat = []) : exec (.arrive d scope id) s =
    match (s.bar (ctxOf (coreOf s.fs)) (barOf s scope id)).arrive (stageKey l st) with
      | none => trap s Cause.barOverrun (barTval scope id)
      | some (q, b) => writeAndRetire 4 d (q.setWidth 64) (countedIn s scope id b q) := by
  rw [exec_arrive hok hn, hh, hg]
  rfl

theorem arrive_current {b : Barrier} (g : Nat) (h : b.cur.length < b.n.toNat) : b.arrive g = some (b.p, { b with cur := b.cur ++ [g] }) :=
  if_pos h
theorem arrive_next {b : Barrier} (g : Nat) (hc : b.n.toNat ≤ b.cur.length) (h : b.nxt.length < b.n.toNat) :
    b.arrive g = some (b.p + 1, { b with nxt := b.nxt ++ [g] }) := by
  rw [Barrier.arrive, if_neg (Nat.not_lt.mpr hc), if_pos h]
theorem arrive_overrun {b : Barrier} (g : Nat) (hc : b.n.toNat ≤ b.cur.length) (h : b.n.toNat ≤ b.nxt.length) : b.arrive g = none := by
  rw [Barrier.arrive, if_neg (Nat.not_lt.mpr hc), if_neg (Nat.not_lt.mpr h)]

theorem arriveCounts : ArriveCounts := by
  intro s d scope id hok
  obtain ⟨hs, -⟩ := barrier_fields (reserved_of_ok hok)
  refine ⟨fun hn => (checked_ok hok).trans (if_pos hn), fun hn hh => holds_of_barHeld hh (exec_arrive hok hn), fun l st hg hn hh => ?_⟩
  have hx := exec_arrive_open hok hn hg hh
  refine ⟨fun hc => ?_, fun hc hw => ?_, fun hc hw => ?_⟩
  · rw [arrive_current _ hc] at hx
    dsimp only
    rw [hx]
    exact countedIn_retires hn hs _
  · rw [arrive_next _ hc hw] at hx
    dsimp only
    rw [hx]
    exact countedIn_retires hn hs _
  · rw [arrive_overrun _ hc hw] at hx
    exact hx

/-! ## BARCFG (R170) -/

theorem exec_barcfg_open {s : State} {b : XReg} {scope : BitVec 3} {id : BitVec 10} (hok : Ok (.barcfg b scope id) s)
    (hh : barHeld s s.fs scope.toNat = []) : exec (.barcfg b scope id) s =
    let x := s.bar (ctxOf (coreOf s.fs)) (barOf s scope id)
    if !x.cur.isEmpty || !x.nxt.isEmpty then trap s Cause.barConfig (barTval scope id)
    else retire 4 (s.setBar (ctxOf (coreOf s.fs)) (barOf s scope id) { x with n := (s.readX b).setWidth 16 }) := by
  refine (checked_ok hok).trans ?_
  rw [hh]
  rfl

theorem barcfgCompletes : BarcfgCompletes := by
  intro s r scope id hok
  refine ⟨fun hh => holds_of_barHeld hh (checked_ok hok), fun hh => ⟨fun hc hn ⟨c, hctx⟩ => ?_, fun hne => ⟨barTval scope id, ?_⟩⟩⟩
  · refine ⟨_, (exec_barcfg_open hok hh).trans (if_neg (by simp [hc, hn])), ?_, ?_, ?_, fun k hk => ?_, fun c' j hcj => ?_⟩
    · exact bar_setBar_same hctx _ _
    · rw [State.setPc_cur, setBar_cur, State.pc, setBar_cur]
      rfl
    · rw [setBar_spec]
      rfl
    · rw [State.strand_setPc_other _ _ _ (by rwa [setBar_fs]), setBar_strand]
    · exact bar_setBar_other s _ hcj
  · refine (exec_barcfg_open hok hh).trans (if_pos ?_)
    simpa [← not_and_or] using hne

/-- Settles O18: each case of ARRIVE, and BARCFG. -/
theorem barriersCount : Obligations.BarriersCount := ⟨arriveCounts, barcfgCompletes⟩

end Sys2Proof.Proofs
end

section
/-!
PROOFS. Waits on barriers: WAITB, and the completion of a phase (R166, R169, R270, R415).
-/

namespace Sys2Proof.Proofs
open Sys2Proof Sys2Proof.Machine Sys2Proof.Claim

/-! ## The end of a wait (R169, R270) -/

theorem passed_iff {b : Barrier} {w : Half} : b.passed w = true ↔ 1 ≤ (b.p - w).toNat ∧ (b.p - w).toNat ≤ 32767 := by
  simp only [Barrier.passed, Bool.and_eq_true, decide_eq_true_eq]
theorem earlier_iff {t u : Half} : earlier t u = true ↔ 1 ≤ (u - t).toNat ∧ (u - t).toNat ≤ 32767 := by
  simp only [earlier, Bool.and_eq_true, decide_eq_true_eq]

/-- The strand as a wait on phase w of a barrier ends for it. -/
def endedWait (key : Nat) (w : Half) (t : Strand) : Strand :=
  { (if barId key = 0 then t.waitEpoch (barScope key) w else t) with wait := .none, pc := t.pc + 4 }

theorem endWaitb_eq (s : State) (k key : Nat) (w : Half) : endWaitb s k key w = s.setStrand k (endedWait key w (s.strand k)) := rfl

theorem endedWait_spec (key : Nat) (w : Half) (t : Strand) :
    endedWait key w t = { t with wait := .none, pc := t.pc + 4, epochs := (endedWait key w t).epochs } := by
  unfold endedWait
  split <;> rfl
theorem endedWait_epochs_other {key : Nat} (h : barId key ≠ 0) (w : Half) (t : Strand) : (endedWait key w t).epochs = t.epochs := by
  rw [endedWait, if_neg h]
/-- Barrier 0 moves the wait epoch on, unless it is later already. -/
theorem endedWait_epoch {key : Nat} (h : barId key = 0) (hs : 2 ≤ barScope key ∧ barScope key ≤ 5) (w : Half) (t : Strand) :
    (endedWait key w t).epoch (barScope key) = ((t.epoch (barScope key)).1,
      if earlier (w + 1) (t.epoch (barScope key)).2 then (t.epoch (barScope key)).2 else w + 1) := by
  have he : (endedWait key w t).epochs = (t.waitEpoch (barScope key) w).epochs := by rw [endedWait, if_pos h]
  rw [Strand.epoch, he]
  exact waitEpoch_epoch hs t w

/-! ## The fields of a barrier's key (R166) -/

theorem unitOf_lt {scope phys : Nat} (h : phys < 2048) : unitOf scope phys < 1024 := by
  unfold unitOf deckOf
  split
  · omega
  · split
    · omega
    · split
      · omega
      · decide
theorem barId_barOf (s : State) (scope : BitVec 3) {id : BitVec 10} (h : id.toNat < 16) : barId (barOf s scope id) = id.toNat := by
  unfold barId barOf barKey
  omega
theorem barScope_barOf {s : State} (scope : BitVec 3) {id : BitVec 10} (h : id.toNat < 16) (hp : s.phys (coreOf s.fs) < 2048) :
    barScope (barOf s scope id) = scope.toNat := by
  have hu := unitOf_lt (scope := scope.toNat) hp
  unfold barScope barOf barKey
  omega

/-! ## WAITB (R169) -/

section Waitb
variable {s : State} {a : XReg} {scope : BitVec 3} {id : BitVec 10} (hok : Ok (.waitb a scope id) s)
include hok

theorem exec_waitb : exec (.waitb a scope id) s =
    if (s.bar (ctxOf (coreOf s.fs)) (barOf s scope id)).passed ((s.readX a).setWidth 16) = true then
      match barHeld s s.fs scope.toNat with
      | [] => .next (endWaitb s s.fs (barOf s scope id) ((s.readX a).setWidth 16))
      | ds => waitFor (.waitb (barOf s scope id) ((s.readX a).setWidth 16)) (noteHeld s s.fs ds)
    else waitFor (.waitb (barOf s scope id) ((s.readX a).setWidth 16)) s := checked_ok hok

/-- An end that a relock holds is noted, and the strand waits. -/
theorem exec_waitb_held (hp : (s.bar (ctxOf (coreOf s.fs)) (barOf s scope id)).passed ((s.readX a).setWidth 16) = true)
    (hd : barHeld s s.fs scope.toNat ≠ []) : exec (.waitb a scope id) s =
    .next ((noteHeld s s.fs (barHeld s s.fs scope.toNat)).setCur
      { s.cur with wait := .waitb (barOf s scope id) ((s.readX a).setWidth 16) }) := by
  have hcur : (noteHeld s s.fs (barHeld s s.fs scope.toNat)).cur = s.cur := by rw [noteHeld_spec]; rfl
  rw [exec_waitb hok, if_pos hp]
  split
  · exact absurd ‹_› hd
  · rw [waitFor_spec, hcur]
end Waitb

theorem waitbCompletes : WaitbCompletes := by
  intro s a scope id hok
  obtain ⟨hs, hid⟩ := barrier_fields (reserved_of_ok hok)
  refine ⟨fun h1 h2 hd => ?_, fun h1 h2 hd => exec_waitb_held hok (passed_iff.mpr ⟨h1, h2⟩) hd, fun h => ?_⟩
  · have hx := exec_waitb hok
    rw [if_pos (passed_iff.mpr ⟨h1, h2⟩), hd] at hx
    have hcur : (endWaitb s s.fs (barOf s scope id) ((s.readX a).setWidth 16)).cur =
      endedWait (barOf s scope id) ((s.readX a).setWidth 16) s.cur := State.setCur_cur ..
    have hspec := endedWait_spec (barOf s scope id) ((s.readX a).setWidth 16) s.cur
    refine ⟨_, hx, onlyStrand_setCur s _, ?_, ?_, ?_, fun h0 => ?_, fun h0 hp => ?_⟩
    · rw [State.pc, hcur, hspec]
      rfl
    · rw [hcur, hspec]
    · rw [hcur, hspec]
    · rw [hcur, endedWait_epochs_other]
      rw [barId_barOf _ _ hid]
      exact fun h => h0 (BitVec.eq_of_toNat_eq h)
    · have hsc := barScope_barOf scope hid hp
      have he := endedWait_epoch (key := barOf s scope id) (by rw [barId_barOf _ _ hid, h0]; rfl) (by rwa [hsc])
        ((s.readX a).setWidth 16) s.cur
      rw [hsc] at he
      simp only [earlier_iff] at he
      rw [hcur]
      exact he
  · have hn : ¬ (s.bar (ctxOf (coreOf s.fs)) (barOf s scope id)).passed ((s.readX a).setWidth 16) = true := fun hp => by
      obtain ⟨h1, h2⟩ := passed_iff.mp hp
      exact h.elim (fun h => by omega) fun h => by omega
    rw [exec_waitb hok, if_neg hn]
    rfl

/-! ## What a boundary holds (R415) -/

/-- A boundary holds traffic only where its deck relocks or traffic across it was held before. -/
theorem mem_heldAt {s : State} {h d : Nat} {ds : List Nat} (hm : d ∈ heldAt s h ds) :
    d ∈ ds ∧ ((s.deck d).relock = true ∨ ∃ e ∈ s.crossing, d ∈ e.2) := by
  obtain ⟨hd, hh⟩ := List.mem_filter.mp hm
  refine ⟨hd, (Bool.or_eq_true_iff.mp hh).imp id fun ha => ?_⟩
  obtain ⟨e, he, hc⟩ := List.any_eq_true.mp ha
  exact ⟨e, (List.takeWhile_sublist _).subset (List.mem_filter.mp he).1, by simpa using hc⟩

/-- A note of held traffic leaves each place in the order as it was, or gives it the decks of the note. -/
theorem mem_noteHeld {s : State} {h : Nat} {ds : List Nat} {e : Nat × List Nat} (he : e ∈ (noteHeld s h ds).crossing) :
    e ∈ s.crossing ∨ e.2 = ds := by
  unfold noteHeld at he
  split at he
  · exact .inl he
  · split at he
    · obtain ⟨f, hf, rfl⟩ := List.mem_map.mp he
      split
      · exact .inr rfl
      · exact .inl hf
    · rcases List.mem_append.mp he with h | h
      · exact .inl h
      · exact .inr (by rw [List.mem_singleton.mp h])

/-- No boundary of a deck holds anything. -/
def DeckOpen (s : State) (d : Nat) : Prop := (s.deck d).relock = false ∧ ∀ e ∈ s.crossing, d ∉ e.2

theorem not_mem_heldAt {s : State} {d : Nat} (h : DeckOpen s d) (k : Nat) (ds : List Nat) : d ∉ heldAt s k ds := fun hm => by
  obtain ⟨hr, hc⟩ := h
  rcases (mem_heldAt hm).2 with h | ⟨e, he, hd⟩
  · rw [hr] at h
    cases h
  · exact hc e he hd
/-- Where a deck is open, so it stays when traffic is noted that some boundaries hold. -/
theorem DeckOpen.noteHeld {s : State} {d : Nat} (h : DeckOpen s d) (k : Nat) (ds : List Nat) :
    DeckOpen (noteHeld s k (heldAt s k ds)) d := by
  refine ⟨?_, fun e he => ?_⟩
  · rw [noteHeld_spec]
    exact h.1
  · rcases mem_noteHeld he with he | he
    · exact h.2 e he
    · rw [he]
      exact not_mem_heldAt h k ds
theorem DeckOpen.dropHeld {s : State} {d : Nat} (h : DeckOpen s d) (k : Nat) : DeckOpen (dropHeld s k) d :=
  ⟨h.1, fun e he => h.2 e (List.mem_filter.mp he).1⟩

/-! ## One strand of a full phase (R166) -/

/-- A strand waits on a phase of a barrier that is past. -/
def PastWait (s : State) (ctx key k : Nat) (w : Half) : Prop :=
  (s.strand k).wait = .waitb key w ∧ ctxOf (coreOf k) = ctx ∧ (s.bar ctx key).passed w = true
/-- The deck of a strand. -/
def deckOfStrand (s : State) (k : Nat) : Nat := deckOf (s.phys (coreOf k))

/-- What the release does with one strand. -/
def releaseOne (s : State) (ctx key k : Nat) : State := releaseWaiters s ctx key [k]

theorem releaseWaiters_cons (s : State) (ctx key k : Nat) (r : List Nat) :
    releaseWaiters s ctx key (k :: r) = releaseWaiters (releaseOne s ctx key k) ctx key r := rfl

theorem releaseOne_ends {s : State} {ctx key k : Nat} {w : Half} (h : PastWait s ctx key k w) (hd : barHeld s k (barScope key) = []) :
    releaseOne s ctx key k = endWaitb (dropHeld s k) k key w := by
  obtain ⟨hw, hc, hp⟩ := h
  simp only [releaseOne, releaseWaiters, hw, hc, hp, hd, and_self, if_true]
theorem releaseOne_holds {s : State} {ctx key k : Nat} {w : Half} (h : PastWait s ctx key k w) (hd : barHeld s k (barScope key) ≠ []) :
    releaseOne s ctx key k = noteHeld s k (barHeld s k (barScope key)) := by
  obtain ⟨hw, hc, hp⟩ := h
  simp only [releaseOne, releaseWaiters, hw, hc, hp, and_self, if_true]
theorem releaseOne_leaves {s : State} {ctx key k : Nat} (h : ∀ w, ¬ PastWait s ctx key k w) : releaseOne s ctx key k = s := by
  simp only [releaseOne, releaseWaiters]
  split
  · rename_i j w hw
    refine if_neg fun ⟨hc, hj, hp⟩ => ?_
    subst hj
    exact h w ⟨hw, hc, hp⟩
  · rfl

/-- The three things that the release can do with a strand. -/
theorem releaseOne_cases (s : State) (ctx key k : Nat) :
    (∃ w, PastWait s ctx key k w ∧ barHeld s k (barScope key) = [] ∧ releaseOne s ctx key k = endWaitb (dropHeld s k) k key w)
    ∨ (barHeld s k (barScope key) ≠ [] ∧ releaseOne s ctx key k = noteHeld s k (barHeld s k (barScope key)))
    ∨ ((∀ w, ¬ PastWait s ctx key k w) ∧ releaseOne s ctx key k = s) := by
  by_cases h : ∃ w, PastWait s ctx key k w
  · obtain ⟨w, hw⟩ := h
    by_cases hd : barHeld s k (barScope key) = []
    · exact .inl ⟨w, hw, hd, releaseOne_ends hw hd⟩
    · exact .inr (.inl ⟨hd, releaseOne_holds hw hd⟩)
  · exact .inr (.inr ⟨not_exists.mp h, releaseOne_leaves (not_exists.mp h)⟩)

theorem releaseOne_spec (s : State) (ctx key k : Nat) : releaseOne s ctx key k =
    { s with strands := (releaseOne s ctx key k).strands, crossing := (releaseOne s ctx key k).crossing } := by
  rcases releaseOne_cases s ctx key k with ⟨w, -, -, h⟩ | ⟨-, h⟩ | ⟨-, h⟩
  · rw [h]
    rfl
  · rw [h, noteHeld_spec]
  · rw [h]
theorem releaseOne_other (s : State) (ctx key : Nat) {j k : Nat} (hk : k ≠ j) : (releaseOne s ctx key j).strand k = s.strand k := by
  rcases releaseOne_cases s ctx key j with ⟨w, -, -, h⟩ | ⟨-, h⟩ | ⟨-, h⟩
  · rw [h, endWaitb_eq, State.strand_setStrand_other _ _ _ _ hk, dropHeld_strand]
  · rw [h, noteHeld_spec]
    rfl
  · rw [h]

/-! ## What the release leaves, and what it ends -/

/-- A strand that the release does not end: it waits on no past phase, or its deck relocks and the barrier lies outside. -/
def StaysWaiting (s : State) (ctx key k : Nat) : Prop :=
  (∀ w, ¬ PastWait s ctx key k w) ∨ (4 ≤ barScope key ∧ (s.deck (deckOfStrand s k)).relock = true)

theorem barHeld_of_relock {s : State} {scope k : Nat} (h4 : 4 ≤ scope) (hr : (s.deck (deckOfStrand s k)).relock = true) :
    barHeld s k scope ≠ [] := by
  rw [barHeld, if_pos h4]
  exact heldAt_ne_nil (List.mem_singleton.mpr rfl) hr
/-- Nothing from outside its deck is held for a strand. -/
def EndOpen (s : State) (key k : Nat) : Prop := barScope key < 4 ∨ DeckOpen s (deckOfStrand s k)

theorem barHeld_of_open {s : State} {key k : Nat} (h : EndOpen s key k) : barHeld s k (barScope key) = [] := by
  rw [barHeld]
  split
  · rcases h with h | h
    · omega
    · exact heldAt_eq_nil fun d hd => by rw [List.mem_singleton.mp hd]; exact h
  · rfl

theorem releaseOne_stays {s : State} {ctx key k : Nat} (h : StaysWaiting s ctx key k) (j : Nat) :
    (releaseOne s ctx key j).strand k = s.strand k := by
  by_cases hj : k = j
  · subst hj
    rcases releaseOne_cases s ctx key k with ⟨w, hw, hd, -⟩ | ⟨-, hx⟩ | ⟨-, hx⟩
    · rcases h with h | ⟨h4, hr⟩
      · exact absurd hw (h w)
      · exact absurd hd (barHeld_of_relock h4 hr)
    · rw [hx, noteHeld_spec]
      rfl
    · rw [hx]
  · exact releaseOne_other s ctx key hj

/-- Whether a strand waits, and on which deck, rests on nothing that a release changes elsewhere. -/
theorem StaysWaiting.congr {s t : State} {ctx key k : Nat} (ht : t = { s with strands := t.strands, crossing := t.crossing })
    (hk : t.strand k = s.strand k) (h : StaysWaiting s ctx key k) : StaysWaiting t ctx key k := by
  have hbar : t.bar = s.bar := by rw [ht]; rfl
  have hdeck : (t.deck (deckOfStrand t k)).relock = (s.deck (deckOfStrand s k)).relock := by rw [ht]; rfl
  refine h.imp (fun h w hw => h w ?_) fun h => ⟨h.1, by rw [hdeck]; exact h.2⟩
  rwa [PastWait, hk, hbar] at hw

theorem releaseWaiters_stays (l : List Nat) {ctx key k : Nat} : ∀ s, StaysWaiting s ctx key k →
    (releaseWaiters s ctx key l).strand k = s.strand k := by
  induction l with
  | nil => exact fun _ _ => rfl
  | cons j r ih =>
    intro s h
    have hj := releaseOne_stays h j
    rw [releaseWaiters_cons, ih _ (h.congr (releaseOne_spec s ctx key j) hj), hj]

theorem EndOpen.releaseOne {s : State} {key k : Nat} (h : EndOpen s key k) (ctx j : Nat) : EndOpen (releaseOne s ctx key j) key k := by
  refine h.imp id fun h => ?_
  have hphys : deckOfStrand (Proofs.releaseOne s ctx key j) k = deckOfStrand s k := by rw [releaseOne_spec]; rfl
  rw [hphys]
  rcases releaseOne_cases s ctx key j with ⟨w, -, -, hx⟩ | ⟨hd, hx⟩ | ⟨-, hx⟩
  · rw [hx]
    exact h.dropHeld j
  · rw [hx, barHeld]
    split
    · exact h.noteHeld j _
    · exact h
  · rw [hx]
    exact h

theorem releaseWaiters_ends (l : List Nat) {ctx key k : Nat} {w : Half} (hm : k ∈ l) : ∀ s, PastWait s ctx key k w → EndOpen s key k →
    (releaseWaiters s ctx key l).strand k = endedWait key w (s.strand k) := by
  induction l with
  | nil => simp at hm
  | cons j r ih =>
    intro s hw ho
    rw [releaseWaiters_cons]
    by_cases hj : k = j
    · subst hj
      have hx : (releaseOne s ctx key k).strand k = endedWait key w (s.strand k) := by
        rw [releaseOne_ends hw (barHeld_of_open ho), endWaitb_eq, State.strand_setStrand, dropHeld_strand]
      rw [releaseWaiters_stays r _ (.inl fun v hv => ?_), hx]
      have hnone := hv.1
      rw [hx, endedWait_spec] at hnone
      cases hnone
    · have hk := releaseOne_other s ctx key hj
      have hbar : (releaseOne s ctx key j).bar = s.bar := by rw [releaseOne_spec]; rfl
      rw [ih ((List.mem_cons.mp hm).resolve_left hj) _ (by rwa [PastWait, hk, hbar]) (ho.releaseOne ctx j), hk]

theorem releaseWaiters_spec (ctx key : Nat) (l : List Nat) : ∀ s, releaseWaiters s ctx key l =
    { s with strands := (releaseWaiters s ctx key l).strands, crossing := (releaseWaiters s ctx key l).crossing } := by
  induction l with
  | nil => exact fun _ => rfl
  | cons k r ih =>
    intro s
    rw [releaseWaiters_cons, ih, releaseOne_spec]

/-! ## The completion of a phase (R166) -/

/-- A strand that waits is one of the table of strands. -/
theorem mem_strands_of_wait {s : State} {k : Nat} (h : (s.strand k).wait ≠ .none) : k ∈ s.strands.map (fun e => e.1) := by
  cases hl : Tbl.look s.strands k with
  | none => exact absurd (by rw [State.strand, Tbl.get, hl]; rfl) h
  | some t => exact List.mem_map.mpr ⟨(k, t), mem_of_look hl, rfl⟩

/-- A full phase of a barrier. -/
abbrev PhaseFull (b : Barrier) : Prop := b.n ≠ 0 ∧ b.n.toNat ≤ b.cur.length
/-- A state in which a barrier whose phase is full has moved on. -/
def advanced (s : State) (ctx key : Nat) : State :=
  if PhaseFull (s.bar ctx key) then
    s.setBar ctx key { s.bar ctx key with p := (s.bar ctx key).p + 1, cur := (s.bar ctx key).nxt, nxt := [] }
  else s

theorem exec_barrierPhaseComplete (s : State) (ctx key : Nat) : exec (.barrierPhaseComplete ctx key) s =
    .next (releaseWaiters (advanced s ctx key) ctx key ((advanced s ctx key).strands.map (fun e => e.1))) := rfl

theorem advanced_spec (s : State) (ctx key : Nat) : advanced s ctx key = { s with ctxs := (advanced s ctx key).ctxs } := by
  unfold advanced
  split
  · exact setBar_spec ..
  · rfl
theorem advanced_bar (s : State) (ctx key : Nat) : (advanced s ctx key).bar ctx key = if PhaseFull (s.bar ctx key) then
    { s.bar ctx key with p := (s.bar ctx key).p + 1, cur := (s.bar ctx key).nxt, nxt := [] } else s.bar ctx key := by
  unfold advanced
  split
  · obtain ⟨c, hc⟩ := ctx_of_bar_count (And.left ‹_›)
    exact bar_setBar_same hc key _
  · rfl
theorem advanced_bar_p (s : State) (ctx key : Nat) : ((advanced s ctx key).bar ctx key).p =
    if PhaseFull (s.bar ctx key) then (s.bar ctx key).p + 1 else (s.bar ctx key).p := by
  rw [advanced_bar]
  split <;> rfl

theorem advanced_deckOfStrand (s : State) (ctx key : Nat) : deckOfStrand (advanced s ctx key) = deckOfStrand s := by
  have hphys : (advanced s ctx key).phys = s.phys := by
    unfold advanced
    split
    · exact phys_of_sameTables (setBar_sameTables s ctx key _)
    · rfl
  funext k
  rw [deckOfStrand, hphys, deckOfStrand]

theorem phasesComplete : PhasesComplete := by
  intro s ctx key
  have hstrand : (advanced s ctx key).strand = s.strand := by rw [advanced_spec]; rfl
  have hdeck : (advanced s ctx key).deck = s.deck := by rw [advanced_spec]; rfl
  have hcross : (advanced s ctx key).crossing = s.crossing := by rw [advanced_spec]
  have hon := advanced_deckOfStrand s ctx key
  have hbar := advanced_bar s ctx key
  have hp := advanced_bar_p s ctx key
  have hspec := advanced_spec s ctx key
  rw [exec_barrierPhaseComplete]
  generalize advanced s ctx key = u at *
  have hr := releaseWaiters_spec ctx key (u.strands.map (fun e => e.1)) u
  refine ⟨_, rfl, ?_, fun k w hw hc h1 h2 => ⟨fun hopen => ?_, fun h4 hrl => ?_⟩, fun k hk => ?_, ?_⟩
  · rw [hr]
    exact hbar.trans (ite_congr rfl (fun hf => by rw [if_pos hf]) fun _ => rfl)
  · have hpast : PastWait u ctx key k w := ⟨by rw [hstrand, hw], hc, passed_iff.mpr (hp ▸ ⟨h1, h2⟩)⟩
    have ho : EndOpen u key k := hopen.imp id fun h => by rw [DeckOpen, hon, hdeck, hcross]; exact h
    have hm : k ∈ u.strands.map (fun e => e.1) := mem_strands_of_wait (by rw [hpast.1]; exact Wait.noConfusion)
    rw [releaseWaiters_ends _ hm u hpast ho, endedWait_spec, hstrand]
    exact ⟨rfl, rfl, rfl⟩
  · rw [releaseWaiters_stays _ u (.inr ⟨h4, by rw [hdeck, hon]; exact hrl⟩), hstrand]
  · rw [releaseWaiters_stays _ u (.inl fun w hpast => ?_), hstrand]
    obtain ⟨hw, hc, hpassed⟩ := hpast
    obtain ⟨h1, h2⟩ := passed_iff.mp hpassed
    rw [hp] at h1 h2
    exact (hk w (by rw [← hstrand, hw]) hc).elim (Nat.one_le_iff_ne_zero.mp h1) (Nat.not_lt.mpr h2)
  · rw [hr, hspec]

/-- Settles O19: WAITB, and the release of those that wait by the completion of a phase. -/
theorem barriersRelease : Obligations.BarriersRelease := ⟨waitbCompletes, phasesComplete⟩

end Sys2Proof.Proofs
end

section
/-!
PROOFS. Traps: their entry, the return from them, and the group fault of a strand that cannot take one (R174, R175, R388 to R391).
-/

namespace Sys2Proof.Proofs
open Sys2Proof Sys2Proof.Machine Sys2Proof.Claim

/-! ## Entry and return (R174, R175, R388 to R390) -/

/-- What a cause does that an instruction raises at a strand with a handler, outside it. -/
theorem enters_of_trap {i : Instr} {s : State} {c : Byte} {v : Word} (ha : s.cur.tActive = false) (hv : s.cur.tvec ≠ 0)
    (h : exec i s = trap s c v) : ∃ t, exec i s = .next t ∧ OnlyStrand s t
      ∧ t.cur = { s.cur with tActive := true, tCode := c, tpc := s.pc, tval := v, pc := s.cur.tvec, wait := .none } :=
  ⟨s.setCur _, h.trans (congrArg Host.Outcome.next (trapAt_handler ha hv)), onlyStrand_setCur s _, State.setCur_cur ..⟩

theorem trapEntryAndReturn : TrapEntryAndReturn := by
  intro s n a b c v
  refine ⟨fun ha hv => ?_, ⟨_, rfl, onlyStrand_setCur s _, State.setCur_cur ..⟩⟩
  have enters {i : Instr} {c : Byte} {v : Word} := enters_of_trap (i := i) (c := c) (v := v) ha hv
  have hn : BitVec.ofNat 64 n.toNat = n.setWidth 64 := BitVec.ofNat_toNat ..
  exact ⟨enters (by rw [hn]; rfl), enters (by rw [hn]; rfl), enters rfl, enters rfl, enters rfl, enters rfl⟩

/-! ## The dump of a group fault changes no launch (R398) -/

theorem feWrite_launches {s t : State} {who : Who} {va n v : Nat} (h : feWrite s who va n v = .ok t) : t.launches = s.launches :=
  packet_launches (feWrite_packet h)

theorem tryWrite_launches (s : State) (pa n v : Nat) : (tryWrite s pa n v).launches = s.launches := by
  unfold tryWrite
  split
  · exact feWrite_launches ‹_›
  · rfl
theorem dumpRecords_launches (base size : Nat) (l : List (Nat × Nat)) : ∀ (s : State) (off : Nat),
    (dumpRecords s base size off l).1.launches = s.launches := by
  induction l with
  | nil => exact fun _ _ => rfl
  | cons e r ih =>
    intro s off
    rw [dumpRecords]
    split
    · rfl
    · split
      · rfl
      · exact (ih _ _).trans (feWrite_launches ‹_›)

theorem writeDump_launches (s : State) (la : Launch) (l st : Nat) (f : FaultInfo) : (writeDump s la l st f).1.launches = s.launches := by
  unfold writeDump
  split
  · rfl
  dsimp only
  split
  · rfl
  split
  · rfl
  split
  · rfl
  split
  · split
    · rfl
    · dsimp only
      split
      · exact feWrite_launches ‹_›
      · rfl
  split
  · rfl
  split
  · rfl
  · rfl
  rename_i s1 h1 _ _ s2 _ h2 _
  have hrecords : ∀ {pa n base size off : Nat} {recs : List (Nat × Nat)} {r : State × Option Nat},
      dumpRecords (tryWrite s2 pa n 0) base size off recs = r → r.1.launches = s.launches := fun h => by
    rw [← h, dumpRecords_launches, tryWrite_launches, feWrite_launches h2, feWrite_launches h1]
  split
  · rename_i s3 h3
    split
    · exact (feWrite_launches ‹_›).trans (hrecords h3)
    · exact hrecords h3
  · rename_i s3 off h3
    have h3' : s3.launches = s.launches := hrecords (r := (s3, some off)) h3
    split
    · exact h3'
    · rename_i s4 h4
      have h4' : s4.launches = s.launches := (feWrite_launches h4).trans h3'
      dsimp only
      split
      · exact (feWrite_launches ‹_›).trans h4'
      · exact h4'

/-! ## The launch of a group fault (R391) -/

theorem mapStrands_spec (f : Strand → Strand) (l : List Nat) : ∀ s, mapStrands s f l = { s with strands := (mapStrands s f l).strands } := by
  induction l with
  | nil => exact fun _ => rfl
  | cons k r ih =>
    intro s
    rw [mapStrands, ih]
    rfl

/-- Stages ended in turn. -/
def endedSts (sts : List StageSt) (js : List Nat) : List StageSt := js.foldl (fun x j => x.set j .ended) sts

theorem endedSts_keeps {j : Nat} (js : List Nat) : ∀ sts : List StageSt, sts[j]? = some .ended → (endedSts sts js)[j]? = some .ended := by
  induction js with
  | nil => exact fun _ h => h
  | cons i r ih =>
    refine fun sts h => ih _ ?_
    rw [List.getElem?_set]
    split
    · subst i
      obtain ⟨hj, -⟩ := List.getElem?_eq_some_iff.mp h
      rw [if_pos hj]
    · exact h
theorem endedSts_mem {j : Nat} {js : List Nat} (hj : j ∈ js) : ∀ {sts : List StageSt}, j < sts.length → (endedSts sts js)[j]? = some .ended := by
  induction js with
  | nil => simp at hj
  | cons i r ih =>
    intro sts hlt
    by_cases h : j = i
    · subst h
      exact endedSts_keeps r _ (List.getElem?_set_self hlt)
    · exact ih ((List.mem_cons.mp hj).resolve_left h) (by rwa [List.length_set])

theorem endStages_launch {l : Nat} (js : List Nat) : ∀ {s : State} {la : Launch}, s.launch l = some la →
    (endStages s l js).launch l = some { la with sts := endedSts la.sts js } := by
  induction js with
  | nil => exact fun h => h
  | cons st r ih =>
    intro s la h
    have hidle : (endIdle s l st).launch l = some la := by rw [endIdle_spec]; exact h
    have hstop : (stopGroup (endIdle s l st) l st).launch l = some la := by
      rw [State.launch, stopGroup_launches]
      exact hidle
    exact ih (setStageSt_launch hstop st .ended)

theorem flushStages_launches (s : State) (l : Nat) : (flushStages s l).launches = s.launches := by
  unfold flushStages
  refine foldl_keeps State.launches _ ?_ _ s
  exact fun _ _ => rfl

theorem endLaunch_launch {s : State} {l : Nat} {la : Launch} (hl : s.launch l = some la) (status w3 : Nat) :
    (endLaunch s l status w3).launch l = some { la with ended := true } := by
  rw [endLaunch, hl]
  dsimp only
  rw [State.launch, packet_launches (completePacket_packet ..)]
  dsimp only
  rw [mapCores_spec]
  exact Tbl.look_put_same ..

theorem edgeCores_spec (s : State) (la : Launch) (cores : List Nat) : edgeCores s la cores = { s with rounds := (edgeCores s la cores).rounds } := by
  unfold edgeCores
  split
  · dsimp only
    split <;> rfl
  · rfl

/-- How a launch stands that a group fault with a cause has ended. -/
def LaunchFaulted (l : Nat) (la : Launch) (c : Byte) (t : State) : Prop :=
  ∃ la1, t.launch l = some la1 ∧ la1.fault = some c ∧ (∀ j, j < la.stages.length → j < la.sts.length → la1.sts[j]? = some .ended)
    ∧ (∀ a ∈ t.asyncs, a.kind ≠ .launch l) ∧ ∀ k ∈ t.links, k.launch ≠ l

/-- A launch as its first group fault has ended its stages, before its packet completes (R391). -/
def stoppedBy (s : State) (l st : Nat) (la : Launch) (f : FaultInfo) : State :=
  let d := writeDump s la l st f
  let s1 := countLeft (d.1.setLaunch l { la with fault := some f.cause, dump := d.2 }) l (fun x => x = .complete)
  flushStages (endStages (mapStrands s1 loseCall (s1.strandsOf l st)) l (List.range la.stages.length)) l

theorem stoppedBy_launch (s : State) (l st : Nat) (la : Launch) (f : FaultInfo) : ∃ la1, (stoppedBy s l st la f).launch l = some la1
    ∧ la1.fault = some f.cause ∧ la1.sts = endedSts la.sts (List.range la.stages.length) := by
  have hd : ((writeDump s la l st f).1.setLaunch l { la with fault := some f.cause, dump := (writeDump s la l st f).2 }).launch l =
    some { la with fault := some f.cause, dump := (writeDump s la l st f).2 } := Tbl.look_put_same ..
  obtain ⟨n, hn⟩ := countLeft_spec hd (fun x => x = .complete)
  rw [stoppedBy, State.launch, flushStages_launches, hn]
  refine ⟨_, endStages_launch _ (la := { la with fault := some f.cause, dump := (writeDump s la l st f).2, unconsumed := n }) ?_, rfl, rfl⟩
  rw [mapStrands_spec]
  exact Tbl.look_put_same ..

/-- The first group fault of a launch (R391). -/
theorem groupFault_first {s : State} {l : Nat} {la : Launch} (st : Nat) (f : FaultInfo) (hl : s.launch l = some la)
    (hf : la.fault = none) (he : la.ended = false) : LaunchFaulted l la f.cause (groupFault s l st f) := by
  have hx : groupFault s l st f = edgeCores (endLaunch (stoppedBy s l st la f) l Status.groupFault f.cause.toNat) la
      ((List.range la.stages.length).flatMap (fun i => s.coresOf l i)) := by
    rw [groupFault, hl]
    dsimp only
    rw [if_neg (by rw [hf]; decide), if_neg (by rw [he]; decide)]
    rfl
  obtain ⟨la1, h1, hfault, hsts⟩ := stoppedBy_launch s l st la f
  obtain ⟨-, -, hasyncs, hlinks, -⟩ := endLaunch_over h1 Status.groupFault f.cause.toNat
  have hlaunch := endLaunch_launch h1 Status.groupFault f.cause.toNat
  rw [hx, edgeCores_spec]
  refine ⟨_, hlaunch, hfault, fun j hj hlt => ?_, hasyncs, hlinks⟩
  rw [hsts]
  exact endedSts_mem (List.mem_range.mpr hj) hlt

/-- Every later fault of a strand, and every fault once the packet has completed, changes nothing (R391). -/
theorem groupFault_later {s : State} {l : Nat} {la : Launch} (st : Nat) {f : FaultInfo} (hl : s.launch l = some la)
    (h : la.fault ≠ none ∨ la.ended = true) (hc : f.cause ≠ Cause.cpyFault) : groupFault s l st f = s := by
  rw [groupFault, hl]
  dsimp only
  by_cases hf : la.fault.isSome = true
  · rw [if_pos hf, if_neg hc]
  · rw [if_neg hf, if_pos (h.resolve_left (by simpa using hf))]

theorem strandGroupFault_of_group {s : State} {k l st : Nat} (h : s.groupOf k = some (l, st)) (f : FaultInfo) :
    strandGroupFault s k f = groupFault s l st f := by
  rw [strandGroupFault, h]

theorem trapsWithoutHandlerEndTheLaunch : TrapsWithoutHandlerEndTheLaunch := by
  intro s l st la n hg hl
  have hdouble (ha : s.cur.tActive = true) : exec (.trap n) s = .next (groupFault s l st
      (strandFault s s.fs Cause.doubleTrap Cause.trapInstr.toNat (n.setWidth 64))) :=
    congrArg _ ((trapAt_double ha).trans (strandGroupFault_of_group hg _))
  have hplain (ha : s.cur.tActive = false) (hv : s.cur.tvec = 0) : exec (.trap n) s = .next (groupFault s l st
      (strandFault s s.fs Cause.trapInstr 0xFFFF (n.setWidth 64))) :=
    congrArg _ ((trapAt_no_handler ha hv).trans (strandGroupFault_of_group hg _))
  refine ⟨fun hf he ha => ?_, fun hf he ha hv => ?_, fun h hno => ?_⟩
  · obtain ⟨la1, h1⟩ := groupFault_first st (strandFault s s.fs Cause.doubleTrap Cause.trapInstr.toNat (n.setWidth 64)) hl hf he
    exact ⟨_, la1, hdouble ha, h1⟩
  · obtain ⟨la1, h1⟩ := groupFault_first st (strandFault s s.fs Cause.trapInstr 0xFFFF (n.setWidth 64)) hl hf he
    exact ⟨_, la1, hplain ha hv, h1⟩
  · by_cases ha : s.cur.tActive = true
    · rw [hdouble ha, groupFault_later st hl h (show Cause.doubleTrap ≠ Cause.cpyFault by decide)]
    · rw [hplain (by simpa using ha) (hno.resolve_left ha), groupFault_later st hl h (show Cause.trapInstr ≠ Cause.cpyFault by decide)]

/-- Settles O21: traps that enter a handler and the return from it, and those that end their launch. -/
theorem trapEffects : Obligations.TrapEffects := ⟨trapEntryAndReturn, trapsWithoutHandlerEndTheLaunch⟩

end Sys2Proof.Proofs
end

section
/-!
PROOFS. The integer MMA under plus-times: what the words of an accumulator are after it, and that they are a product of tiles mod 2^32
(R194, R244, R245).
-/

namespace Sys2Proof.Proofs
open Sys2Proof Sys2Proof.Machine Sys2Proof.Claim

/-! ## Packed elements -/

theorem elemOf_packElems (w : Nat) (l : List Nat) : ∀ (j : Nat) (h : j < l.length), elemOf w (packElems w l) j = l[j] % 2 ^ w := by
  induction l with
  | nil => exact fun _ h => absurd h (Nat.not_lt_zero _)
  | cons e r ih =>
    intro j h
    have hpos : 0 < 2 ^ w := Nat.two_pow_pos w
    cases j with
    | zero => simp [elemOf, packElems]
    | succ j =>
      have hdiv : (e % 2 ^ w + 2 ^ w * packElems w r) / 2 ^ w = packElems w r := by
        rw [Nat.add_mul_div_left _ _ hpos, Nat.div_eq_of_lt (Nat.mod_lt _ hpos), Nat.zero_add]
      rw [elemOf, packElems, Nat.mul_succ, Nat.add_comm (w * j), Nat.pow_add, ← Nat.div_div_eq_div_mul, hdiv]
      exact ih j (Nat.lt_of_succ_lt_succ h)

theorem packElems_lt (w : Nat) (l : List Nat) : packElems w l < 2 ^ (w * l.length) := by
  induction l with
  | nil => exact Nat.two_pow_pos _
  | cons e r ih =>
    have he : e % 2 ^ w < 2 ^ w := Nat.mod_lt _ (Nat.two_pow_pos w)
    calc packElems w (e :: r) < 2 ^ w * (packElems w r + 1) := by rw [packElems, Nat.mul_succ]; omega
      _ ≤ 2 ^ w * 2 ^ (w * r.length) := Nat.mul_le_mul_left _ ih
      _ = 2 ^ (w * (e :: r).length) := by rw [← Nat.pow_add, List.length_cons, Nat.mul_succ, Nat.add_comm w]

theorem toNat_ofNat_packElems {n w : Nat} {l : List Nat} (h : n = w * l.length) : (BitVec.ofNat n (packElems w l)).toNat = packElems w l :=
  h ▸ Nat.mod_eq_of_lt (packElems_lt w l)

/-! ## Sums by groups of four (R194) -/

theorem groupsOf4_flatten {α : Type} (l : List α) : (groupsOf4 l).flatten = l := by
  induction l using groupsOf4.induct with
  | case1 a b c d r ih => simp [groupsOf4, ih]
  | case2 => rfl
  | case3 l h4 h0 => simp [groupsOf4]

theorem foldl_plus (l : List Int) : ∀ a, l.foldl (addSrInt 0) a = a + l.sum := by
  induction l with
  | nil => exact fun a => (Int.add_zero a).symm
  | cons b r ih => exact fun a => (ih (a + b)).trans (by rw [List.sum_cons, Int.add_assoc])

/-- An element that each group is added to, and that is cut to 32 bits after each, holds the low 32 bits of the whole sum. -/
theorem ofInt_foldl_groups {fold : List Int → Int} (hfold : ∀ g, fold g = g.sum) (gs : List (List Int)) : ∀ v,
    BitVec.ofInt 32 (gs.foldl (fun v g => (BitVec.ofInt 32 (addSrInt 0 v (fold g))).toInt) v) = BitVec.ofInt 32 (v + gs.flatten.sum) := by
  induction gs with
  | nil => exact fun v => congrArg _ (Int.add_zero v).symm
  | cons g r ih =>
    intro v
    have hg : addSrInt 0 v (fold g) = v + g.sum := by rw [hfold]; rfl
    rw [List.foldl_cons, ih, hg, List.flatten_cons, List.sum_append, ← Int.add_assoc, BitVec.ofInt_add, BitVec.ofInt_toInt,
      BitVec.ofInt_add (v + _)]

/-- The integer accumulator element under plus: the grouping leaves no trace. -/
theorem mmaInt_plus (ps : List Int) (acc : Nat) : (mmaInt 0 ps acc : Int) = (acc + ps.sum) % 2 ^ 32 := by
  rw [mmaInt, ofInt_foldl_groups (fun g => ?_), groupsOf4_flatten, BitVec.ofInt_add, BitVec.ofInt_toInt, ← BitVec.ofInt_natCast,
    ← BitVec.ofInt_add, BitVec.toNat_ofInt]
  · exact Int.toNat_of_nonneg (Int.emod_nonneg _ (by decide))
  · cases g with
    | nil => rfl
    | cons a r => exact foldl_plus r a

/-! ## The accumulator of an MMA -/

/-- The words of an accumulator whose elements are a table. -/
theorem accRows_word (g : Nat → Nat → FRes) (i j : Fin 32) :
    ((Vector.ofFn (fun (i : Fin 32) => BitVec.ofNat 1024 (packElems 32 ((((List.range 32).map (fun i => (List.range 32).map (g i))).getD
      i.val []).map (fun (x : FRes) => x.bits)))))[i]).toNat / 2 ^ (32 * j.val) % 2 ^ 32 = (g i j).bits % 2 ^ 32 := by
  have hrow : ((List.range 32).map (fun i => (List.range 32).map (g i))).getD i.val [] = (List.range 32).map (g i) := by simp
  rw [Fin.getElem_fin, Vector.getElem_ofFn, hrow, toNat_ofNat_packElems (by simp)]
  exact (elemOf_packElems 32 _ j.val (by simp)).trans (by simp)

theorem flags_of_table {g : Nat → Nat → FRes} (hg : ∀ i j, (g i j).flags = 0) (is js : List Nat) :
    (is.map (fun i => js.map (g i))).foldl (fun (b : Byte) r => r.foldl (fun (b : Byte) x => b ||| x.flags) b) 0 = 0 := by
  have hrow (i : Nat) : (js.map (g i)).foldl (fun (b : Byte) x => b ||| x.flags) 0 = 0 := by
    rw [List.foldl_map]
    exact List.foldl_fixed' (fun j => by rw [hg]; rfl) js
  rw [List.foldl_map]
  exact List.foldl_fixed' hrow is

/-- What an integer MMA under plus-times starts an element from (R245). -/
def mmaStart (c : Core) (f : M64) (i j : Nat) : Nat :=
  if f.ow then 0 else elemOf 32 (Vector.nth (n := 31) (Vector.nth (n := 3) c.accs f.acc.toNat).rows i).toNat j

/-- The k elements of a row of a tile that an MMA reads, as integers (R244). -/
def mmaRow (c : Core) (o : MxOp) (t : BitVec 3) (sgn : Bool) (r q : Nat) : Int :=
  let cfg := Vector.nth (n := 7) o.tcfg t.toNat
  intElem (tcfgW cfg) sgn (elemOf (tcfgW cfg) (Vector.nth (n := 31) (Vector.nth (n := 7) c.tiles t.toNat) r).toNat (tcfgKoff cfg + q))

/-- The products that an integer MMA under plus-times adds to an element (R194). -/
def mmaProducts (c : Core) (o : MxOp) (f : M64) (i j : Nat) : List Int :=
  (List.range (f.ksteps.toNat + 1)).map (fun q => mmaRow c o f.tileA f.sgnA i q * mmaRow c o f.tileB f.sgnB j q)

/-- An element past the rows of either tile (R245). -/
def PastTiles (o : MxOp) (f : M64) (i j : Nat) : Prop :=
  tcfgRows (Vector.nth (n := 7) o.tcfg f.tileA.toNat) ≤ i ∨ tcfgRows (Vector.nth (n := 7) o.tcfg f.tileB.toNat) ≤ j

section Mma
variable (c : Core) (o : MxOp) {f : M64} (hint : mmaIsInt f = true)
include hint

theorem mmaRun_flags : (mmaRun c o f).2 = 0 := by
  refine flags_of_table (fun i j => ?_) _ _
  dsimp only
  rw [if_pos hint]
  split <;> rfl

theorem mmaRun_word_past (hsr : f.semiring = 0) {i j : Fin 32} (h : PastTiles o f i j) :
    ((mmaRun c o f).1.rows[i]).toNat / 2 ^ (32 * j.val) % 2 ^ 32 = mmaStart c f i j % 2 ^ 32 := by
  refine (accRows_word _ i j).trans ?_
  dsimp only
  rw [if_pos (by simpa [PastTiles] using h), hsr, hint]
  rfl

theorem mmaRun_word (hsr : f.semiring = 0) {i j : Fin 32} (h : ¬ PastTiles o f i j) :
    ((mmaRun c o f).1.rows[i]).toNat / 2 ^ (32 * j.val) % 2 ^ 32 = mmaInt 0 (mmaProducts c o f i j) (mmaStart c f i j) % 2 ^ 32 := by
  refine (accRows_word _ i j).trans ?_
  dsimp only
  rw [if_neg (by simpa [PastTiles] using h), if_pos hint, hsr, hint, List.zip_map', List.map_map]
  rfl

end Mma

/-- Settles O25: an element is its start, or its start and the sum of the products mod 2^32. -/
theorem integerMmaIsAProduct : Obligations.IntegerMmaIsAProduct := by
  intro c o f i j hint hsr ca cb row at_ old sum new
  have hold : old = mmaStart c f i j := by
    simp only [old, mmaStart, elemOf]
    split <;> rfl
  have hsum : sum = (mmaProducts c o f i j).sum := rfl
  refine ⟨?_, mmaRun_flags c o hint⟩
  by_cases h : PastTiles o f i j
  · have hnew : new = old := if_pos h
    rw [hnew, hold, mmaRun_word_past c o hint hsr h]
    rfl
  · have hnew : new = old + sum := if_neg h
    rw [hnew, hold, hsum, mmaRun_word c o hint hsr h, Int.natCast_mod, mmaInt_plus]
    exact Int.emod_emod_of_dvd _ (dvd_refl _)

end Sys2Proof.Proofs
end

section
/-!
PROOFS. Unshaped vector instructions without a channel: how they issue and what their one beat leaves (R68, R199, R213), and what the
integer operations and the bitwise operations of n0 leave in each lane of a main register (R197, R217, R218).
-/

namespace Sys2Proof.Proofs
open Sys2Proof Sys2Proof.Machine Sys2Proof.Claim

/-! ## Main registers by specifier (R62, R102) -/

theorem tierOf_main {b : Spec} (h : b.toNat < 0x80) : tierOf b = .vreg := if_pos h

theorem regRead_main (s : State) (k : Nat) {b : Spec} (h : b.toNat < 0x80) :
    regRead s k b = Tbl.get (s.core (coreOf k)).vf (physReg s k b.toNat) 0 := by
  simp [regRead, tierOf_main h, regIndex, h]

theorem regWrite_main (s : State) (k : Nat) {b : Spec} (h : b.toNat < 0x80) (v : V512) :
    regWrite s k b v = s.setCore (coreOf k)
      { s.core (coreOf k) with vf := Tbl.put (s.core (coreOf k)).vf (physReg s k b.toNat) v } := by
  simp [regWrite, tierOf_main h, regIndex, h]

/-- A main register reads the same in two states whose core has the same registers in the same mode. -/
theorem regRead_main_congr {s t : State} {k : Nat} {b : Spec} (h : b.toNat < 0x80)
    (hvf : (t.core (coreOf k)).vf = (s.core (coreOf k)).vf) (hmode : (t.core (coreOf k)).mode = (s.core (coreOf k)).mode) :
    regRead t k b = regRead s k b := by
  rw [regRead_main t k h, regRead_main s k h, physReg, physReg, hvf, hmode]

theorem regRead_setStrand_main (s : State) (k j : Nat) (t : Strand) {b : Spec} (h : b.toNat < 0x80) :
    regRead (s.setStrand j t) k b = regRead s k b :=
  regRead_main_congr h rfl rfl

theorem physReg_regWrite_main (s : State) (k : Nat) {d : Spec} (hd : d.toNat < 0x80) (v : V512) (i : Nat) :
    physReg (regWrite s k d v) k i = physReg s k i := by
  rw [regWrite_main s k hd, physReg, State.core_setCore]
  rfl

theorem vf_regWrite_main (s : State) (k : Nat) {d : Spec} (hd : d.toNat < 0x80) (v : V512) :
    ((regWrite s k d v).core (coreOf k)).vf = Tbl.put (s.core (coreOf k)).vf (physReg s k d.toNat) v := by
  rw [regWrite_main s k hd, State.core_setCore]

theorem regRead_regWrite_same (s : State) (k : Nat) {d : Spec} (hd : d.toNat < 0x80) (v : V512) :
    regRead (regWrite s k d v) k d = v := by
  rw [regRead_main _ k hd, physReg_regWrite_main s k hd, vf_regWrite_main s k hd, Tbl.get_put_same]

theorem regRead_regWrite_other (s : State) (k : Nat) {b d : Spec} (hb : b.toNat < 0x80) (hd : d.toNat < 0x80) (hne : b ≠ d) (v : V512) :
    regRead (regWrite s k d v) k b = regRead s k b := by
  have hphys : physReg s k b.toNat ≠ physReg s k d.toNat := fun h => hne (BitVec.eq_of_toNat_eq (Nat.add_left_cancel h))
  rw [regRead_main _ k hb, regRead_main s k hb, physReg_regWrite_main s k hd, vf_regWrite_main s k hd,
    Tbl.get_put_other _ _ _ _ _ hphys]

theorem regRead_tookBeat_main (s : State) (core slot k : Nat) {b : Spec} (h : b.toNat < 0x80) :
    regRead (tookBeat s core slot) k b = regRead s k b := by
  have hcore : ∀ j, (s.count core 2 1).core j = s.core j := fun j => by rw [count_spec]; rfl
  have hsame : ∀ j, ((tookBeat s core slot).core j).vf = (s.core j).vf ∧ ((tookBeat s core slot).core j).mode = (s.core j).mode := by
    intro j
    by_cases hj : j = core
    · subst hj
      simp [tookBeat, hcore]
    · simp [tookBeat, State.core_setCore_other _ _ _ _ hj, hcore]
  exact regRead_main_congr h (hsame _).1 (hsame _).2

/-! ## The issue of an unshaped instruction without a channel (R68, R213) -/

section Issue
variable {s : State} {v : VIns}

theorem vrun_shapes_unshaped (i : Instr) (h : v.shapedOps s.curCore = []) : (vrun s i v).shapes = [none, none, none, none] := by
  simp only [vrun, h]
  rfl

theorem vrun_beats_unshaped (i : Instr) (h : v.shapedOps s.curCore = []) : (vrun s i v).beats = 1 := by
  have hs := vrun_shapes_unshaped i h
  simp only [vrun] at hs ⊢
  rw [hs]
  rfl

theorem reads_unshaped {r : VecRun} (h : r.shapes = [none, none, none, none]) : r.reads v = [] := by
  rw [VecRun.reads, h]
  rfl

theorem padPoison_nil (s : State) (core : Nat) : padPoison s core [] = none := by simp [padPoison]

theorem vissue_unshaped {i : Instr} (he : v.endpoints = []) (hs : v.shapedOps s.curCore = []) (hf : vissueFaults s v 1 = none) :
    vissue s i v = pipeIssue (srIssued s v (vrun s i v)) (vrun s i v) v := by
  have hpoison := padPoison_nil s (coreOf s.fs)
  simp only [vissue, vrun_beats_unshaped i hs, hf, reads_unshaped (vrun_shapes_unshaped i hs), hpoison, he, hs, srIssued]
  rfl

theorem vexec_unshaped {i : Instr} (hi : vinsOf i = some v) (hok : Ok i s) (he : v.endpoints = []) (hs : v.shapedOps s.curCore = [])
    (hf : vissueFaults s v 1 = none) : vexec i s = pipeIssue (srIssued s v (vrun s i v)) (vrun s i v) v := by
  rw [vexec, checked_ok hok, hi]
  exact vissue_unshaped he hs hf

end Issue

/-- An issue draws from SRSTATE and changes nothing else (R189). -/
theorem srIssued_spec (s : State) (v : VIns) (r : VecRun) :
    srIssued s v r = s ∨ ∃ fpc, srIssued s v r = s.setCur { s.cur with fpc := fpc } := by
  unfold srIssued
  split
  · exact .inr ⟨_, rfl⟩
  · exact .inl rfl

@[simp] theorem srIssued_fs (s : State) (v : VIns) (r : VecRun) : (srIssued s v r).fs = s.fs := by
  obtain h | ⟨fpc, h⟩ := srIssued_spec s v r <;> rw [h]
  rfl

theorem srIssued_mask (s : State) (v : VIns) (r : VecRun) (i : Nat) : ((srIssued s v r).strand s.fs).mask i = s.cur.mask i := by
  obtain h | ⟨fpc, h⟩ := srIssued_spec s v r <;> rw [h]
  · rfl
  · rw [State.setCur, State.strand_setStrand]
    rfl

theorem regRead_srIssued_main (s : State) (v : VIns) (r : VecRun) (k : Nat) {b : Spec} (h : b.toNat < 0x80) :
    regRead (srIssued s v r) k b = regRead s k b := by
  obtain h' | ⟨fpc, h'⟩ := srIssued_spec s v r <;> rw [h']
  exact regRead_setStrand_main s k s.fs _ h

/-! ## The beat of an unshaped instruction without a channel (R199, R213) -/

/-- The result image of an unshaped beat: what it writes, over the old value of a register. -/
def laneImage (s : State) (k : Nat) (v : VIns) (o : BeatVal) : V512 :=
  .ofNat 512 (imageOf o (if tierOf v.f.d = .vreg || tierOf v.f.d = .qreg then (regRead s k v.f.d).toNat else 0))

/-- What an unshaped beat without channels that computes `o` leaves. -/
def laneDone (s : State) (k : Nat) (v : VIns) (o : BeatVal) : State :=
  let s1 := regWrite (setFlags s k o.flags) k v.f.d (laneImage s k v o)
  let s2 := if v.op = .vcmp then s1 else pushResult s1 k (laneImage s k v o)
  s2.setStrand k { s2.strand k with wait := .none, pc := (s2.strand k).pc + .ofNat 64 v.len }

theorem padSeen_nil (s : State) (core : Nat) (write : Bool) : padSeen s core write [] = s := by simp [padSeen]

theorem beatSpans_unshaped {v : VIns} {r : VecRun} (h : r.shapes = [none, none, none, none]) (n : Nat) {ps : List Nat}
    (hps : ∀ p ∈ ps, p < 4) : beatSpans v r n ps = [] := by
  refine List.flatMap_eq_nil_iff.2 (fun p hp => ?_)
  have hnone : r.shapes.getD p none = none := by
    have h4 := hps p hp
    rw [h]
    interval_cases p <;> rfl
  rw [hnone]

theorem shapesBlocked_unshaped {v : VIns} {r : VecRun} (h : r.shapes = [none, none, none, none]) (s : State) (k n : Nat) :
    shapesBlocked s k v r n = false := by
  simp [shapesBlocked, beatSpans_unshaped h]

/-- A shape is no register: a result for one goes to memory. -/
theorem regWrite_shape {s : State} {k : Nat} {b : Spec} (h : tierOf b = .shape) (v : V512) : regWrite s k b v = s := by
  simp [regWrite, h]

/-- The one beat of an instruction without shapes and channels runs, and computes what its registers give. -/
theorem vbeat_unshaped {s : State} {k : Nat} {r : VecRun} {v : VIns} (he : v.endpoints = []) (hs : r.shapes = [none, none, none, none])
    (ht : r.beat = 0) (hn : r.beats = 1) (hd : tierOf v.f.d ≠ .chan) :
    vbeat s k r v = .done (laneDone s k v (laneVal s k r v)) := by
  unfold vbeat
  extract_lets core t n eps srcs last now cnt inS mask val d xreg old b o image s0 s1 s2 s4
  have hsrcs : srcs = [] := by simp only [srcs, eps, he]; rfl
  have hlast : last := by simp only [last, ht, hn]
  have hnow : now = true := by simp [now, hlast, writesNow]
  have ho : o = laneVal s k r v := by
    simp only [o, inS, cnt, hs, ht, Nat.zero_mul, Nat.zero_add]
    rfl
  have hs1 : s1 = setFlags s k o.flags := by
    simp only [s1, s0, hsrcs, receiveAll, beatSpans_unshaped hs n (ps := [1, 2, 3]) (by decide),
      beatSpans_unshaped hs n (ps := [0]) (by decide), padSeen_nil]
  have hs2 : s2 = regWrite s1 k d (laneImage s k v o) := by
    have hshape : r.shapes.getD 0 none = none := by rw [hs]; rfl
    have himage : BitVec.ofNat 512 image = laneImage s k v o := rfl
    simp only [s2, hnow, hshape, himage, Bool.not_true, Bool.false_eq_true, if_false]
    split
    next htier => exact (regWrite_shape htier _).symm
    next htier => exact absurd htier hd
    next => rfl
  have hclosed : srcs.find? (recvClosed s core) = none := by rw [hsrcs]; rfl
  have hopen : (srcs.any (fun e => (receivable s core e).isEmpty) || (now && eps.any (fun e => e.2 && unitsLeft s core e.1 = 0))
      || shapesBlocked s k v r n) = false := by
    simp [hsrcs, eps, he, shapesBlocked_unshaped hs]
  simp only [hclosed, hopen, Bool.false_eq_true, if_false, if_pos hlast]
  show BeatOut.done (s4.setStrand k { s4.strand k with wait := .none, pc := (s4.strand k).pc + .ofNat 64 v.len }) = _
  have hs4 : s4 = if v.op = .vcmp then s2 else pushResult s2 k (laneImage s k v o) := rfl
  rw [hs4, hs2, hs1, ho]
  rfl

/-- The pipe runs at once the beat of the strand in focus, where it takes none before it (R68). -/
theorem pipeIssue_free {s t : State} {k : Nat} {r : VecRun} {v : VIns} (hk : s.fs = k) (hfree : pipeFree s)
    (hbeat : beatOf s k r v = .done t) : pipeIssue s r v = .next (tookBeat t (coreOf k) (slotOf k)) := by
  subst hk
  have hahead : pipeAhead s (coreOf s.fs) (slotOf s.fs) = false := hfree
  simp [pipeIssue, hahead, hbeat]

/-- A lane instruction without shapes and channels whose checks pass, and whose beat comes next, is done at its issue. -/
theorem vexec_unshaped_done {s u : State} {i : Instr} {v : VIns} (hi : vinsOf i = some v) (hok : Ok i s) (he : v.endpoints = [])
    (hs : v.shapedOps s.curCore = []) (hd : tierOf v.f.d ≠ .chan) (hf : vissueFaults s v 1 = none)
    (hbeat : ∀ k r, beatOf u k r v = vbeat u k r v) (hu : srIssued s v (vrun s i v) = u) (hfree : pipeFree u) :
    vexec i s = .next (tookBeat (laneDone u s.fs v (laneVal u s.fs (vrun s i v) v)) (coreOf s.fs) (slotOf s.fs)) := by
  have hfs : u.fs = s.fs := hu ▸ srIssued_fs s v _
  have hdone := vbeat_unshaped (s := u) (k := s.fs) he (vrun_shapes_unshaped i hs) rfl (vrun_beats_unshaped i hs) hd
  rw [vexec_unshaped hi hok he hs hf, hu]
  exact pipeIssue_free hfs hfree ((hbeat _ _).trans hdone)

/-! ## The registers after a beat -/

section Done
variable (s : State) (k : Nat) (v : VIns) (o : BeatVal)

/-- Flags, the last-result file and the strand's own progress are in no main register. -/
theorem regRead_laneDone {b : Spec} (hb : b.toNat < 0x80) :
    regRead (laneDone s k v o) k b = regRead (regWrite (setFlags s k o.flags) k v.f.d (laneImage s k v o)) k b := by
  refine (regRead_setStrand_main _ k k _ hb).trans ?_
  split
  · rfl
  · exact regRead_setStrand_main _ k k _ hb

theorem regRead_laneDone_same (hd : v.f.d.toNat < 0x80) : regRead (laneDone s k v o) k v.f.d = laneImage s k v o := by
  rw [regRead_laneDone s k v o hd, regRead_regWrite_same _ k hd]

theorem regRead_laneDone_other {b : Spec} (hd : v.f.d.toNat < 0x80) (hb : b.toNat < 0x80) (hne : b ≠ v.f.d) :
    regRead (laneDone s k v o) k b = regRead s k b := by
  rw [regRead_laneDone s k v o hb, regRead_regWrite_other _ k hb hd hne]
  exact regRead_setStrand_main s k k _ hb

end Done

/-! ## The elements of a result image -/

theorem laneMap_res {w n j : Nat} (act : Nat → Bool) (f : Nat → FRes) (hj : j < n) :
    (laneMap w n act f).res.getD j none = if act j then some (f j).bits else none := by
  by_cases h : act j <;> simp [laneMap, hj, h]

theorem elemOf_imageOf {o : BeatVal} {w j : Nat} (hw : o.w = w) (base : Nat) (hj : j < 512 / w) :
    elemOf w (imageOf o base) j = ((o.res.getD j none).getD (elemOf w base j)) % 2 ^ w := by
  subst hw
  rw [imageOf, elemOf_packElems _ _ j (by simpa using hj), List.getElem_map, List.getElem_range]
  cases o.res.getD j none <;> rfl

theorem laneImage_toNat {s : State} {k : Nat} {v : VIns} {o : BeatVal} (hw : o.w * (512 / o.w) = 512) (hd : v.f.d.toNat < 0x80) :
    (laneImage s k v o).toNat = imageOf o (regRead s k v.f.d).toNat := by
  rw [laneImage, tierOf_main hd]
  exact toNat_ofNat_packElems (by simpa using hw.symm)

/-- An active lane holds its result's bits, an inactive one what it held. -/
theorem elemOf_laneImage {s : State} {k w j : Nat} {v : VIns} {act : Nat → Bool} {f : Nat → FRes} (hw : w * (512 / w) = 512)
    (hd : v.f.d.toNat < 0x80) (hj : j < 512 / w) :
    elemOf w (laneImage s k v (laneMap w (512 / w) act f)).toNat j =
      if act j then (f j).bits % 2 ^ w else elemOf w (regRead s k v.f.d).toNat j := by
  rw [laneImage_toNat hw hd, elemOf_imageOf (w := w) rfl _ hj, laneMap_res act f hj]
  split
  · rfl
  · exact Nat.mod_mod _ _

/-! ## The integer lanes of n0 (R217, R218) -/

/-- The operations of n0 whose integer lanes are written out here. -/
inductive IntegerOp : VOp → Prop where
  | vadd : IntegerOp .vadd
  | vsub : IntegerOp .vsub
  | vmul : IntegerOp .vmul
  | vand : IntegerOp .vand
  | vor : IntegerOp .vor
  | vxor : IntegerOp .vxor
  | vandn : IntegerOp .vandn

/-- One lane of them on integer elements. -/
def integerLane (op : VOp) (w : Nat) (f : V64) (a b : Nat) : Nat :=
  match op with
  | .vand | .vor | .vxor | .vandn => bitOp op w a b
  | _ => intOp op w f a b 0

/-- An element read with a sign is the element mod 2^w. -/
theorem intElem_modEq (w : Nat) (sg : Bool) (n : Nat) : intElem w sg n ≡ n [ZMOD 2 ^ w] := by
  unfold intElem
  split
  · exact Int.ModEq.symm (Int.modEq_iff_dvd.2 ⟨-1, by ring⟩)
  · rfl

/-- A result that is not saturated keeps the low bits of the exact one (R183). -/
theorem intReduce_modEq {w : Nat} {sg : Bool} {x : Int} {n : Nat} (h : x ≡ n [ZMOD 2 ^ w]) :
    intReduce w sg false x % 2 ^ w = n % 2 ^ w := by
  have hx : x % 2 ^ w = ((n % 2 ^ w : Nat) : Int) := by rw [h]; push_cast; rfl
  simp only [intReduce, Bool.false_eq_true, if_false, hx, Int.toNat_natCast, Nat.mod_mod]

section Values
variable {w : Nat} {f : V64} (hsat : f.sat = false) (a b : Nat)
include hsat

theorem integerLane_vadd : integerLane .vadd w f a b % 2 ^ w = (a + b) % 2 ^ w := by
  have h := (intElem_modEq w f.sgnA a).add (intElem_modEq w f.sgnB b)
  simp only [integerLane, intOp, hsat]
  exact intReduce_modEq (by exact_mod_cast h)

theorem integerLane_vmul : integerLane .vmul w f a b % 2 ^ w = a * b % 2 ^ w := by
  have h := (intElem_modEq w f.sgnA a).mul (intElem_modEq w f.sgnB b)
  simp only [integerLane, intOp, hsat]
  exact intReduce_modEq (by exact_mod_cast h)

theorem integerLane_vsub (hb : b < 2 ^ w) : integerLane .vsub w f a b % 2 ^ w = (a + (2 ^ w - b)) % 2 ^ w := by
  have hneg : (a : Int) - b ≡ ((a + (2 ^ w - b) : Nat) : Int) [ZMOD 2 ^ w] := by
    rw [Nat.cast_add, Nat.cast_sub hb.le]
    exact Int.modEq_iff_dvd.2 ⟨1, by push_cast; ring⟩
  simp only [integerLane, intOp, hsat]
  exact intReduce_modEq (((intElem_modEq w f.sgnA a).sub (intElem_modEq w f.sgnB b)).trans hneg)

end Values

/-- The width of an integer element (R105). -/
def intWidth (f : V64) : Nat := [4, 8, 16, 32, 64].getD f.etype.toNat 8

section Lanes
variable {f : V64} {op : VOp} (hint : isInt f.etype.toNat = true)
include hint

theorem etype_le_four : f.etype.toNat ≤ 4 := by simpa [isInt] using hint

theorem ws_integer (fmtA : Word) : (VIns.of op f).ws fmtA = intWidth f := by
  have h4 := etype_le_four hint
  simp only [VIns.ws, VIns.etype, VIns.of, intWidth, widthOf]
  interval_cases f.etype.toNat <;> rfl

theorem intWidth_divides : intWidth f * (512 / intWidth f) = 512 := by
  have h4 := etype_le_four hint
  unfold intWidth
  interval_cases f.etype.toNat <;> rfl

/-- Integer lanes raise no flag, and neither the rounding mode nor a format plays a part in them. -/
theorem beatVal_integer {i : BeatIn} (hv : i.v = .of op f) (hop : IntegerOp op) :
    beatVal i = laneMap (intWidth f) i.n i.act
      (fun j => plain (integerLane op (intWidth f) f (elemOf (intWidth f) i.a j) (elemOf (intWidth f) i.b j))) := by
  have hw : i.v.ws i.run.fmtA = intWidth f := hv ▸ ws_integer hint i.run.fmtA
  have h9 : ¬ i.v.etype = 9 := by have h4 := etype_le_four hint; rw [hv]; simp only [VIns.etype, VIns.of]; omega
  have hmoved : ∀ n, i.moved n = plain n := fun n => by rw [BeatIn.moved, VIns.elem, if_neg h9]
  have he : isInt i.v.etype = true := hv ▸ hint
  have hopv : i.v.op = op := hv ▸ rfl
  have hfv : i.v.f = f := hv ▸ rfl
  cases hop <;>
    simp only [beatVal, beatN0, hopv, hw, hmoved, he, hfv, if_true] <;> rfl

end Lanes

section Main
variable {s : State} {f : V64} {op : VOp} (hop : IntegerOp op)
include hop

theorem positions_integer : (VIns.of op f).positions =
    [{ pos := 0, spec := f.d, ok := dstFull }, { pos := 1, spec := f.a, ok := srcFull }, { pos := 2, spec := f.b, ok := srcFull }] := by
  cases hop <;> rfl

theorem lanes_integer (hint : isInt f.etype.toNat = true) (fmtA fmtB : Word) : (VIns.of op f).lanes fmtA fmtB = 512 / intWidth f := by
  have hws := ws_integer (op := op) hint fmtA
  cases hop <;> exact congrArg (512 / ·) hws

theorem beatOf_integer (k : Nat) (r : VecRun) : beatOf s k r (.of op f) = vbeat s k r (.of op f) := by
  cases hop <;> rfl

variable (hd : f.d.toNat < 0x80) (ha : f.a.toNat < 0x80) (hb : f.b.toNat < 0x80)
include ha hb

/-- The lanes that an operation on main registers computes. -/
theorem laneVal_integer (hint : isInt f.etype.toNat = true) (k : Nat) (r : VecRun) :
    laneVal s k r (.of op f) = laneMap (intWidth f) (512 / intWidth f)
      (fun j => maskLane ((s.strand k).mask f.mask.toNat) (512 / intWidth f) j && decide (j < 512))
      (fun j => plain (integerLane op (intWidth f) f (elemOf (intWidth f) (regRead s k f.a).toNat j)
        (elemOf (intWidth f) (regRead s k f.b).toNat j))) := by
  have hsrc : ∀ pos {b : Spec}, b.toNat < 0x80 → ∀ n, srcValue s k (.of op f) r n pos b = (regRead s k b).toNat := fun pos b h n => by
    rw [srcValue, tierOf_main h]
  rw [← hsrc 1 ha (512 / intWidth f), ← hsrc 2 hb (512 / intWidth f), ← lanes_integer hop hint r.fmtA r.fmtB]
  exact beatVal_integer hint rfl hop

include hd

theorem endpoints_integer : (VIns.of op f).endpoints = [] := by
  simp [VIns.endpoints, positions_integer hop, tierOf_main, hd, ha, hb]

theorem shapedOps_integer (c : Core) : (VIns.of op f).shapedOps c = [] := by
  simp [VIns.shapedOps, positions_integer hop, tierOf_main, hd, ha, hb]

/-- An operation on main registers whose checks pass and whose beat comes next: the active lanes hold its value mod 2^w, every other
lane and every other main register what it held. -/
theorem vexec_integer_lanes {i : Instr} {g : Nat → Nat → Nat} (hint : isInt f.etype.toNat = true) (hi : vinsOf i = some (.of op f))
    (hok : Ok i s) (hf : vissueFaults s (.of op f) 1 = none) (hfree : pipeFree (srIssued s (.of op f) (vrun s i (.of op f))))
    (hg : ∀ a b, b < 2 ^ intWidth f → integerLane op (intWidth f) f a b % 2 ^ intWidth f = g a b % 2 ^ intWidth f) :
    ∃ t, vexec i s = .next t
      ∧ (∀ j, j < 512 / intWidth f → elemOf (intWidth f) (regRead t s.fs f.d).toNat j =
          if maskLane (s.cur.mask f.mask.toNat) (512 / intWidth f) j then
            g (elemOf (intWidth f) (regRead s s.fs f.a).toNat j) (elemOf (intWidth f) (regRead s s.fs f.b).toNat j) % 2 ^ intWidth f
          else elemOf (intWidth f) (regRead s s.fs f.d).toNat j)
      ∧ (∀ b : Spec, b.toNat < 0x80 → b ≠ f.d → regRead t s.fs b = regRead s s.fs b) := by
  have htier : tierOf f.d ≠ .chan := by rw [tierOf_main hd]; decide
  have hread : ∀ {b : Spec}, b.toNat < 0x80 → regRead (srIssued s (.of op f) (vrun s i (.of op f))) s.fs b = regRead s s.fs b :=
    fun h => regRead_srIssued_main s _ _ s.fs h
  have hmask := srIssued_mask s (.of op f) (vrun s i (.of op f)) f.mask.toNat
  have hexec := vexec_unshaped_done hi hok (endpoints_integer hop hd ha hb) (shapedOps_integer hop hd ha hb _) htier hf
    (fun k r => beatOf_integer hop k r) rfl hfree
  generalize srIssued s (.of op f) (vrun s i (.of op f)) = u at hread hmask hexec
  refine ⟨_, hexec, fun j hj => ?_, fun b hb' hne => ?_⟩
  · have hlt : ∀ x, elemOf (intWidth f) x j < 2 ^ intWidth f := fun x => Nat.mod_lt _ (Nat.two_pow_pos _)
    have hj512 : j < 512 := hj.trans_le (Nat.div_le_self _ _)
    have hdst : ∀ o, regRead (laneDone u s.fs (.of op f) o) s.fs f.d = laneImage u s.fs (.of op f) o := fun o =>
      regRead_laneDone_same u s.fs (.of op f) o hd
    rw [regRead_tookBeat_main _ _ _ _ hd, hdst, laneVal_integer hop ha hb hint, ← hread ha, ← hread hb, ← hread hd, ← hmask]
    refine (elemOf_laneImage (intWidth_divides hint) hd hj).trans ?_
    simp only [hj512, decide_true, Bool.and_true, plain, hg _ _ (hlt _)]
    rfl
  · rw [regRead_tookBeat_main _ _ _ _ hb']
    exact (regRead_laneDone_other _ _ (.of op f) _ hd hb' hne).trans (hread hb')

end Main

/-- Settles O27: each operation completes with its lanes, and the value of its lane is the wrapped or bitwise one mod 2^w. -/
theorem integerLanes : Obligations.IntegerLanes := by
  intro s f hint hsat hd ha hb w reg does
  have hdoes : ∀ {op i g}, IntegerOp op → vinsOf i = some (.of op f) → exec i s = vexec i s →
      (∀ a b, b < 2 ^ intWidth f → integerLane op (intWidth f) f a b % 2 ^ intWidth f = g a b % 2 ^ intWidth f) → does i g := by
    intro op i g hop hi hexec hg hok hf hfree
    rw [hi] at hf hfree
    rw [hexec]
    exact vexec_integer_lanes hop hd ha hb hint hi hok hf hfree hg
  refine ⟨?_, ?_, ?_, ?_, ?_, ?_, ?_⟩
  · exact hdoes .vadd rfl rfl (fun a b _ => integerLane_vadd hsat a b)
  · exact hdoes .vsub rfl rfl (fun a b hlt => integerLane_vsub hsat a b hlt)
  · exact hdoes .vmul rfl rfl (fun a b _ => integerLane_vmul hsat a b)
  · exact hdoes .vand rfl rfl (fun _ _ _ => rfl)
  · exact hdoes .vor rfl rfl (fun _ _ _ => rfl)
  · exact hdoes .vxor rfl rfl (fun _ _ _ => rfl)
  · exact hdoes .vandn rfl rfl (fun _ _ _ => rfl)

end Sys2Proof.Proofs
end

section
/-!
PROOFS. The matrix instructions at their issue: what becomes a pending operation, what traps, and what MSLOT writes (R236 to R250, R275).
-/

namespace Sys2Proof.Proofs
open Sys2Proof Sys2Proof.Machine Sys2Proof.Claim

/-! ## The checks of a transfer (R240, R263) -/

/-- The checks of an access, of however many sectors, change the race tags alone. -/
theorem checkPieces_tags {k : Nat} {m : AccMode} (l : List (Nat × Nat)) : ∀ {s s1 : State} {ps : List Piece},
    checkPieces s k m l = .ok (s1, ps) → ∃ tags, s1 = { s with tags := tags } := by
  induction l with
  | nil =>
    intro s s1 ps h
    cases h
    exact ⟨s.tags, rfl⟩
  | cons p r ih =>
    intro s s1 ps h
    rw [checkPieces] at h
    split at h
    · cases h
    next s2 q hp =>
      split at h
      · cases h
      next s3 qs hr =>
        cases h
        obtain ⟨tags, h2⟩ := (checkPiece_ok hp).tags
        obtain ⟨tags1, h1⟩ := ih hr
        exact ⟨tags1, by rw [h1, h2]⟩

/-- Where the sectors of row q of a transfer begin (R240). -/
theorem rowSectors_getD {cfg ea : Word} {q : Nat} (h : q < tcfgRows cfg) : (rowSectors cfg ea).getD q [] =
    sectorsOf (uv (ea + .ofNat 64 q * .ofInt 64 (tcfgStride cfg))) (tcfgRowBytes cfg) 5 := by
  simp [rowSectors, h, uv]

/-! ## An operation becomes pending (R237) -/

/-- What an operation captures is no part of what an access changes. -/
theorem mxOp_of_access {s t : State} (h : AccessOnly s t) : mxOp t = mxOp s := by
  rw [h]
  rfl

/-- The operation that an instruction puts into the engine, after whatever its access or its read of a shape record has changed. -/
theorem matrixIssued_of_mxIssue {s t : State} {i : Instr} {array : Bool} {xa : Word} {rows : List (List Nat)} {span : List (Nat × Nat)}
    {decks : List Nat} {shape : Option Shape} (ht : AccessOnly s t) (hmem : t.mem = s.mem)
    (h : exec i s = mxIssue t { mxOp s i array xa rows shape with span := span, decks := decks }) :
    MatrixIssued i s array xa rows span decks shape := by
  have hfs : t.fs = s.fs := by rw [ht]
  have hcur : t.cur = s.cur := by rw [ht]; rfl
  have hcore : t.curCore = s.curCore := by rw [ht]; rfl
  have hstrand : ∀ k, t.strand k = s.strand k := fun k => by rw [ht]; rfl
  refine ⟨_, { mxOp s i array xa rows shape with span := span, decks := decks }, h.trans (waitFor_spec _ _), ?_,
    rfl, rfl, rfl, rfl, rfl, rfl, rfl, rfl, rfl, rfl, rfl, rfl, rfl, rfl, rfl, rfl, rfl, rfl, ?_, hmem, fun k hk => ?_⟩
  · rw [← hcore]
    exact State.core_setCore ..
  · rw [← hcur]
    exact State.setCur_cur ..
  · exact (State.strand_setCur_other _ _ _ (hfs ▸ hk)).trans (hstrand k)

/-- An instruction without an access. -/
theorem matrixIssued_at_once {s : State} {i : Instr} {array : Bool} (h : exec i s = mxIssue s (mxOp s i array 0 [] none)) :
    MatrixIssued i s array 0 [] [] [] none :=
  matrixIssued_of_mxIssue (t := s) rfl rfl h

/-! ## TLD and TST (R236, R240) -/

section Transfer
variable {s : State} {i : Instr} {load : Bool} {t : BitVec 3} {a : XReg} {off : BitVec 11} {cfg ea : Word}
  (hexec : exec i s = transferIssue s i load t a off) (hcfg : Vector.nth (n := 7) s.curCore.tcfg t.toNat = cfg)
  (hea : s.readX a + low off.toInt = ea)
include hexec hcfg hea

/-- The order of the checks of a transfer. -/
theorem exec_transfer : exec i s = if !(tcfgValid cfg) then trap s Cause.tileConfig (t.setWidth 64)
    else if uv ea % 32 ≠ 0 || tcfgStride cfg % 32 ≠ 0 then trap s Cause.misaligned ea
    else match accessIssue s s.fs (if load then .load false else .put false) (rowSectors cfg ea).flatten (rowSectors cfg ea).flatten with
      | .fault c x => trap s c x
      | .wait ds => stall ds s
      | .ok s1 ps =>
        let s2 := countPieces s1 (coreOf s1.fs) (!load) ps
        mxIssue s2 { mxOp s2 i false 0 (cutEvery ((tcfgRowBytes cfg + 31) / 32) (tcfgRows cfg) (ps.map (fun p => p.hit.loc))) none
                     with span := (rowSectors cfg ea).flatten, decks := piecesDecks s (coreOf s.fs) ps } := by
  subst hcfg hea
  exact hexec

theorem transfer_invalid (hv : tcfgValid cfg = false) : Traps i s Cause.tileConfig (t.setWidth 64) := by
  rw [Traps, exec_transfer hexec hcfg hea, hv]
  rfl

theorem transfer_misaligned (hv : tcfgValid cfg = true) (hal : uv ea % 32 ≠ 0 ∨ tcfgStride cfg % 32 ≠ 0) :
    Traps i s Cause.misaligned ea := by
  rw [Traps, exec_transfer hexec hcfg hea, hv, Bool.not_true, if_neg Bool.false_ne_true, if_pos (by simpa using hal)]
  rfl

/-- A transfer whose description and alignment pass is decided by its access. -/
theorem transfer_access (hv : tcfgValid cfg = true) (hal : uv ea % 32 = 0) (hst : tcfgStride cfg % 32 = 0) {x : Access}
    (hx : accessIssue s s.fs (if load then .load false else .put false) (rowSectors cfg ea).flatten (rowSectors cfg ea).flatten = x) :
    match x with
    | .fault c v => Traps i s c v
    | .wait ds => Holds i s true ds
    | .ok _ ps => MatrixIssued i s false 0 (cutEvery ((tcfgRowBytes cfg + 31) / 32) (tcfgRows cfg) (ps.map (fun p => p.hit.loc)))
        (rowSectors cfg ea).flatten (piecesDecks s (coreOf s.fs) ps) none := by
  have hpass := exec_transfer hexec hcfg hea
  rw [hv, Bool.not_true, if_neg Bool.false_ne_true, if_neg (by simp [hal, hst]), hx] at hpass
  cases x with
  | fault c v => exact hpass
  | wait ds => exact hpass.trans (stall_spec ds s)
  | ok s1 ps =>
    obtain ⟨htags, hmem⟩ := accessOnly_of_tags (checkPieces_tags _ (accessIssue_ok hx))
    have hseen := htags.countPieces (coreOf s1.fs) (!load) ps
    refine matrixIssued_of_mxIssue hseen ((countPieces_mem ..).trans hmem) (hpass.trans ?_)
    dsimp only
    rw [mxOp_of_access hseen]

end Transfer

/-! ## MMA (R245) -/

theorem mma_faults {s : State} {f : M64} {c : Byte} {v : Word} (hok : Ok (.mma f) s) (hf : mmaFault s f = some (c, v)) :
    Traps (.mma f) s c v := by
  refine (checked_ok hok).trans ?_
  rw [hf]
  rfl

theorem mma_passes {s : State} {f : M64} (hok : Ok (.mma f) s) (hf : mmaFault s f = none) :
    exec (.mma f) s = mxIssue s (mxOp s (.mma f) true 0 [] none) := by
  refine (checked_ok hok).trans ?_
  rw [hf]

/-! ## The read of a shape record (R205, R265) -/

/-- The corrections of single-bit errors in a core's scratchpad change nothing else but the counters. -/
theorem padSeen_spec (s : State) (core : Nat) (write : Bool) (l : List (Nat × Nat)) :
    ∃ soft perf, padSeen s core write l = { s with soft := soft, perf := perf } := by
  have hfold : ∀ (l : List (Nat × Nat)) (t : State), ∃ soft perf,
      l.foldl (fun s p => correctAt s write (padLoc core p.1) p.2) t = { t with soft := soft, perf := perf } := by
    intro l
    induction l with
    | nil => exact fun t => ⟨t.soft, t.perf, rfl⟩
    | cons p r ih =>
      intro t
      obtain ⟨soft, perf, hp⟩ := correctAt_spec t write (padLoc core p.1) p.2
      obtain ⟨soft1, perf1, hr⟩ := ih (correctAt t write (padLoc core p.1) p.2)
      exact ⟨soft1, perf1, hr.trans (by rw [hp])⟩
  unfold padSeen
  split
  · exact ⟨s.soft, s.perf, rfl⟩
  · exact hfold l s

theorem accessOnly_padSeen (s : State) (core : Nat) (write : Bool) (l : List (Nat × Nat)) :
    AccessOnly s (padSeen s core write l) ∧ (padSeen s core write l).mem = s.mem := by
  obtain ⟨soft, perf, h⟩ := padSeen_spec s core write l
  rw [h]
  exact ⟨rfl, rfl⟩

/-! ## Drains (R246 to R248) -/

section Drain
variable {s : State} {i : Instr} {kind : DrainKind} {acc : BitVec 2} {n : BitVec 4} {d : Spec} {xa : Word}
  (hexec : exec i s = drainIssue s i kind acc n d xa)
include hexec

theorem drain_faults {c : Byte} {v : Word} (hf : drainFault s kind acc (n.toNat + 1) d xa = some (c, v)) : Traps i s c v := by
  rw [Traps, hexec, drainIssue, hf]
  rfl

theorem drain_issues (hf : drainFault s kind acc (n.toNat + 1) d xa = none) : MatrixIssued i s true xa [] [] []
    (if tierOf d = .shape then
      some (readShape s (coreOf s.fs) (Vector.nth (n := 15) s.curCore.h (d.toNat % 16)).toNat).1 else none) := by
  have hseen : AccessOnly s (if tierOf d = .shape then padSeen s (coreOf s.fs) false [((drainShape s d true).off, 32)] else s)
      ∧ (if tierOf d = .shape then padSeen s (coreOf s.fs) false [((drainShape s d true).off, 32)] else s).mem = s.mem := by
    split
    · exact accessOnly_padSeen ..
    · exact ⟨rfl, rfl⟩
  rw [drainIssue, hf] at hexec
  exact matrixIssued_of_mxIssue hseen.1 hseen.2 hexec

end Drain

/-! ## The first fault of a drain (R246 to R248; log 39) -/

theorem drainSpecFault_chan {d : Spec} (h : tierOf d = .chan) (mode : Nat) (vx : Half) (n : Nat) : drainSpecFault mode vx d n = none := by
  rw [drainSpecFault, h]

theorem drainSpecFault_qreg {d : Spec} {n : Nat} (h : tierOf d = .qreg) (hn : d.toNat - 0x88 + 2 * n ≤ 8) (mode : Nat) (vx : Half) :
    drainSpecFault mode vx d n = none := by
  rw [drainSpecFault, h]
  exact if_neg (Nat.not_lt.mpr hn)

section Faults
variable {s : State} {kind : DrainKind} {acc : BitVec 2} {n : Nat} {d : Spec} {xa : Word}
  (hspec : drainSpecFault s.curCore.mode s.cur.vx d n = none)
include hspec

/-- A destination that passes, a temperature where one is needed, and an accumulator that the drain cannot read. -/
theorem drainFault_tag (htemp : kind = .noise → invTemp s.curCore.smptemp ≠ .invalid)
    (htag : (Vector.nth (n := 3) s.curCore.accs acc.toNat).tag = none
      ∨ kind ≠ .plain ∧ ∀ sr, (Vector.nth (n := 3) s.curCore.accs acc.toNat).tag ≠ some (true, sr)) :
    drainFault s kind acc n d xa = some (Cause.tileConfig, .ofNat 64 (8 + acc.toNat)) := by
  have hnoise : ¬ (kind = .noise && invTemp s.curCore.smptemp = .invalid) = true := by simpa using htemp
  simp only [drainFault, hspec, if_neg hnoise, Option.none_or]
  generalize (Vector.nth (n := 3) s.curCore.accs acc.toNat).tag = tag at htag ⊢
  match tag with
  | none => simp
  | some (false, sr) =>
    have hkind : kind ≠ .plain := (htag.resolve_left nofun).1
    simp [hkind]
  | some (true, sr) => exact absurd rfl ((htag.resolve_left nofun).2 sr)

variable (hq : tierOf d = .qreg)
include hq

/-- A scale block that begins within a sector, or does not end before the reserve. -/
theorem drainFault_scales {sr : Nat} (htag : (Vector.nth (n := 3) s.curCore.accs acc.toNat).tag = some (true, sr)) :
    (uv xa % 32 ≠ 0 → drainFault s .scaled acc n d xa = some (Cause.misaligned, xa))
    ∧ (uv xa % 32 = 0 → 0x1FF800 - 64 * s.curCore.chanSlots < uv xa + 128 →
        drainFault s .scaled acc n d xa = some (Cause.bounds, xa)) := by
  refine ⟨fun hal => ?_, fun hal hb => ?_⟩
  · simp only [drainFault, hspec, htag, hq]
    simp [show xa.toNat % 32 ≠ 0 from hal]
  · simp only [drainFault, hspec, htag, hq]
    simp [show xa.toNat % 32 = 0 from hal, reserveBase, show 0x1FF800 - 64 * s.curCore.chanSlots < xa.toNat + 128 from hb]

/-- An array that the slot table turns over to other strands. -/
theorem drainFault_turned {tag : Bool × Nat} (htag : (Vector.nth (n := 3) s.curCore.accs acc.toNat).tag = some tag)
    (hmode : modeConflict s = true) : drainFault s .plain acc n d xa = some (Cause.modeConflict, .ofNat 64 (slotOf s.fs)) := by
  simp only [drainFault, hspec, htag, hq, hmode]
  simp

end Faults

theorem modeConflict_of_slots {s : State} (hm : s.curCore.mcfg.getLsbD 0 = true)
    (h : ∀ j : Fin 32, s.curCore.slots[j] ≠ .ofNat 4 (slotOf s.fs)) : modeConflict s = true := by
  have hne : ∀ e ∈ s.curCore.slots.toList, e.toNat ≠ slotOf s.fs := by
    intro e he hslot
    obtain ⟨j, hj, rfl⟩ := Vector.mem_iff_getElem.mp (Vector.mem_toList_iff.mp he)
    exact h ⟨j, hj⟩ (by rw [← hslot, BitVec.ofNat_toNat, BitVec.setWidth_eq]; rfl)
  have hany : s.curCore.slots.toList.any (fun e => e.toNat = slotOf s.fs) = false :=
    List.any_eq_false.mpr fun e he => by simpa using hne e he
  rw [modeConflict, hm, hany]
  rfl

/-! ## MSLOT (R250) -/

/-- Entries written one after the other from a base on. -/
theorem getElem_foldl_upd {α : Type} {n : Nat} (f : Nat → α) (base m : Nat) (v : Vector α n) (j : Fin n) :
    ((List.range m).foldl (fun t i => Vector.upd t (base + i) (f i)) v)[j] =
      if base ≤ j.val ∧ j.val < base + m then f (j.val - base) else v[j] := by
  induction m with
  | zero => rw [if_neg (by omega)]; rfl
  | succ m ih =>
    rw [List.range_succ, List.foldl_append, List.foldl_cons, List.foldl_nil, Fin.getElem_fin, Vector.upd, Vector.getElem_setIfInBounds]
    by_cases hj : base + m = j.val
    · rw [if_pos hj, if_pos (by omega), ← hj, Nat.add_sub_cancel_left]
    · rw [if_neg hj, ← Fin.getElem_fin, ih]
      exact if_congr (by omega) rfl rfl

@[simp] theorem curCore_setCurCore_setPc (s : State) (c : Core) (p : Word) : ((s.setCurCore c).setPc p).curCore = c :=
  State.core_setCore ..

theorem slotTableWritten : SlotTableWritten := by
  intro s half a hok
  refine ⟨_, (checked_ok hok).trans (retire_spec 4 _), State.setPc_cur .., fun j => ?_, ?_, rfl,
    fun k hk => State.strand_setPc_other _ _ _ hk⟩
  · rw [curCore_setCurCore_setPc]
    refine (getElem_foldl_upd (fun i => BitVec.ofNat 4 (uv (s.readX a) / 16 ^ i)) _ 16 _ j).trans ?_
    have hj := j.isLt
    cases half with
    | false =>
      by_cases h : 16 ≤ j.val
      · simp [h]
      · have hlow : j.val % 16 = j.val := Nat.mod_eq_of_lt (by omega)
        simp [h, hlow]
    | true =>
      by_cases h : 16 ≤ j.val
      · have hhigh : j.val % 16 = j.val - 16 := by omega
        simp [h, hhigh]
      · simp [h]
  · rw [curCore_setCurCore_setPc]

/-! ## Well-formed matrix instructions (R116) -/

section Exec
variable {s : State} {t : BitVec 3} {a : XReg} {off : BitVec 11} {acc : BitVec 2} {r0 : BitVec 5} {n : BitVec 4} {d : Spec}

theorem exec_tld (hok : Ok (.tld t a off) s) : exec (.tld t a off) s = transferIssue s (.tld t a off) true t a off := checked_ok hok
theorem exec_tst (hok : Ok (.tst t a off) s) : exec (.tst t a off) s = transferIssue s (.tst t a off) false t a off := checked_ok hok
theorem exec_mdrain (hok : Ok (.mdrain acc r0 n d) s) :
    exec (.mdrain acc r0 n d) s = drainIssue s (.mdrain acc r0 n d) .plain acc n d 0 := checked_ok hok
theorem exec_mdrainG (hok : Ok (.mdrainG acc r0 n d a) s) :
    exec (.mdrainG acc r0 n d a) s = drainIssue s (.mdrainG acc r0 n d a) .noise acc n d (s.readX a) := checked_ok hok
theorem exec_mdrains (hok : Ok (.mdrains acc r0 n d a) s) :
    exec (.mdrains acc r0 n d a) s = drainIssue s (.mdrains acc r0 n d a) .scaled acc n d (s.readX a) := checked_ok hok

end Exec

/-! ## The statement -/

theorem matrixInstructionsIssue : MatrixInstructionsIssue := by
  intro s s1 ps t a off acc sr int f r0 n d cfg ea rows cut decks shape
  refine ⟨fun hv hal hst => ⟨fun hok hx => ?_, fun hok hx => ?_, fun q hq => rowSectors_getD hq, fun hok ds hx => ?_, fun hok ds hx => ?_⟩,
    fun hok => matrixIssued_at_once (checked_ok hok), fun hok => matrixIssued_at_once (checked_ok hok),
    fun hok hf => matrixIssued_at_once (mma_passes hok hf), fun hok hf => drain_issues (exec_mdrain hok) hf,
    fun hok hf => drain_issues (exec_mdrainG hok) hf, fun hok hf => drain_issues (exec_mdrains hok) hf⟩
  · exact transfer_access (exec_tld hok) rfl rfl hv hal hst hx
  · exact transfer_access (exec_tst hok) rfl rfl hv hal hst hx
  · exact transfer_access (exec_tld hok) rfl rfl hv hal hst hx
  · exact transfer_access (exec_tst hok) rfl rfl hv hal hst hx

theorem matrixTraps : MatrixTraps := by
  intro s t a off acc f r0 n d cfg ea tag
  have transfers : ∀ i ∈ [Instr.tld t a off, .tst t a off], Ok i s → ∃ load, exec i s = transferIssue s i load t a off := by
    intro i hi hok
    obtain rfl | rfl : i = .tld t a off ∨ i = .tst t a off := by simpa using hi
    · exact ⟨true, exec_tld hok⟩
    · exact ⟨false, exec_tst hok⟩
  have hchan : ∀ mode vx n, drainSpecFault mode vx 0xA0 n = none := drainSpecFault_chan (by decide)
  refine ⟨fun i hi hok => ⟨fun hv => ?_, fun hv hal => ?_⟩, fun c v hok hv hal hst hx => ?_, fun c v hok hv hal hst hx => ?_,
    fun c v hok hf => mma_faults hok hf, fun c v hok hf => drain_faults (exec_mdrain hok) hf,
    fun c v hok hf => drain_faults (exec_mdrainG hok) hf, fun c v hok hf => drain_faults (exec_mdrains hok) hf, fun hok htag => ?_,
    fun hok htag => ?_, fun hok htemp htag => ?_, fun sr hok htag hq hn => ⟨fun hal => ?_, fun hal hb => ?_⟩,
    fun tag' hok htag hq hn hm hslots => ?_⟩
  · obtain ⟨load, hexec⟩ := transfers i hi hok
    exact transfer_invalid hexec rfl rfl hv
  · obtain ⟨load, hexec⟩ := transfers i hi hok
    exact transfer_misaligned hexec rfl rfl hv hal
  · exact transfer_access (exec_tld hok) rfl rfl hv hal hst hx
  · exact transfer_access (exec_tst hok) rfl rfl hv hal hst hx
  · exact drain_faults (exec_mdrain hok) (drainFault_tag (hchan _ _ _) (fun h => nomatch h) (.inl htag))
  · exact drain_faults (exec_mdrains hok) (drainFault_tag (hchan _ _ _) (fun h => nomatch h) (.inr ⟨by decide, htag⟩))
  · exact drain_faults (exec_mdrainG hok) (drainFault_tag (hchan _ _ _) (fun _ => htemp) (.inr ⟨by decide, htag⟩))
  · exact drain_faults (exec_mdrains hok) ((drainFault_scales (drainSpecFault_qreg hq hn _ _) hq htag).1 hal)
  · exact drain_faults (exec_mdrains hok) ((drainFault_scales (drainSpecFault_qreg hq hn _ _) hq htag).2 hal hb)
  · exact drain_faults (exec_mdrain hok) (drainFault_turned (drainSpecFault_qreg hq hn _ _) hq htag (modeConflict_of_slots hm hslots))

/-- Settles O22: the operations that are issued, the traps, and the half of the slot table. -/
theorem matrixInstructions : Obligations.MatrixInstructions := ⟨matrixInstructionsIssue, matrixTraps, slotTableWritten⟩

end Sys2Proof.Proofs
end

section
/-!
PROOFS. Drains (R246 to R248): what the effect of a matrix operation may change, and where the elements of a drain go.
-/

namespace Sys2Proof.Proofs
open Sys2Proof Sys2Proof.Machine Sys2Proof.Claim

/-! ## What an effect may change -/

/-- From s to t an operation of strand k has changed, beside memory and what marks it, its core's tiles, accumulators and vector
registers and its strand's Q registers and staged sends: nothing else of its core, and nothing else of any strand. -/
structure EffectOnly (s t : State) (k : Nat) : Prop where
  core : t.core (coreOf k) = { s.core (coreOf k) with
    tiles := (t.core (coreOf k)).tiles, accs := (t.core (coreOf k)).accs, vf := (t.core (coreOf k)).vf }
  own : t.strand k = { s.strand k with q := (t.strand k).q, staged := (t.strand k).staged }
  others : ∀ j, j ≠ k → t.strand j = s.strand j

theorem EffectOnly.trans {s t u : State} {k : Nat} (h : EffectOnly s t k) (g : EffectOnly t u k) : EffectOnly s u k where
  core := by rw [g.core, h.core]
  own := by rw [g.own, h.own]
  others j hj := (g.others j hj).trans (h.others j hj)

theorem EffectOnly.of_tables {s t : State} (k : Nat) (hc : t.cores = s.cores) (hs : t.strands = s.strands) : EffectOnly s t k where
  core := by rw [State.core, hc]; rfl
  own := by rw [State.strand, hs]; rfl
  others j _ := by rw [State.strand, hs]; rfl

theorem EffectOnly.refl (s : State) (k : Nat) : EffectOnly s s k := .of_tables k rfl rfl

theorem AccessOnly.effectOnly {s t : State} (h : AccessOnly s t) (k : Nat) : EffectOnly s t k :=
  .of_tables k (by rw [h]) (by rw [h])

theorem AccessOnly.refl (s : State) : AccessOnly s s := rfl
theorem AccessOnly.trans {s t u : State} (h : AccessOnly s t) (g : AccessOnly t u) : AccessOnly s u := by
  unfold AccessOnly at h g ⊢
  rw [g, h]

theorem AccessOnly.core_eq {s t : State} (h : AccessOnly s t) : t.core = s.core := by
  rw [h]
  rfl

theorem coreOf_slot {core slot : Nat} (h : slot < 16) : coreOf (core * 16 + slot) = core := by
  unfold coreOf
  omega

theorem EffectOnly.physReg {s t : State} {k : Nat} (h : EffectOnly s t k) : physReg t k = physReg s k := by
  funext i
  rw [Machine.physReg, h.core, Machine.physReg]

/-! ## Vectors with one element replaced -/

theorem getElem_upd {α : Type} {n : Nat} (v : Vector α n) (i : Nat) (a : α) (r : Fin n) :
    (Vector.upd v i a)[r] = if r.val = i then a else v[r] := by
  rw [Fin.getElem_fin, Vector.upd, Vector.getElem_setIfInBounds]
  exact if_congr eq_comm rfl rfl

/-! ## Tables in one list -/

/-- The rows of a table with m columns, one after the other. -/
theorem flatMap_table {α : Type} {m : Nat} (hm : 0 < m) (f : Nat → Nat → α) (n : Nat) :
    (List.range n).flatMap (fun i => (List.range m).map (f i)) = (List.range (m * n)).map (fun e => f (e / m) (e % m)) := by
  induction n with
  | zero => rfl
  | succ n ih =>
    rw [List.range_succ, List.flatMap_append, ih, Nat.mul_succ, List.range_add, List.map_append, List.map_map, List.flatMap_singleton]
    refine congrArg _ (List.map_congr_left fun j hj => ?_)
    have hj : j < m := List.mem_range.mp hj
    rw [Function.comp, Nat.mul_add_div hm, Nat.div_eq_of_lt hj, Nat.add_zero, Nat.mul_add_mod, Nat.mod_eq_of_lt hj]

/-! ## Transfers (R240) -/

theorem accessOnly_writeLocs (l : List (Nat × Nat)) : ∀ (s : State) (v : Nat), AccessOnly s (writeLocs s l v) := by
  induction l with
  | nil => exact fun s _ => .refl s
  | cons p r ih =>
    intro s v
    refine AccessOnly.trans ?_ (ih _ _)
    rw [correctAt_true]
    rfl

theorem accessOnly_writeRows (n : Nat) (ls : List (List Nat)) : ∀ (s : State) (vs : List (BitVec 1024)),
    AccessOnly s (writeRows s n ls vs) := by
  induction ls with
  | nil => exact fun s _ => .refl s
  | cons l ls ih =>
    intro s vs
    cases vs with
    | nil => exact .refl s
    | cons v vs => exact (accessOnly_writeLocs _ _ _).trans (ih _ _)

/-! ## Elements of a shape (R206) -/

/-- Where element e of a shape of 32-bit elements lies. -/
def elemLoc (core : Nat) (h : Shape) (e : Nat) : Nat := padLoc core (h.addr 32 e).toNat

/-- Four bytes from one location on and four from another have none in common. -/
def Apart (a b : Nat) : Prop := a + 4 ≤ b ∨ b + 4 ≤ a

section Elements
variable (core : Nat) (h : Shape)

theorem putElems_cons (s : State) (e v : Nat) (r : List (Option Nat)) : putElems s core h 32 e (some v :: r) =
    putElems (if e < h.count then s.setMem (Memory.writeN s.mem (elemLoc core h e) 4 v) else s) core h 32 (e + 1) r := rfl

/-- The elements that are written change memory alone. -/
theorem putElems_setMem (l : List Nat) : ∀ (s : State) (e : Nat), ∃ m, putElems s core h 32 e (l.map some) = s.setMem m := by
  induction l with
  | nil => exact fun s e => ⟨s.mem, rfl⟩
  | cons v r ih =>
    intro s e
    rw [List.map_cons, putElems_cons]
    obtain ⟨m, hm⟩ := ih (if e < h.count then s.setMem (Memory.writeN s.mem (elemLoc core h e) 4 v) else s) (e + 1)
    rw [hm]
    split
    · exact ⟨m, rfl⟩
    · exact ⟨m, rfl⟩

/-- A byte of none of the elements is as it was. -/
theorem read_putElems_other (b : Nat) (l : List Nat) : ∀ (s : State) (e0 : Nat),
    (∀ e, e0 ≤ e → e < e0 + l.length → b < elemLoc core h e ∨ elemLoc core h e + 4 ≤ b) →
    Memory.read (putElems s core h 32 e0 (l.map some)).mem b = Memory.read s.mem b := by
  induction l with
  | nil => exact fun s e0 _ => rfl
  | cons v r ih =>
    intro s e0 hb
    have hlen : (v :: r).length = r.length + 1 := rfl
    rw [List.map_cons, putElems_cons, ih _ _ fun e h1 h2 => hb e (by omega) (by omega)]
    split
    · exact Memory.read_writeN_other 4 _ _ _ _ (hb e0 (Nat.le_refl _) (by omega))
    · rfl

/-- An element that no later one overlaps holds what was written to it. -/
theorem readN_putElems (l : List Nat) : ∀ (s : State) (e0 x : Nat) (hx : x < l.length), e0 + x < h.count →
    (∀ e, e0 + x < e → e < e0 + l.length → Apart (elemLoc core h e) (elemLoc core h (e0 + x))) →
    Memory.readN (putElems s core h 32 e0 (l.map some)).mem (elemLoc core h (e0 + x)) 4 = l[x] % 2 ^ 32 := by
  induction l with
  | nil => exact fun _ _ _ hx => absurd hx (Nat.not_lt_zero _)
  | cons v r ih =>
    intro s e0 x hx hcount hlater
    have hlen : (v :: r).length = r.length + 1 := rfl
    rw [List.map_cons, putElems_cons]
    cases x with
    | zero =>
      have hrest : ∀ b, elemLoc core h e0 ≤ b → b < elemLoc core h e0 + 4 → ∀ e, e0 + 1 ≤ e → e < e0 + 1 + r.length →
          b < elemLoc core h e ∨ elemLoc core h e + 4 ≤ b := by
        intro b h1 h2 e h3 h4
        have hap : Apart (elemLoc core h e) (elemLoc core h e0) := hlater e (by omega) (by omega)
        unfold Apart at hap
        omega
      rw [if_pos (show e0 < h.count from hcount)]
      exact (Memory.readN_congr 4 _ _ _ fun b h1 h2 => read_putElems_other core h b r _ _ (hrest b h1 h2)).trans
        (Memory.readN_writeN_same 4 _ _ _)
    | succ x =>
      have hidx : e0 + (x + 1) = e0 + 1 + x := by omega
      rw [hidx] at hcount hlater ⊢
      exact ih _ _ x (by omega) hcount fun e h1 h2 => hlater e h1 (by omega)

end Elements

/-! ## Half rows in registers and messages (R246) -/

/-- The half rows of rows of elements. -/
def halves (rows : List (List Nat)) : List V512 :=
  rows.flatMap (fun r => [.ofNat 512 (packElems 32 (r.take 16)), .ofNat 512 (packElems 32 (r.drop 16))])

/-- Half rows put one after the other, the first at register or message j. -/
def putHalves (s : State) (k : Nat) (d : Spec) : Nat → List V512 → State
  | _, [] => s
  | j, v :: r => putHalves (drainPut s k d j v) k d (j + 1) r

theorem drainPuts_eq (k : Nat) (d : Spec) (rows : List (List Nat)) : ∀ (s : State) (j : Nat),
    drainPuts s k d j rows = putHalves s k d j (halves rows) := by
  induction rows with
  | nil => exact fun s j => rfl
  | cons r rs ih => exact fun s j => ih _ _

section Halves
variable (k : Nat) (d : Spec)

theorem drainPut_vreg (h : tierOf d = .vreg) (s : State) (j : Nat) (v : V512) : drainPut s k d j v = s.setCore (coreOf k)
    { s.core (coreOf k) with vf := Tbl.put (s.core (coreOf k)).vf (physReg s k (regIndex (s.strand k).vx d + j).toNat) v } := by
  rw [drainPut, h]

theorem drainPut_qreg (h : tierOf d = .qreg) (s : State) (j : Nat) (v : V512) : drainPut s k d j v =
    s.setStrand k { s.strand k with q := Vector.upd (s.strand k).q (d.toNat - 0x88 + j) v } := by
  rw [drainPut, h]

theorem drainPut_chan (h : tierOf d = .chan) (s : State) (j : Nat) (v : V512) : drainPut s k d j v =
    s.setStrand k { s.strand k with staged := (s.strand k).staged ++ [.send (d.toNat % 16) v] } := by
  rw [drainPut, h]
  rfl

theorem drainPut_none (hv : tierOf d ≠ .vreg) (hq : tierOf d ≠ .qreg) (hc : tierOf d ≠ .chan) (s : State) (j : Nat) (v : V512) :
    drainPut s k d j v = s := by
  unfold drainPut
  split
  next h => exact absurd h hv
  next h => exact absurd h hq
  next h => exact absurd h hc
  · rfl

/-- What putting a half row changes: memory is as it was. -/
theorem drainPut_only (s : State) (j : Nat) (v : V512) : EffectOnly s (drainPut s k d j v) k ∧ (drainPut s k d j v).mem = s.mem := by
  have own (t : Strand) (ht : t = { s.strand k with q := t.q, staged := t.staged }) : EffectOnly s (s.setStrand k t) k :=
    { core := rfl
      own := by rw [State.strand_setStrand]; exact ht
      others := fun i hi => State.strand_setStrand_other _ _ _ _ hi }
  by_cases hv : tierOf d = .vreg
  · rw [drainPut_vreg k d hv]
    exact ⟨{ core := by rw [State.core_setCore], own := rfl, others := fun _ _ => rfl }, rfl⟩
  by_cases hq : tierOf d = .qreg
  · rw [drainPut_qreg k d hq]
    exact ⟨own _ rfl, rfl⟩
  by_cases hc : tierOf d = .chan
  · rw [drainPut_chan k d hc]
    exact ⟨own _ rfl, rfl⟩
  · rw [drainPut_none k d hv hq hc]
    exact ⟨.refl s k, rfl⟩

theorem putHalves_only (l : List V512) : ∀ (s : State) (j : Nat),
    EffectOnly s (putHalves s k d j l) k ∧ (putHalves s k d j l).mem = s.mem := by
  induction l with
  | nil => exact fun s j => ⟨.refl s k, rfl⟩
  | cons v r ih =>
    intro s j
    obtain ⟨h1, m1⟩ := drainPut_only k d s j v
    obtain ⟨h2, m2⟩ := ih (drainPut s k d j v) (j + 1)
    exact ⟨h1.trans h2, m2.trans m1⟩

/-- Main register i of a strand. -/
def mainReg (s : State) (i : Nat) : V512 := Tbl.get (s.core (coreOf k)).vf (physReg s k i) 0

theorem mainReg_drainPut (h : tierOf d = .vreg) (s : State) (j i : Nat) (v : V512) : mainReg k (drainPut s k d j v) i =
    if i = (regIndex (s.strand k).vx d + j).toNat then v else mainReg k s i := by
  rw [mainReg, physReg, drainPut_vreg k d h, State.core_setCore]
  split
  next hi => rw [hi]; exact Tbl.get_put_same ..
  next hi => exact Tbl.get_put_other _ _ _ _ _ fun he => hi (Nat.add_left_cancel he)

theorem mainReg_putHalves_other (h : tierOf d = .vreg) {i : Nat} (l : List V512) : ∀ (s : State) (j : Nat),
    (∀ x, x < l.length → i ≠ (regIndex (s.strand k).vx d + (j + x : Nat)).toNat) → mainReg k (putHalves s k d j l) i = mainReg k s i := by
  induction l with
  | nil => exact fun s j _ => rfl
  | cons v r ih =>
    intro s j hi
    have hvx : ((drainPut s k d j v).strand k).vx = (s.strand k).vx := by rw [(drainPut_only k d s j v).1.own]
    rw [putHalves, ih _ _ fun x hx => ?_, mainReg_drainPut k d h]
    · exact if_neg (hi 0 (Nat.succ_pos _))
    · rw [hvx, Nat.add_right_comm]
      exact hi (x + 1) (Nat.succ_lt_succ hx)

/-- The half rows stand in the registers from the destination on. -/
theorem mainReg_putHalves (h : tierOf d = .vreg) (l : List V512) : ∀ (s : State) (j x : Nat) (hx : x < l.length),
    0 ≤ regIndex (s.strand k).vx d → mainReg k (putHalves s k d j l) (regIndex (s.strand k).vx d + (j + x : Nat)).toNat = l[x] := by
  induction l with
  | nil => exact fun _ _ _ hx => absurd hx (Nat.not_lt_zero _)
  | cons v r ih =>
    intro s j x hx hidx
    have hvx : ((drainPut s k d j v).strand k).vx = (s.strand k).vx := by rw [(drainPut_only k d s j v).1.own]
    rw [putHalves]
    cases x with
    | zero =>
      rw [mainReg_putHalves_other k d h r _ _ fun y _ => by rw [hvx]; omega, mainReg_drainPut k d h]
      exact if_pos rfl
    | succ x =>
      have hnext := ih (drainPut s k d j v) (j + 1) x (Nat.lt_of_succ_lt_succ hx) (by rw [hvx]; exact hidx)
      rw [hvx, Nat.add_right_comm] at hnext
      exact hnext

/-- Q register i of a strand. -/
def queueReg (s : State) (i : Nat) : V512 := Vector.nth (n := 7) (s.strand k).q i

theorem queueReg_drainPut (h : tierOf d = .qreg) (s : State) {j i : Nat} (hi : i < 8) (v : V512) : queueReg k (drainPut s k d j v) i =
    if i = d.toNat - 0x88 + j then v else queueReg k s i := by
  rw [queueReg, drainPut_qreg k d h, State.strand_setStrand]
  split
  next he => subst he; exact nth_upd_same _ _ _ hi
  next he => exact nth_upd_other _ _ _ _ hi he

theorem queueReg_putHalves_other (h : tierOf d = .qreg) {i : Nat} (hi : i < 8) (l : List V512) : ∀ (s : State) (j : Nat),
    i < d.toNat - 0x88 + j → queueReg k (putHalves s k d j l) i = queueReg k s i := by
  induction l with
  | nil => exact fun s j _ => rfl
  | cons v r ih =>
    intro s j hj
    rw [putHalves, ih _ _ (Nat.lt_succ_of_lt hj), queueReg_drainPut k d h s hi, if_neg (Nat.ne_of_lt hj)]

/-- The half rows stand in the Q registers from the destination on, as far as there are any. -/
theorem queueReg_putHalves (h : tierOf d = .qreg) (l : List V512) : ∀ (s : State) (j x : Nat) (hx : x < l.length),
    d.toNat - 0x88 + (j + x) < 8 → queueReg k (putHalves s k d j l) (d.toNat - 0x88 + (j + x)) = l[x] := by
  induction l with
  | nil => exact fun _ _ _ hx => absurd hx (Nat.not_lt_zero _)
  | cons v r ih =>
    intro s j x hx hi
    rw [putHalves]
    cases x with
    | zero =>
      rw [queueReg_putHalves_other k d h hi r _ _ (Nat.lt_succ_self _), queueReg_drainPut k d h s hi]
      exact if_pos rfl
    | succ x =>
      have hidx : j + (x + 1) = j + 1 + x := by omega
      rw [hidx] at hi ⊢
      exact ih _ _ x (Nat.lt_of_succ_lt_succ hx) hi

/-- The half rows are sends of the strand's region, in order. -/
theorem staged_putHalves (h : tierOf d = .chan) (l : List V512) : ∀ (s : State) (j : Nat),
    ((putHalves s k d j l).strand k).staged = (s.strand k).staged ++ l.map (fun v => .send (d.toNat % 16) v) := by
  induction l with
  | nil => exact fun s j => (List.append_nil _).symm
  | cons v r ih =>
    intro s j
    rw [putHalves, ih, drainPut_chan k d h, State.strand_setStrand, List.map_cons, List.append_assoc]
    rfl

end Halves

/-! ## The elements that a drain moves (R246 to R248) -/

section Drain
variable (s : State) (core : Nat) (o : MxOp) (kind : DrainKind) (acc : BitVec 2) (r0 n : Nat) (d : Spec)

/-- Element j of row i of a drain, with its flags. -/
def drainedElem (i j : Nat) : FRes :=
  drainElem s core o kind (r0 + i) j
    (elemOf 32 (Vector.nth (n := 31) (Vector.nth (n := 3) (s.core core).accs acc.toNat).rows (r0 + i)).toNat j)

/-- The rows of a drain. -/
def drainedRows : List (List Nat) :=
  (List.range n).map (fun i => (List.range 32).map (fun j => (drainedElem s core o kind acc r0 i j).bits))

/-- Half row h of row i of a drain. -/
def drainedHalf (i h : Nat) : V512 :=
  .ofNat 512 (packElems 32 ((List.range 16).map (fun j => (drainedElem s core o kind acc r0 i (16 * h + j)).bits)))

/-- The state that a drain moves its elements from: a scaled one has read its scale block (R265). -/
def drainFrom : State := if kind = .scaled then padSeen s core false [(o.xa.toNat, 128)] else s

theorem accessOnly_drainFrom : AccessOnly s (drainFrom s core o kind) ∧ (drainFrom s core o kind).mem = s.mem := by
  unfold drainFrom
  split
  · exact accessOnly_padSeen ..
  · exact ⟨rfl, rfl⟩

/-- A drain moves its rows to the elements of a shape, or half row by half row to registers or messages. -/
theorem drainRun_state : (drainRun s core o kind acc r0 n d).1 = match o.shape with
    | some h => putElems (padSeen (drainFrom s core o kind) core true ((List.range (32 * n)).map (shapeBytes h 32))) core h 32 0
        ((drainedRows s core o kind acc r0 n).flatten.map some)
    | none => putHalves (drainFrom s core o kind) (core * 16 + o.slot) d 0 (halves (drainedRows s core o kind acc r0 n)) := by
  have hrows : ((List.range n).map (fun i => (List.range 32).map (drainedElem s core o kind acc r0 i))).map
      (fun (r : List FRes) => r.map (fun (x : FRes) => x.bits)) = drainedRows s core o kind acc r0 n := by
    rw [List.map_map]
    exact List.map_congr_left fun i _ => List.map_map ..
  rw [← hrows]
  unfold drainRun
  cases o.shape with
  | some h => rfl
  | none => exact drainPuts_eq ..

/-- MDRAIN raises no flag. -/
theorem drainRun_flags : (drainRun s core o .plain acc r0 n d).2 = 0 :=
  flags_of_table (g := drainedElem s core o .plain acc r0) (fun _ _ => rfl) _ _

theorem drainedRows_flatten : (drainedRows s core o kind acc r0 n).flatten =
    (List.range (32 * n)).map (fun e => (drainedElem s core o kind acc r0 (e / 32) (e % 32)).bits) :=
  flatMap_table (by decide) (fun i j => (drainedElem s core o kind acc r0 i j).bits) n

theorem halves_drainedRows : halves (drainedRows s core o kind acc r0 n) =
    (List.range n).flatMap (fun i => (List.range 2).map (drainedHalf s core o kind acc r0 i)) := by
  have htake (g : Nat → Nat) : ((List.range 32).map g).take 16 = (List.range 16).map (fun j => g (16 * 0 + j)) := rfl
  have hdrop (g : Nat → Nat) : ((List.range 32).map g).drop 16 = (List.range 16).map (fun j => g (16 * 1 + j)) := rfl
  rw [halves, drainedRows, List.flatMap_map]
  simp only [htake, hdrop]
  rfl

theorem halves_drainedRows_getElem {i h : Nat} (hi : i < n) (hh : h < 2) :
    ∃ hx : 2 * i + h < (halves (drainedRows s core o kind acc r0 n)).length,
      (halves (drainedRows s core o kind acc r0 n))[2 * i + h] = drainedHalf s core o kind acc r0 i h := by
  have htable : halves (drainedRows s core o kind acc r0 n) =
      (List.range (2 * n)).map (fun e => drainedHalf s core o kind acc r0 (e / 2) (e % 2)) :=
    (halves_drainedRows ..).trans (flatMap_table (by decide) _ n)
  have hdiv : (2 * i + h) / 2 = i := by omega
  have hmod : (2 * i + h) % 2 = h := by omega
  refine ⟨by rw [htable, List.length_map, List.length_range]; omega, ?_⟩
  simp [htable, hdiv, hmod]

/-- A drain changes what an effect of its strand may. -/
theorem drainRun_only : EffectOnly s (drainRun s core o kind acc r0 n d).1 (core * 16 + o.slot) := by
  have hfrom := (accessOnly_drainFrom s core o kind).1.effectOnly (core * 16 + o.slot)
  rw [drainRun_state]
  cases o.shape with
  | some h =>
    obtain ⟨m, hm⟩ := putElems_setMem core h (drainedRows s core o kind acc r0 n).flatten
      (padSeen (drainFrom s core o kind) core true ((List.range (32 * n)).map (shapeBytes h 32))) 0
    dsimp only
    rw [hm]
    exact hfrom.trans (((accessOnly_padSeen ..).1.effectOnly _).trans (.of_tables _ rfl rfl))
  | none => exact hfrom.trans (putHalves_only ..).1

/-- The bytes of a drain to a shape. -/
theorem drainRun_shape {h : Shape} (hs : o.shape = some h) :
    let t := (drainRun s core o kind acc r0 n d).1
    (∀ e, e < 32 * n → e < h.count → (∀ e', e < e' → e' < 32 * n → Apart (elemLoc core h e') (elemLoc core h e)) →
        Memory.readN t.mem (elemLoc core h e) 4 = (drainedElem s core o kind acc r0 (e / 32) (e % 32)).bits % 2 ^ 32)
    ∧ (∀ b, (∀ e, e < 32 * n → b < elemLoc core h e ∨ elemLoc core h e + 4 ≤ b) → Memory.read t.mem b = Memory.read s.mem b)
    ∧ t.strands = s.strands := by
  intro t
  obtain ⟨hfrom, hmem⟩ := accessOnly_drainFrom s core o kind
  obtain ⟨hseen, hmem'⟩ := accessOnly_padSeen (drainFrom s core o kind) core true ((List.range (32 * n)).map (shapeBytes h 32))
  have ht : t = putElems (padSeen (drainFrom s core o kind) core true ((List.range (32 * n)).map (shapeBytes h 32))) core h 32 0
      (((List.range (32 * n)).map (fun e => (drainedElem s core o kind acc r0 (e / 32) (e % 32)).bits)).map some) := by
    simp only [t, drainRun_state, hs, drainedRows_flatten]
  generalize padSeen (drainFrom s core o kind) core true _ = u at hseen hmem' ht
  refine ⟨fun e he hcount hlater => ?_, fun b hb => ?_, ?_⟩
  · have helem := readN_putElems core h
      ((List.range (32 * n)).map (fun e => (drainedElem s core o kind acc r0 (e / 32) (e % 32)).bits)) u 0 e (by simpa using he)
    simp only [Nat.zero_add, List.length_map, List.length_range, List.getElem_map, List.getElem_range] at helem
    rw [ht]
    exact helem hcount hlater
  · rw [ht, read_putElems_other core h b _ u 0 fun e _ he => hb e (by simpa using he), hmem', hmem]
  · obtain ⟨m, hm⟩ := putElems_setMem core h
      ((List.range (32 * n)).map (fun e => (drainedElem s core o kind acc r0 (e / 32) (e % 32)).bits)) u 0
    rw [ht, hm, State.setMem, hfrom.trans hseen]

/-- The registers, or the messages, of a drain to no shape. -/
theorem drainRun_halves (hs : o.shape = none) :
    let t := (drainRun s core o kind acc r0 n d).1
    let k := core * 16 + o.slot
    t.mem = s.mem
    ∧ (tierOf d = .vreg → 0 ≤ regIndex (s.strand k).vx d → ∀ i h, i < n → h < 2 →
        mainReg k t (regIndex (s.strand k).vx d + (2 * i + h : Nat)).toNat = drainedHalf s core o kind acc r0 i h)
    ∧ (tierOf d = .qreg → d.toNat - 0x88 + 2 * n ≤ 8 → ∀ i h, i < n → h < 2 →
        queueReg k t (d.toNat - 0x88 + (2 * i + h)) = drainedHalf s core o kind acc r0 i h)
    ∧ (tierOf d = .chan → (t.strand k).staged = (s.strand k).staged ++
        (List.range n).flatMap (fun i => [.send (d.toNat % 16) (drainedHalf s core o kind acc r0 i 0),
          .send (d.toNat % 16) (drainedHalf s core o kind acc r0 i 1)])) := by
  intro t k
  have ht : t = putHalves (drainFrom s core o kind) k d 0 (halves (drainedRows s core o kind acc r0 n)) := by
    simp only [t, drainRun_state, hs, k]
  obtain ⟨hfrom, hmem⟩ := accessOnly_drainFrom s core o kind
  have hstrand : (drainFrom s core o kind).strand k = s.strand k := by rw [hfrom]; rfl
  refine ⟨?_, fun hd hidx i h hi hh => ?_, fun hd hfit i h hi hh => ?_, fun hd => ?_⟩
  · rw [ht]
    exact (putHalves_only ..).2.trans hmem
  · obtain ⟨hx, hget⟩ := halves_drainedRows_getElem s core o kind acc r0 n hi hh
    have hreg := mainReg_putHalves k d hd _ (drainFrom s core o kind) 0 _ hx (hstrand.symm ▸ hidx)
    rw [hstrand, Nat.zero_add, hget] at hreg
    rw [ht, hreg]
  · obtain ⟨hx, hget⟩ := halves_drainedRows_getElem s core o kind acc r0 n hi hh
    have hreg := queueReg_putHalves k d hd _ (drainFrom s core o kind) 0 _ hx (by omega)
    rw [Nat.zero_add, hget] at hreg
    rw [ht, hreg]
  · rw [ht, staged_putHalves k d hd, hstrand, halves_drainedRows, List.map_flatMap]
    rfl

/-- What a drain leaves at its destination, in every state that agrees with its result there. -/
theorem drained_of_drainRun (hslot : o.slot < 16) {t : State} (hmem : t.mem = (drainRun s core o kind acc r0 n d).1.mem)
    (hstr : t.strands = (drainRun s core o kind acc r0 n d).1.strands)
    (hvf : (t.core core).vf = ((drainRun s core o kind acc r0 n d).1.core core).vf) : Drained s t core o kind acc r0 n d := by
  unfold Drained
  intro k a old new half
  have hnew : ∀ i j, new i j = (drainedElem s core o kind acc r0 i j).bits := by
    intro i j
    by_cases hk : kind = .plain
    · subst hk
      rfl
    · exact if_neg hk
  have hhalf : ∀ i h, half i h = drainedHalf s core o kind acc r0 i h := by
    intro i h
    simp only [half, drainedHalf, hnew]
  have hcore : coreOf k = core := coreOf_slot hslot
  refine ⟨fun h hs => ?_, fun hs => ?_⟩
  · intro at_
    obtain ⟨helem, hother, hstrands⟩ := drainRun_shape s core o kind acc r0 n d hs
    refine ⟨fun i j hi hj hcount hlater => ?_, fun b hb => ?_, hstr.trans hstrands⟩
    · have hdiv : (32 * i + j) / 32 = i := by omega
      have hmod : (32 * i + j) % 32 = j := by omega
      have he := helem (32 * i + j) (by omega) hcount hlater
      rw [hdiv, hmod] at he
      rw [hmem, hnew]
      exact he
    · rw [hmem]
      exact hother b hb
  · obtain ⟨hsame, hv, hq, hc⟩ := drainRun_halves s core o kind acc r0 n d hs
    have hstrand : t.strand k = (drainRun s core o kind acc r0 n d).1.strand k := by rw [State.strand, hstr]; rfl
    refine ⟨hmem.trans hsame, fun hd hidx i h hi hh => ?_, fun hd hfit i h hi hh => ?_, fun hd => ?_⟩
    · have hreg := hv hd hidx i h hi hh
      rw [mainReg, (drainRun_only s core o kind acc r0 n d).physReg, hcore, ← hvf] at hreg
      rw [hhalf]
      exact hreg
    · rw [hstrand, hhalf]
      exact hq hd hfit i h hi hh
    · rw [hstrand, hc hd]
      simp only [hhalf]
      rfl

end Drain

end Sys2Proof.Proofs
end

section
/-!
PROOFS. The matrix operations at their start (R237 to R248, R275, R415): the effect of each, and what the engine then holds of it.
-/

namespace Sys2Proof.Proofs
open Sys2Proof Sys2Proof.Machine Sys2Proof.Claim

/-! ## The effect of an operation (R237 to R248) -/

section Effect
variable (s : State) (core : Nat) (o : MxOp)

theorem setTile_only (k : Nat) (hk : coreOf k = core) (i : BitVec 3) (v : Tile) : EffectOnly s (setTile s core i v) k where
  core := by rw [hk, setTile, State.core_setCore]
  own := rfl
  others _ _ := rfl

theorem setAcc_only (k : Nat) (hk : coreOf k = core) (i : BitVec 2) (a : Acc) : EffectOnly s (setAcc s core i a) k where
  core := by rw [hk, setAcc, State.core_setCore]
  own := rfl
  others _ _ := rfl

/-- What the effect of any operation may change. -/
theorem mxEffect_only (hslot : o.slot < 16) : EffectOnly s (mxEffect s core o).1 (core * 16 + o.slot) := by
  have hcore := coreOf_slot (core := core) hslot
  unfold mxEffect
  split
  · exact setTile_only s core _ hcore _ _
  · exact (accessOnly_writeRows _ _ _ _).effectOnly _
  · exact setTile_only s core _ hcore _ _
  · exact setAcc_only s core _ hcore _ _
  · exact setAcc_only s core _ hcore _ _
  · exact drainRun_only ..
  · exact drainRun_only ..
  · exact drainRun_only ..
  · exact .refl ..

theorem tiles_setTile (i : BitVec 3) (v : Tile) (r : Fin 8) :
    ((setTile s core i v).core core).tiles[r] = if r.val = i.toNat then v else (s.core core).tiles[r] := by
  rw [setTile, State.core_setCore]
  exact getElem_upd ..

theorem accs_setAcc (i : BitVec 2) (a : Acc) (r : Fin 4) :
    ((setAcc s core i a).core core).accs[r] = if r.val = i.toNat then a else (s.core core).accs[r] := by
  rw [setAcc, State.core_setCore]
  exact getElem_upd ..

theorem tiles_setAcc (i : BitVec 2) (a : Acc) : ((setAcc s core i a).core core).tiles = (s.core core).tiles := by
  rw [setAcc, State.core_setCore]

end Effect

/-- A word of a row of 32 equal elements. -/
theorem word_replicate {v : Nat} (hv : v < 2 ^ 32) (q : Fin 32) {j : Nat} (hj : j < 32) :
    ((Vector.replicate 32 (BitVec.ofNat 1024 (packElems 32 (List.replicate 32 v))))[q]).toNat / 2 ^ (32 * j) % 2 ^ 32 = v := by
  rw [Fin.getElem_fin, Vector.getElem_replicate, toNat_ofNat_packElems (by simp)]
  refine (elemOf_packElems 32 _ j (by simpa using hj)).trans ?_
  rw [List.getElem_replicate]
  exact Nat.mod_eq_of_lt hv

/-- The identities of R244. -/
theorem srIdentity_eq (sr : BitVec 3) (int : Bool) : srIdentity sr.toNat int = (if sr = 0 ∨ sr = 4 then 0
    else if int then (if sr = 1 then 0x7FFFFFFF else if sr = 2 ∨ sr = 3 then 0x80000000 else 0)
    else if sr = 1 then 0x7F800000 else if sr = 2 ∨ sr = 3 then 0xFF800000 else 0) := by
  revert sr int
  decide

theorem srIdentity_lt (sr : BitVec 3) (int : Bool) : srIdentity sr.toNat int < 2 ^ 32 := by
  revert sr int
  decide

/-! ## The start of an operation (R237 to R239) -/

/-- The engine holds an operation that has started as its last, and its unit's rotation stands at the operation's slot. -/
def mxStarted (t : State) (core : Nat) (o : MxOp) (array held : Bool) (fl : Byte) : State :=
  let c := t.core core
  let c1 := { c with mx := c.mx.filter (fun (p : MxOp) => p.slot ≠ o.slot) ++ [{ o with running := true, crossing := held, flags := fl }] }
  t.setCore core (if array then { c1 with rotArray := o.slot } else { c1 with rotTile := o.slot })

section Started
variable (t : State) (core : Nat) (o : MxOp) (array held : Bool) (fl : Byte)

@[simp] theorem mxStarted_mem : (mxStarted t core o array held fl).mem = t.mem := rfl
@[simp] theorem mxStarted_strands : (mxStarted t core o array held fl).strands = t.strands := rfl

theorem core_mxStarted : ∃ tile arr, (mxStarted t core o array held fl).core core = { t.core core with
    mx := (t.core core).mx.filter (fun (p : MxOp) => p.slot ≠ o.slot) ++ [{ o with running := true, crossing := held, flags := fl }]
    rotTile := tile, rotArray := arr } := by
  rw [mxStarted, State.core_setCore]
  split
  · exact ⟨_, _, rfl⟩
  · exact ⟨_, _, rfl⟩

@[simp] theorem mxStarted_mx : ((mxStarted t core o array held fl).core core).mx =
    (t.core core).mx.filter (fun (p : MxOp) => p.slot ≠ o.slot) ++ [{ o with running := true, crossing := held, flags := fl }] := by
  obtain ⟨tile, arr, h⟩ := core_mxStarted t core o array held fl
  rw [h]
@[simp] theorem mxStarted_tiles : ((mxStarted t core o array held fl).core core).tiles = (t.core core).tiles := by
  obtain ⟨tile, arr, h⟩ := core_mxStarted t core o array held fl
  rw [h]
@[simp] theorem mxStarted_accs : ((mxStarted t core o array held fl).core core).accs = (t.core core).accs := by
  obtain ⟨tile, arr, h⟩ := core_mxStarted t core o array held fl
  rw [h]
@[simp] theorem mxStarted_vf : ((mxStarted t core o array held fl).core core).vf = (t.core core).vf := by
  obtain ⟨tile, arr, h⟩ := core_mxStarted t core o array held fl
  rw [h]

end Started

/-- Whether an operation starts held: by a boundary, or by the footprint of a copy. -/
def startsHeld (s : State) (core : Nat) (o : MxOp) : Bool := !(heldAt s (core * 16 + o.slot) o.decks).isEmpty || mxBlocked s core o

theorem startsHeld_iff (s : State) (core : Nat) (o : MxOp) :
    startsHeld s core o = true ↔ heldAt s (core * 16 + o.slot) o.decks ≠ [] ∨ mxBlocked s core o = true := by
  simp [startsHeld]

/-- What an operation has done when it has started: held, nothing. -/
def mxOutcome (s : State) (core : Nat) (o : MxOp) : State × Byte :=
  if startsHeld s core o then (noteHeld s (core * 16 + o.slot) (heldAt s (core * 16 + o.slot) o.decks), 0) else mxEffect s core o

section Start
variable {s : State} {core : Nat} {o : MxOp} {array : Bool} (hpick : mxPick s core array = some o)
include hpick

/-- A picked operation is one of the core's sixteen slots. -/
theorem slot_of_mxPick : o.slot < 16 := by
  obtain ⟨slot, hmem, hfind⟩ := List.exists_of_findSome?_eq_some hpick
  have hslot := List.find?_some hfind
  simp only [Bool.and_eq_true, decide_eq_true_eq] at hslot
  obtain ⟨⟨⟨⟨⟨hslot, -⟩, -⟩, -⟩, -⟩, -⟩ := hslot
  obtain ⟨i, -, hi⟩ := List.mem_map.mp hmem
  omega

variable (hfree : unitFree (s.core core) array = true)
include hfree

theorem exec_matrixOpStart : exec (.matrixOpStart core array) s =
    .next (mxStarted (mxOutcome s core o).1 core o array (startsHeld s core o) (mxOutcome s core o).2) := by
  change execMatrixOpStart core array s = _
  rw [execMatrixOpStart, hfree, hpick]
  rfl

/-- An operation that a boundary or a footprint holds starts without its effect. -/
theorem exec_matrixOpStart_held (h : startsHeld s core o = true) : exec (.matrixOpStart core array) s = .next (mxStarted
    (noteHeld s (core * 16 + o.slot) (heldAt s (core * 16 + o.slot) o.decks)) core o array true 0) := by
  rw [exec_matrixOpStart hpick hfree, mxOutcome, h]
  rfl

/-- Any other starts with it. -/
theorem exec_matrixOpStart_free (h : startsHeld s core o = false) : exec (.matrixOpStart core array) s =
    .next (mxStarted (mxEffect s core o).1 core o array false (mxEffect s core o).2) := by
  rw [exec_matrixOpStart hpick hfree, mxOutcome, h]
  rfl

end Start

theorem mxEffect_mx {s : State} {core : Nat} {o : MxOp} (hslot : o.slot < 16) :
    ((mxEffect s core o).1.core core).mx = (s.core core).mx := by
  have hcore := (mxEffect_only s core o hslot).core
  rw [coreOf_slot hslot] at hcore
  rw [hcore]

/-- A drain that has started has filled its destination. -/
theorem drained_mxStarted {s : State} {core : Nat} {o : MxOp} {kind : DrainKind} {acc : BitVec 2} {r0 n : Nat} {d : Spec}
    (hslot : o.slot < 16) (array : Bool) (fl : Byte) (heff : (mxEffect s core o).1 = (drainRun s core o kind acc r0 n d).1) :
    Drained s (mxStarted (mxEffect s core o).1 core o array false fl) core o kind acc r0 n d := by
  rw [heff]
  exact drained_of_drainRun s core o kind acc r0 n d hslot rfl rfl (mxStarted_vf ..)

/-- Settles O23: an operation that is held is only marked as running; any other has its effect, case by case. -/
theorem matrixOperationsStart : Obligations.MatrixOperationsStart := by
  intro s core o array hfree hpick ds held
  have hslot := slot_of_mxPick hpick
  refine ⟨fun hheld => ⟨_, exec_matrixOpStart_held hpick hfree ((startsHeld_iff ..).mpr hheld), ?_⟩, fun hgo => ?_⟩
  · have hcore : (noteHeld s (core * 16 + o.slot) (heldAt s (core * 16 + o.slot) o.decks)).core core = s.core core := by
      rw [noteHeld_spec]
      rfl
    refine ⟨?_, ?_, ?_, ?_, ?_⟩
    · rw [mxStarted_mem, noteHeld_spec]
    · rw [mxStarted_strands, noteHeld_spec]
    · rw [mxStarted_tiles, hcore]
    · rw [mxStarted_accs, hcore]
    · rw [mxStarted_mx, hcore]
  have hfresh : startsHeld s core o = false := by rw [← Bool.not_eq_true, startsHeld_iff]; exact hgo
  refine ⟨_, exec_matrixOpStart_free hpick hfree hfresh, ?_, ?_, ?_, ?_, ?_, ?_, ?_, ?_, ?_⟩
  · intro i hi r
    rw [mxStarted_tiles, mxEffect, hi]
    exact tiles_setTile ..
  · intro i a off hi r
    rw [mxStarted_tiles, mxEffect, hi]
    exact tiles_setTile ..
  · intro i a off hi
    rw [mxStarted_tiles, mxStarted_mem, mxEffect, hi]
    refine ⟨rfl, ?_⟩
    dsimp only
    rw [(accessOnly_writeRows _ _ _ _).core_eq]
  · intro n sr int hi r hr
    have hacc : ((mxEffect s core o).1.core core).accs[r] =
        { rows := Vector.replicate 32 (.ofNat 1024 (packElems 32 (List.replicate 32 (srIdentity sr.toNat int))))
          tag := some (!int, sr.toNat) } := by
      rw [mxEffect, hi]
      exact (accs_setAcc ..).trans (if_pos hr)
    rw [mxStarted_accs, hacc, ← srIdentity_eq]
    exact ⟨rfl, fun q j hj => word_replicate (srIdentity_lt sr int) q hj⟩
  · intro f hi
    have heff : (mxEffect s core o).1 = setAcc s core f.acc (mmaRun (s.core core) o f).1 := by rw [mxEffect, hi]
    rw [mxStarted_tiles, mxStarted_accs, heff]
    exact ⟨(accs_setAcc s core f.acc _ ⟨f.acc.toNat, f.acc.isLt⟩).trans (if_pos rfl), rfl,
      fun r hr => (accs_setAcc ..).trans (if_neg hr), tiles_setAcc ..⟩
  · exact fun acc r0 n d hi => drained_mxStarted hslot array _ (by rw [mxEffect, hi])
  · exact fun acc r0 n d a hi => drained_mxStarted hslot array _ (by rw [mxEffect, hi])
  · exact fun acc r0 n d a hi => drained_mxStarted hslot array _ (by rw [mxEffect, hi])
  · refine ⟨(mxEffect s core o).2, ?_, fun f hi => ?_, fun acc r0 n d hi => ?_⟩
    · rw [mxStarted_mx, mxEffect_mx hslot]
    · rw [mxEffect, hi]
    · rw [mxEffect, hi]
      exact drainRun_flags ..

end Sys2Proof.Proofs
end

section
/-!
PROOFS. The matrix operations at their completion (R239, R246, R415): which operation of the engine an event completes, and what its
strand is left with.
-/

namespace Sys2Proof.Proofs
open Sys2Proof Sys2Proof.Machine Sys2Proof.Claim

/-! ## The operation that completes (R239) -/

/-- A running operation of a slot, or an MMA that runs in front of the slot's own. -/
def mayComplete (l : List MxOp) (slot : Nat) (p : MxOp) : Bool :=
  p.running && (p.slot = slot || (isMma p.instr && l.any (fun q => q.slot = slot && isMma q.instr)))

/-- An operation that is not the slot's, or that is not done yet. -/
def Unfinished (s : State) (core slot : Nat) (p : MxOp) : Prop :=
  p.slot ≠ slot ∨ isMma p.instr = true ∧ p.freed = false ∨ mxCrossing s core p = true

theorem unfinished_iff (s : State) (core slot : Nat) (p : MxOp) :
    (p.slot ≠ slot || (isMma p.instr && !p.freed) || mxCrossing s core p) = true ↔ Unfinished s core slot p := by
  simp [Unfinished, or_assoc]

/-- What a completed operation leaves, after an effect that it had at its start or has now. -/
def mxFinished (s : State) (core slot : Nat) (o : MxOp) (r : State × Byte) : State :=
  let k := core * 16 + slot
  let s0 := dropHeld r.1 k
  let s1 := s0.setCore core { s0.core core with mx := (s.core core).mx.filter (fun p => p.slot ≠ slot) }
  let t := s1.strand k
  setFlags (s1.setStrand k { t with wait := .none, pc := t.pc + .ofNat 64 (mxLen o.instr) }) k r.2

section Complete
variable {s : State} {core slot : Nat}

/-- The event looks at the first candidate. -/
theorem exec_matrixOpComplete (s : State) (core slot : Nat) : exec (.matrixOpComplete core slot) s =
    match (s.core core).mx.find? (mayComplete (s.core core).mx slot) with
    | none => .next s
    | some o => if o.slot ≠ slot || (isMma o.instr && !o.freed) || mxCrossing s core o then .next s
      else match heldAt s (core * 16 + slot) o.decks with
        | d :: ds => .next (noteHeld s (core * 16 + slot) (d :: ds))
        | [] => .next (mxFinished s core slot o (if o.crossing then mxEffect s core o else (s, o.flags))) := rfl

/-- Nothing completes while the first candidate is not done. -/
theorem exec_matrixOpComplete_waits
    (h : ∀ p, (s.core core).mx.find? (mayComplete (s.core core).mx slot) = some p → Unfinished s core slot p) :
    exec (.matrixOpComplete core slot) s = .next s := by
  rw [exec_matrixOpComplete]
  split
  · rfl
  next p hp => exact if_pos ((unfinished_iff ..).mpr (h p hp))

variable {o : MxOp} (hfind : (s.core core).mx.find? (mayComplete (s.core core).mx slot) = some o) (hdone : ¬ Unfinished s core slot o)
include hfind hdone

theorem exec_matrixOpComplete_held (hds : heldAt s (core * 16 + slot) o.decks ≠ []) :
    exec (.matrixOpComplete core slot) s = .next (noteHeld s (core * 16 + slot) (heldAt s (core * 16 + slot) o.decks)) := by
  rw [exec_matrixOpComplete, hfind]
  refine (if_neg (mt (unfinished_iff ..).mp hdone)).trans ?_
  split
  next d ds he => rw [he]
  next he => exact absurd he hds

theorem exec_matrixOpComplete_open (hds : heldAt s (core * 16 + slot) o.decks = []) : exec (.matrixOpComplete core slot) s =
    .next (mxFinished s core slot o (if o.crossing then mxEffect s core o else (s, o.flags))) := by
  rw [exec_matrixOpComplete, hfind]
  refine (if_neg (mt (unfinished_iff ..).mp hdone)).trans ?_
  rw [hds]

end Complete

/-! ## The engine with one operation of a strand (R237) -/

section Among
variable {s : State} {core slot : Nat} {o : MxOp} {pre post : List MxOp} (hmx : (s.core core).mx = pre ++ o :: post)
  (ho : o.slot = slot) (hother : ∀ p ∈ pre ++ post, p.slot ≠ slot)
include hmx ho hother

theorem mx_filter : (s.core core).mx.filter (fun p => p.slot ≠ slot) = pre ++ post := by
  have hpre : pre.filter (fun p => p.slot ≠ slot) = pre := List.filter_eq_self.mpr fun p hp => by
    simpa using hother p (List.mem_append_left _ hp)
  have hpost : post.filter (fun p => p.slot ≠ slot) = post := List.filter_eq_self.mpr fun p hp => by
    simpa using hother p (List.mem_append_right _ hp)
  rw [hmx, List.filter_append, List.filter_cons_of_neg (by simpa using ho), hpre, hpost]

/-- Only the strand's own operation makes its event one of an MMA. -/
theorem any_mma : (s.core core).mx.any (fun q => q.slot = slot && isMma q.instr) = isMma o.instr := by
  have hnone : ∀ l : List MxOp, (∀ p ∈ l, p.slot ≠ slot) → l.any (fun q => q.slot = slot && isMma q.instr) = false := fun l hl =>
    List.any_eq_false.mpr fun p hp => by simp [hl p hp]
  rw [hmx, List.any_append, List.any_cons, hnone pre fun p hp => hother p (List.mem_append_left _ hp),
    hnone post fun p hp => hother p (List.mem_append_right _ hp), ho]
  simp

/-- An operation in front of the strand's own is a candidate where both are MMAs and it runs. -/
theorem mayComplete_before {p : MxOp} (hp : p ∈ pre) :
    mayComplete (s.core core).mx slot p = (p.running && isMma p.instr && isMma o.instr) := by
  simp [mayComplete, any_mma hmx ho hother, hother p (List.mem_append_left _ hp), Bool.and_assoc]

/-- The strand's own operation is the first candidate when it runs and, an MMA, when no MMA in front of it does. -/
theorem find_own (hrun : o.running = true) (hfirst : isMma o.instr = true → ∀ p ∈ pre, p.running = true → isMma p.instr = false) :
    (s.core core).mx.find? (mayComplete (s.core core).mx slot) = some o := by
  have hpre : pre.find? (mayComplete (s.core core).mx slot) = none := by
    refine List.find?_eq_none.mpr fun p hp => ?_
    rw [mayComplete_before hmx ho hother hp]
    simp only [Bool.and_eq_true]
    rintro ⟨⟨hr, hm⟩, hom⟩
    exact absurd hm (Bool.eq_false_iff.mp (hfirst hom p hp hr))
  conv_lhs => rw [hmx]
  rw [List.find?_append, ← hmx, hpre, Option.none_or, List.find?_cons_of_pos (by simp [mayComplete, hrun, ho])]

/-- A candidate of the strand's slot is the strand's own operation; then it runs, and no MMA in front of an MMA does. -/
theorem own_of_find {p : MxOp} (hfind : (s.core core).mx.find? (mayComplete (s.core core).mx slot) = some p) (hp : p.slot = slot) :
    p = o ∧ o.running = true ∧ (isMma o.instr = true → ∀ q ∈ pre, q.running = true → isMma q.instr = false) := by
  have hmem : p ∈ pre ++ o :: post := hmx ▸ List.mem_of_find?_eq_some hfind
  obtain rfl : p = o := by
    rcases List.mem_append.mp hmem with h | h
    · exact absurd hp (hother p (List.mem_append_left _ h))
    · rcases List.mem_cons.mp h with h | h
      · exact h
      · exact absurd hp (hother p (List.mem_append_right _ h))
  have hpre : pre.find? (mayComplete (s.core core).mx slot) = none := by
    cases hq : pre.find? (mayComplete (s.core core).mx slot) with
    | none => rfl
    | some q =>
      have hfirst : (pre ++ p :: post).find? (mayComplete (s.core core).mx slot) = some q := by rw [List.find?_append, hq]; rfl
      rw [← hmx, hfind] at hfirst
      obtain rfl := Option.some.inj hfirst
      exact absurd hp (hother p (List.mem_append_left _ (List.mem_of_find?_eq_some hq)))
  have hmay : mayComplete (s.core core).mx slot p = true := List.find?_some hfind
  refine ⟨rfl, (Bool.and_eq_true_iff.mp hmay).1, fun hm q hq hr => Bool.eq_false_iff.mpr fun hqm => ?_⟩
  have hnot := List.find?_eq_none.mp hpre q hq
  rw [mayComplete_before hmx ho hother hq, hr, hqm, hm] at hnot
  exact hnot rfl

end Among

/-! ## What a completion leaves (R239, R246) -/

section Finished
variable {s : State} {core slot : Nat} {o : MxOp} {r : State × Byte}

theorem core_mxFinished : (mxFinished s core slot o r).core core =
    { r.1.core core with mx := (s.core core).mx.filter (fun (p : MxOp) => p.slot ≠ slot) } :=
  State.core_setCore ..

theorem strand_mxFinished : (mxFinished s core slot o r).strand (core * 16 + slot) =
    { (r.1.strand (core * 16 + slot)).orFlags r.2 with
      wait := .none, pc := (r.1.strand (core * 16 + slot)).pc + .ofNat 64 (mxLen o.instr) } := by
  rw [mxFinished, setFlags, State.strand_setStrand, State.strand_setStrand]
  rfl

theorem strand_mxFinished_other {j : Nat} (hj : j ≠ core * 16 + slot) : (mxFinished s core slot o r).strand j = r.1.strand j := by
  rw [mxFinished, setFlags, State.strand_setStrand_other _ _ _ _ hj, State.strand_setStrand_other _ _ _ _ hj]
  rfl

theorem mxLen_word (i : Instr) : (BitVec.ofNat 64 (mxLen i) : Word) = if isMma i then 8 else 4 := by
  unfold mxLen
  split <;> rfl

end Finished

theorem isMma_iff {i : Instr} : isMma i = true ↔ ∃ f, i = .mma f := by
  cases i <;> simp [isMma]

/-- Settles O24: the event looks at the first candidate of the engine, which is the strand's own operation once that is done. -/
theorem matrixOperationsComplete : Obligations.MatrixOperationsComplete := by
  intro s core slot o pre post hslot hmx ho hother k first done ds blocked out
  have hdone : done ↔ (isMma o.instr = true → o.freed = true ∧ first) :=
    ⟨fun h hm => by obtain ⟨f, hf⟩ := isMma_iff.mp hm; exact h f hf, fun h f hf => h (isMma_iff.mpr ⟨f, hf⟩)⟩
  have hfind : o.running = true → done → (s.core core).mx.find? (mayComplete (s.core core).mx slot) = some o := fun hr hd =>
    find_own hmx ho hother hr fun hm => (hdone.mp hd hm).2
  have hfinished : done → ¬ blocked → ¬ Unfinished s core slot o := by
    rintro hd hb (h | ⟨hm, hf⟩ | h)
    · exact h ho
    · exact Bool.false_ne_true (hf.symm.trans (hdone.mp hd hm).1)
    · exact hb (Bool.and_eq_true_iff.mp h)
  have hout : ∀ r : State × Byte, EffectOnly s r.1 k →
      exec (.matrixOpComplete core slot) s = .next (mxFinished s core slot o r) → ∃ t, out r.1 r.2 t := by
    intro r heff hexec
    refine ⟨_, hexec, ?_, ?_, ?_, ?_, rfl, ?_, ?_, fun j hj => (strand_mxFinished_other hj).trans (heff.others j hj)⟩
    · rw [core_mxFinished]
      exact mx_filter hmx ho hother
    · rw [strand_mxFinished]
    · rw [strand_mxFinished, heff.own, ← mxLen_word]
    · rw [strand_mxFinished, heff.own]
      rfl
    · rw [core_mxFinished]
    · rw [core_mxFinished]
  refine ⟨fun hwait => exec_matrixOpComplete_waits fun p hp => ?_, fun hr hd hb hds => ?_, fun hr hd hds hc => ?_,
    fun hr hd hds hc hb => ?_, ?_⟩
  · by_cases hslotp : p.slot = slot
    · obtain ⟨rfl, hr, hfirst⟩ := own_of_find hmx ho hother hp hslotp
      rcases hwait with h | h | ⟨hc, hb⟩
      · exact absurd hr (Bool.eq_false_iff.mp h)
      · by_contra hfin
        exact h (hdone.mpr fun hm => ⟨by_contra fun hf => hfin (.inr (.inl ⟨hm, Bool.eq_false_iff.mpr hf⟩)), hfirst hm⟩)
      · exact .inr (.inr (Bool.and_eq_true_iff.mpr ⟨hc, hb⟩))
    · exact .inl hslotp
  · exact exec_matrixOpComplete_held (hfind hr hd) (hfinished hd hb) hds
  · have hexec := exec_matrixOpComplete_open (hfind hr hd)
      (hfinished hd fun hb => Bool.false_ne_true (hc.symm.trans hb.1)) hds
    rw [hc] at hexec
    exact hout (s, o.flags) (.refl s k) hexec
  · have hexec := exec_matrixOpComplete_open (hfind hr hd)
      (hfinished hd fun hb' => Bool.false_ne_true (hb.symm.trans hb'.2)) hds
    rw [hc] at hexec
    subst ho
    exact hout _ (mxEffect_only s core o hslot) hexec
  · change execArrayFree core s = _
    simp only [execArrayFree, Bool.and_eq_true]

end Sys2Proof.Proofs
end


section
/-!
PROOFS. The canonical form of the memory (log 3), as a predicate, and that accesses, reports and the operations over strands, groups and
launches keep it. A function that writes no memory keeps it because the memory of what it answers is that of the state it takes.
-/

namespace Sys2Proof.Proofs
open Sys2Proof Sys2Proof.Machine Sys2Proof.Claim

/-- Memory in its canonical form (log 3), as a predicate that a proof does not take apart. -/
def Canon (m : List Host.Cell) : Prop := Memory.wf m
/-- The memory of the next state; none where there is no next state. -/
def nextMem : Res → List Host.Cell
  | .next t => t.mem
  | _ => []
/-- The memory of the state that a step of an engine answers. -/
def engMem : EngOut → List Host.Cell
  | .idle t => t.mem
  | .done t => t.mem
  | .fault _ _ _ => []
/-- The memory of the state that a beat answers. -/
def beatMem : BeatOut → List Host.Cell
  | .done t => t.mem
  | _ => []

/-- The next state, where there is one, has its memory in canonical form. -/
def CanonNext (r : Res) : Prop := Canon (nextMem r)
def CanonEng (r : EngOut) : Prop := Canon (engMem r)
def CanonBeat (r : BeatOut) : Prop := Canon (beatMem r)

theorem canon_nil : Canon [] := Memory.wf_nil
theorem canonNext_next {t : State} : CanonNext (.next t) ↔ Canon t.mem := .rfl
theorem canonNext_fault {r} : CanonNext (.fault r) := canon_nil
theorem canonEng_idle {t : State} : CanonEng (.idle t) ↔ Canon t.mem := .rfl
theorem canonEng_done {t : State} : CanonEng (.done t) ↔ Canon t.mem := .rfl
theorem canonEng_fault {c v o} : CanonEng (.fault c v o) := canon_nil
theorem canonBeat_done {t : State} : CanonBeat (.done t) ↔ Canon t.mem := .rfl
theorem canonBeat_fault {c v} : CanonBeat (.fault c v) := canon_nil
theorem canonBeat_blocked {l} : CanonBeat (.blocked l) := canon_nil

theorem canon_write {m a v} (hm : Canon m) : Canon (Memory.write m a v) := Memory.wf_write m a v hm
theorem canon_writeN {m a n v} (hm : Canon m) : Canon (Memory.writeN m a n v) := Memory.wf_writeN n m a v hm
theorem canon_writeMasked {m a es v} (hm : Canon m) : Canon (Memory.writeMasked m a es v) := Memory.wf_writeMasked es m a v hm
theorem canon_filter {m p} (hm : Canon m) : Canon (List.filter p m) := Memory.wf_filter m p hm
theorem canon_foldl_write {α : Type} {f : List Host.Cell → α → Nat} {g : List Host.Cell → α → Byte} {l : List α} {m : List Host.Cell}
    (hm : Canon m) : Canon (l.foldl (fun m x => Memory.write m (f m x) (g m x)) m) := Memory.wf_foldl_write f g l m hm
theorem canon_ite {c : Prop} [Decidable c] {a b : State} (ha : Canon a.mem) (hb : Canon b.mem) : Canon (if c then a else b).mem := by
  split <;> assumption
theorem canonNext_ite {c : Prop} [Decidable c] {a b : Res} (ha : CanonNext a) (hb : CanonNext b) : CanonNext (if c then a else b) := by
  split <;> assumption
theorem canon_foldl {α : Type} {f : State → α → State} (hf : ∀ s x, Canon s.mem → Canon (f s x).mem) {l : List α} :
    ∀ {s : State}, Canon s.mem → Canon (l.foldl f s).mem := by
  induction l with
  | nil => exact id
  | cons x r ih => exact fun h => ih (hf _ x h)

section Canon
variable {s : State}

/-! ## Counters and tables -/

theorem canon_setBar {ctx key b} (hs : Canon s.mem) : Canon (State.setBar s ctx key b).mem := by
  unfold State.setBar
  split <;> exact hs

theorem canon_noteHeld {h ds} (hs : Canon s.mem) : Canon (noteHeld s h ds).mem := by
  unfold noteHeld
  repeat' split
  all_goals exact hs

theorem canon_count {core ev amount} (hs : Canon s.mem) : Canon (State.count s core ev amount).mem := by
  unfold State.count
  split
  · split
    · refine canon_foldl (fun _ _ h => ?_) hs
      split <;> exact h
    · exact hs
  · exact hs

theorem canon_correctAt {write loc n} (hs : Canon s.mem) : Canon (correctAt s write loc n).mem := by
  unfold correctAt
  dsimp only
  split
  · exact hs
  split
  · exact hs
  · exact canon_count hs

/-! ## Accesses -/

theorem canon_raceCheck {k h write atomic} {t} (he : raceCheck s k h write atomic = some t) (hs : Canon s.mem) : Canon t.mem := by
  grind [raceCheck]
theorem canon_checkPiece {k va n m} {t y} (he : checkPiece s k va n m = .ok (t, y)) (hs : Canon s.mem) : Canon t.mem := by
  grind [checkPiece, canon_raceCheck]
theorem canon_checkPieces {k m l} {t y} (he : checkPieces s k m l = .ok (t, y)) (hs : Canon s.mem) : Canon t.mem := by
  fun_induction checkPieces generalizing t y <;> grind [canon_checkPiece]
theorem canon_accessIssue {k m ps touched} {t qs} (he : accessIssue s k m ps touched = .ok t qs) (hs : Canon s.mem) : Canon t.mem := by
  grind [accessIssue, canon_checkPieces]
theorem canon_accessParts {k m ps touched} {t qs} (he : accessParts s k m ps touched = .ok t qs) (hs : Canon s.mem) : Canon t.mem := by
  grind [accessParts, canon_accessIssue]
theorem canon_accessPieces {k m ps} {t qs} (he : accessPieces s k m ps = .ok t qs) (hs : Canon s.mem) : Canon t.mem := by
  grind [accessPieces, canon_accessParts]
theorem canon_accessBytes {k va n m} {t qs} (he : accessBytes s k va n m = .ok t qs) (hs : Canon s.mem) : Canon t.mem := by
  grind [accessBytes, canon_accessPieces]
theorem canon_writePieces {l n} (hs : Canon s.mem) : Canon (writePieces s l n).mem := by
  fun_induction writePieces <;> grind [canon_writeN]

theorem canon_countPieces {core write ps} (hs : Canon s.mem) : Canon (countPieces s core write ps).mem := by
  unfold countPieces
  dsimp only
  refine canon_foldl (fun _ _ h => ?_) hs
  split
  · exact canon_count (canon_correctAt h)
  · exact canon_correctAt h

/-! ## The front end's own accesses, rings and packets -/

theorem canon_extSeen {who va n} (hs : Canon s.mem) : Canon (extSeen s who va n).mem := by
  unfold extSeen
  split
  · exact hs
  refine canon_foldl (fun _ _ h => ?_) hs
  split
  · exact canon_correctAt h
  · exact h

theorem canon_touchSeen {x} (hs : Canon s.mem) : Canon (touchSeen s x).mem := canon_foldl (fun _ _ h => canon_extSeen h) hs

theorem canon_whenTouch {h x go} (hs : Canon s.mem) (hgo : ∀ u, Canon u.mem → CanonNext (go u)) : CanonNext (whenTouch s h x go) := by
  unfold whenTouch
  split
  · exact hgo _ (canon_touchSeen hs)
  · exact canon_noteHeld hs

theorem canon_whenOpen {h who l go} (hs : Canon s.mem) (hgo : ∀ u, Canon u.mem → Canon (go u).mem) : Canon (whenOpen s h who l go).mem
    := by
  unfold whenOpen
  split
  · exact hgo _ hs
  · exact canon_noteHeld hs

theorem canon_writeLocs {l n} (hs : Canon s.mem) : Canon (writeLocs s l n).mem := by
  fun_induction writeLocs <;> grind [canon_writeN]
theorem canon_feWrite {who va n v} {t} (he : feWrite s who va n v = .ok t) (hs : Canon s.mem) : Canon t.mem := by
  grind [feWrite, canon_writeLocs]
theorem canon_qsbPut {qsb off n v} (hs : Canon s.mem) : Canon (qsbPut s qsb off n v).mem := canon_writeN hs

theorem canon_ringPost {key rec'} (hs : Canon s.mem) : Canon (ringPost s key rec').mem := by
  unfold ringPost
  repeat' split
  all_goals exact hs

theorem canon_haltQueue {q pkt} (hs : Canon s.mem) : Canon (haltQueue s q pkt).mem := by
  grind [haltQueue, canon_qsbPut]
theorem canon_completePacket {q pkt h status covBound w2 w3} (hs : Canon s.mem) : Canon (completePacket s q pkt h status covBound w2
    w3).mem := by
  grind [completePacket, canon_qsbPut, canon_ringPost, canon_haltQueue]
theorem canon_signalAdd {who va v} {t} (he : signalAdd s who va v = .ok t) (hs : Canon s.mem) : Canon t.mem := by
  grind [signalAdd, canon_extSeen, canon_feWrite]

/-! ## Strands, groups and launches -/

theorem canon_setStageSt {l st x} (hs : Canon s.mem) : Canon (setStageSt s l st x).mem := by
  unfold setStageSt
  split <;> exact hs
theorem canon_mapCores {f l} (hs : Canon s.mem) : Canon (mapCores s f l).mem := by
  fun_induction mapCores <;> grind [State.setCore]
theorem canon_mapStrands {f l} (hs : Canon s.mem) : Canon (mapStrands s f l).mem := by
  fun_induction mapStrands <;> grind [State.setStrand]
theorem canon_writeSave {k} (hs : Canon s.mem) : Canon (writeSave s k).mem := canon_writeN hs
theorem canon_enterHeld {core n} (hs : Canon s.mem) : Canon (enterHeld s core n).mem := by
  fun_induction enterHeld <;> grind [State.setCore]

theorem canon_enqueueTask {core x} (hs : Canon s.mem) : Canon (enqueueTask s core x).mem := by
  unfold enqueueTask
  dsimp only
  split <;> exact hs

theorem canon_takeTask {k x} (hs : Canon s.mem) : Canon (takeTask s k x).mem := canon_count (canon_count (canon_writeSave hs))
theorem canon_searchTask {k l} (hs : Canon s.mem) : Canon (searchTask s k l).mem := by
  fun_induction searchTask <;> grind [canon_takeTask, State.setCore, canon_count]

theorem canon_seekTask {k} (hs : Canon s.mem) : Canon (seekTask s k).mem := by
  unfold seekTask
  split
  · exact canon_searchTask hs
  · exact hs

theorem canon_countPoints {core c l} (hs : Canon s.mem) : Canon (countPoints core c s l).mem := by
  fun_induction countPoints <;> grind [canon_count]

theorem canon_commitOne {k o} (hs : Canon s.mem) : Canon (commitOne s k o).mem := by
  unfold commitOne
  dsimp only
  split
  · repeat' split
    all_goals exact hs
  · exact hs
  · exact hs
  · split
    · exact canon_enqueueTask hs
    · exact hs
  · exact hs
  · exact hs
  · split
    · exact canon_countPoints hs
    · exact hs
  · exact hs

theorem canon_makeWay {x} (hs : Canon s.mem) : Canon (makeWay s x).mem := by
  unfold makeWay
  split
  · exact canon_enterHeld hs
  · exact hs

theorem canon_commitAll {k l} (hs : Canon s.mem) : Canon (commitAll s k l).mem := by
  fun_induction commitAll <;> grind [canon_commitOne, State.setStrand, canon_makeWay]
theorem canon_regionAt {k p} (hs : Canon s.mem) : Canon (regionAt s k p).mem := canon_writeSave (canon_commitAll hs)

theorem canon_returnBatch {k} (hs : Canon s.mem) : Canon (returnBatch s k).mem := by
  unfold returnBatch
  repeat' split
  all_goals exact hs

theorem canon_leaveLate {k} (hs : Canon s.mem) : Canon (leaveLate s k).mem := by
  unfold leaveLate
  split <;> exact hs
theorem canon_discardStrand {k} (hs : Canon s.mem) : Canon (discardStrand s k).mem := canon_leaveLate (canon_returnBatch hs)
theorem canon_discardStrands {l} (hs : Canon s.mem) : Canon (discardStrands s l).mem := by
  fun_induction discardStrands <;> grind [canon_discardStrand]
theorem canon_withdrawArrivals {ctx g} (hs : Canon s.mem) : Canon (withdrawArrivals s ctx g).mem := by
  unfold withdrawArrivals
  split <;> exact hs

theorem canon_stopGroup {l st} (hs : Canon s.mem) : Canon (stopGroup s l st).mem := by
  unfold stopGroup
  split
  · exact hs
  · exact canon_withdrawArrivals (canon_mapCores (canon_discardStrands hs))

theorem canon_discardGroup {l st} (hs : Canon s.mem) : Canon (discardGroup s l st).mem := by
  unfold discardGroup
  split
  · exact hs
  split
  · exact canon_setStageSt (canon_stopGroup hs)
  · exact hs

theorem canon_discardStages {l l'} (hs : Canon s.mem) : Canon (discardStages s l l').mem := by
  fun_induction discardStages <;> grind [canon_discardGroup]

theorem canon_discardLaunch {l} (hs : Canon s.mem) : Canon (discardLaunch s l).mem := by
  unfold discardLaunch
  split
  · exact canon_discardStages hs
  · exact hs

theorem canon_restartStrand {fpc k} (hs : Canon s.mem) : Canon (restartStrand s fpc k).mem := by
  unfold restartStrand
  dsimp only
  split
  · exact hs
  · exact canon_correctAt hs

theorem canon_restartStrands {fpc l} (hs : Canon s.mem) : Canon (restartStrands s fpc l).mem := by
  fun_induction restartStrands <;> grind [canon_restartStrand]

theorem canon_restartGroup {l st} (hs : Canon s.mem) : Canon (restartGroup s l st).mem := by
  unfold restartGroup
  split
  · split
    · exact canon_setStageSt (canon_restartStrands hs)
    · exact hs
  · exact hs

theorem canon_dumpRecords {base size n l} {t y} (he : dumpRecords s base size n l = (t, y)) (hs : Canon s.mem) : Canon t.mem := by
  fun_induction dumpRecords generalizing y <;> grind [canon_feWrite]

theorem canon_tryWrite {pa n v} (hs : Canon s.mem) : Canon (tryWrite s pa n v).mem := by
  unfold tryWrite
  split
  · exact canon_feWrite ‹_› hs
  · exact hs

theorem canon_writeDump {la l st f} (hs : Canon s.mem) : Canon (writeDump s la l st f).1.mem := by
  unfold writeDump
  split
  · exact hs
  dsimp only
  split
  · exact hs
  split
  · exact hs
  split
  · exact hs
  split
  · split
    · exact hs
    dsimp only
    split
    · exact canon_feWrite ‹_› hs
    · exact hs
  split
  · exact hs
  next h1 =>
  have hs1 := canon_feWrite h1 hs
  split
  · exact hs
  · exact hs
  next h2 _ =>
  have hs2 : ∀ {pa n v}, Canon (tryWrite _ pa n v).mem := canon_tryWrite (canon_feWrite h2 hs1)
  split
  next hd =>
    have hs3 := canon_dumpRecords hd hs2
    split
    · exact canon_feWrite ‹_› hs3
    · exact hs3
  next hd =>
    have hs3 := canon_dumpRecords hd hs2
    split
    · exact hs3
    next h4 =>
    have hs4 := canon_feWrite h4 hs3
    dsimp only
    split
    · exact canon_feWrite ‹_› hs4
    · exact hs4

theorem canon_appendFault {la l st f} (hs : Canon s.mem) : Canon (appendFault s la l st f).mem := by
  grind [appendFault, canon_feWrite, State.setLaunch, canon_tryWrite]

theorem canon_endLaunch {l status w3} (hs : Canon s.mem) : Canon (endLaunch s l status w3).mem := by
  unfold endLaunch
  split
  · exact hs
  · exact canon_completePacket (canon_mapCores hs)

theorem canon_countIdle {upTo l} (hs : Canon s.mem) : Canon (countIdle s upTo l).mem := by
  fun_induction countIdle <;> grind [canon_count]

theorem canon_endIdle {l st} (hs : Canon s.mem) : Canon (endIdle s l st).mem := by
  unfold endIdle
  split
  · exact canon_countIdle hs
  · exact canon_countIdle hs
  · exact canon_countIdle hs
  · exact hs

theorem canon_endStages {l l'} (hs : Canon s.mem) : Canon (endStages s l l').mem := by
  fun_induction endStages <;> grind [canon_endIdle, canon_stopGroup, canon_setStageSt]
theorem canon_flushValues {c} (hs : Canon s.mem) : Canon (flushValues s c).mem := canon_foldl_write hs
theorem canon_flushStages {l} (hs : Canon s.mem) : Canon (flushStages s l).mem := by
  grind [flushStages, canon_flushValues, canon_foldl]

theorem canon_edgeCores {la cores} (hs : Canon s.mem) : Canon (edgeCores s la cores).mem := by
  unfold edgeCores
  dsimp only
  repeat' split
  all_goals exact hs

theorem canon_countLeft {l which} (hs : Canon s.mem) : Canon (countLeft s l which).mem := by
  unfold countLeft
  split <;> exact hs
theorem canon_groupFault {l st f} (hs : Canon s.mem) : Canon (groupFault s l st f).mem := by
  grind [groupFault, canon_countLeft, canon_appendFault, State.setLaunch, canon_writeDump, canon_flushStages, canon_endLaunch,
    canon_endStages, canon_mapStrands, canon_edgeCores]
theorem canon_endOfLaunch {l} (hs : Canon s.mem) : Canon (endOfLaunch s l).mem := by
  grind [endOfLaunch, canon_countLeft, canon_signalAdd, canon_endLaunch]

theorem canon_completeLaunch {l} (hs : Canon s.mem) : Canon (completeLaunch s l).mem := by
  unfold completeLaunch
  split
  · exact canon_endOfLaunch hs
  · exact canon_noteHeld hs

theorem canon_strandGroupFault {k f} (hs : Canon s.mem) : Canon (strandGroupFault s k f).mem := by
  unfold strandGroupFault
  split
  · exact canon_groupFault hs
  · exact hs

theorem canon_trapAt {k cause v} (hs : Canon s.mem) : Canon (trapAt s k cause v).mem := by
  unfold trapAt
  dsimp only
  split
  · exact canon_strandGroupFault hs
  split
  · exact canon_strandGroupFault hs
  · exact hs

theorem canon_checked {i body} (hs : Canon s.mem) (hbody : CanonNext body) : CanonNext (checked i s body) := by
  unfold checked
  dsimp only
  split
  · exact canon_trapAt hs
  split
  · exact canon_trapAt hs
  · exact hbody

end Canon
end Sys2Proof.Proofs
end

section
/-!
PROOFS. Scalar arithmetic, agents, queues and clocks keep the canonical form of the memory (log 3).
-/

namespace Sys2Proof.Proofs
open Sys2Proof Sys2Proof.Machine Sys2Proof.Claim

section CanonUnits
variable {s : State}

/-! ## Control -/

theorem canon_execJr {a imm} (hs : Canon s.mem) : CanonNext (execJr a imm s) := by
  unfold execJr
  dsimp only
  split
  · exact canon_trapAt hs
  · exact hs

theorem canon_execJalr {d a imm} (hs : Canon s.mem) : CanonNext (execJalr d a imm s) := by
  unfold execJalr
  dsimp only
  split
  · exact canon_trapAt hs
  · exact hs

theorem canon_execRegion (hs : Canon s.mem) : CanonNext (execRegion s) := by
  grind [execRegion, canon_regionAt, hold, canon_noteHeld, State.setCur, State.setStrand, retire, State.setPc, canonNext_next]

theorem canon_execTend (hs : Canon s.mem) : CanonNext (execTend s) := by
  unfold execTend
  split
  · exact canon_noteHeld hs
  · exact canon_count (canon_returnBatch (canon_commitAll hs))

/-! ## Agents and KV blocks -/

theorem canon_writeRecord {id} (hs : Canon s.mem) : Canon (writeRecord s id).mem := by
  unfold writeRecord
  split
  · split
    · exact canon_feWrite ‹_› hs
    · exact hs
  · exact hs

theorem canon_awaitSlot {id} (hs : Canon s.mem) : Canon (awaitSlot s id).mem := by
  unfold awaitSlot
  repeat' split
  all_goals exact hs

theorem canon_leaveRing {part id} (hs : Canon s.mem) : Canon (leaveRing s part id).mem := by
  unfold leaveRing
  dsimp only
  split <;> exact hs

theorem canon_releaseBlock {id} (hs : Canon s.mem) : Canon (releaseBlock s id).mem := by
  unfold releaseBlock
  repeat' split
  all_goals exact hs

theorem canon_shareBlock {id} (hs : Canon s.mem) : Canon (shareBlock s id).mem := by
  unfold shareBlock
  split <;> exact hs
theorem canon_releaseAll {l} (hs : Canon s.mem) : Canon (releaseAll s l).mem := by
  fun_induction releaseAll <;> grind [canon_releaseBlock]
theorem canon_shareAll {l} (hs : Canon s.mem) : Canon (shareAll s l).mem := by
  fun_induction shareAll <;> grind [canon_shareBlock]
theorem canon_completeBlock {part x} (hs : Canon s.mem) : Canon (completeBlock s part x).1.mem := by
  grind [completeBlock, canon_shareBlock, newBlock, canon_releaseAll]
theorem canon_completeBlocks {part x n} (hs : Canon s.mem) : Canon (completeBlocks s part x n).1.mem := by
  fun_induction completeBlocks <;> grind [canon_completeBlock]
theorem canon_setLast {part x place} (hs : Canon s.mem) : Canon (setLast s part x place).1.mem := by
  grind [setLast, newBlock, canon_releaseAll]
theorem canon_computeKv {part x} (hs : Canon s.mem) : Canon (computeKv s part x).1.mem := canon_setLast (canon_completeBlocks hs)
theorem canon_trimCtx {part x m} (hs : Canon s.mem) : Canon (trimCtx s part x m).1.mem := by
  grind [trimCtx, canon_releaseAll, canon_setLast]

theorem canon_dropCtx {h} (hs : Canon s.mem) : Canon (dropCtx s h).mem := by
  unfold dropCtx
  split
  · exact canon_releaseAll hs
  · exact hs

theorem canon_dropCtxs {l} (hs : Canon s.mem) : Canon (dropCtxs s l).mem := by
  fun_induction dropCtxs <;> grind [canon_dropCtx]

theorem canon_removeAgent {id} (hs : Canon s.mem) : Canon (removeAgent s id).mem := by
  unfold removeAgent
  split
  · exact canon_leaveRing (canon_dropCtxs hs)
  · exact hs

theorem canon_settleOne {id x} (hs : Canon s.mem) : Canon (settleOne s id x).mem := by
  unfold settleOne
  dsimp only
  split
  · split
    · exact hs
    split
    · split
      next h =>
        have hs1 := canon_feWrite h hs
        exact canon_completePacket (canon_removeAgent hs1)
      · exact canon_completePacket hs
    · exact canon_completePacket hs
    · exact canon_completePacket hs
  · exact hs

theorem canon_settle {id l} (hs : Canon s.mem) : Canon (settle s id l).mem := by
  fun_induction settle <;> grind [canon_settleOne]

theorem canon_stopAgent {id st} (hs : Canon s.mem) : Canon (stopAgent s id st).mem := by
  unfold stopAgent
  split
  · exact canon_writeRecord (canon_leaveRing hs)
  · exact hs

theorem canon_agentFault {id cause tval under} (hs : Canon s.mem) : Canon (agentFault s id cause tval under).mem := by
  unfold agentFault
  dsimp only
  split
  · split
    · exact canon_settle (canon_ringPost (canon_stopAgent hs))
    · exact canon_stopAgent hs
  · exact hs

theorem canon_suspendNow {id} (hs : Canon s.mem) : Canon (suspendNow s id).mem := canon_settle (canon_stopAgent hs)
theorem canon_requestSuspend {id} (hs : Canon s.mem) : Canon (requestSuspend s id).mem := by
  grind [requestSuspend, settleAgent, canon_settle, canon_suspendNow, State.setAgent]
theorem canon_agentWrite {home va n v} {t} (he : agentWrite s home va n v = .ok t) (hs : Canon s.mem) : Canon t.mem := by
  grind [agentWrite, canon_writeN]

theorem canon_onAgent {body} (hs : Canon s.mem) (hbody : ∀ x, CanonNext (body x)) : CanonNext (onAgent s body) := by
  unfold onAgent
  split
  · exact hbody _
  · exact canon_nil

theorem canon_withCtx {a c body} (hs : Canon s.mem) (hbody : ∀ x y, CanonNext (body x y)) : CanonNext (withCtx s a c body) := by
  unfold withCtx
  split
  · split
    · exact canon_agentFault hs
    · exact hbody _ _
  · exact canon_agentFault hs

theorem canon_execGcmp {gd i gs imm cond} (hs : Canon s.mem) : CanonNext (execGcmp gd i gs imm cond s) := by
  unfold execGcmp
  refine canon_onAgent hs (fun _ => ?_)
  split
  · exact canon_agentFault hs
  · exact hs

theorem canon_execGb {sense imm} (hs : Canon s.mem) : CanonNext (execGb sense imm s) := by
  unfold execGb
  refine canon_onAgent hs (fun _ => ?_)
  split <;> exact hs

theorem canon_execGcall {imm} (hs : Canon s.mem) : CanonNext (execGcall imm s) := by
  unfold execGcall
  refine canon_onAgent hs (fun _ => ?_)
  split
  · exact canon_agentFault hs
  · exact hs

theorem canon_execGret (hs : Canon s.mem) : CanonNext (execGret s) := by
  unfold execGret
  refine canon_onAgent hs (fun _ => ?_)
  split
  · exact hs
  · exact canon_agentFault hs

theorem canon_execGsig {gd gs imm} (hs : Canon s.mem) : CanonNext (execGsig gd gs imm s) := by
  unfold execGsig
  dsimp only
  refine canon_onAgent hs (fun _ => ?_)
  split
  · exact canon_agentFault hs
  split
  · exact canon_agentFault hs
  · exact canon_writeN hs

theorem canon_execGld {gd gs w imm} (hs : Canon s.mem) : CanonNext (execGld gd gs w imm s) := by
  unfold execGld
  refine canon_onAgent hs (fun _ => ?_)
  split
  · exact canon_agentFault hs
  · exact canon_extSeen hs

theorem canon_gwaitRead {i gd gs cond imm} (hs : Canon s.mem) : CanonNext (gwaitRead i gd gs cond imm s) := by
  unfold gwaitRead
  refine canon_onAgent hs (fun _ => ?_)
  split
  · exact canon_agentFault hs
  split <;> exact canon_extSeen hs

theorem canon_execGwait {gd gs cond imm} (hs : Canon s.mem) : CanonNext (execGwait gd gs cond imm s) := by
  unfold execGwait
  split
  · exact canon_agentFault hs
  · exact canon_gwaitRead hs

theorem canon_execGwaitRecheck {id} (hs : Canon s.mem) : CanonNext (execGwaitRecheck id s) := by
  unfold execGwaitRecheck
  split
  · split
    · split
      · refine canon_whenTouch hs fun u h => ?_
        next gd gs cond imm _ _ =>
        have hg : CanonNext (gwaitRead (.gwait gd gs cond imm) gd gs cond imm { u with fa := id }) := canon_gwaitRead h
        split
        next he =>
          rw [he] at hg
          exact canon_awaitSlot hg
        · exact hg
      · exact hs
    · exact hs
  · exact hs

theorem canon_execGyield (hs : Canon s.mem) : CanonNext (execGyield s) := by
  unfold execGyield
  dsimp only
  refine canon_onAgent hs (fun _ => ?_)
  split <;> exact hs

theorem canon_execGpri {imm} (hs : Canon s.mem) : CanonNext (execGpri imm s) := by
  unfold execGpri
  dsimp only
  refine canon_onAgent hs (fun _ => ?_)
  split
  · exact canon_agentFault hs
  split
  · exact canon_agentFault hs
  · exact hs

theorem canon_execGhalt {gs} (hs : Canon s.mem) : CanonNext (execGhalt gs s) := by
  unfold execGhalt
  dsimp only
  refine canon_onAgent hs (fun _ => ?_)
  split
  · exact canon_settle (canon_ringPost (canon_stopAgent (canon_dropCtxs hs)))
  · exact canon_stopAgent (canon_dropCtxs hs)

theorem canon_execCnew {cd imm} (hs : Canon s.mem) : CanonNext (execCnew cd imm s) := by
  grind [execCnew, canon_onAgent, putCtx, agentEnd, State.setAgent, canon_dropCtx, State.setTok, agentTrap, canon_agentFault,
    agentIllegal, canonNext_next]

theorem canon_execCfork {cd cs} (hs : Canon s.mem) : CanonNext (execCfork cd cs s) := by
  unfold execCfork
  refine canon_onAgent hs (fun _ => canon_withCtx hs (fun _ _ => ?_))
  split
  · exact canon_agentFault hs
  · exact canon_dropCtx (canon_shareAll hs)

theorem canon_execCtok {gd cs gs} (hs : Canon s.mem) : CanonNext (execCtok gd cs gs s) := by
  unfold execCtok
  refine canon_onAgent hs (fun _ => canon_withCtx hs (fun _ _ => ?_))
  split
  · exact hs
  · exact canon_agentFault hs

theorem canon_execCappt {cd gs} (hs : Canon s.mem) : CanonNext (execCappt cd gs s) := by
  unfold execCappt
  refine canon_onAgent hs (fun _ => canon_withCtx hs (fun _ _ => ?_))
  split
  · exact canon_agentFault hs
  split
  · exact canon_agentFault hs
  · exact hs

theorem canon_execCbind {cd imm} (hs : Canon s.mem) : CanonNext (execCbind cd imm s) := by
  grind [execCbind, canon_onAgent, canon_withCtx, agentEnd, State.setAgent, canon_releaseAll, State.setTok, agentTrap, canon_agentFault,
    canonNext_next]
theorem canon_execCsets {cd gs sel} (hs : Canon s.mem) : CanonNext (execCsets cd gs sel s) := by
  grind [execCsets, canon_onAgent, canon_withCtx, agentEnd, State.setAgent, State.setTok, agentTrap, canon_agentFault, agentIllegal,
    canonNext_next]
theorem canon_execCsetx {cd gs sel} (hs : Canon s.mem) : CanonNext (execCsetx cd gs sel s) := by
  grind [execCsetx, canon_onAgent, canon_withCtx, agentEnd, State.setAgent, State.setTok, agentTrap, canon_agentFault, agentIllegal,
    canonNext_next]

/-! ## Queues and rings -/

theorem canon_moveToTail {prio q} (hs : Canon s.mem) : Canon (moveToTail s prio q).mem := by
  unfold moveToTail
  dsimp only
  split
  · split
    · exact hs
    · exact canon_qsbPut (canon_qsbPut (canon_qsbPut hs))
  · exact hs

theorem canon_moveToHead {prio q} (hs : Canon s.mem) : Canon (moveToHead s prio q).mem := by
  unfold moveToHead
  dsimp only
  split
  · split
    · exact hs
    · exact canon_qsbPut (canon_qsbPut (canon_qsbPut hs))
  · exact hs

theorem canon_asyncOpen {q} (hs : Canon s.mem) : Canon (asyncOpen s q).1.mem := by
  unfold asyncOpen
  dsimp only
  repeat' split
  all_goals exact hs

theorem canon_countPacket {q reset} (hs : Canon s.mem) : Canon (countPacket s q reset).mem := by
  unfold countPacket
  split <;> exact hs

theorem canon_advancePast {q target} (hs : Canon s.mem) : Canon (advancePast s q target).mem := by
  unfold advancePast
  refine canon_countPacket (canon_qsbPut ?_)
  split
  · exact canon_feWrite ‹_› hs
  · exact hs

theorem canon_finishAt {q h target} (hs : Canon s.mem) : Canon (finishAt s q h target).mem := canon_completePacket (canon_advancePast hs)

theorem canon_failWith {q h status w3} (hs : Canon s.mem) : Canon (failWith s q h status w3).mem := by
  unfold failWith
  refine canon_completePacket ?_
  split
  · exact canon_advancePast hs
  · exact hs

theorem canon_haltHere {q status} (hs : Canon s.mem) : Canon (haltHere s q status).mem := canon_haltQueue (canon_qsbPut hs)

theorem canon_settleHalt {q} (hs : Canon s.mem) : Canon (settleHalt s q).mem := by
  unfold settleHalt
  dsimp only
  split
  · split
    · exact canon_qsbPut hs
    · exact canon_haltQueue hs
  · exact hs

theorem canon_recheckWait {q} (hs : Canon s.mem) : Canon (recheckWait s q).mem := by
  grind [recheckWait, canon_settleHalt, canon_whenOpen, canon_extSeen, canon_qsbPut, finish, canon_finishAt, fail, canon_failWith,
    failAddr]
theorem canon_wakeQueue {q} (hs : Canon s.mem) : Canon (wakeQueue s q).mem := by
  grind [wakeQueue, setPwake, canon_qsbPut, canon_recheckWait, State.setThread]
theorem canon_wakeAll {l} (hs : Canon s.mem) : Canon (wakeAll s l).mem := by
  fun_induction wakeAll <;> grind [canon_wakeQueue]

theorem canon_endMove {q} (hs : Canon s.mem) : Canon (endMove s q).mem := by
  unfold endMove
  split
  · exact canon_qsbPut hs
  · exact hs

theorem canon_finishMove (hs : Canon s.mem) : Canon (finishMove s).mem := by
  unfold finishMove
  split
  · exact hs
  · exact canon_endMove (canon_moveToHead hs)

theorem canon_mapQueue {n prio q} (hs : Canon s.mem) : Canon (mapQueue s n prio q).mem := by
  unfold mapQueue
  extract_lets s1 s2 s3 s4
  have h2 : Canon s2.mem := canon_endMove hs
  clear_value s2
  split
  · rw [State.setThread_mem]
    exact canon_moveToTail (canon_ite (canon_qsbPut (canon_qsbPut h2)) (canon_qsbPut h2))
  · exact canon_qsbPut (canon_qsbPut (canon_qsbPut h2))

theorem canon_walkQueues {defer l} (hs : Canon s.mem) : Canon (walkQueues s defer l).mem := by
  fun_induction walkQueues <;> grind [canon_mapQueue]

theorem canon_pressQueues {defer} (hs : Canon s.mem) : Canon (pressQueues s defer).mem := by
  unfold pressQueues
  repeat' split
  all_goals exact hs

theorem canon_execQueueWalk (hs : Canon s.mem) : CanonNext (execQueueWalk s) := by
  grind [execQueueWalk, canon_pressQueues, canon_walkQueues, canonNext_next]

theorem canon_execSliceExpiry {n} (hs : Canon s.mem) : CanonNext (execSliceExpiry n s) := by
  unfold execSliceExpiry
  dsimp only
  split
  · exact hs
  · exact canonNext_ite (canon_qsbPut hs) (canonNext_ite hs hs)

theorem canon_unmapQueue {n q} (hs : Canon s.mem) : Canon (unmapQueue s n q).mem := by
  unfold unmapQueue
  dsimp only
  split
  · exact canon_qsbPut (canon_qsbPut hs)
  · exact canon_qsbPut hs

theorem canon_rereadQueue {q} (hs : Canon s.mem) : Canon (rereadQueue s q).mem := by
  unfold rereadQueue
  refine canon_ite hs (canon_ite ?_ (canon_ite ?_ hs))
  · split
    · exact canon_qsbPut hs
    · exact hs
  · split
    · exact canon_qsbPut hs
    · exact hs

theorem canon_rereadAll {l} (hs : Canon s.mem) : Canon (rereadAll s l).mem := by
  fun_induction rereadAll with
  | case1 => exact hs
  | case2 s e r ih => exact ih (canon_rereadQueue hs)

theorem canon_execPeriodicReread (hs : Canon s.mem) : CanonNext (execPeriodicReread s) := by
  unfold execPeriodicReread
  split
  · exact canon_rereadAll hs
  · exact hs

theorem canon_execWaitsRecheck {n} (hs : Canon s.mem) : CanonNext (execWaitsRecheck n s) := by
  unfold execWaitsRecheck
  split
  · split
    · exact canon_recheckWait hs
    · exact hs
  · exact hs

theorem canon_execWaitsTimeout {q} (hs : Canon s.mem) : CanonNext (execWaitsTimeout q s) := by
  grind [execWaitsTimeout, canon_wakeQueue, canonNext_next]
theorem canon_tornAt {q} (hs : Canon s.mem) : Canon (tornAt s q).mem := by
  unfold tornAt
  split <;> exact hs
theorem canon_execQueueTorn {n} (hs : Canon s.mem) : CanonNext (execQueueTorn n s) := by
  grind [execQueueTorn, canon_haltHere, canonNext_next]
theorem canon_takeReport {key} (hs : Canon s.mem) : Canon (takeReport s key).mem := by
  unfold takeReport
  split <;> exact hs

theorem canon_execRingRecordWrite {key} (hs : Canon s.mem) : CanonNext (execRingRecordWrite key s) := by
  unfold execRingRecordWrite
  split
  · exact hs
  split
  · exact hs
  refine canon_whenOpen hs (fun _ h => ?_)
  dsimp only
  split
  · exact canon_extSeen h
  split
  · exact canon_extSeen h
  split
  · exact canon_extSeen h
  next he =>
  have h1 := canon_feWrite he (canon_extSeen h)
  split <;> exact canon_takeReport h1

theorem canon_execRingInterruptTimeout {key} (hs : Canon s.mem) : CanonNext (execRingInterruptTimeout key s) := by
  unfold execRingInterruptTimeout
  repeat' split
  all_goals exact hs

/-! ## Clocks -/

theorem canon_settleFreqOne {f a} (hs : Canon s.mem) : Canon (settleFreqOne f s a).mem := by
  grind [settleFreqOne, endAsync, canon_completePacket]
theorem canon_settleFreqAll {f l} (hs : Canon s.mem) : Canon (settleFreqAll f s l).mem := by
  fun_induction settleFreqAll <;> grind [canon_settleFreqOne]

theorem canon_requestFreq {async d f} (hs : Canon s.mem) : Canon (requestFreq s async d f).mem := by
  unfold requestFreq
  dsimp only
  split
  · split
    · exact canon_settleFreqAll hs
    · exact hs
  split <;> exact hs

theorem canon_requestAll {async f l} (hs : Canon s.mem) : Canon (requestAll s async f l).mem := by
  fun_induction requestAll <;> grind [canon_requestFreq]

theorem canon_closeFreq {id} (hs : Canon s.mem) : Canon (closeFreq s id).mem := by
  unfold closeFreq
  split
  · exact canon_completePacket hs
  · exact hs

theorem canon_execStepInstant {deck} (hs : Canon s.mem) : CanonNext (execStepInstant deck s) := by
  unfold execStepInstant
  dsimp only
  split
  · split
    · split <;> exact canon_settleFreqAll (canon_settleFreqAll hs)
    · exact canon_settleFreqAll hs
  · exact hs

theorem canon_plinthRequest {f d} (hs : Canon s.mem) : Canon (plinthRequest f s d).mem := by
  unfold plinthRequest
  split
  · exact canon_requestFreq hs
  · exact hs

theorem canon_meetPending {d} (hs : Canon s.mem) : Canon (meetPending s d).mem := by
  unfold meetPending
  dsimp only
  split
  · exact hs
  split
  · exact canon_requestFreq hs
  · exact hs

theorem canon_execPowerLimit {draw} (hs : Canon s.mem) : CanonNext (execPowerLimit draw s) := by
  unfold execPowerLimit
  split
  · refine canon_foldl (fun _ _ h => ?_) hs
    split
    · exact canon_plinthRequest h
    · exact h
  · exact hs

theorem canon_discardOn {l} (hs : Canon s.mem) : Canon (discardOn s l).mem := by
  fun_induction discardOn <;> grind [canon_discardGroup]
theorem canon_countCycles {n l} (hs : Canon s.mem) : Canon (countCycles s n l).mem := by
  fun_induction countCycles <;> grind [canon_count]

end CanonUnits
end Sys2Proof.Proofs
end

section
/-!
PROOFS. Tasks, the copy engines, the vector pipe and coverage keep the canonical form of the memory (log 3).
-/

namespace Sys2Proof.Proofs
open Sys2Proof Sys2Proof.Machine Sys2Proof.Claim

section CanonEngines
variable {s : State}

/-! ## Operands -/

theorem canon_regWrite {k b v} (hs : Canon s.mem) : Canon (regWrite s k b v).mem := by
  unfold regWrite
  split <;> exact hs

theorem canon_padSeen {core write spans} (hs : Canon s.mem) : Canon (padSeen s core write spans).mem := by
  unfold padSeen
  split
  · exact hs
  · exact canon_foldl (fun _ _ h => canon_correctAt h) hs

theorem canon_shapePut {core h w e v} (hs : Canon s.mem) : Canon (shapePut s core h w e v).mem := by
  unfold shapePut
  split
  · exact canon_write hs
  split
  · exact canon_write hs
  · exact canon_writeN hs

/-! ## Tasks and calls -/

theorem canon_readMem {va n m go} (hs : Canon s.mem) (hgo : ∀ u x z, Canon u.mem → CanonNext (go u x z)) : CanonNext (readMem s va n m
    go) := by
  unfold readMem
  split
  · exact canon_trapAt hs
  · exact canon_noteHeld hs
  · exact hgo _ _ _ (canon_countPieces (canon_accessBytes ‹_› hs))

theorem canon_takeId {d} (hs : Canon s.mem) : Canon (takeId s d).2.mem := by
  unfold takeId
  dsimp only
  split <;> exact hs

theorem canon_spawn {named d a} (hs : Canon s.mem) : CanonNext (spawn named d a s) := by
  grind [spawn, canon_takeId, State.writeX, State.setCur, State.setStrand, canon_readMem, hold, canon_noteHeld, stage, trap,
    canon_trapAt, retire, State.setPc, canonNext_next]
theorem canon_execDepset {d a b c} (hs : Canon s.mem) : CanonNext (execDepset d a b c s) := by
  grind [execDepset, canon_takeId, State.writeX, State.setCur, State.setStrand, canon_readMem, State.setCore, stage, trap, canon_trapAt,
    retire, State.setPc, canonNext_next]

theorem canon_execDepdec {a scope n} (hs : Canon s.mem) : CanonNext (execDepdec a scope n s) := by
  unfold execDepdec
  refine canon_checked hs ?_
  split
  · exact canon_trapAt hs
  split
  · exact canon_trapAt hs
  · exact hs

theorem canon_execMigrate {a imm} (hs : Canon s.mem) : CanonNext (execMigrate a imm s) := by
  grind [execMigrate, canon_enqueueTask, becomeIdle, State.setStrand, canon_count, commit, canon_commitAll, canon_regionAt, hold,
    canon_noteHeld, State.setCur, trap, canon_trapAt, retire, State.setPc, canonNext_next]
theorem canon_execRcall {d a b} (hs : Canon s.mem) : CanonNext (execRcall d a b s) := by
  grind [execRcall, State.sendCall, hold, canon_noteHeld, State.setCur, State.setStrand, trap, canon_trapAt, canonNext_next]

theorem canon_execRreply {a b} (hs : Canon s.mem) : CanonNext (execRreply a b s) := by
  unfold execRreply
  dsimp only
  split
  · exact canon_trapAt hs
  split
  · exact canon_noteHeld hs
  · exact hs

theorem canon_execSearchRetry {k} (hs : Canon s.mem) : CanonNext (execSearchRetry k s) := by
  unfold execSearchRetry
  dsimp only
  split
  · exact canon_seekTask hs
  · exact hs

theorem canon_releaseTask {d home x} (hs : Canon s.mem) : Canon (releaseTask s d home x).mem := by
  unfold releaseTask
  split
  · exact canon_enqueueTask hs
  · exact canon_noteHeld hs

theorem canon_applyDecr {d} (hs : Canon s.mem) : Canon (applyDecr s d).mem := by
  grind [applyDecr, canon_groupFault, State.setCore, canon_releaseTask]

theorem canon_arrive {id src dest go} (hs : Canon s.mem) (hgo : CanonNext go) : CanonNext (arrive s id src dest go) := by
  unfold arrive
  split
  · exact hgo
  · exact canon_noteHeld hs

theorem canon_execDepDecrementArrive {k} (hs : Canon s.mem) : CanonNext (execDepDecrementArrive k s) := by
  unfold execDepDecrementArrive
  split
  · exact canon_arrive hs (canon_applyDecr hs)
  · exact hs

theorem canon_execMigrationArrive {core} (hs : Canon s.mem) : CanonNext (execMigrationArrive core s) := by
  unfold execMigrationArrive
  split
  · split
    · exact canon_enterHeld hs
    · exact hs
  · exact hs

theorem canon_execCallArrive {k} (hs : Canon s.mem) : CanonNext (execCallArrive k s) := by
  unfold execCallArrive
  split
  · exact canon_arrive hs (canon_enqueueTask hs)
  · exact hs

theorem canon_applyReply {r} (hs : Canon s.mem) : Canon (applyReply s r).mem := by
  unfold applyReply
  dsimp only
  split <;> exact hs

theorem canon_execReplyArrive {k} (hs : Canon s.mem) : CanonNext (execReplyArrive k s) := by
  unfold execReplyArrive
  split
  · exact canon_arrive hs (canon_applyReply hs)
  · exact hs

/-! ## Copy engines -/

theorem canon_execCpy {d a nb} (hs : Canon s.mem) : CanonNext (execCpy d a nb s) := by
  grind [execCpy, canon_checked, writeAndRetire, State.writeX, State.setCur, State.setStrand, retire, State.setPc, hold, canon_noteHeld,
    stage, trap, canon_trapAt, canonNext_next]

theorem canon_execCpwait {d b ch} (hs : Canon s.mem) : CanonNext (execCpwait d b ch s) := by
  unfold execCpwait
  dsimp only
  split <;> exact hs

theorem canon_engAccess {core ch ps go} (hs : Canon s.mem) (hgo : ∀ u, Canon u.mem → CanonEng (go u)) : CanonEng (engAccess s core ch ps
    go) := by
  unfold engAccess
  split
  · exact hgo _ hs
  · exact canon_noteHeld hs

theorem canon_copyPiece {core j off src dst n} (hs : Canon s.mem) : CanonEng (copyPiece s core j off src dst n).1 := by
  grind [copyPiece, canon_countPieces, canon_writePieces, canon_engAccess, dropTags, canonEng_done, canonEng_fault]
theorem canon_copyPieces {core j x l} (hs : Canon s.mem) : CanonEng (copyPieces s core j x l).1 := by
  fun_induction copyPieces <;> grind [canon_copyPiece, canonEng_done]

theorem canon_clearCovered {core ps} (hs : Canon s.mem) : Canon (clearCovered s core ps).mem := by
  unfold clearCovered
  dsimp only
  repeat' split
  all_goals exact hs

theorem canon_copyRun {core j ps} (hs : Canon s.mem) : CanonEng (copyRun s core j ps).1 := by
  grind [copyRun, canon_noteHeld, canon_clearCovered, canon_copyPieces, canonEng_idle, canonEng_done]

theorem canon_engineRecord {l engine ch cause va w0} (hs : Canon s.mem) : Canon (engineRecord s l engine ch cause va w0).mem := by
  unfold engineRecord
  split
  · exact canon_ringPost hs
  · exact hs

theorem canon_jobFault {core i j cause va off} (hs : Canon s.mem) : Canon (jobFault s core i j cause va off).mem := by
  unfold jobFault
  split
  · split
    · exact hs
    · exact canon_engineRecord hs
  · exact canon_groupFault hs

theorem canon_deliver {core i j flags} (hs : Canon s.mem) : Canon (deliver s core i j flags).mem := by
  unfold deliver
  dsimp only
  split
  · exact canon_mapStrands hs
  · exact hs

theorem canon_readBlock {core i j} (hs : Canon s.mem) : Canon (readBlock s core i j).mem := by
  grind [readBlock, canon_countPieces, canon_jobFault, canon_engAccess, setJob, State.setCore, failJob, canon_groupFault, dropJob,
    canonEng_idle, canonEng_done]
theorem canon_startJob {core i j} (hs : Canon s.mem) : Canon (startJob s core i j).mem := by
  grind [startJob, canon_countPieces, canon_jobFault, canon_engAccess, setJob, State.setCore, canonEng_idle, canonEng_done]
theorem canon_transferJob {core i j} (hs : Canon s.mem) : Canon (transferJob s core i j).mem := by
  grind [transferJob, canon_jobFault, failJob, canon_groupFault, dropJob, State.setCore, canon_copyRun, canon_deliver, canonEng_idle,
    canonEng_done]
theorem canon_arriveRuns {core i rb l} (hs : Canon s.mem) : Canon (arriveRuns s core i rb l).mem := by
  fun_induction arriveRuns <;> grind [canon_jobFault, canon_copyRun, canon_deliver, canonEng_idle, canonEng_done]

theorem canon_arriveRows {core i j rb rows} (hs : Canon s.mem) : Canon (arriveRows s core i j rb rows).mem := by
  unfold arriveRows
  dsimp only
  split
  · split
    · exact canon_groupFault (canon_arriveRuns hs)
    · exact canon_arriveRuns hs
  · exact canon_arriveRuns hs

theorem canon_jobStep {core i j} (hs : Canon s.mem) : Canon (jobStep s core i j).mem := by
  grind [jobStep, canon_readBlock, canon_startJob, canon_transferJob, canon_arriveRows]

theorem canon_onHead {core ch f} (hs : Canon s.mem) (hf : ∀ x y, Canon (f x y).mem) : CanonNext (onHead core ch s f) := by
  unfold onHead
  split
  · split
    · exact hf _ _
    · exact hs
  · exact hs

theorem canon_execParameterBlockRead {core ch} (hs : Canon s.mem) : CanonNext (execParameterBlockRead core ch s) := by
  unfold execParameterBlockRead
  refine canon_onHead hs (fun _ _ => ?_)
  split
  · exact canon_readBlock hs
  · exact hs

theorem canon_execCopyJobStart {core ch} (hs : Canon s.mem) : CanonNext (execCopyJobStart core ch s) := by
  unfold execCopyJobStart
  refine canon_onHead hs (fun _ _ => ?_)
  split
  · exact canon_startJob hs
  · exact hs

theorem canon_execCopyTransfer {core ch} (hs : Canon s.mem) : CanonNext (execCopyTransfer core ch s) := by
  unfold execCopyTransfer
  refine canon_onHead hs (fun _ _ => ?_)
  split
  · exact canon_transferJob hs
  · exact hs

theorem canon_execGatherRowsArrive {core ch owner} (hs : Canon s.mem) : CanonNext (execGatherRowsArrive core ch owner s) := by
  unfold execGatherRowsArrive
  refine canon_onHead hs (fun _ _ => ?_)
  split
  · split
    · exact canon_arriveRows hs
    · exact hs
  · exact hs

theorem canon_execCopyJobComplete {core ch} (hs : Canon s.mem) : CanonNext (execCopyJobComplete core ch s) := by
  unfold execCopyJobComplete
  dsimp only
  refine canon_onHead hs (fun _ _ => ?_)
  repeat' split
  all_goals exact hs

theorem canon_retryCopy {core ch} (hs : Canon s.mem) : Canon (retryCopy core ch s).mem := by
  grind [retryCopy, canon_jobStep]

theorem canon_expireCopy {core ch} (hs : Canon s.mem) : Canon (expireCopy core ch s).mem := by
  unfold expireCopy
  dsimp only
  split
  · split
    · split
      · split
        · split
          · exact canon_groupFault hs
          · exact canon_jobStep hs
        · exact canon_jobStep hs
      · exact hs
    · exact hs
  · exact hs

/-! ## The vector pipe -/

theorem canon_putElems {core h w e l} (hs : Canon s.mem) : Canon (putElems s core h w e l).mem := by
  fun_induction putElems <;> grind [canon_shapePut]
theorem canon_receiveAll {k l} (hs : Canon s.mem) : Canon (receiveAll s k l).mem := by
  fun_induction receiveAll <;> grind [receive, State.setStrand]
theorem canon_vbeat {k r v} (hs : Canon s.mem) : CanonBeat (vbeat s k r v) := by
  grind [vbeat, pushResult, State.setStrand, send, canon_regWrite, canon_receiveAll, setFlags, canon_padSeen, canon_putElems,
    canonBeat_done, canonBeat_fault, canonBeat_blocked]
theorem canon_lanesAccess {k m w as} {t qs} (he : lanesAccess s k m w as = .ok t qs) (hs : Canon s.mem) : Canon t.mem := by
  grind [lanesAccess, canon_accessPieces]

theorem canon_storeSector {mask w src first p} (hs : Canon s.mem) : Canon (storeSector s mask w src first p).mem := by
  unfold storeSector
  dsimp only
  split <;> exact canon_writeMasked hs

theorem canon_storeSectors {mask w src ea l} (hs : Canon s.mem) : Canon (storeSectors s mask w src ea l).mem := by
  fun_induction storeSectors <;> grind [canon_storeSector]
theorem canon_storeLanes {l l'} (hs : Canon s.mem) : Canon (storeLanes s l l').mem := by
  fun_induction storeLanes <;> grind [canon_writePieces]

theorem canon_vmemory {k r v} (hs : Canon s.mem) : CanonBeat (vmemory s k r v) := by
  unfold vmemory
  extract_lets core t w mask srcs src idx act ea done loaded
  have hdone : ∀ s1, Canon s1.mem → Canon (done s1).mem := fun s1 h => canon_receiveAll h
  split
  · exact canon_nil
  split
  · exact canon_nil
  have hloaded : ∀ s1 ps now image, Canon s1.mem → CanonBeat (loaded s1 ps now image) := by
    intro s1 ps now image h
    have h2 : Canon (countPieces s1 core false ps).mem := canon_countPieces h
    dsimp only [loaded]
    split
    · exact hdone _ h2
    split
    · exact hdone _ (canon_regWrite h2)
    · exact canon_receiveAll h2
  clear_value loaded done ea
  split
  · split
    · exact canon_nil
    split
    · exact canon_nil
    · exact canon_nil
    · exact hloaded _ _ _ _ (canon_accessBytes ‹_› hs)
  · split
    · exact canon_nil
    split
    · exact canon_nil
    · exact canon_nil
    · exact hdone _ (canon_countPieces (canon_storeSectors (canon_accessParts ‹_› hs)))
  iterate 2
    split
    · exact canon_nil
    · exact canon_nil
    · exact hloaded _ _ _ _ (canon_lanesAccess ‹_› hs)
  split
  · exact canon_nil
  · exact canon_nil
  · exact hdone _ (canon_countPieces (canon_storeLanes (canon_lanesAccess ‹_› hs)))

theorem canon_maskBeat {k v} (hs : Canon s.mem) : CanonBeat (maskBeat s k v) := by
  unfold maskBeat
  split <;> exact hs
theorem canon_beatOf {k r v} (hs : Canon s.mem) : CanonBeat (beatOf s k r v) := by
  grind [beatOf, canon_vbeat, canon_vmemory, canon_maskBeat, extractBeat, pipeDone, State.setStrand, canonBeat_done]

theorem canon_pipeBeat {k} (hs : Canon s.mem) : CanonBeat (pipeBeat s k) := by
  unfold pipeBeat
  split
  · split
    · exact canon_beatOf hs
    · exact canon_nil
  · exact canon_nil

theorem canon_rewindSr {k} (hs : Canon s.mem) : Canon (rewindSr s k).mem := by
  unfold rewindSr
  repeat' split
  all_goals exact hs

theorem canon_pipeTake {core l} (hs : Canon s.mem) : Canon (pipeTake s core l).mem := by
  fun_induction pipeTake <;> grind [canon_trapAt, canon_rewindSr, dropHeld, canon_noteHeld, canon_pipeBeat, tookBeat, State.setCore,
    canon_count, canonBeat_done]
theorem canon_pipeIssue {r v} (hs : Canon s.mem) : CanonNext (pipeIssue s r v) := by
  grind [pipeIssue, stallStore, canon_noteHeld, State.setCur, State.setStrand, tookBeat, State.setCore, canon_count, stall, waitFor,
    canon_beatOf, trap, canon_trapAt, canonNext_next, canonBeat_done]
theorem canon_vissue {i v} (hs : Canon s.mem) : CanonNext (vissue s i v) := by
  grind [vissue, canon_pipeIssue, canon_padSeen, waitFor, State.setCur, State.setStrand, trap, canon_trapAt, canonNext_next]

theorem canon_vextract {i v} (hs : Canon s.mem) : CanonNext (vextract s i v) := by
  unfold vextract
  split
  · exact canon_trapAt hs
  · exact canon_pipeIssue hs

theorem canon_vmemIssue {i v} (hs : Canon s.mem) : CanonNext (vmemIssue s i v) := by
  unfold vmemIssue
  split
  · exact canon_trapAt hs
  split
  · exact canon_pipeIssue hs
  · exact hs

theorem canon_maskExec {i v} (hs : Canon s.mem) : CanonNext (maskExec s i v) := by
  unfold maskExec
  split
  · exact canon_trapAt hs
  · exact canon_pipeIssue hs

theorem canon_vexec {i} (hs : Canon s.mem) : CanonNext (vexec i s) := by
  unfold vexec
  refine canon_checked hs ?_
  split
  · exact canon_vissue hs
  · exact canon_trapAt hs

theorem canon_vmexec {i} (hs : Canon s.mem) : CanonNext (vmexec i s) := by
  unfold vmexec
  refine canon_checked hs ?_
  split
  · exact canon_vmemIssue hs
  · exact canon_trapAt hs

theorem canon_vkexec {i} (hs : Canon s.mem) : CanonNext (vkexec i s) := by
  unfold vkexec
  refine canon_checked hs ?_
  split
  · exact canon_maskExec hs
  · exact canon_trapAt hs

/-! ## Coverage -/

theorem canon_setCtl {ctx id x} (hs : Canon s.mem) : Canon (State.setCtl s ctx id x).mem := by
  unfold State.setCtl
  split <;> exact hs
theorem canon_grant {key k c d} (hs : Canon s.mem) : Canon (grant s key k c d).mem := by
  unfold grant
  split <;> exact hs
theorem canon_execBatchGrant {l st} (hs : Canon s.mem) : CanonNext (execBatchGrant l st s) := by
  grind [execBatchGrant, canon_grant, canonNext_next]
theorem canon_execCvpt {d} (hs : Canon s.mem) : CanonNext (execCvpt d s) := by
  grind [execCvpt, canon_checked, canon_regionAt, hold, canon_noteHeld, State.setCur, State.setStrand, waitFor, trap, canon_trapAt,
    canonNext_next]
theorem canon_execCvdone {a} (hs : Canon s.mem) : CanonNext (execCvdone a s) := by
  grind [execCvdone, canon_checked, stage, State.setCur, State.setStrand, trap, canon_trapAt, retire, State.setPc, canonNext_next]

theorem canon_execCovctlReset (hs : Canon s.mem) : CanonNext (execCovctlReset s) := by
  unfold execCovctlReset
  split
  · exact canon_setCtl hs
  · exact hs

theorem canon_seeCells {core c n ps} (hs : Canon s.mem) : Canon (seeCells s core c n ps).mem := by
  unfold seeCells
  refine canon_foldl (fun _ _ h => ?_) hs
  split
  · exact canon_foldl (fun _ _ h => canon_correctAt h) h
  · exact h

theorem canon_covFault {l st c inner va} (hs : Canon s.mem) : Canon (covFault s l st c inner va).mem := by
  grind [covFault, canon_appendFault, State.setLaunch, canon_completeLaunch, canon_endIdle, canon_stopGroup, canon_setStageSt,
    canon_flushValues, closeLinks]

theorem canon_reconFault {l st c cause va cell} (hs : Canon s.mem) : Canon (reconFault s l st c cause va cell).mem := by
  unfold reconFault
  split
  · split
    · exact hs
    · exact canon_engineRecord hs
  · exact canon_covFault hs

theorem canon_settleBlock {l st c} (hs : Canon s.mem) : Canon (settleBlock s l st c).mem := by
  unfold settleBlock
  split
  · exact hs
  · exact canon_flushValues hs

theorem canon_reconStep {l st c} (hs : Canon s.mem) : Canon (reconStep s l st c).mem := by
  unfold reconStep
  dsimp only
  split
  · exact hs
  split
  · exact canon_reconFault hs
  · exact canon_setCtl (canon_settleBlock (canon_seeCells hs))

theorem canon_execBlockReconstruct {l st} (hs : Canon s.mem) : CanonNext (execBlockReconstruct l st s) := by
  unfold execBlockReconstruct
  split
  · split
    · exact canon_reconStep hs
    · exact hs
  · exact hs

theorem canon_execEngineFaultRetry {e} (hs : Canon s.mem) : CanonNext (execEngineFaultRetry e s) := by
  unfold execEngineFaultRetry
  split
  · exact canon_retryCopy hs
  split
  · split
    · split
      · exact canon_reconStep hs
      · exact hs
    · exact hs
  · exact hs

theorem canon_execEngineFaultExpiry {e} (hs : Canon s.mem) : CanonNext (execEngineFaultExpiry e s) := by
  unfold execEngineFaultExpiry
  split
  · exact canon_expireCopy hs
  split
  · split
    · split
      · split
        · split
          · exact canon_covFault hs
          · exact canon_reconStep hs
        · exact canon_reconStep hs
      · exact hs
    · exact hs
  · exact hs

end CanonEngines
end Sys2Proof.Proofs
end

section
/-!
PROOFS. Launches and steps keep the canonical form of the memory (log 3).
-/

namespace Sys2Proof.Proofs
open Sys2Proof Sys2Proof.Machine Sys2Proof.Claim

section CanonLaunches
variable {s : State}

/-! ## Launches -/

theorem canon_preempt {by' l} (hs : Canon s.mem) : Canon (preempt s by' l).mem := by
  unfold preempt
  dsimp only
  split <;> exact canon_discardLaunch hs

theorem canon_preemptAll {by' l} (hs : Canon s.mem) : Canon (preemptAll s by' l).mem := by
  fun_induction preemptAll <;> grind [canon_preempt]
theorem canon_restoreCore {k v} (hs : Canon s.mem) : Canon (restoreCore s k v).mem := canon_foldl_write (canon_filter hs)
theorem canon_restoreCores {l} (hs : Canon s.mem) : Canon (restoreCores s l).mem := by
  fun_induction restoreCores <;> grind [canon_restoreCore]

theorem canon_vacate {l} (hs : Canon s.mem) : Canon (vacate s l).mem := by
  unfold vacate
  split
  · exact canon_mapCores hs
  · exact hs

theorem canon_vacateAll {l} (hs : Canon s.mem) : Canon (vacateAll s l).mem := by
  fun_induction vacateAll <;> grind [canon_vacate]
theorem canon_startStrands {fpc d l} (hs : Canon s.mem) : Canon (startStrands s fpc d l).mem := by
  fun_induction startStrands <;> grind [startStrand, canon_takeTask, State.setStrand]

theorem canon_startCore {l st p d image k} (hs : Canon s.mem) : Canon (startCore s l st p d image k).mem := by
  unfold startCore
  refine canon_startStrands ?_
  split
  · exact hs
  · exact canon_writeN hs

theorem canon_startCores {l st p d image l'} (hs : Canon s.mem) : Canon (startCores s l st p d image l').mem := by
  fun_induction startCores <;> grind [canon_startCore]

theorem canon_startCov {who ctx l st d} (hs : Canon s.mem) : Canon (startCov s who ctx l st d).mem := by
  unfold startCov
  split
  · exact hs
  split
  · exact hs
  · exact canon_setCtl hs

theorem canon_startStages {who ctx l p l'} (hs : Canon s.mem) : Canon (startStages s who ctx l p l').mem := by
  fun_induction startStages <;> grind [canon_startCores, canon_startCov]
theorem canon_startLaunch {q h sigaddr sigval ctx prio p images} (hs : Canon s.mem) : Canon (startLaunch s q h sigaddr sigval ctx prio p
    images).mem :=
  canon_advancePast (canon_startStages hs)
theorem canon_holdStages {l behind l'} (hs : Canon s.mem) : Canon (holdStages s l behind l').mem := by
  fun_induction holdStages <;> grind [canon_noteHeld, canon_stopGroup, canon_setStageSt]
theorem canon_placeLaunch {q h sigaddr sigval ctx c p images} (hs : Canon s.mem) : Canon (placeLaunch s q h sigaddr sigval ctx c p
    images).mem := by
  grind [placeLaunch, canon_vacateAll, canon_preemptAll, canon_holdStages, canon_startLaunch]

theorem canon_execLaunch {h desc sigaddr sigval} (hs : Canon s.mem) : CanonNext (execLaunch h desc sigaddr sigval s) := by
  unfold execLaunch
  dsimp only
  split
  · exact canon_failWith hs
  split
  · exact canon_failWith hs
  split
  · exact canon_failWith hs
  split
  · exact canon_failWith hs
  · exact canon_failWith hs
  split
  · exact canon_failWith hs
  split
  · exact canon_failWith hs
  split
  · exact canon_failWith hs
  split
  · exact canon_failWith hs
  · exact canon_placeLaunch hs

theorem canon_execGroupRestart {l st} (hs : Canon s.mem) : CanonNext (execGroupRestart l st s) := by
  grind [execGroupRestart, dropHeld, canon_noteHeld, canon_restartGroup, canonNext_next]
theorem canon_restartStages {l l'} (hs : Canon s.mem) : Canon (restartStages s l l').mem := by
  fun_induction restartStages <;> grind [canon_noteHeld, canon_restartGroup]

theorem canon_execLaunchRestart {l} (hs : Canon s.mem) : CanonNext (execLaunchRestart l s) := by
  unfold execLaunchRestart
  split
  · split
    · exact canon_restartStages (canon_restoreCores hs)
    · exact hs
  · exact hs

theorem canon_endCov {l st} (hs : Canon s.mem) : Canon (endCov s l st).mem := by
  unfold endCov
  dsimp only
  split
  · exact hs
  split <;> exact canon_flushValues (canon_setCtl hs)

theorem canon_dropCounters {l st} (hs : Canon s.mem) : Canon (dropCounters s l st).mem := by
  unfold dropCounters
  dsimp only
  split <;> exact canon_mapCores hs

theorem canon_execStageComplete {l st} (hs : Canon s.mem) : CanonNext (execStageComplete l st s) := by
  grind [execStageComplete, canon_dropCounters, canon_endCov, canon_completeLaunch, canon_endIdle, canon_setStageSt, canonNext_next]

/-! ## Page walks -/

theorem canon_execPageWalk {core va evict} (hs : Canon s.mem) : CanonNext (execPageWalk core va evict s) := by
  unfold execPageWalk
  split <;> exact hs

/-! ## The planner and its steps -/

theorem canon_learn {part model toks from_} (hs : Canon s.mem) : Canon (learn s part model toks from_).mem := by
  unfold learn
  split <;> exact hs
theorem canon_fillBlocks {part model lo l n x} (hs : Canon s.mem) : Canon (fillBlocks s part model lo l n x).mem := by
  fun_induction fillBlocks <;> grind [newBlock, canon_releaseBlock]
theorem canon_scoreMore {part m a x h cand ids p} {t y} (he : scoreMore s part m a x h cand ids p = .ok (.ok (t, y))) (hs : Canon s.mem)
    : Canon t.mem := by
  grind [scoreMore, fillScored, canon_fillBlocks]
theorem canon_chooseWalk {part m a x h n l x'} {t y} (he : chooseWalk s part m a x h n l x' = .ok (.ok (t, y))) (hs : Canon s.mem) :
    Canon t.mem := by
  fun_induction chooseWalk <;> grind [canon_scoreMore]

theorem canon_applyScores {part id a h x m ids} {t} (he : applyScores s part id a h x m ids = .ok t) (hs : Canon s.mem) : Canon t.mem
    := by
  unfold applyScores at he
  split at he
  · grind [canon_scoreMore, endLong, canon_agentFault, State.setAgent]
  · grind [canon_chooseWalk, endLong, canon_agentFault, State.setAgent, canon_learn, State.setTok, canon_computeKv]
  · grind

theorem canon_adoptBlock {part id a h x b} {t} (he : adoptBlock s part id a h x b = some t) (hs : Canon s.mem) : Canon t.mem := by
  grind [adoptBlock, endLong, State.setAgent, canon_computeKv, State.setTok, canon_applyScores, canon_learn, canon_completeBlock]
theorem canon_adoptBlocks {id n} (hs : Canon s.mem) : Canon (adoptBlocks s id n).mem := by
  fun_induction adoptBlocks <;> grind [dropReplanned, State.setPlanner, State.countPart, canon_adoptBlock]
theorem canon_zeroDeficits {l} (hs : Canon s.mem) : Canon (zeroDeficits s l).mem := by
  fun_induction zeroDeficits <;> grind [State.setAgent]
theorem canon_adoptAll {l} (hs : Canon s.mem) : Canon (adoptAll s l).mem := by
  fun_induction adoptAll <;> grind [canon_adoptBlocks]
theorem canon_refreshRing {part} (hs : Canon s.mem) : Canon (refreshRing s part).mem := canon_zeroDeficits (canon_adoptAll hs)
theorem canon_execCappend {cd gs imm} (hs : Canon s.mem) : CanonNext (execCappend cd gs imm s) := by
  grind [execCappend, agentTrapF, canon_agentFault, canon_onAgent, canon_withCtx, enterLong, State.setAgent, canon_refreshRing, agentEnd,
    agentTrap, canonNext_next]

theorem canon_execCgen {cd gd gs} (hs : Canon s.mem) : CanonNext (execCgen cd gd gs s) := by
  unfold execCgen
  dsimp only
  refine canon_onAgent hs (fun _ => canon_withCtx hs (fun _ _ => ?_))
  split
  · exact canon_agentFault hs
  split
  · exact canon_agentFault hs
  split
  · exact hs
  · exact canon_refreshRing hs

theorem canon_execCscore {gd cs gs imm} (hs : Canon s.mem) : CanonNext (execCscore gd cs gs imm s) := by
  unfold execCscore
  dsimp only
  refine canon_onAgent hs (fun _ => canon_withCtx hs (fun _ _ => ?_))
  split
  · exact canon_agentFault hs
  split
  · exact hs
  · exact canon_refreshRing hs

theorem canon_execCchoose {cd gd gs imm} (hs : Canon s.mem) : CanonNext (execCchoose cd gd gs imm s) := by
  grind [execCchoose, agentTrapF, canon_agentFault, canon_onAgent, canon_withCtx, enterLong, State.setAgent, canon_refreshRing, agentEnd,
    agentTrap, canonNext_next]
theorem canon_evictFor {keep wanted n} (hs : Canon s.mem) : Canon (evictFor s keep wanted n).mem := by
  fun_induction evictFor <;> grind
theorem canon_allocate {keep n l} (hs : Canon s.mem) : Canon (allocate s keep n l).1.mem := by
  fun_induction allocate <;> grind [canon_agentFault, canon_evictFor]
theorem canon_putDeficits {x} (hs : Canon s.mem) : Canon (putDeficits s x).mem := by
  fun_induction putDeficits <;> grind [State.setAgent]
theorem canon_formNew {part} (hs : Canon s.mem) : Canon (formNew s part).st.mem := by
  grind [formNew, canon_putDeficits, State.setPlanner]
theorem canon_formPlans {part} {r} (he : formPlans s part = some r) (hs : Canon s.mem) : Canon r.st.mem := by
  grind [formPlans, canon_formNew, State.setPlanner]
theorem canon_writeLayers {cores l} (hs : Canon s.mem) : Canon (writeLayers s cores l).mem := by
  fun_induction writeLayers <;> grind [canon_mapCores]
theorem canon_touchLarder {part l} (hs : Canon s.mem) : Canon (touchLarder s part l).mem := by
  fun_induction touchLarder <;> grind [State.setPlanner]

theorem canon_flyStep {part f cores check} (hs : Canon s.mem) (hf : Canon f.st.mem) : Canon (flyStep s part f cores check).mem := by
  unfold flyStep
  dsimp only
  split
  · exact canon_noteHeld hs
  split
  · exact hs
  split
  · exact canon_preemptAll hs
  · exact canon_writeLayers (canon_vacateAll (canon_preemptAll (canon_allocate (canon_touchSeen hf))))

theorem canon_planStep {part} (hs : Canon s.mem) : Canon (planStep s part).mem := by
  grind [planStep, canon_formPlans, dropHeld, canon_refreshRing, canon_flyStep]

theorem canon_computePending {part h x k} (hs : Canon s.mem) : Canon (computePending s part h x k).1.mem := by
  unfold computePending
  split
  · exact hs
  · exact canon_computeKv hs

theorem canon_applyGen {part id a h x m pl cd gd} {t y} (he : applyGen s part id a h x m pl cd gd = .ok (t, y)) (hs : Canon s.mem) :
    Canon t.mem := by
  unfold applyGen at he
  split at he
  · cases he
  split at he
  · cases he
    exact canon_agentFault hs
  dsimp only at he
  split at he <;> cases he <;> exact canon_learn (canon_computeKv hs)

theorem canon_applyPlan {part pl} {t y} (he : applyPlan s part pl = .ok (t, y)) (hs : Canon s.mem) : Canon t.mem := by
  unfold applyPlan at he
  split at he
  · grind [canon_agentFault]
  split at he
  · grind
  split at he
  · grind
  split at he
  · grind [canon_agentFault]
  dsimp only at he
  split at he
  · grind [canon_computePending]
  split at he
  · grind [canon_computePending, canon_computeKv, canon_learn, endLong, State.setTok, State.setAgent]
  · exact canon_applyGen he (canon_computePending hs)
  · grind [canon_computePending, canon_applyScores]

theorem canon_applyPlans {part l} {t y} (he : applyPlans s part l = .ok (t, y)) (hs : Canon s.mem) : Canon t.mem := by
  fun_induction applyPlans generalizing t y <;> grind [canon_applyPlan]
theorem canon_postRecords {x} (hs : Canon s.mem) : Canon (postRecords s x).mem := by
  fun_induction postRecords <;> grind [canon_ringPost]
theorem canon_mapToks {f l} (hs : Canon s.mem) : Canon (mapToks s f l).mem := by
  fun_induction mapToks <;> grind [State.setTok]
theorem canon_suspendAsked {l} (hs : Canon s.mem) : Canon (suspendAsked s l).mem := by
  fun_induction suspendAsked <;> grind [canon_suspendNow]
theorem canon_faultAll {cause tval l} (hs : Canon s.mem) : Canon (faultAll s cause tval l).mem := by
  fun_induction faultAll <;> grind [canon_agentFault]

theorem canon_discardStep {part fault} (hs : Canon s.mem) : Canon (discardStep s part fault).mem := by
  unfold discardStep
  dsimp only
  split
  · exact hs
  split
  · exact canon_refreshRing (canon_suspendAsked (canon_faultAll hs))
  · exact canon_refreshRing (canon_suspendAsked hs)

theorem canon_endStep {part idle stall f} (hs : Canon s.mem) : Canon (endStep part idle stall f s).mem := by
  grind [endStep, canon_mapToks, State.countPart, canon_touchLarder, canon_discardStep, canon_applyPlans, canon_suspendAsked,
    State.setPlanner, canon_refreshRing, canon_postRecords]
theorem canon_stepEnd {s t : State} {part plans} (hs : Canon s.mem) (ht : Canon t.mem) : CanonNext (stepEnd part plans s t) :=
  canon_whenTouch hs fun _ _ => ht

theorem canon_execStepComplete {part idle stall} (hs : Canon s.mem) : CanonNext (execStepComplete part idle stall s) := by
  unfold execStepComplete
  split
  · exact hs
  · exact canon_whenTouch hs (fun _ h => canon_stepEnd h (canon_endStep h))

theorem canon_execCtrim {cd gs} (hs : Canon s.mem) : CanonNext (execCtrim cd gs s) := by
  unfold execCtrim
  dsimp only
  refine canon_onAgent hs (fun _ => canon_withCtx hs (fun _ _ => ?_))
  split
  · exact canon_agentFault hs
  · exact canon_evictFor (canon_trimCtx hs)

theorem canon_execBlockMove {entry place} (hs : Canon s.mem) : CanonNext (execBlockMove entry place s) := by
  grind [execBlockMove, State.countPart, canon_refreshRing, canonNext_next]

theorem canon_swapOut {id} (hs : Canon s.mem) : Canon (swapOut s id).mem := by
  unfold swapOut
  split
  · split
    · exact canon_awaitSlot (canon_refreshRing (canon_writeRecord hs))
    · exact hs
  · exact hs

theorem canon_execAgentSwapIn {id out} (hs : Canon s.mem) : CanonNext (execAgentSwapIn id out s) := by
  grind [execAgentSwapIn, canon_swapOut, leaveSlotQueue, State.setAgent, canon_refreshRing, canonNext_next]

end CanonLaunches
end Sys2Proof.Proofs
end

section
/-!
PROOFS. Packets, barriers, checkpoint rounds, registers, memory instructions, roles and events keep the canonical form of the memory (log 3).
-/

namespace Sys2Proof.Proofs
open Sys2Proof Sys2Proof.Machine Sys2Proof.Claim

section CanonPackets
variable {s : State}

/-! ## Packets -/

theorem canon_execWaits {h addr value cond timeout} (hs : Canon s.mem) : CanonNext (execWaits h addr value cond timeout s) := by
  grind [execWaits, canon_countPacket, canon_qsbPut, finish, canon_finishAt, fail, canon_failWith, failAddr, canonNext_next]

theorem canon_execCond {h addr value cond target} (hs : Canon s.mem) : CanonNext (execCond h addr value cond target s) := by
  unfold execCond
  dsimp only
  split
  · exact canon_failWith hs
  split
  · exact canon_failWith hs
  split <;> exact canon_finishAt hs

theorem canon_rearmFrom {who last n n'} (hs : Canon s.mem) : Canon (rearmFrom who last s n n').1.mem := by
  fun_induction rearmFrom <;> grind [canon_feWrite]
theorem canon_execRearm {h base size target} (hs : Canon s.mem) : CanonNext (execRearm h base size target s) := by
  grind [execRearm, canon_completePacket, canon_failWith, canon_advancePast, canon_rearmFrom, canonNext_next]

theorem canon_execFencePacket {h} (hs : Canon s.mem) : CanonNext (execFencePacket h s) := by
  unfold execFencePacket
  split
  · exact canon_finishAt hs
  · exact hs

theorem canon_execRing {h ringid vector entries base headaddr thresh timeout} (hs : Canon s.mem) : CanonNext (execRing h ringid vector
    entries base headaddr thresh timeout s) := by
  grind [execRing, finish, canon_finishAt, dropRing, fail, canon_failWith, failAddr, canonNext_next]

theorem canon_execCopyh {h src dst bytes sigaddr} (hs : Canon s.mem) : CanonNext (execCopyh h src dst bytes sigaddr s) := by
  unfold execCopyh
  split
  · exact canon_failWith hs
  · exact canon_advancePast hs

theorem canon_copyBytes_error {who n src dst k t e} (he : copyBytes who s n src dst k = .error (t, e)) (hs : Canon s.mem) :
    Canon t.mem := by
  fun_induction copyBytes <;> grind [canon_extSeen, canon_feWrite]
theorem canon_copyBytes {who n n' n'' n'''} {t} (he : copyBytes who s n n' n'' n''' = .ok t) (hs : Canon s.mem) : Canon t.mem := by
  fun_induction copyBytes <;> grind [canon_extSeen, canon_feWrite]

theorem canon_execCopyhComplete {k} (hs : Canon s.mem) : CanonNext (execCopyhComplete k s) := by
  unfold execCopyhComplete
  split
  · dsimp only
    split
    · refine canon_whenTouch hs (fun _ h => ?_)
      split
      next he =>
        have h1 := canon_copyBytes_error he h
        exact canon_completePacket h1
      next he =>
        have h1 := canon_copyBytes he h
        split
        · exact canon_completePacket h1
        next h2 =>
          have hs2 := canon_signalAdd h2 h1
          exact canon_completePacket hs2
    · exact hs
  · exact hs

theorem canon_agentPacket {h ceil record entry go} (hs : Canon s.mem) (hgo : ∀ x, CanonNext (go x)) : CanonNext (agentPacket h ceil
    record entry s go) := by
  unfold agentPacket
  dsimp only
  split
  · exact canon_failWith hs
  split
  · exact canon_failWith hs
  · exact hgo _

theorem canon_execAgentCreate {h ceil record entry image} (hs : Canon s.mem) : CanonNext (execAgentCreate h ceil record entry image s)
    := by
  unfold execAgentCreate
  refine canon_agentPacket hs (fun _ => ?_)
  split
  · exact canon_failWith hs
  split
  · exact canon_failWith hs
  · exact canon_finishAt (canon_awaitSlot hs)

theorem canon_stopPacket {h ceil record entry dest} (hs : Canon s.mem) : CanonNext (stopPacket h ceil record entry dest s) := by
  unfold stopPacket
  refine canon_agentPacket hs (fun _ => ?_)
  split
  · exact canon_failWith hs
  · exact canon_requestSuspend (canon_advancePast hs)

theorem canon_resumeAgent {id a} (hs : Canon s.mem) : Canon (resumeAgent s id a).mem := canon_refreshRing (canon_awaitSlot hs)
theorem canon_execAgentResume {h ceil record entry image} (hs : Canon s.mem) : CanonNext (execAgentResume h ceil record entry image s)
    := by
  grind [execAgentResume, finish, canon_finishAt, canon_agentPacket, fail, canon_failWith, canon_resumeAgent, canonNext_next]
theorem canon_execAgentRemove {h ceil record entry image} (hs : Canon s.mem) : CanonNext (execAgentRemove h ceil record entry image s)
    := by
  grind [execAgentRemove, canon_removeAgent, finish, canon_finishAt, canon_agentPacket, fail, canon_failWith, canonNext_next]
theorem canon_adoptCtxs {a l} (hs : Canon s.mem) : Canon (adoptCtxs s a l).1.mem := by
  fun_induction adoptCtxs <;> grind [State.setTok]

theorem canon_execAgentImport {h ceil record entry image} (hs : Canon s.mem) : CanonNext (execAgentImport h ceil record entry image s)
    := by
  grind [execAgentImport, addAgent, canon_awaitSlot, canon_adoptCtxs, finish, canon_finishAt, canon_agentPacket, fail, canon_failWith,
    failAddr, canonNext_next]

theorem canon_privOnly {h body} (hs : Canon s.mem) (hbody : CanonNext body) : CanonNext (privOnly h s body) := by
  unfold privOnly
  split
  · exact hbody
  · exact canon_failWith hs

theorem canon_clearTags {ctx} (hs : Canon s.mem) : Canon (clearTags s ctx).mem := by
  unfold clearTags
  split <;> exact hs
theorem canon_execCtxnew {h arg0 arg1 arg2} (hs : Canon s.mem) : CanonNext (execCtxnew h arg0 arg1 arg2 s) := by
  grind [execCtxnew, canon_clearTags, canon_feWrite, finish, canon_finishAt, canon_privOnly, fail, canon_failWith, failAddr,
    State.setCtx, canonNext_next]
theorem canon_dropContext {c} (hs : Canon s.mem) : Canon (dropContext s c).mem := canon_filter hs

theorem canon_execCtxfree {h arg0 arg1 arg2} (hs : Canon s.mem) : CanonNext (execCtxfree h arg0 arg1 arg2 s) := by
  unfold execCtxfree
  refine canon_privOnly hs ?_
  split
  · exact canon_failWith hs
  split
  · exact canon_failWith hs
  · exact canon_finishAt (canon_dropContext hs)

theorem canon_execInval {h arg0 arg1 arg2} (hs : Canon s.mem) : CanonNext (execInval h arg0 arg1 arg2 s) := by
  unfold execInval
  dsimp only
  split
  · exact canon_failWith hs
  split
  · exact canon_failWith hs
  · exact canon_advancePast hs

theorem canon_execInvalComplete {k} (hs : Canon s.mem) : CanonNext (execInvalComplete k s) := by
  grind [execInvalComplete, endAsync, canon_completePacket, invalidate, wakeSuspended, dropTlb, canonNext_next]

theorem canon_withPart {h go} (hs : Canon s.mem) (hgo : ∀ x y, CanonNext (go x y)) : CanonNext (withPart h s go) := by
  unfold withPart
  dsimp only
  split
  · split
    · exact canon_failWith hs
    · exact hgo _ _
  · exact canon_failWith hs

theorem canon_execQctlModel {h arg0 arg1 arg2} (hs : Canon s.mem) : CanonNext (execQctlModel h arg0 arg1 arg2 s) := by
  unfold execQctlModel
  dsimp only
  refine canon_withPart hs (fun _ _ => ?_)
  split
  · exact canon_failWith hs
  split
  · exact canon_failWith hs
  · exact canon_finishAt hs

theorem canon_execQctlMask {h arg0 arg1 arg2} (hs : Canon s.mem) : CanonNext (execQctlMask h arg0 arg1 arg2 s) := by
  unfold execQctlMask
  refine canon_withPart hs (fun _ _ => ?_)
  split
  · exact canon_failWith hs
  · exact canon_finishAt hs

theorem canon_execQctlFreq {h arg0 arg1 arg2} (hs : Canon s.mem) : CanonNext (execQctlFreq h arg0 arg1 arg2 s) := by
  grind [execQctlFreq, canon_closeFreq, canon_privOnly, fail, canon_failWith, startAsync, canon_advancePast, canon_requestAll,
    canonNext_next]
theorem canon_execPartition {h arg0 arg1 arg2} (hs : Canon s.mem) : CanonNext (execPartition h arg0 arg1 arg2 s) := by
  grind [execPartition, State.setTower, finish, canon_finishAt, canon_privOnly, fail, canon_failWith, canon_foldl, canonNext_next]

/-! ## Barriers -/

theorem canon_execArrive {d scope id} (hs : Canon s.mem) : CanonNext (execArrive d scope id s) := by
  grind [execArrive, canon_checked, writeAndRetire, State.writeX, State.setCur, State.setStrand, retire, State.setPc, canon_setBar, hold,
    canon_noteHeld, trap, canon_trapAt, canonNext_next]

theorem canon_execWaitb {a scope id} (hs : Canon s.mem) : CanonNext (execWaitb a scope id s) := by
  unfold execWaitb
  dsimp only
  refine canon_checked hs ?_
  split
  · split
    · exact hs
    · exact canon_noteHeld hs
  · exact hs

theorem canon_execBarcfg {b scope id} (hs : Canon s.mem) : CanonNext (execBarcfg b scope id s) := by
  unfold execBarcfg
  dsimp only
  refine canon_checked hs ?_
  split
  · exact canon_noteHeld hs
  split
  · exact canon_trapAt hs
  · exact canon_setBar hs

theorem canon_releaseWaiters {ctx key l} (hs : Canon s.mem) : Canon (releaseWaiters s ctx key l).mem := by
  fun_induction releaseWaiters <;> grind [dropHeld, canon_noteHeld, endWaitb, State.setStrand]

theorem canon_execBarrierPhaseComplete {ctx key} (hs : Canon s.mem) : CanonNext (execBarrierPhaseComplete ctx key s) := by
  unfold execBarrierPhaseComplete
  refine canon_releaseWaiters ?_
  split
  · exact canon_setBar hs
  · exact hs

/-! ## Checkpoint rounds -/

theorem canon_startRound {part} (hs : Canon s.mem) : Canon (startRound s part).mem := by
  unfold startRound
  dsimp only
  repeat' split
  all_goals exact hs

theorem canon_freeze {part} (hs : Canon s.mem) : Canon (freeze s part).mem := by
  grind [freeze, State.setRound, canon_feWrite]

theorem canon_closeRound {part} (hs : Canon s.mem) : Canon (closeRound s part).mem := by
  unfold closeRound
  dsimp only
  split
  · exact canon_freeze hs
  · exact hs

theorem canon_execMarkerArrive {part u i} (hs : Canon s.mem) : CanonNext (execMarkerArrive part u i s) := by
  unfold execMarkerArrive
  dsimp only
  split <;> exact canon_closeRound hs

theorem canon_yieldPlaces {part x} (hs : Canon s.mem) : Canon (yieldPlaces s part x).mem := by
  cases x with
  | core p => exact hs
  | queue q => exact hs
  | machine => exact canon_foldl (f := fun s id => dropHeld s (agentSender id)) (fun _ _ h => h) hs

theorem canon_takeEdge {part u} (hs : Canon s.mem) : Canon (takeEdge s part u).mem := canon_closeRound (canon_yieldPlaces hs)

theorem canon_execUnitEdge {part u} (hs : Canon s.mem) : CanonNext (execUnitEdge part u s) := by
  unfold execUnitEdge
  dsimp only
  split
  · exact canon_closeRound hs
  split
  · exact hs
  split
  · split
    · exact canon_takeEdge (canon_discardOn hs)
    · exact canon_discardOn hs
  · split
    · exact hs
    · exact canon_takeEdge hs
  split
  · exact hs
  · exact canon_takeEdge (canon_foldl (fun _ _ h => canon_writeRecord h) (canon_discardStep hs))

theorem canon_releaseRound {part} (hs : Canon s.mem) : Canon (releaseRound s part).mem := by
  unfold releaseRound
  dsimp only
  split <;> exact hs

theorem canon_restoreQueue {e} (hs : Canon s.mem) : Canon (restoreQueue s e).mem := by
  unfold restoreQueue
  dsimp only
  split
  · exact canon_qsbPut (canon_qsbPut hs)
  · exact canon_qsbPut (canon_qsbPut (canon_qsbPut (canon_qsbPut hs)))

theorem canon_restoreCtx {part e} (hs : Canon s.mem) : Canon (restoreCtx s part e).1.mem := by
  unfold restoreCtx
  dsimp only
  repeat' split
  all_goals exact hs

theorem canon_restoreCtxs {part l} (hs : Canon s.mem) : Canon (restoreCtxs s part l).1.mem := by
  fun_induction restoreCtxs <;> grind [canon_restoreCtx]
theorem canon_refuseLaunches {l} (hs : Canon s.mem) : Canon (refuseLaunches s l).mem := by
  fun_induction refuseLaunches <;> grind [canon_endLaunch]
theorem canon_restoreFreq {e} (hs : Canon s.mem) : Canon (restoreFreq s e).mem :=
  canon_closeFreq (canon_foldl (fun _ _ h => canon_requestFreq h) hs)

theorem canon_restoreImage {part image} (hs : Canon s.mem) : Canon (restoreImage s part image).mem := by
  unfold restoreImage
  extract_lets im a s1 s2 sent s3 gone s4
  have h1 : Canon s1.mem := canon_restoreCtxs hs
  have h2 : Canon s2.mem := canon_foldl_write h1
  have hsent : Canon sent.mem := canon_foldl (f := State.sendReply) (fun _ _ h => h) <|
    canon_foldl (f := State.sendCall) (fun _ _ h => h) <| canon_foldl (f := State.sendDecr) (fun _ _ h => h) h2
  have h3 : Canon s3.mem := canon_foldl (fun _ _ h => canon_awaitSlot h) (canon_foldl (fun _ _ h => canon_restoreQueue h) hsent)
  clear_value s3
  have h4 : Canon s4.mem := canon_refreshRing (canon_refuseLaunches (canon_foldl (fun _ _ h => canon_restoreFreq h) h3))
  clear_value s4
  exact h4

theorem canon_restoreRound {part} (hs : Canon s.mem) : Canon (restoreRound s part).mem := by
  unfold restoreRound
  split
  · exact hs
  split
  · exact hs
  · exact canon_restoreImage hs

/-! ## Control registers -/

theorem canon_writeCsr {n value} (hs : Canon s.mem) : Canon (writeCsr s n value).mem := by
  unfold writeCsr
  dsimp only
  repeat refine canon_ite hs ?_
  exact canon_ite (canon_ite hs hs) hs

theorem canon_csrOp {i d csr new} (hs : Canon s.mem) : CanonNext (csrOp i d csr new s) := by
  unfold csrOp
  dsimp only
  refine canon_checked hs ?_
  split
  · exact canon_writeCsr hs
  · exact hs

theorem canon_execCsrr {d csr} (hs : Canon s.mem) : CanonNext (execCsrr d csr s) := canon_csrOp hs
theorem canon_execCsrw {d a csr} (hs : Canon s.mem) : CanonNext (execCsrw d a csr s) := canon_csrOp hs
theorem canon_execCsrs {d a csr} (hs : Canon s.mem) : CanonNext (execCsrs d a csr s) := canon_csrOp hs
theorem canon_execCsrc {d a csr} (hs : Canon s.mem) : CanonNext (execCsrc d a csr s) := canon_csrOp hs

/-! ## Device registers -/

theorem canon_writeDebug {off v} (hs : Canon s.mem) : Canon (writeDebug s off v).mem := by
  unfold writeDebug
  repeat' split
  all_goals exact hs

theorem canon_execDebugRegisterWrite {off value} (hs : Canon s.mem) : CanonNext (execDebugRegisterWrite off value s) := by
  unfold execDebugRegisterWrite
  split
  · exact canon_writeDebug hs
  · exact hs

theorem canon_attestRequest {pa} (hs : Canon s.mem) : Canon (attestRequest s pa).mem := by
  unfold attestRequest
  repeat' split
  all_goals exact hs

theorem canon_execAttestDone (hs : Canon s.mem) : CanonNext (execAttestDone s) := by
  unfold execAttestDone
  split
  · exact hs
  dsimp only
  split
  · exact hs
  split
  next h =>
    have hs1 := canon_feWrite h hs
    exact hs1
  · exact hs

theorem canon_perfReading {v} (hs : Canon s.mem) : Canon (perfReading s v).mem := by
  unfold perfReading
  repeat' split
  all_goals exact hs

theorem canon_execPerfReadingDone (hs : Canon s.mem) : CanonNext (execPerfReadingDone s) := by
  unfold execPerfReadingDone
  split <;> exact hs
theorem canon_writeCkptctl {part v} (hs : Canon s.mem) : Canon (writeCkptctl s part v).mem := by
  grind [writeCkptctl, canon_releaseRound, canon_startRound, canon_restoreRound]

theorem canon_devWrite {off v} (hs : Canon s.mem) : Canon (devWrite s off v).mem := by
  unfold devWrite
  refine canon_ite (canon_ite hs hs) (canon_ite (canon_ite hs hs) (canon_ite hs (canon_ite hs ?_)))
  refine canon_ite (canon_writeDebug hs) (canon_ite (canon_perfReading hs) (canon_ite (canon_ite hs hs) (canon_ite hs ?_)))
  refine canon_ite (canon_attestRequest hs) (canon_ite (canon_ite (canon_writeCkptctl hs) hs) (canon_ite hs ?_))
  exact canon_ite (canon_wakeAll hs) hs

theorem canon_execRegisterWrite {off value} (hs : Canon s.mem) : CanonNext (execRegisterWrite off value s) := by
  unfold execRegisterWrite
  split
  · exact canon_devWrite hs
  · exact hs

theorem canon_feStore {who va v} {t} (he : feStore s who va v = .ok t) (hs : Canon s.mem) : Canon t.mem := by
  grind [feStore, canon_feWrite, canon_devWrite]
theorem canon_execSignal {h addr value op} (hs : Canon s.mem) : CanonNext (execSignal h addr value op s) := by
  grind [execSignal, canon_wakeAll, finish, canon_finishAt, canon_signalAdd, canon_feStore, fail, canon_failWith, failAddr,
    canonNext_next]
theorem canon_execTstamp {h addr} (hs : Canon s.mem) : CanonNext (execTstamp h addr s) := by
  grind [execTstamp, finish, canon_finishAt, canon_feStore, failAddr, canon_failWith, canonNext_next]
theorem canon_execGst {gd gs w imm} (hs : Canon s.mem) : CanonNext (execGst gd gs w imm s) := by
  grind [execGst, agentTrapF, canon_agentFault, canon_onAgent, agentEnd, State.setAgent, canon_agentWrite, canon_devWrite, canonNext_next]

/-! ## Scalar memory instructions -/

theorem canon_writeOf {ps v} (hs : Canon s.mem) : Canon (writeOf s ps v).mem := by
  unfold writeOf
  split
  · split
    · exact canon_devWrite hs
    · exact canon_writePieces hs
  · exact hs

theorem canon_loadAt {x n sx ea} (hs : Canon s.mem) : CanonNext (loadAt x n sx ea s) := by
  unfold loadAt
  dsimp only
  split
  · exact canon_trapAt hs
  split
  · exact canon_trapAt hs
  · exact canon_noteHeld hs
  split <;> exact canon_countPieces (canon_accessBytes ‹_› hs)

theorem canon_storeAt {i n v ea} (hs : Canon s.mem) : CanonNext (storeAt i n v ea s) := by
  unfold storeAt
  split
  · exact canon_trapAt hs
  split
  · exact canon_trapAt hs
  · exact canon_noteHeld hs
  · exact canon_countPieces (canon_writeOf (canon_accessBytes ‹_› hs))

theorem canon_amoAt {i f d a b n} (hs : Canon s.mem) : CanonNext (amoAt i f d a b n s) := by
  unfold amoAt
  dsimp only
  split
  · exact canon_trapAt hs
  split
  · exact canon_trapAt hs
  · exact canon_noteHeld hs
  · exact canon_countPieces (canon_countPieces (canon_writePieces (canon_accessBytes ‹_› hs)))

theorem canon_casAt {i d a b n} (hs : Canon s.mem) : CanonNext (casAt i d a b n s) := by
  grind [casAt, canon_countPieces, canon_writePieces, stallStore, canon_noteHeld, State.setCur, State.setStrand, waitFor, trap,
    canon_trapAt, canon_accessBytes, canonNext_next]

theorem canon_waitwAt {i d a b c n} (hs : Canon s.mem) : CanonNext (waitwAt i d a b c n s) := by
  unfold waitwAt
  dsimp only
  split
  · exact canon_trapAt hs
  split
  · exact canon_trapAt hs
  · split <;> exact canon_noteHeld hs
  split <;> exact canon_countPieces (canon_accessBytes ‹_› hs)

theorem canon_execWaitwRecheck {k} (hs : Canon s.mem) : CanonNext (execWaitwRecheck k s) := by
  grind [execWaitwRecheck, canon_waitwAt, canonNext_next]

theorem canon_storeMeaning {i} (hs : Canon s.mem) : CanonNext (storeMeaning i s) := by
  cases i
  case st | stl => exact canon_checked hs (canon_storeAt hs)
  case amoadd | amoswap | amoand | amoor | amoxor | amomin | amomax | amominn | amomaxn => exact canon_checked hs (canon_amoAt hs)
  case cas => exact canon_checked hs (canon_casAt hs)
  case vst | vsts | vscatter => exact canon_vmexec hs
  all_goals exact hs

theorem canon_lateTry {l} (hs : Canon s.mem) : Canon (lateTry s l).mem := by
  grind [lateTry, canon_storeMeaning, dropHeld, lateSetup, renameHeld, State.setCore, State.setStrand, canonNext_next]
theorem canon_replyArrives {k} (hs : Canon s.mem) : CanonNext (replyArrives k s) := by
  grind [replyArrives, pushResult, State.setStrand, canon_regWrite, dropHeld, canon_noteHeld, canonNext_next]

/-! ## Roles -/

theorem canon_startChanges {release m deadline async n l} (hs : Canon s.mem) : Canon (startChanges s release m deadline async n l).mem
    := by
  fun_induction startChanges <;> grind [State.setTower]

theorem canon_execRoleset {h towers mode maps deadline evac} (hs : Canon s.mem) : CanonNext (execRoleset h towers mode maps deadline evac
    s) := by
  grind [execRoleset, canon_startChanges, finish, canon_finishAt, canon_privOnly, fail, canon_failWith, startAsync, canon_advancePast,
    canonNext_next]

theorem canon_settleRole {n async fault} (hs : Canon s.mem) : Canon (settleRole s n async fault).mem := by
  unfold settleRole
  dsimp only
  split
  · exact hs
  split
  · split
    · split <;> exact canon_completePacket hs
    · exact hs
  · exact hs

theorem canon_discardSteps {p} (hs : Canon s.mem) : Canon (discardSteps s p).mem := by
  grind [discardSteps, canon_discardStep, canon_foldl]
theorem canon_clearDecks {decks} (hs : Canon s.mem) : Canon (clearDecks s decks).mem := canon_discardSteps (canon_discardOn hs)

theorem canon_execDrainDeadline {tower} (hs : Canon s.mem) : CanonNext (execDrainDeadline tower s) := by
  unfold execDrainDeadline
  dsimp only
  split
  · split
    · exact canon_clearDecks hs
    · exact hs
  · exact hs

theorem canon_dropMappings {d ps} (hs : Canon s.mem) : Canon (dropMappings s d ps).mem := canon_foldl_write hs
theorem canon_evacPage {who list d i} {t} (he : evacPage s who list d i = some t) (hs : Canon s.mem) : Canon t.mem := by
  grind [evacPage, canon_feWrite]
theorem canon_evacPages {who list d l} (hs : Canon s.mem) : Canon (evacPages who list d s l).1.mem := by
  fun_induction evacPages <;> grind [canon_evacPage]
theorem canon_evacuate {who copy n l} (hs : Canon s.mem) : Canon (evacuate who copy s n l).1.mem := by
  fun_induction evacuate <;> grind [canon_evacPages, canon_dropMappings]
theorem canon_zeroDeck {d} (hs : Canon s.mem) : Canon (zeroDeck s d).mem := canon_filter hs
theorem canon_meetAll {n} (hs : Canon s.mem) : Canon (meetAll s n).mem := canon_foldl (fun _ _ h => canon_meetPending h) hs
theorem canon_execRoleFlush {tower} (hs : Canon s.mem) : CanonNext (execRoleFlush tower s) := by
  grind [execRoleFlush, State.setTower, canon_settleRole, canon_zeroDeck, canon_meetAll, canon_evacuate, canon_foldl, canonNext_next]
theorem canon_discardCtx {ctx} (hs : Canon s.mem) : Canon (discardCtx s ctx).mem := canon_foldl (fun _ _ h => canon_discardLaunch h) hs
theorem canon_moveContexts {down l} {t} (he : moveContexts s down l = some t) (hs : Canon s.mem) : Canon t.mem := by
  fun_induction moveContexts <;> grind [canon_discardCtx, State.setCtx]
theorem canon_dropRequests {d} (hs : Canon s.mem) : Canon (dropRequests s d).mem := canon_settleFreqAll (canon_settleFreqAll hs)
theorem canon_enumerateDeck {m up down d} (hs : Canon s.mem) : Canon (enumerateDeck m up down s d).mem := by
  grind [enumerateDeck, State.setDeck, canon_requestFreq, canon_dropRequests]

theorem canon_rewriteTables {down} (hs : Canon s.mem) : Canon (rewriteTables s down).mem := by
  unfold rewriteTables
  dsimp only
  generalize he : moveContexts _ _ _ = r
  cases r with
  | none => exact hs
  | some t => exact canon_moveContexts he (canon_discardSteps hs)

theorem canon_execRoleEnumerate {tower} (hs : Canon s.mem) : CanonNext (execRoleEnumerate tower s) := by
  grind [execRoleEnumerate, State.setTower, canon_rewriteTables, canon_enumerateDeck, canon_foldl, canonNext_next]
theorem canon_requestInitial (hs : Canon s.mem) : Canon (requestInitial s).mem := canon_foldl (fun _ _ h => canon_requestFreq h) hs
theorem canon_execRoleRun {tower} (hs : Canon s.mem) : CanonNext (execRoleRun tower s) := by
  grind [execRoleRun, State.setTower, canon_settleRole, canon_meetAll, canon_requestInitial, canonNext_next]
theorem canon_execPowerOn : CanonNext (execPowerOn s) := Memory.wf_nil

theorem canon_execDramTrained (hs : Canon s.mem) : CanonNext (execDramTrained s) := by
  unfold execDramTrained
  split
  · exact hs
  · exact canon_startChanges hs

theorem canon_execThermalPowerGate {tower} (hs : Canon s.mem) : CanonNext (execThermalPowerGate tower s) := by
  unfold execThermalPowerGate
  dsimp only
  split
  · split
    · exact canon_clearDecks hs
    · exact hs
  · exact hs

/-! ## Events and turns of queues -/

theorem canon_execLinkCrcRetry {corrected} (hs : Canon s.mem) : CanonNext (execLinkCrcRetry corrected s) := by
  unfold execLinkCrcRetry
  split
  · exact canon_count hs
  · exact hs

theorem canon_runPacket {p} (hs : Canon s.mem) : CanonNext (runPacket p s) := by
  cases p
  case nop => exact canon_finishAt hs
  case launch => exact canon_execLaunch hs
  case waits => exact canon_execWaits hs
  case signal => exact canon_execSignal hs
  case cond => exact canon_execCond hs
  case rearm => exact canon_execRearm hs
  case copyh => exact canon_execCopyh hs
  case ring => exact canon_execRing hs
  case tstamp => exact canon_execTstamp hs
  case fencePacket => exact canon_execFencePacket hs
  case agentCreate image => exact canon_execAgentCreate (image := image) hs
  case agentSuspend | agentExport => exact canon_stopPacket hs
  case agentResume image => exact canon_execAgentResume (image := image) hs
  case agentRemove image => exact canon_execAgentRemove (image := image) hs
  case agentImport => exact canon_execAgentImport hs
  case ctxnew => exact canon_execCtxnew hs
  case ctxfree arg1 arg2 => exact canon_execCtxfree (arg1 := arg1) (arg2 := arg2) hs
  case inval => exact canon_execInval hs
  case qctlModel => exact canon_execQctlModel hs
  case qctlMask arg2 => exact canon_execQctlMask (arg2 := arg2) hs
  case qctlFreq arg2 => exact canon_execQctlFreq (arg2 := arg2) hs
  case partition arg1 arg2 => exact canon_execPartition (arg1 := arg1) (arg2 := arg2) hs
  case roleset => exact canon_execRoleset hs
  case badPacket => exact canon_failWith hs

theorem canon_startPacket {q w} (hs : Canon s.mem) : CanonNext (startPacket s q w) := by
  grind [startPacket, dropHeld, canon_asyncOpen, canon_runPacket, canon_whenTouch, canonNext_next]
theorem canon_fetchTurn {n q} (hs : Canon s.mem) : CanonNext (fetchTurn s n q) := by
  grind [fetchTurn, canon_haltHere, canon_extSeen, dropHeld, canon_startPacket, canon_noteHeld, fail, canon_failWith, State.setThread,
    foundPacket, canon_tornAt, canonNext_next]
theorem canon_queueTurn {n q} (hs : Canon s.mem) : CanonNext (queueTurn s n q) := by
  grind [queueTurn, endSlice, State.setThread, canon_fetchTurn, canon_unmapQueue, canon_recheckWait, canonNext_next]
theorem canon_threadTurn {n} (hs : Canon s.mem) : CanonNext (threadTurn s n) := by
  grind [threadTurn, canon_queueTurn, canon_planStep, canon_finishMove, canon_foldl, canonNext_next, canonNext_fault]

theorem canon_execPacketRefetch {n} (hs : Canon s.mem) : CanonNext (execPacketRefetch n s) := by
  unfold execPacketRefetch
  split
  · split
    · exact canon_queueTurn hs
    · exact hs
  · exact hs

theorem canon_outsideWrite {pa n v} (hs : Canon s.mem) : Canon (outsideWrite s pa n v).mem := by
  unfold outsideWrite
  split
  · exact canon_writeLocs hs
  · exact hs

theorem canon_outsideAccess {x} (hs : Canon s.mem) : Canon (outsideAccess x s).mem := by
  unfold outsideAccess
  split
  · exact hs
  · exact canon_outsideWrite hs
  · split
    · exact canon_outsideWrite hs
    · exact hs
  split
  · exact canon_outsideWrite hs
  · exact hs

end CanonPackets
end Sys2Proof.Proofs
end

section
/-!
PROOFS. The matrix engine, every instruction, every turn and every step keep the canonical form of the memory (log 3).
-/

namespace Sys2Proof.Proofs
open Sys2Proof Sys2Proof.Machine Sys2Proof.Claim

section CanonSteps
variable {s : State}

/-! ## Index registers -/

theorem canon_execHset {h a imm} (hs : Canon s.mem) : CanonNext (execHset h a imm s) := by
  unfold execHset
  dsimp only
  refine canon_checked hs ?_
  split
  · exact canon_trapAt hs
  split
  · exact canon_trapAt hs
  · exact hs

theorem canon_execChclose {k} (hs : Canon s.mem) : CanonNext (execChclose k s) := by
  grind [execChclose, canon_checked, trap, canon_trapAt, retire, State.setPc, State.setCur, State.setStrand, canonNext_next]

/-! ## The matrix engine -/

theorem canon_transferIssue {i load x a off} (hs : Canon s.mem) : CanonNext (transferIssue s i load x a off) := by
  grind [transferIssue, canon_countPieces, canon_accessIssue, mxIssue, State.setCurCore, State.setCore, waitFor, State.setCur,
    State.setStrand, stall, canon_noteHeld, trap, canon_trapAt, canonNext_next]

theorem canon_drainIssue {i kind acc n d xa} (hs : Canon s.mem) : CanonNext (drainIssue s i kind acc n d xa) := by
  unfold drainIssue
  split
  · exact canon_trapAt hs
  split
  · exact canon_padSeen hs
  · exact hs

theorem canon_writeRows {n l l'} (hs : Canon s.mem) : Canon (writeRows s n l l').mem := by
  fun_induction writeRows <;> grind [canon_writeLocs]
theorem canon_drainPut {k d j v} (hs : Canon s.mem) : Canon (drainPut s k d j v).mem := by
  unfold drainPut
  split <;> exact hs
theorem canon_drainPuts {k d n l} (hs : Canon s.mem) : Canon (drainPuts s k d n l).mem := by
  fun_induction drainPuts <;> grind [canon_drainPut]
theorem canon_drainRun {core o kind acc row0 n d} (hs : Canon s.mem) : Canon (drainRun s core o kind acc row0 n d).1.mem := by
  grind [drainRun, canon_padSeen, canon_drainPuts, canon_putElems]
theorem canon_mxEffect {core o} (hs : Canon s.mem) : Canon (mxEffect s core o).1.mem := by
  grind [mxEffect, canon_drainRun, setAcc, State.setCore, canon_writeRows, setTile]
theorem canon_execMatrixOpStart {core array} (hs : Canon s.mem) : CanonNext (execMatrixOpStart core array s) := by
  grind [execMatrixOpStart, canon_noteHeld, State.setCore, canon_mxEffect, canonNext_next]
theorem canon_execMatrixOpComplete {core slot} (hs : Canon s.mem) : CanonNext (execMatrixOpComplete core slot s) := by
  grind [execMatrixOpComplete, dropHeld, canon_noteHeld, setFlags, State.setStrand, State.setCore, canon_mxEffect, canonNext_next]

theorem canon_execMma {f} (hs : Canon s.mem) : CanonNext (execMma f s) := by
  unfold execMma
  refine canon_checked hs ?_
  split
  · exact canon_trapAt hs
  · exact hs

/-! ## Turns -/

theorem canon_countIssue {k store r} (hr : CanonNext r) : CanonNext (countIssue k store r) := by
  cases r with
  | next s =>
    unfold countIssue
    dsimp only
    split
    · exact hr
    split
    · exact canon_count (s := s) hr
    · exact canon_count (s := s) hr
  | fault r => exact canon_nil
  | refused r => exact canon_nil

theorem canon_exec {i} (hs : Canon s.mem) : CanonNext (exec i s) := by
  cases i
  case add | sub | mul | mulh | mulhn | div | divn | rem | remn | and | or | xor | andn | shl | shr | sar | min | max | minn | maxn | slt
    | sltn | clz | ctz | popc | addi | andi | ori | xori | shli | shri | sari | slti | lih | lil | addl | fadd | fsub | fmul | fdiv |
    fsqrt | fma | fmin | fmax | feq | flt | fle | funord | fclass | j | jal | deprd | arrayFree | perfClear | eret =>
    exact hs
  case sext | zext | fcvt | fence | br | tzero | azero | mslot | cvstat | vxset | vxadd | chstat => exact canon_checked hs hs
  case ld | lda => exact canon_checked hs (canon_loadAt hs)
  case st | stl => exact canon_checked hs (canon_storeAt hs)
  case amoadd | amoswap | amoand | amoor | amoxor | amomin | amomax | amominn | amomaxn => exact canon_checked hs (canon_amoAt hs)
  case cas => exact canon_checked hs (canon_casAt hs)
  case jr => exact canon_execJr hs
  case jalr => exact canon_execJalr hs
  case spawn | spawnr => exact canon_spawn hs
  case depset => exact canon_execDepset hs
  case depdec => exact canon_execDepdec hs
  case rcall => exact canon_execRcall hs
  case rreply => exact canon_execRreply hs
  case migrate => exact canon_execMigrate hs
  case arrive => exact canon_execArrive hs
  case waitb => exact canon_execWaitb hs
  case barcfg => exact canon_execBarcfg hs
  case waitw => exact canon_checked hs (canon_waitwAt hs)
  case csrr => exact canon_execCsrr hs
  case csrw => exact canon_execCsrw hs
  case csrs => exact canon_execCsrs hs
  case csrc => exact canon_execCsrc hs
  case trap | brk | psend | precv | unassignedEncoding | fetchFault => exact canon_trapAt hs
  case tld | tst => exact canon_checked hs (canon_transferIssue hs)
  case mma => exact canon_execMma hs
  case mdrain | mdrainG | mdrains => exact canon_checked hs (canon_drainIssue hs)
  case cpy => exact canon_execCpy hs
  case cpwait => exact canon_execCpwait hs
  case cvpt => exact canon_execCvpt hs
  case cvdone => exact canon_execCvdone hs
  case hset => exact canon_execHset hs
  case chclose => exact canon_execChclose hs
  case vadd | vsub | vmul | vfma | vfms | vdiv | vmin | vmax | vabs | vneg | vand | vor | vxor | vandn | vshl | vshr | vsar | vcmp | vsel
    | vclamp | vcvt | vscale | vdot | vred | vargmax | vgumbel | vmov | vbcast | vins | vperm | vslide | vcomp | vexp2 | vlog2 | vrcp |
    vrsqrt | vsqrt | vsin | vcos | vtanh | vsigm | vaddVi | vsubVi | vmulVi | vdivVi | vminVi | vmaxVi | vandVi | vorVi | vxorVi |
    vandnVi | vshlVi | vshrVi | vsarVi | vaddLit | vsubLit | vmulLit | vfmaLit | vfmsLit | vdivLit | vminLit | vmaxLit | vabsLit |
    vnegLit | vandLit | vorLit | vxorLit | vandnLit | vshlLit | vshrLit | vsarLit | vcmpLit | vselLit | vclampLit | vcvtLit | vscaleLit |
    vdotLit | vredLit | vargmaxLit | vgumbelLit | vmovLit | vpermLit | vslideLit | vcompLit =>
    exact canon_vexec hs
  case vextr | vextrLit => exact canon_checked hs (canon_vextract hs)
  case vld | vst | vlds | vsts | vgather | vscatter => exact canon_vmexec hs
  case mop | mpop | mfirst | mset => exact canon_vkexec hs
  case cnew => exact canon_execCnew hs
  case cfork => exact canon_execCfork hs
  case cdrop => exact canon_onAgent hs (fun _ => canon_withCtx hs (fun _ _ => canon_dropCtx hs))
  case ctrim => exact canon_execCtrim hs
  case clen | cinfo => exact canon_onAgent hs (fun _ => canon_withCtx hs (fun _ _ => hs))
  case ctok => exact canon_execCtok hs
  case cappt => exact canon_execCappt hs
  case csets => exact canon_execCsets hs
  case csetx => exact canon_execCsetx hs
  case cbind => exact canon_execCbind hs
  case cappend => exact canon_execCappend hs
  case cgen => exact canon_execCgen hs
  case cscore => exact canon_execCscore hs
  case cchoose => exact canon_execCchoose hs
  case gli | glih | gadd | gsub | gmul | gj => exact canon_onAgent hs (fun _ => hs)
  case gcmp => exact canon_execGcmp hs
  case gld => exact canon_execGld hs
  case gst => exact canon_execGst hs
  case gb => exact canon_execGb hs
  case gcall => exact canon_execGcall hs
  case gsig => exact canon_execGsig hs
  case gwait => exact canon_execGwait hs
  case gpri => exact canon_execGpri hs
  case ghalt => exact canon_execGhalt hs
  case agentIllegal => exact canon_agentFault hs
  case linkCrcRetry => exact canon_execLinkCrcRetry hs
  case memoryReply => exact canon_replyArrives (canon_foldl (fun _ _ h => canon_lateTry h) hs)
  case pageWalk => exact canon_execPageWalk hs
  case vectorBeat => exact canon_pipeTake hs
  case matrixOpStart => exact canon_execMatrixOpStart hs
  case matrixOpComplete => exact canon_execMatrixOpComplete hs
  case searchRetry => exact canon_execSearchRetry hs
  case heldTaskEnter => exact canon_enterHeld hs
  case depDecrementArrive => exact canon_execDepDecrementArrive hs
  case migrationArrive => exact canon_execMigrationArrive hs
  case callArrive => exact canon_execCallArrive hs
  case replyArrive => exact canon_execReplyArrive hs
  case barrierPhaseComplete => exact canon_execBarrierPhaseComplete hs
  case stageComplete => exact canon_execStageComplete hs
  case groupRestart => exact canon_execGroupRestart hs
  case launchRestart => exact canon_execLaunchRestart hs
  case parameterBlockRead => exact canon_execParameterBlockRead hs
  case copyJobStart => exact canon_execCopyJobStart hs
  case copyTransfer => exact canon_execCopyTransfer hs
  case gatherRowsArrive => exact canon_execGatherRowsArrive hs
  case copyJobComplete => exact canon_execCopyJobComplete hs
  case engineFaultRetry => exact canon_execEngineFaultRetry hs
  case engineFaultExpiry => exact canon_execEngineFaultExpiry hs
  case batchGrant => exact canon_execBatchGrant hs
  case blockReconstruct => exact canon_execBlockReconstruct hs
  case waitwRecheck => exact canon_execWaitwRecheck hs
  case gwaitRecheck => exact canon_execGwaitRecheck hs
  case stepPlan => exact canon_planStep hs
  case stepComplete => exact canon_execStepComplete hs
  case stepFault => exact canon_stepEnd hs (canon_discardStep hs)
  case blockMove => exact canon_execBlockMove hs
  case agentSwapIn => exact canon_execAgentSwapIn hs
  case queueWalk => exact canon_execQueueWalk hs
  case sliceExpiry => exact canon_execSliceExpiry hs
  case queueWake => exact canon_wakeAll hs
  case packetRefetch => exact canon_execPacketRefetch hs
  case queueTorn => exact canon_execQueueTorn hs
  case nop => exact canon_finishAt hs
  case launch => exact canon_execLaunch hs
  case waits => exact canon_execWaits hs
  case waitsRecheck => exact canon_execWaitsRecheck hs
  case waitsTimeout => exact canon_execWaitsTimeout hs
  case signal => exact canon_execSignal hs
  case cond => exact canon_execCond hs
  case rearm => exact canon_execRearm hs
  case copyh => exact canon_execCopyh hs
  case copyhComplete => exact canon_execCopyhComplete hs
  case ring => exact canon_execRing hs
  case tstamp => exact canon_execTstamp hs
  case fencePacket => exact canon_execFencePacket hs
  case agentCreate image => exact canon_execAgentCreate (image := image) hs
  case agentSuspend | agentExport => exact canon_stopPacket hs
  case agentResume image => exact canon_execAgentResume (image := image) hs
  case agentRemove image => exact canon_execAgentRemove (image := image) hs
  case agentImport => exact canon_execAgentImport hs
  case ctxnew => exact canon_execCtxnew hs
  case ctxfree arg1 arg2 => exact canon_execCtxfree (arg1 := arg1) (arg2 := arg2) hs
  case inval => exact canon_execInval hs
  case invalComplete => exact canon_execInvalComplete hs
  case qctlModel => exact canon_execQctlModel hs
  case qctlMask arg2 => exact canon_execQctlMask (arg2 := arg2) hs
  case qctlFreq arg2 => exact canon_execQctlFreq (arg2 := arg2) hs
  case partition arg1 arg2 => exact canon_execPartition (arg1 := arg1) (arg2 := arg2) hs
  case roleset => exact canon_execRoleset hs
  case drainDeadline => exact canon_execDrainDeadline hs
  case roleFlush => exact canon_execRoleFlush hs
  case roleEnumerate => exact canon_execRoleEnumerate hs
  case roleRun => exact canon_execRoleRun hs
  case ringRecordWrite => exact canon_execRingRecordWrite hs
  case ringInterruptTimeout => exact canon_execRingInterruptTimeout hs
  case stepInstant => exact canon_execStepInstant hs
  case powerLimit => exact canon_execPowerLimit hs
  case thermalTrip => exact canon_foldl (fun _ _ h => canon_plinthRequest h) hs
  case thermalPowerGate => exact canon_execThermalPowerGate hs
  case ckptStart => exact canon_startRound hs
  case markerArrive => exact canon_execMarkerArrive hs
  case unitEdge => exact canon_execUnitEdge hs
  case ckptRelease => exact canon_releaseRound hs
  case ckptRestore => exact canon_restoreRound hs
  case attestRequest => exact canon_attestRequest hs
  case perfReading => exact canon_perfReading hs
  case debugRegisterWrite => exact canon_execDebugRegisterWrite hs
  case registerWrite => exact canon_execRegisterWrite hs
  case badPacket => exact canon_failWith hs
  case hostCoherentAccess | remoteMemoryOperation => exact canon_outsideAccess hs
  case region => exact canon_execRegion hs
  case tend => exact canon_execTend hs
  case covctlReset => exact canon_execCovctlReset hs
  case gret => exact canon_execGret hs
  case gyield => exact canon_execGyield hs
  case periodicReread => exact canon_execPeriodicReread hs
  case powerOn => exact canon_execPowerOn
  case dramTrained => exact canon_execDramTrained hs
  case attestDone => exact canon_execAttestDone hs
  case perfReadingDone => exact canon_execPerfReadingDone hs
theorem canon_issueTurn (hs : Canon s.mem) : CanonNext (issueTurn s) := by
  unfold issueTurn
  split
  · exact canon_trapAt hs
  · exact canon_trapAt hs
  · exact canon_countIssue (canon_trapAt hs)
  · exact canon_countIssue (canon_exec hs)

theorem canon_strandTurn {k} (hs : Canon s.mem) : CanonNext (strandTurn s k) := by
  grind [strandTurn, canon_seekTask, canon_issueTurn, canonNext_next]

theorem canon_agentIssue {id a} (hs : Canon s.mem) : CanonNext (agentIssue s id a) := by
  unfold agentIssue
  split
  · exact canon_agentFault hs
  split
  · exact canon_agentFault hs
  · exact canon_exec hs

theorem canon_agentTurn {id} (hs : Canon s.mem) : CanonNext (agentTurn s id) := by
  grind [agentTurn, canon_agentIssue, canon_whenTouch, canonNext_next, canonNext_fault]

theorem canon_runTurn {x} (hs : Canon s.mem) : CanonNext (runTurn x s) := by
  cases x with
  | strand k => exact canon_strandTurn hs
  | agent id => exact canon_agentTurn hs
  | thread t => exact canon_threadTurn hs
  | event i =>
    rw [runTurn]
    split
    · exact canon_exec hs
    · exact hs
  | time n => exact canon_countCycles hs
  | choose picks checks => exact hs

end CanonSteps

/-- Every step of a machine whose memory is in canonical form leaves it so. -/
theorem canon_step {s : State} (hs : Canon s.mem) : CanonNext (step s) := by
  unfold step
  split
  · exact canon_strandTurn hs
  · exact canon_runTurn hs

/-- Settles O59: a step is a turn of a unit, and every turn keeps the canonical form. -/
theorem memoryStaysCanonical : Obligations.MemoryStaysCanonical := by
  intro s t hs ht
  have h : CanonNext (step s) := canon_step hs
  rw [ht] at h
  exact h

end Sys2Proof.Proofs
end

section
/-!
PROOFS. CPY and CPWAIT (R280 to R283).
-/

namespace Sys2Proof.Proofs
open Sys2Proof Sys2Proof.Machine Sys2Proof.Claim

theorem onlyStrand_trans {s t u : State} (h : OnlyStrand s t) (h' : OnlyStrand t u) : OnlyStrand s u := by
  obtain ⟨heq, hother⟩ := h
  obtain ⟨heq', hother'⟩ := h'
  have hfs : t.fs = s.fs := by rw [heq]
  refine ⟨?_, fun k hk => (hother' k (hfs ▸ hk)).trans (hother k hk)⟩
  rw [heq', heq]

/-- An instruction that stages an operation and writes xd. -/
theorem writeAndRetire_stage (s : State) (o : Staged) (d : XReg) (v : Word) : ∃ t, writeAndRetire 4 d v (stage s o) = .next t
    ∧ OnlyStrand s t ∧ t.pc = s.pc + 4 ∧ (∀ r, t.readX r = if r = d ∧ r ≠ 0 then v else s.readX r)
    ∧ t.cur.staged = s.cur.staged ++ [o] := by
  obtain ⟨honly, hread, -, -⟩ := writeX_setPc_changes (stage s o) d v (s.pc + 4)
  have hpc : (stage s o).pc = s.pc := by rw [State.pc, stage_cur, State.pc]
  have hx (r : XReg) : (stage s o).readX r = s.readX r := by rw [State.readX, stage_cur]; rfl
  refine ⟨_, ?_, onlyStrand_trans (onlyStrand_setCur s _) honly, State.setPc_pc _ _, fun r => ?_, ?_⟩
  · rw [writeAndRetire_spec, hpc]
    rfl
  · rw [hread, hx]
  · rw [State.setPc_cur, State.writeX_cur, Strand.setPc_staged, Strand.writeX_staged, stage_cur]

/-! ## CPY (R280 to R282) -/

section CopyRequest
variable {s : State} {d a : XReg} {nb : Bool}

/-- What CPY requests: the four registers from xa on. -/
def copyRequestFault (s : State) (a : XReg) : Option (Byte × Word) :=
  copyFault s (s.readX a) (s.readX (a + 1)) (s.readX (a + 2)) (s.readX (a + 3))

theorem exec_cpy_invalid (hok : Ok (.cpy d a nb) s) {c : Byte} {v : Word} (h : copyRequestFault s a = some (c, v)) :
    Traps (.cpy d a nb) s c v := by
  refine (checked_ok hok).trans ?_
  dsimp only
  rw [show copyFault s _ _ _ _ = _ from h]
  rfl

/-- A valid request decides by the room in the FIFO. -/
theorem exec_cpy_valid (hok : Ok (.cpy d a nb) s) (h : copyRequestFault s a = none) : exec (.cpy d a nb) s =
    if 16 ≤ fifoCount s (coreOf s.fs) then
      if stagedCopies s (coreOf s.fs) = fifoCount s (coreOf s.fs) then
        (if nb then writeAndRetire 4 d 2 s else trap s Cause.stageFull 0)
      else if nb then writeAndRetire 4 d 1 s else hold [] s
    else writeAndRetire 4 d 0 (stage s (.copy (s.readX a) (s.readX (a + 1)) (s.readX (a + 2)) (s.readX (a + 3)))) := by
  refine (checked_ok hok).trans ?_
  dsimp only
  rw [show copyFault s _ _ _ _ = _ from h]

theorem cpy_full_nonblocking (hok : Ok (.cpy d a true) s) (h : copyRequestFault s a = none) (hfull : 16 ≤ fifoCount s (coreOf s.fs)) :
    Writes (.cpy d a true) s d (if stagedCopies s (coreOf s.fs) = fifoCount s (coreOf s.fs) then 2 else 1) 4 := by
  refine writes_of_writeAndRetire ((exec_cpy_valid hok h).trans ((if_pos hfull).trans ?_))
  split <;> rfl
theorem cpy_full_held (hok : Ok (.cpy d a false) s) (h : copyRequestFault s a = none) (hfull : 16 ≤ fifoCount s (coreOf s.fs))
    (hcommitted : stagedCopies s (coreOf s.fs) ≠ fifoCount s (coreOf s.fs)) : Holds (.cpy d a false) s false [] :=
  (exec_cpy_valid hok h).trans ((if_pos hfull).trans (if_neg hcommitted))
theorem cpy_full_traps (hok : Ok (.cpy d a false) s) (h : copyRequestFault s a = none) (hfull : 16 ≤ fifoCount s (coreOf s.fs))
    (hstaged : stagedCopies s (coreOf s.fs) = fifoCount s (coreOf s.fs)) : Traps (.cpy d a false) s Cause.stageFull 0 :=
  (exec_cpy_valid hok h).trans ((if_pos hfull).trans (if_pos hstaged))

end CopyRequest

/-! ## CPWAIT (R283) -/

theorem cpwait_reached {s : State} {d b : XReg} {ch : BitVec 2} (h : uv (s.readX b) ≤ uv (Vector.nth (n := 3) s.curCore.cpwp ch.toNat)) :
    Writes (.cpwait d b ch) s d (Vector.nth (n := 3) s.curCore.cpwp ch.toNat) 4 :=
  writes_of_writeAndRetire (if_pos h)
theorem cpwait_waits {s : State} {d b : XReg} {ch : BitVec 2} (h : uv (Vector.nth (n := 3) s.curCore.cpwp ch.toNat) < uv (s.readX b)) :
    exec (.cpwait d b ch) s = .next (s.setCur { s.cur with wait := .cpwait (.cpwait d b ch) }) :=
  if_neg (Nat.not_le.mpr h)

/-- Settles O31: a request by its validity and by the room in the FIFO; CPWAIT by its channel's count. -/
theorem copyInstructions : Obligations.CopyInstructions := by
  intro s d a b nb ch
  refine ⟨fun hok => ⟨fun c v h => exec_cpy_invalid hok h, fun h hroom => ?_, fun h hfull hnb => ?_, fun h hfull hnb hcommitted => ?_,
    fun h hfull hnb hstaged => ?_⟩, cpwait_reached, cpwait_waits⟩
  · obtain ⟨t, ht, hchanges⟩ := writeAndRetire_stage s (.copy (s.readX a) (s.readX (a + 1)) (s.readX (a + 2)) (s.readX (a + 3))) d 0
    exact ⟨t, (exec_cpy_valid hok h).trans ((if_neg hroom).trans ht), hchanges⟩
  · subst hnb
    exact cpy_full_nonblocking hok h hfull
  · subst hnb
    exact cpy_full_held hok h hfull hcommitted
  · subst hnb
    exact cpy_full_traps hok h hfull hstaged

end Sys2Proof.Proofs
end

section
/-!
PROOFS. The agent in focus is the same after a write of a module register (R383), whatever the write starts: a reading, a round, a
restore of an image, wakes of queues.
-/

namespace Sys2Proof.Proofs
open Sys2Proof Sys2Proof.Machine Sys2Proof.Claim

section FocusedAgent
variable {s : State}

theorem fa_ite {c : Prop} [Decidable c] {a b : State} {i : Nat} (ha : a.fa = i) (hb : b.fa = i) : (if c then a else b).fa = i := by
  split <;> assumption
theorem fa_foldl {α : Type} {f : State → α → State} (hf : ∀ s x, (f s x).fa = s.fa) (l : List α) :
    ∀ s : State, (l.foldl f s).fa = s.fa := by
  induction l with
  | nil => exact fun _ => rfl
  | cons x r ih => exact fun s => (ih _).trans (hf s x)

/-! ## Queues, packets and agents -/

theorem packet_fa {t : State} (h : sansPacket t = sansPacket s) : t.fa = s.fa := (congrArg State.fa h :)
theorem fa_noteHeld {h ds} : (noteHeld s h ds).fa = s.fa := by rw [noteHeld_spec]
theorem fa_correctAt {write loc n} : (correctAt s write loc n).fa = s.fa := packet_fa (correctAt_packet s write loc n)
theorem fa_extSeen {who va n} : (extSeen s who va n).fa = s.fa := by
  obtain ⟨soft, perf, h⟩ := extSeen_spec s who va n
  rw [h]
theorem fa_whenOpen {h who l go} (hgo : ∀ u, (go u).fa = u.fa) : (whenOpen s h who l go).fa = s.fa := by
  unfold whenOpen
  split
  · exact hgo _
  · exact fa_noteHeld
theorem fa_feWrite {who va n v t} (h : feWrite s who va n v = .ok t) : t.fa = s.fa := packet_fa (feWrite_packet h)
theorem fa_qsbPut {q off n v} : (qsbPut s q off n v).fa = s.fa := rfl
theorem fa_haltQueue {q pkt} : (haltQueue s q pkt).fa = s.fa := packet_fa (haltQueue_packet s q pkt)
theorem fa_ringPost {key r} : (ringPost s key r).fa = s.fa := packet_fa (ringPost_packet s key r)
theorem fa_completePacket {q pkt h status cov w2 w3} : (completePacket s q pkt h status cov w2 w3).fa = s.fa :=
  packet_fa (completePacket_packet s q pkt h status cov w2 w3)
theorem fa_advancePast {q target} : (advancePast s q target).fa = s.fa := packet_fa (advancePast_packet s q target)
theorem fa_mapCores {f l} : (mapCores s f l).fa = s.fa := by
  fun_induction mapCores <;> grind [State.setCore]
theorem fa_endLaunch {l status w3} : (endLaunch s l status w3).fa = s.fa := by
  unfold endLaunch
  split
  · rfl
  · exact fa_completePacket.trans fa_mapCores
theorem fa_writeRecord {id} : (writeRecord s id).fa = s.fa := by
  unfold writeRecord
  split
  · split
    · exact fa_feWrite ‹_›
    · rfl
  · rfl
theorem fa_awaitSlot {id} : (awaitSlot s id).fa = s.fa := by
  unfold awaitSlot
  repeat' split
  all_goals rfl
theorem fa_leaveRing {part id} : (leaveRing s part id).fa = s.fa := by
  unfold leaveRing
  dsimp only
  split <;> rfl
theorem fa_releaseBlock {id} : (releaseBlock s id).fa = s.fa := by
  unfold releaseBlock
  repeat' split
  all_goals rfl
theorem fa_shareBlock {id} : (shareBlock s id).fa = s.fa := by
  unfold shareBlock
  split <;> rfl
theorem fa_releaseAll {l} : (releaseAll s l).fa = s.fa := by
  fun_induction releaseAll <;> grind [fa_releaseBlock]
theorem fa_completeBlock {part x} : (completeBlock s part x).1.fa = s.fa := by
  grind [completeBlock, fa_shareBlock, newBlock, fa_releaseAll]
theorem fa_completeBlocks {part x n} : (completeBlocks s part x n).1.fa = s.fa := by
  fun_induction completeBlocks <;> grind [fa_completeBlock]
theorem fa_setLast {part x place} : (setLast s part x place).1.fa = s.fa := by
  grind [setLast, newBlock, fa_releaseAll]
theorem fa_computeKv {part x} : (computeKv s part x).1.fa = s.fa := fa_setLast.trans fa_completeBlocks
theorem fa_dropCtx {h} : (dropCtx s h).fa = s.fa := by
  unfold dropCtx
  split
  · exact fa_releaseAll
  · rfl
theorem fa_dropCtxs {l} : (dropCtxs s l).fa = s.fa := by
  fun_induction dropCtxs <;> grind [fa_dropCtx]
theorem fa_removeAgent {id} : (removeAgent s id).fa = s.fa := by
  unfold removeAgent
  split
  · exact fa_leaveRing.trans fa_dropCtxs
  · rfl
theorem fa_settleOne {id x} : (settleOne s id x).fa = s.fa := by
  unfold settleOne
  dsimp only
  split
  · split
    · rfl
    split
    · split
      next h =>
        have hwritten := fa_feWrite h
        exact fa_completePacket.trans (fa_removeAgent.trans hwritten)
      · exact fa_completePacket
    · exact fa_completePacket
    · exact fa_completePacket
  · rfl
theorem fa_settle {id l} : (settle s id l).fa = s.fa := by
  fun_induction settle <;> grind [fa_settleOne]
theorem fa_stopAgent {id st} : (stopAgent s id st).fa = s.fa := by
  unfold stopAgent
  split
  · exact fa_writeRecord.trans fa_leaveRing
  · rfl
theorem fa_agentFault {id cause tval under} : (agentFault s id cause tval under).fa = s.fa := by
  unfold agentFault
  dsimp only
  split
  · split
    · exact fa_settle.trans (fa_ringPost.trans fa_stopAgent)
    · exact fa_stopAgent
  · rfl

/-! ## Wakes -/

theorem fa_finishAt {q h target} : (finishAt s q h target).fa = s.fa := fa_completePacket.trans fa_advancePast
theorem fa_failWith {q h status w3} : (failWith s q h status w3).fa = s.fa := by
  unfold failWith
  exact fa_completePacket.trans (fa_ite fa_advancePast rfl)
theorem fa_settleHalt {q} : (settleHalt s q).fa = s.fa := by
  unfold settleHalt
  dsimp only
  split
  · split
    · exact fa_qsbPut
    · exact fa_haltQueue
  · rfl
theorem fa_recheckWait {q} : (recheckWait s q).fa = s.fa := by
  unfold recheckWait
  refine fa_ite rfl (fa_whenOpen fun u => ?_)
  grind [fa_settleHalt, fa_extSeen, fa_qsbPut, finish, fa_finishAt, fail, fa_failWith, failAddr]
theorem fa_wakeQueue {q} : (wakeQueue s q).fa = s.fa := by
  grind [wakeQueue, setPwake, fa_qsbPut, fa_recheckWait, State.setThread]
theorem fa_wakeAll {l} : (wakeAll s l).fa = s.fa := by
  fun_induction wakeAll <;> grind [fa_wakeQueue]

/-! ## Rounds and images -/

theorem fa_settleFreqOne {f a} : (settleFreqOne f s a).fa = s.fa := by
  grind [settleFreqOne, endAsync, fa_completePacket]
theorem fa_settleFreqAll {f l} : (settleFreqAll f s l).fa = s.fa := by
  fun_induction settleFreqAll <;> grind [fa_settleFreqOne]
theorem fa_requestFreq {async d f} : (requestFreq s async d f).fa = s.fa := by
  unfold requestFreq
  dsimp only
  split
  · split
    · exact fa_settleFreqAll
    · rfl
  split <;> rfl
theorem fa_closeFreq {id} : (closeFreq s id).fa = s.fa := by
  unfold closeFreq
  split
  · exact fa_completePacket
  · rfl
theorem fa_learn {part model toks chain} : (learn s part model toks chain).fa = s.fa := by
  unfold learn
  split <;> rfl
theorem fa_fillBlocks {part model lo l n x} : (fillBlocks s part model lo l n x).fa = s.fa := by
  fun_induction fillBlocks <;> grind [newBlock, fa_releaseBlock]
theorem fa_scoreMore {part m a x h cand ids p t y} (he : scoreMore s part m a x h cand ids p = .ok (.ok (t, y))) : t.fa = s.fa := by
  grind [scoreMore, fillScored, fa_fillBlocks]
theorem fa_chooseWalk {part m a x h n l p t y} (he : chooseWalk s part m a x h n l p = .ok (.ok (t, y))) : t.fa = s.fa := by
  fun_induction chooseWalk <;> grind [fa_scoreMore]
theorem fa_applyScores {part id a h x m ids t} (he : applyScores s part id a h x m ids = .ok t) : t.fa = s.fa := by
  unfold applyScores at he
  split at he
  · grind [fa_scoreMore, endLong, fa_agentFault, State.setAgent]
  · grind [fa_chooseWalk, endLong, fa_agentFault, State.setAgent, fa_learn, State.setTok, fa_computeKv]
  · grind
theorem fa_adoptBlock {part id a h x b t} (he : adoptBlock s part id a h x b = some t) : t.fa = s.fa := by
  grind [adoptBlock, endLong, State.setAgent_fa, fa_computeKv, State.setTok_fa, fa_applyScores, fa_learn, fa_completeBlock]
theorem fa_adoptBlocks {id n} : (adoptBlocks s id n).fa = s.fa := by
  fun_induction adoptBlocks <;> grind [dropReplanned, State.setPlanner, State.countPart, fa_adoptBlock]
theorem fa_zeroDeficits {l} : (zeroDeficits s l).fa = s.fa := by
  fun_induction zeroDeficits <;> grind [State.setAgent]
theorem fa_adoptAll {l} : (adoptAll s l).fa = s.fa := by
  fun_induction adoptAll <;> grind [fa_adoptBlocks]
theorem fa_refreshRing {part} : (refreshRing s part).fa = s.fa := fa_zeroDeficits.trans fa_adoptAll
theorem fa_startRound {part} : (startRound s part).fa = s.fa := by
  unfold startRound
  dsimp only
  repeat' split
  all_goals rfl
theorem fa_releaseRound {part} : (releaseRound s part).fa = s.fa := by
  unfold releaseRound
  dsimp only
  split <;> rfl
theorem fa_restoreQueue {e} : (restoreQueue s e).fa = s.fa := by
  unfold restoreQueue
  dsimp only
  split <;> rfl
theorem fa_restoreCtx {part e} : (restoreCtx s part e).1.fa = s.fa := by
  unfold restoreCtx
  dsimp only
  repeat' split
  all_goals rfl
theorem fa_restoreCtxs {part l} : (restoreCtxs s part l).1.fa = s.fa := by
  fun_induction restoreCtxs <;> grind [fa_restoreCtx]
theorem fa_refuseLaunches {l} : (refuseLaunches s l).fa = s.fa := by
  fun_induction refuseLaunches <;> grind [fa_endLaunch]
theorem fa_restoreFreq {e} : (restoreFreq s e).fa = s.fa :=
  fa_closeFreq.trans (fa_foldl (fun _ _ => fa_requestFreq) _ _)
theorem fa_restoreImage {part image} : (restoreImage s part image).fa = s.fa := by
  unfold restoreImage
  extract_lets im a s1 s2 sent s3 gone s4
  have hsent : sent.fa = s.fa := calc
    sent.fa = (im.calls.foldl State.sendCall (im.decrs.foldl State.sendDecr s2)).fa := fa_foldl (f := State.sendReply) (fun _ _ => rfl) _ _
    _ = (im.decrs.foldl State.sendDecr s2).fa := fa_foldl (f := State.sendCall) (fun _ _ => rfl) _ _
    _ = s2.fa := fa_foldl (f := State.sendDecr) (fun _ _ => rfl) _ _
    _ = s.fa := fa_restoreCtxs
  have h3 : s3.fa = sent.fa := (fa_foldl (fun _ _ => fa_awaitSlot) _ _).trans (fa_foldl (fun _ _ => fa_restoreQueue) _ _)
  clear_value s3
  have h4 : s4.fa = s3.fa := fa_refreshRing.trans (fa_refuseLaunches.trans (fa_foldl (fun _ _ => fa_restoreFreq) _ _))
  clear_value s4
  exact h4.trans (h3.trans hsent)
theorem fa_restoreRound {part} : (restoreRound s part).fa = s.fa := by
  unfold restoreRound
  split
  · rfl
  split
  · rfl
  · exact fa_restoreImage

/-! ## Registers -/

theorem fa_writeDebug {off v} : (writeDebug s off v).fa = s.fa := by
  unfold writeDebug
  repeat' split
  all_goals rfl
theorem fa_attestRequest {pa} : (attestRequest s pa).fa = s.fa := by
  unfold attestRequest
  repeat' split
  all_goals rfl
theorem fa_perfReading {v} : (perfReading s v).fa = s.fa := by
  unfold perfReading
  repeat' split
  all_goals rfl
theorem fa_writeCkptctl {part v} : (writeCkptctl s part v).fa = s.fa := by
  grind [writeCkptctl, fa_releaseRound, fa_startRound, fa_restoreRound]
theorem fa_devWrite {off v} : (devWrite s off v).fa = s.fa := by
  unfold devWrite
  refine fa_ite (fa_ite rfl rfl) (fa_ite (fa_ite rfl rfl) (fa_ite rfl (fa_ite rfl ?_)))
  refine fa_ite fa_writeDebug (fa_ite fa_perfReading (fa_ite (fa_ite rfl rfl) (fa_ite rfl ?_)))
  refine fa_ite fa_attestRequest (fa_ite (fa_ite fa_writeCkptctl rfl) (fa_ite rfl ?_))
  exact fa_ite fa_wakeAll rfl

end FocusedAgent
end Sys2Proof.Proofs
end

section
/-!
PROOFS. The memory instructions of agents (R263, R265, R324, R325, R383, R415).
-/

namespace Sys2Proof.Proofs
open Sys2Proof Sys2Proof.Machine Sys2Proof.Claim

/-! ## The checks of an access (R324, R383) -/

section AgentAccess
variable {s : State} {home va n : Nat} {acc : AccKind} {h : Hit} {k : Byte}

theorem agentHit_misaligned (h : va % n ≠ 0) : agentHit s home va n acc = .error (addrFault va Cause.misaligned.toNat) := if_pos h
theorem agentHit_translated (ha : va % n = 0) : agentHit s home va n acc = match translate s (.ctx home) va n acc with
    | .error c => .error (addrFault va c.toNat)
    | .ok h =>
      if h.checked.isSome then .error (addrFault va Cause.mmRace.toNat)
      else if h.device then .error (addrFault va Cause.paAbsent.toNat) else .ok h :=
  if_neg (not_not.mpr ha)
theorem agentHit_untranslated (ha : va % n = 0) (ht : translate s (.ctx home) va n acc = .error k) :
    agentHit s home va n acc = .error (addrFault va k.toNat) := by
  rw [agentHit_translated ha, ht]
theorem agentHit_checked (ha : va % n = 0) (ht : translate s (.ctx home) va n acc = .ok h) (hc : h.checked.isSome = true) :
    agentHit s home va n acc = .error (addrFault va Cause.mmRace.toNat) := by
  rw [agentHit_translated ha, ht]
  exact if_pos hc
theorem agentHit_device (ha : va % n = 0) (ht : translate s (.ctx home) va n acc = .ok h) (hc : h.checked = none)
    (hd : h.device = true) : agentHit s home va n acc = .error (addrFault va Cause.paAbsent.toNat) := by
  rw [agentHit_translated ha, ht]
  simp only [hc, Option.isSome_none, Bool.false_eq_true, if_false, hd, if_true]
/-- An access that passes its checks reaches no register. -/
theorem deviceAt_of_agentHit (hh : agentHit s home va 8 acc = .ok h) : deviceAt s (.ctx home) va acc = none := by
  by_cases ha : va % 8 = 0
  · rw [agentHit_translated ha] at hh
    unfold deviceAt
    rw [if_neg (not_not.mpr ha)]
    split at hh
    · exact nomatch hh
    · split at hh
      · exact nomatch hh
      split at hh
      · exact nomatch hh
      · rename_i ht _ hd
        rw [ht]
        simp only [Bool.eq_false_iff.mpr hd, Bool.false_and, Bool.false_eq_true, if_false]
  · exact if_pos ha

/-- The access of an agent fails with an underlying cause, and reaches no register. -/
structure HitFails (s : State) (home va n : Nat) (acc : AccKind) (k : Byte) : Prop where
  hit : agentHit s home va n acc = .error (addrFault va k.toNat)
  device : n = 8 → deviceAt s (.ctx home) va acc = none

theorem hitFails_misaligned (ha : va % n ≠ 0) : HitFails s home va n acc Cause.misaligned :=
  ⟨agentHit_misaligned ha, fun h8 => if_pos (h8 ▸ ha)⟩
theorem hitFails_untranslated (ha : va % n = 0) (ht : translate s (.ctx home) va n acc = .error k) : HitFails s home va n acc k := by
  refine ⟨agentHit_untranslated ha ht, fun h8 => ?_⟩
  subst h8
  unfold deviceAt
  rw [if_neg (not_not.mpr ha), ht]
theorem hitFails_checked (ha : va % n = 0) (ht : translate s (.ctx home) va n acc = .ok h) (hc : h.checked.isSome = true) :
    HitFails s home va n acc Cause.mmRace := by
  refine ⟨agentHit_checked ha ht hc, fun h8 => ?_⟩
  subst h8
  obtain ⟨x, hx⟩ := Option.isSome_iff_exists.mp hc
  unfold deviceAt
  rw [if_neg (not_not.mpr ha), ht]
  simp only [hx, Option.isNone_some, Bool.and_false, Bool.false_eq_true, if_false]
/-- Four bytes reach no register. -/
theorem hitFails_device (ha : va % 4 = 0) (ht : translate s (.ctx home) va 4 acc = .ok h) (hc : h.checked = none)
    (hd : h.device = true) : HitFails s home va 4 acc Cause.paAbsent :=
  ⟨agentHit_device ha ht hc hd, fun h8 => absurd h8 (by decide)⟩
theorem deviceAt_register {pa : Nat} (ha : va % 8 = 0) (ht : translate s (.ctx home) va 8 acc = .ok h) (hc : h.checked = none)
    (hd : h.device = true) (hpa : h.pa = some pa) : deviceAt s (.ctx home) va acc = some (pa % 2 ^ 48) := by
  unfold deviceAt
  rw [if_neg (not_not.mpr ha), ht]
  simp only [hd, hc, hpa, Option.isNone_none, Bool.and_self, if_true, Option.map_some]

theorem agentBytes_clean (hc : ∀ i, i < n → h.loc + i ∉ s.poison) : agentBytes s h va n = .ok (Memory.readN s.mem h.loc n) := by
  refine if_neg fun hp => ?_
  obtain ⟨i, hi, hin⟩ := List.any_eq_true.mp hp
  exact hc i (List.mem_range.mp hi) (List.contains_iff_mem.mp hin)
theorem agentBytes_poisoned (hc : ¬ ∀ i, i < n → h.loc + i ∉ s.poison) :
    agentBytes s h va n = .error (addrFault va Cause.dataPoison.toNat) := by
  refine if_pos (List.any_eq_true.mpr ?_)
  push Not at hc
  obtain ⟨i, hi, hin⟩ := hc
  exact ⟨i, List.mem_range.mpr hi, List.contains_iff_mem.mpr hin⟩

theorem noRegister (hd : n = 8 → deviceAt s (.ctx home) va acc = none) : (if n = 8 then deviceAt s (.ctx home) va acc else none) = none := by
  split
  · exact hd ‹_›
  · rfl
/-- A read that reaches no register is one of memory. -/
theorem agentRead_hit (hh : agentHit s home va n .read = .ok h) : agentRead s home va n = agentBytes s h va n := by
  unfold agentRead
  rw [noRegister fun h8 => deviceAt_of_agentHit (h8 ▸ hh)]
  dsimp only
  rw [hh]
theorem agentRead_fails (hf : HitFails s home va n .read k) : agentRead s home va n = .error (addrFault va k.toNat) := by
  unfold agentRead
  rw [noRegister hf.device]
  dsimp only
  rw [hf.hit]
theorem agentRead_register {pa : Nat} (hd : deviceAt s (.ctx home) va .read = some pa) :
    agentRead s home va 8 = .ok (devRead s pa).toNat := by
  unfold agentRead
  rw [if_pos rfl, hd]

end AgentAccess

/-! ## Loads, stores and signals -/

/-- The state after an agent's write of k bytes at a location: these hold a value, no other byte differs, and the agent is past its
instruction. -/
def StoredBy (s : State) (a : Agent) (loc k val : Nat) (t : State) : Prop :=
  Memory.readN t.mem loc k = val ∧ (∀ b, b < loc ∨ loc + k ≤ b → Memory.read t.mem b = Memory.read s.mem b)
    ∧ t.agent s.fa = some a.advance
    ∧ t = { s with agents := t.agents, mem := t.mem, poison := t.poison, soft := t.soft, perf := t.perf }

/-- Memory as an agent's write leaves it, with the errors of its bytes corrected or overwritten. -/
def agentWrote (s : State) (write : Bool) (loc k v : Nat) (poison : List Nat) : State :=
  { correctAt s write loc k with mem := Memory.writeN s.mem loc k v, poison := poison }

theorem storedBy_agentWrote (s : State) (a : Agent) (write : Bool) (loc k v : Nat) (poison : List Nat) :
    StoredBy s a loc k (v % 2 ^ (8 * k)) ((agentWrote s write loc k v poison).setAgent s.fa a.advance) := by
  refine ⟨?_, fun b hb => Memory.read_writeN_other k _ _ _ b hb, agent_setAgent_same .., ?_⟩
  · rw [pow_mul]
    exact Memory.readN_writeN_same k ..
  · obtain ⟨soft, perf, h⟩ := correctAt_spec s write loc k
    rw [agentWrote, h]
    rfl
theorem agentEnd_agentWrote (s : State) (a : Agent) (write : Bool) (loc k v : Nat) (poison : List Nat) :
    agentEnd (agentWrote s write loc k v poison) a = .next ((agentWrote s write loc k v poison).setAgent s.fa a.advance) := by
  rw [agentEnd, show (agentWrote s write loc k v poison).fa = s.fa from fa_correctAt]

/-- The state after an agent's read: what it met is corrected (R265), and the agent is replaced. -/
def SeenBy (s : State) (a : Agent) (t : State) : Prop :=
  ∃ soft perf, t = { s with soft := soft, perf := perf, agents := Tbl.put s.agents s.fa a } ∧ (s.soft = [] → soft = [] ∧ perf = s.perf)

theorem seenBy_extSeen (s : State) (who : Who) (va n : Nat) (a : Agent) : SeenBy s a ((extSeen s who va n).setAgent s.fa a) := by
  obtain ⟨soft, perf, h⟩ := extSeen_spec s who va n
  refine ⟨soft, perf, by rw [h]; rfl, fun hs => ?_⟩
  rw [extSeen_none hs] at h
  exact ⟨(congrArg State.soft h).symm.trans hs, (congrArg State.perf h).symm⟩

section AgentMemory
variable {s : State} {a : Agent} (hag : s.agent s.fa = some a)
include hag

theorem onAgent_some (body : Agent → Res) : onAgent s body = body a := by
  rw [onAgent, hag]

variable {d g : BitVec 3} {w : Bool} {imm : W32} {h : Hit} {k : Byte}

theorem exec_gld : exec (.gld d g w imm) s = match agentRead s a.home (agentEa a g imm) (if w then 4 else 8) with
    | .error f => agentTrapF s f
    | .ok v => agentEnd (extSeen s (.ctx a.home) (agentEa a g imm) (if w then 4 else 8))
        (a.setReg d (if w then (BitVec.ofNat 32 v).signExtend 64 else .ofNat 64 v)) :=
  onAgent_some hag _
theorem gld_fails {f : AgentFault} (hr : agentRead s a.home (agentEa a g imm) (if w then 4 else 8) = .error f) :
    AgentTraps (.gld d g w imm) s f.1 f.2.1 f.2.2 := by
  refine (exec_gld hag).trans ?_
  rw [hr]
  rfl
theorem gld_loads {v : Nat} (hr : agentRead s a.home (agentEa a g imm) (if w then 4 else 8) = .ok v) :
    ∃ t, exec (.gld d g w imm) s = .next t
      ∧ SeenBy s (a.setReg d (if w then (BitVec.ofNat 32 v).signExtend 64 else .ofNat 64 v)).advance t := by
  refine ⟨_, ?_, seenBy_extSeen s (.ctx a.home) (agentEa a g imm) (if w then 4 else 8) _⟩
  rw [exec_gld hag, hr]
  dsimp only
  rw [agentEnd, fa_extSeen]

theorem exec_gst_memory (hd : w = false → deviceAt s (.ctx a.home) (agentEa a g imm) .write = none) : exec (.gst d g w imm) s =
    match agentWrite s a.home (agentEa a g imm) (if w then 4 else 8) (a.reg d).toNat with
    | .error f => agentTrapF s f
    | .ok s1 => agentEnd s1 a := by
  have hnone : (if w then none else deviceAt s (.ctx a.home) (agentEa a g imm) .write) = none := by
    cases w with
    | true => rfl
    | false => exact hd rfl
  refine (onAgent_some hag _).trans ?_
  dsimp only
  rw [hnone] <;> rfl
theorem gst_fails (hf : HitFails s a.home (agentEa a g imm) (if w then 4 else 8) .write k) :
    AgentTraps (.gst d g w imm) s Cause.agentAddr (.ofNat 64 (agentEa a g imm)) k.toNat := by
  refine (exec_gst_memory hag fun hw => hf.device (by rw [hw]; rfl)).trans ?_
  rw [agentWrite, hf.hit]
  rfl
theorem gst_stores (hh : agentHit s a.home (agentEa a g imm) (if w then 4 else 8) .write = .ok h) :
    ∃ t, exec (.gst d g w imm) s = .next t
      ∧ StoredBy s a h.loc (if w then 4 else 8) ((a.reg d).toNat % 2 ^ (8 * (if w then 4 else 8))) t := by
  refine ⟨_, ?_, storedBy_agentWrote s a true h.loc _ (a.reg d).toNat (clearPoison s.poison h.loc (if w then 4 else 8))⟩
  rw [exec_gst_memory hag fun hw => deviceAt_of_agentHit (h := h) (by rw [hw] at hh; exact hh), agentWrite, hh]
  exact agentEnd_agentWrote ..
theorem gst_register {off : Nat} (hd : deviceAt s (.ctx a.home) (agentEa a g imm) .write = some off) :
    exec (.gst d g false imm) s = .next ((devWrite s off (a.reg d)).setAgent s.fa a.advance) := by
  refine (onAgent_some hag _).trans ?_
  dsimp only
  rw [if_neg Bool.false_ne_true, hd]
  dsimp only
  rw [agentEnd, fa_devWrite]

theorem gsig_fails {f : AgentFault} (hf : agentHit s a.home (agentEa a g imm) 8 .write = .error f) :
    AgentTraps (.gsig d g imm) s f.1 f.2.1 f.2.2 := by
  refine (onAgent_some hag _).trans ?_
  dsimp only
  rw [hf]
  rfl
theorem gsig_poisoned (hh : agentHit s a.home (agentEa a g imm) 8 .write = .ok h) (hp : ¬ ∀ i, i < 8 → h.loc + i ∉ s.poison) :
    AgentTraps (.gsig d g imm) s Cause.agentAddr (.ofNat 64 (agentEa a g imm)) Cause.dataPoison.toNat := by
  refine (onAgent_some hag _).trans ?_
  dsimp only
  rw [hh]
  dsimp only
  rw [agentBytes_poisoned hp]
  rfl
theorem gsig_adds (hh : agentHit s a.home (agentEa a g imm) 8 .write = .ok h) (hc : ∀ i, i < 8 → h.loc + i ∉ s.poison) :
    ∃ t, exec (.gsig d g imm) s = .next t ∧ StoredBy s a h.loc 8 ((Memory.readN s.mem h.loc 8 + (a.reg d).toNat) % 2 ^ 64) t := by
  have hstored := storedBy_agentWrote s a false h.loc 8 ((Memory.readN s.mem h.loc 8 + (a.reg d).toNat) % 2 ^ 64)
    (correctAt s false h.loc 8).poison
  rw [Nat.mod_mod] at hstored
  refine ⟨_, (onAgent_some hag _).trans ?_, hstored⟩
  dsimp only
  rw [hh]
  dsimp only
  rw [agentBytes_clean hc]
  exact agentEnd_agentWrote ..

/-! ## Waits (R325) -/

variable {cond : BitVec 3}

theorem gwaitRead_fails (i : Instr) {f : AgentFault} (hr : agentRead s a.home (agentEa a g imm) 8 = .error f) :
    gwaitRead i d g cond imm s = agentTrapF s f := by
  refine (onAgent_some hag _).trans ?_
  dsimp only
  rw [hr]
theorem gwaitRead_met (i : Instr) {v : Nat} (hr : agentRead s a.home (agentEa a g imm) 8 = .ok v)
    (hc : condHolds cond.toNat (.ofNat 64 v) (a.reg d) = true) : ∃ t, gwaitRead i d g cond imm s = .next t
      ∧ SeenBy s ({ a with st := stReady, cur := none }.setReg d (.ofNat 64 v)).advance t := by
  refine ⟨_, (onAgent_some hag _).trans ?_, seenBy_extSeen s (.ctx a.home) (agentEa a g imm) 8 _⟩
  dsimp only
  rw [hr]
  dsimp only
  rw [if_pos hc, agentEnd, fa_extSeen]
theorem gwaitRead_unmet (i : Instr) {v : Nat} (hr : agentRead s a.home (agentEa a g imm) 8 = .ok v)
    (hc : ¬ condHolds cond.toNat (.ofNat 64 v) (a.reg d) = true) : ∃ t, gwaitRead i d g cond imm s = .next t
      ∧ SeenBy s { a with st := stWait, cur := some i } t := by
  refine ⟨_, (onAgent_some hag _).trans ?_, seenBy_extSeen s (.ctx a.home) (agentEa a g imm) 8 _⟩
  dsimp only
  rw [hr]
  dsimp only
  rw [if_neg hc, fa_extSeen]

end AgentMemory

theorem exec_gwait {s : State} {d g cond : BitVec 3} {imm : W32} (hc : cond.toNat ≤ 5) :
    exec (.gwait d g cond imm) s = gwaitRead (.gwait d g cond imm) d g cond imm s := if_neg (by omega)

/-- The condition of a GWAIT in numbers (R107, R325). -/
theorem gwaitCond_iff {c y : Nat} {x : Word} (hc : c ≤ 5) (hy : y < 2 ^ 64) : condHolds c (.ofNat 64 y) x = true ↔
    (c = 0 ∧ y = uv x) ∨ (c = 1 ∧ y ≠ uv x) ∨ (c = 2 ∧ sb 8 y < sv x) ∨ (c = 3 ∧ sb 8 y ≥ sv x) ∨ (c = 4 ∧ y < uv x) ∨ (c = 5 ∧ y ≥ uv x)
      := by
  have huv : uv (.ofNat 64 y) = y := Nat.mod_eq_of_lt hy
  have hsv : sv (.ofNat 64 y) = sb 8 y := BitVec.toInt_ofNat' ..
  have heq : BitVec.ofNat 64 y = x ↔ y = uv x := by
    rw [← BitVec.toNat_inj]
    exact ⟨fun h => huv.symm.trans h, fun h => huv.trans h⟩
  rw [condHolds_iff hc, huv, hsv, ne_eq, heq]

theorem gwaitCond_le {c y : Nat} {x : Word} (h : (c = 0 ∧ y = uv x) ∨ (c = 1 ∧ y ≠ uv x) ∨ (c = 2 ∧ sb 8 y < sv x) ∨ (c = 3 ∧ sb 8 y ≥ sv x)
    ∨ (c = 4 ∧ y < uv x) ∨ (c = 5 ∧ y ≥ uv x)) : c ≤ 5 := by omega

/-! ## The recheck of a waiting agent (R325, R415, R419) -/

/-- An agent that becomes ready without a slot joins those that wait for one, once. -/
theorem awaitSlot_ready {s : State} {id : Nat} {a : Agent} (h : s.agent id = some a) (hst : a.st = stReady) : awaitSlot s id =
    { s with slotQueue := if a.resident = true ∨ id ∈ s.slotQueue then s.slotQueue else s.slotQueue ++ [id] } := by
  unfold awaitSlot
  rw [h]
  by_cases hr : a.resident = true
  · simp [hr]
  · by_cases hq : id ∈ s.slotQueue
    · simp [hq]
    · simp [hr, hq, hst]

theorem noteHeld_focus (s : State) (f h : Nat) (ds : List Nat) :
    noteHeld { s with fa := f } h ds = { noteHeld s h ds with fa := f } := by
  unfold noteHeld
  split
  · rfl
  · split <;> rfl

section Recheck
variable {s : State} {a : Agent} {id : Nat} {d g cond : BitVec 3} {imm : W32}

theorem exec_gwaitRecheck_waiting (hag : s.agent id = some a) (hst : a.st = stWait) (hcur : a.cur = some (.gwait d g cond imm))
    (hedge : edged s (partOf s a) .machine = false) : exec (.gwaitRecheck id) s =
    whenTouch s (agentSender id) { reads := [], rest := [(.ctx a.home, agentEa a g imm, 8)] } (fun u =>
      match gwaitRead (.gwait d g cond imm) d g cond imm { u with fa := id } with
      | .next s1 => .next (awaitSlot { s1 with fa := u.fa } id)
      | r => r) := by
  change execGwaitRecheck id s = _
  unfold execGwaitRecheck
  rw [hag]
  dsimp only
  rw [hcur]
  dsimp only
  rw [hst, hedge]
  rfl
theorem exec_gwaitRecheck_edged (hag : s.agent id = some a) (hcur : a.cur = some (.gwait d g cond imm))
    (hedge : edged s (partOf s a) .machine = true) : exec (.gwaitRecheck id) s = .next s := by
  change execGwaitRecheck id s = _
  unfold execGwaitRecheck
  rw [hag]
  dsimp only
  rw [hcur]
  dsimp only
  rw [hedge, Bool.not_true, Bool.and_false, if_neg Bool.false_ne_true]

/-! What an access reaches does not depend on what the boundaries hold. -/

theorem dropHeld_fresh (s : State) (h : Nat) : (dropHeld s h).fresh = s.fresh := rfl
theorem contLeaf_dropHeld (s : State) (h node idx l va e : Nat) : contLeaf (dropHeld s h) node idx l va e = contLeaf s node idx l va e := by
  unfold contLeaf
  simp only [dropHeld_mem, dropHeld_fresh]
  rfl
theorem paOk_dropHeld (s : State) (h pa : Nat) : paOk (dropHeld s h) pa = paOk s pa := rfl
theorem walkFrom_dropHeld (s : State) (h va : Nat) (l : Nat) : ∀ node, walkFrom (dropHeld s h) va node l = walkFrom s va node l := by
  induction l with
  | zero =>
    intro node
    unfold walkFrom
    simp only [contLeaf_dropHeld, paOk_dropHeld, dropHeld_mem]
  | succ l ih =>
    intro node
    unfold walkFrom
    simp only [contLeaf_dropHeld, paOk_dropHeld, dropHeld_mem, ih]
    rfl
theorem walk_dropHeld (s : State) (h ctx va : Nat) : walk (dropHeld s h) ctx va = walk s ctx va := by
  unfold walk
  simp only [walkFrom_dropHeld]
  rfl
theorem translate_dropHeld (s : State) (h ctx va n : Nat) (acc : AccKind) :
    translate (dropHeld s h) (.ctx ctx) va n acc = translate s (.ctx ctx) va n acc := by
  unfold Machine.translate leafOf
  simp only [walk_dropHeld, paOk_dropHeld]
  rfl
theorem agentHit_dropHeld (s : State) (h home va n : Nat) (acc : AccKind) :
    agentHit (dropHeld s h) home va n acc = agentHit s home va n acc := by
  unfold agentHit
  rw [translate_dropHeld]

theorem exec_gwaitRecheck_held (f : Nat) (hag : s.agent s.fa = some a) (hst : a.st = stWait)
    (hcur : a.cur = some (.gwait d g cond imm)) (hedge : edged s (partOf s a) .machine = false)
    (hheld : touchHeld s (agentSender s.fa) { reads := [], rest := [(.ctx a.home, agentEa a g imm, 8)] } ≠ []) :
    exec (.gwaitRecheck s.fa) { s with fa := f } = .next { noteHeld s (agentSender s.fa)
      (touchHeld s (agentSender s.fa) { reads := [], rest := [(.ctx a.home, agentEa a g imm, 8)] }) with fa := f } := by
  rw [exec_gwaitRecheck_waiting (s := { s with fa := f }) hag hst hcur hedge, whenTouch_held (s := { s with fa := f }) hheld]
  exact congrArg _ (noteHeld_focus ..)
/-- A read that meets the condition makes the agent READY past its GWAIT, and it joins those that wait for a slot. -/
theorem exec_gwaitRecheck_met {h : Hit} (f : Nat) (hag : s.agent s.fa = some a) (hst : a.st = stWait)
    (hcur : a.cur = some (.gwait d g cond imm)) (hedge : edged s (partOf s a) .machine = false)
    (hopen : touchHeld s (agentSender s.fa) { reads := [], rest := [(.ctx a.home, agentEa a g imm, 8)] } = [])
    (hh : agentHit s a.home (agentEa a g imm) 8 .read = .ok h) (hc : ∀ i, i < 8 → h.loc + i ∉ s.poison)
    (hmet : condHolds cond.toNat (.ofNat 64 (Memory.readN s.mem h.loc 8)) (a.reg d) = true) :
    ∃ soft perf, exec (.gwaitRecheck s.fa) { s with fa := f } = .next { dropHeld s (agentSender s.fa) with
        fa := f, soft := soft, perf := perf
        agents := Tbl.put s.agents s.fa ({ a with st := stReady, cur := none }.setReg d (.ofNat 64 (Memory.readN s.mem h.loc 8))).advance
        slotQueue := if a.resident = true ∨ s.fa ∈ s.slotQueue then s.slotQueue else s.slotQueue ++ [s.fa] }
      ∧ (s.soft = [] → soft = [] ∧ perf = s.perf) := by
  have hread : agentRead (dropHeld s (agentSender s.fa)) a.home (agentEa a g imm) 8 = .ok (Memory.readN s.mem h.loc 8) :=
    (agentRead_hit ((agentHit_dropHeld ..).trans hh)).trans (agentBytes_clean (s := dropHeld s (agentSender s.fa)) hc)
  obtain ⟨t, ht, soft, perf, rfl, hsoft⟩ := gwaitRead_met (s := dropHeld s (agentSender s.fa)) hag (.gwait d g cond imm) hread hmet
  refine ⟨soft, perf, ?_, hsoft⟩
  rw [exec_gwaitRecheck_waiting (s := { s with fa := f }) hag hst hcur hedge, whenTouch_open (s := { s with fa := f }) hopen]
  change (match gwaitRead (.gwait d g cond imm) d g cond imm (dropHeld s (agentSender s.fa)) with
    | .next s1 => Host.Outcome.next (awaitSlot { s1 with fa := f } s.fa)
    | r => r) = _
  rw [ht]
  dsimp only
  rw [awaitSlot_ready (a := ({ a with st := stReady, cur := none }.setReg d (.ofNat 64 (Memory.readN s.mem h.loc 8))).advance)]
  · rfl
  · exact Tbl.look_put_same ..
  · rfl

end Recheck

/-- What GLD writes of the bytes that it reads, the four of a word sign-extended. -/
theorem loadedWord_eq (w : Bool) (v : Nat → Nat) : (if w then (BitVec.ofNat 32 (v (if w then 4 else 8))).signExtend 64
    else BitVec.ofNat 64 (v (if w then 4 else 8))) = if w then ext true 4 (v 4) else BitVec.ofNat 64 (v 8) := by
  cases w with
  | true => exact (ext_eq true 4 (v 4)).symm
  | false => simp only [Bool.false_eq_true, if_false]

/-- Settles O38: each instruction by the check that its address passes or fails; a waiting agent's recheck by the boundary and the
condition. -/
theorem agentMemory : Obligations.AgentMemory := by
  intro s a d g cond w imm h hag ea n x v clean wrote c y holds seen ends bad gets wait
  have hlt : y < 2 ^ 64 := Memory.readN_lt s.mem 8 h.loc
  have hle : holds → c ≤ 5 := gwaitCond_le
  have hcond (hc : c ≤ 5) : condHolds c (.ofNat 64 y) x = true ↔ holds := gwaitCond_iff hc hlt
  have hwait {f : AgentFault} (hc : c ≤ 5) (hr : agentRead s a.home ea 8 = .error f) : AgentTraps wait s f.1 f.2.1 f.2.2 :=
    (exec_gwait hc).trans (gwaitRead_fails hag wait hr)
  have hread {m : Nat} (hh : agentHit s a.home ea m .read = .ok h) (hc : clean m) : agentRead s a.home ea m = .ok (v m) :=
    (agentRead_hit hh).trans (agentBytes_clean hc)
  have hpoison {m : Nat} (hh : agentHit s a.home ea m .read = .ok h) (hc : ¬ clean m) :
      agentRead s a.home ea m = .error (addrFault ea Cause.dataPoison.toNat) := (agentRead_hit hh).trans (agentBytes_poisoned hc)
  refine ⟨fun hh hc => ?load, fun hh => gst_stores hag hh, fun hh hc => gsig_adds hag hh hc,
    fun hh hc => ⟨fun hm => ?met, fun hm hc5 => ?unmet, fun hst hcur hedge f => ⟨fun hds => ?held, fun hds hm => ?again⟩⟩,
    fun hcur hedge => exec_gwaitRecheck_edged hag hcur hedge, fun hc => if_pos hc,
    fun ha => ⟨gld_fails hag (agentRead_fails (hitFails_misaligned ha)), gst_fails hag (hitFails_misaligned ha)⟩,
    fun ha => ⟨gsig_fails hag (agentHit_misaligned ha), fun hc => hwait hc (agentRead_fails (hitFails_misaligned ha))⟩,
    fun k => ⟨fun ha ht => gld_fails hag (agentRead_fails (hitFails_untranslated ha ht)),
      fun ha ht => gst_fails hag (hitFails_untranslated ha ht), fun ha ht => gsig_fails hag (agentHit_untranslated ha ht),
      fun ha ht hc => hwait hc (agentRead_fails (hitFails_untranslated ha ht))⟩,
    fun hck => ⟨fun ⟨ha, ht⟩ => gld_fails hag (agentRead_fails (hitFails_checked ha ht hck)),
      fun ⟨ha, ht⟩ => gst_fails hag (hitFails_checked ha ht hck), fun ⟨ha, ht⟩ => gsig_fails hag (agentHit_checked ha ht hck),
      fun ⟨ha, ht⟩ hc => hwait hc (agentRead_fails (hitFails_checked ha ht hck))⟩,
    fun hh hc => gld_fails hag (hpoison hh hc), fun hh hc => gsig_poisoned hag hh hc, fun hh hc hc5 => hwait hc5 (hpoison hh hc),
    fun hd hck => ⟨fun ⟨ha, ht⟩ => gsig_fails hag (agentHit_device ha ht hck hd), fun hw => ?narrow, fun pa hw hpa => ?register⟩⟩
  case load =>
    obtain ⟨t, ht, soft, perf, rfl, hsoft⟩ := gld_loads (d := d) hag (hread hh hc)
    rw [loadedWord_eq w v] at ht
    exact ⟨soft, perf, ht, hsoft⟩
  case met =>
    obtain ⟨t, ht, soft, perf, rfl, hsoft⟩ := gwaitRead_met hag wait (hread hh hc) ((hcond (hle hm)).mpr hm)
    exact ⟨soft, perf, (exec_gwait (hle hm)).trans ht, hsoft⟩
  case unmet =>
    obtain ⟨t, ht, soft, perf, rfl, hsoft⟩ := gwaitRead_unmet hag wait (hread hh hc) (fun hm' => hm ((hcond hc5).mp hm'))
    exact ⟨soft, perf, (exec_gwait hc5).trans ht, hsoft⟩
  case held => exact exec_gwaitRecheck_held f hag hst hcur hedge hds
  case again => exact exec_gwaitRecheck_met f hag hst hcur hedge hds hh hc ((hcond (hle hm)).mpr hm)
  case narrow =>
    subst hw
    exact ⟨fun ⟨ha, ht⟩ => gld_fails (g := g) (w := true) (imm := imm) hag (agentRead_fails (hitFails_device ha ht hck hd)),
      fun ⟨ha, ht⟩ => gst_fails (w := true) hag (hitFails_device ha ht hck hd)⟩
  case register =>
    subst hw
    refine ⟨fun ⟨ha, ht⟩ => ?_, fun ⟨ha, ht⟩ => gst_register hag (deviceAt_register ha ht hck hd hpa)⟩
    obtain ⟨t, ht', soft, perf, rfl, hsoft⟩ := gld_loads (d := d) (g := g) (w := false) (imm := imm) hag
      (agentRead_register (deviceAt_register ha ht hck hd hpa))
    rw [if_neg Bool.false_ne_true, BitVec.ofNat_toNat, BitVec.setWidth_eq] at ht'
    exact ⟨soft, perf, ht', hsoft⟩

end Sys2Proof.Proofs
end

section
/-!
PROOFS. Copy jobs: the job of a channel, the access of an engine and its faults (R265, R274, R286, R393, R415).
-/

namespace Sys2Proof.Proofs
open Sys2Proof Sys2Proof.Machine Sys2Proof.Claim

/-! ## The job of a channel -/

section OneJob
variable {s : State} {core : Nat} {ch : BitVec 2} {j : Job} (hjobs : (s.core core).jobs = [j])
include hjobs

theorem headJob_one (hch : j.channel = ch.toNat) : headJob ch.toNat 0 (s.core core).jobs = some (0, j) := by
  rw [hjobs]
  exact if_pos hch
theorem onHead_one (hch : j.channel = ch.toNat) (f : Nat → Job → State) :
    onHead core ch s f = .next (if j.susp.isNone && !(coreFrozen s core) then f 0 j else s) := by
  rw [onHead, headJob_one hjobs hch]
theorem onHead_frozen (hch : j.channel = ch.toNat) (hf : coreFrozen s core = true) (f : Nat → Job → State) : onHead core ch s f = .next s
    := by
  rw [onHead_one hjobs hch, hf, Bool.not_true, Bool.and_false, if_neg Bool.false_ne_true]
theorem onHead_suspended (hch : j.channel = ch.toNat) {x : Susp} (hs : j.susp = some x) (f : Nat → Job → State) :
    onHead core ch s f = .next s := by
  rw [onHead_one hjobs hch, hs, Option.isNone_some, Bool.false_and, if_neg Bool.false_ne_true]
theorem onHead_runs (hch : j.channel = ch.toNat) (hs : j.susp = none) (hf : coreFrozen s core = false) (f : Nat → Job → State) :
    onHead core ch s f = .next (f 0 j) := by
  rw [onHead_one hjobs hch, hs, hf]
  rfl

theorem jobs_setJob (j1 : Job) : ((setJob s core 0 j1).core core).jobs = [j1] := by
  rw [setJob, State.core_setCore, hjobs]
  rfl
theorem jobs_dropJob : ((dropJob s core 0).core core).jobs = [] := by
  rw [dropJob, State.core_setCore, hjobs]
  rfl

end OneJob

/-! ## Bytes read and written by an engine -/

theorem countPieces_core (s : State) (core : Nat) (write : Bool) (ps : List Piece) (k : Nat) : (countPieces s core write ps).core k =
    s.core k := by
  obtain ⟨soft, perf, h⟩ := countPieces_spec core write ps s
  rw [h]
  rfl
/-- A write touches memory and its marks alone. -/
theorem writePieces_spec (ps : List Piece) : ∀ (s : State) (v : Nat), ∃ poison,
    writePieces s ps v = { s with mem := (writePieces s ps v).mem, poison := poison } := by
  induction ps with
  | nil => exact fun s _ => ⟨s.poison, rfl⟩
  | cons p r ih =>
    intro s v
    obtain ⟨poison, h⟩ := ih { s with mem := Memory.writeN s.mem p.hit.loc p.n v, poison := clearPoison s.poison p.hit.loc p.n }
      (v / 256 ^ p.n)
    exact ⟨poison, h⟩
theorem writePieces_core (s : State) (ps : List Piece) (v k : Nat) : (writePieces s ps v).core k = s.core k := by
  obtain ⟨poison, h⟩ := writePieces_spec ps s v
  rw [h]
  rfl
/-- The bytes that a write leaves depend on those before it alone. -/
theorem writePieces_mem_congr (ps : List Piece) : ∀ {s t : State} (v : Nat), s.mem = t.mem →
    (writePieces s ps v).mem = (writePieces t ps v).mem := by
  induction ps with
  | nil => exact fun _ h => h
  | cons p r ih => exact fun v h => ih _ (congrArg (fun m => Memory.writeN m p.hit.loc p.n v) h)
theorem clearCovered_spec (s : State) (core : Nat) (ps : List CopyPiece) : ∃ poison, clearCovered s core ps = { s with poison := poison }
    := by
  unfold clearCovered
  split
  · exact ⟨s.poison, rfl⟩
  · dsimp only
    split
    · split
      · exact ⟨_, rfl⟩
      · exact ⟨s.poison, rfl⟩
    · exact ⟨s.poison, rfl⟩

theorem ringPost_keeps (s : State) (key : Nat) (r : BitVec 256) : (ringPost s key r).mem = s.mem ∧ (ringPost s key r).cores = s.cores := by
  refine ⟨?_, packet_cores (ringPost_packet s key r)⟩
  unfold ringPost
  repeat' split
  all_goals rfl
theorem engineRecord_keeps (s : State) (l engine ch : Nat) (cause : Byte) (va w0 : Word) :
    (engineRecord s l engine ch cause va w0).mem = s.mem ∧ (engineRecord s l engine ch cause va w0).cores = s.cores := by
  unfold engineRecord
  split
  · exact ringPost_keeps ..
  · exact ⟨rfl, rfl⟩

/-! ## An access at the boundary (R415) -/

section Access
variable {s : State} {core c : Nat} {ps : List Piece} {go : State → EngOut}

theorem engAccess_open (h : heldAt s (copySender core c) (piecesDecks s core ps) = []) :
    engAccess s core c ps go = go (dropHeld s (copySender core c)) := by
  rw [engAccess, h]
theorem engAccess_held (h : heldAt s (copySender core c) (piecesDecks s core ps) ≠ []) : engAccess s core c ps go =
    .idle (noteHeld s (copySender core c) (heldAt s (copySender core c) (piecesDecks s core ps))) := by
  unfold engAccess
  split
  · exact absurd ‹_› h
  · rfl
theorem find_replaced {h : Nat} {ds : List Nat} {l : List (Nat × List Nat)} (hany : l.any (fun e => e.1 = h) = true) :
    (l.map (fun e => if e.1 = h then (h, ds) else e)).find? (fun e => e.1 = h) = some (h, ds) := by
  induction l with
  | nil => exact nomatch hany
  | cons e r ih =>
    by_cases he : e.1 = h
    · simp [he]
    · rw [List.map_cons, if_neg he, List.find?_cons_of_neg (by simpa using he)]
      refine ih ?_
      rwa [List.any_cons, decide_eq_false he, Bool.false_or] at hany
/-- A sender that is held keeps what holds it at its place. -/
theorem find_noteHeld (s : State) (h : Nat) {ds : List Nat} (hds : ds ≠ []) :
    (noteHeld s h ds).crossing.find? (fun e => e.1 = h) = some (h, ds) := by
  unfold noteHeld
  rw [if_neg (by simpa using hds)]
  split
  · exact find_replaced ‹_›
  · rename_i hany
    have hnone : s.crossing.find? (fun e => e.1 = h) = none :=
      List.find?_eq_none.mpr fun e he hd => hany (List.any_eq_true.mpr ⟨e, he, hd⟩)
    rw [List.find?_append, hnone]
    simp

end Access

/-! ## A fault of a job (R286, R393) -/

section Fault
variable {s : State} {core : Nat} {j : Job} {c : Byte} {va : Word} {off : Nat}

theorem jobFault_ends (i : Nat) (h : c.toNat / 32 ≠ 4) : jobFault s core i j c va off = failJob s core i j c.toNat := if_neg h

/-- What a job that has met a fault of translation waits with. -/
def faultNow (s : State) (c : Byte) (va : Word) (off since : Nat) : Susp :=
  { cause := c, va := va, since := since, lastTry := s.reft.toNat, off := off, due := false }

/-- A fault of translation suspends the job; at the address of the fault that it waits for, the time of that fault runs on. -/
theorem jobFault_suspends (hjobs : (s.core core).jobs = [j]) (h : c.toNat / 32 = 4) {since : Nat}
    (hsince : since = match j.susp with | some x => if va = x.va then x.since else s.reft.toNat | none => s.reft.toNat) :
    ((jobFault s core 0 j c va off).core core).jobs = [{ j with susp := some (faultNow s c va off since) }]
      ∧ (jobFault s core 0 j c va off).mem = s.mem := by
  unfold jobFault
  rw [if_pos h]
  dsimp only
  split
  · rename_i x hx
    obtain ⟨hx, hva⟩ := Option.filter_eq_some_iff.mp hx
    have hva : x.va = va := of_decide_eq_true hva
    rw [hx] at hsince
    dsimp only at hsince
    rw [if_pos hva.symm] at hsince
    subst hsince hva
    exact ⟨jobs_setJob hjobs _, rfl⟩
  · rename_i hnone
    have hnow : since = s.reft.toNat := by
      rw [hsince]
      split
      · rename_i x hx
        rw [hx] at hnone
        refine if_neg fun hva => ?_
        simp [hva] at hnone
      · rfl
    subst hnow
    obtain ⟨hmem, hcores⟩ := engineRecord_keeps (setJob s core 0 { j with susp := some (faultNow s c va off s.reft.toNat) })
      j.launch 0 j.channel c va j.w0
    refine ⟨?_, hmem⟩
    refine Eq.trans ?_ (jobs_setJob hjobs { j with susp := some (faultNow s c va off s.reft.toNat) })
    exact congrArg (fun t => (Tbl.get t core Core.empty).jobs) hcores

end Fault

end Sys2Proof.Proofs
end

section
/-!
PROOFS. A piece of a copy job, a run of one piece, and the delivery of its bytes (R268, R279, R280, R284, R391).
-/

namespace Sys2Proof.Proofs
open Sys2Proof Sys2Proof.Machine Sys2Proof.Claim

/-! ## One piece of a job, and a run of one piece (R268, R284) -/

/-- The state after a piece has moved the bytes of its source, counted for the core that reads them. -/
def pieceMoved (s : State) (core c reader : Nat) (rs ws : List Piece) : State :=
  dropTags (writePieces (countPieces (countPieces (countPieces (dropHeld s (copySender core c)) reader false rs) core false []) core true
    ws)
    ws (readPieces s.mem rs)) ws

theorem pieceMoved_mem (s : State) (core c reader : Nat) (rs ws : List Piece) :
    (pieceMoved s core c reader rs ws).mem = (writePieces s ws (readPieces s.mem rs)).mem := by
  refine writePieces_mem_congr ws _ ?_
  rw [countPieces_mem, countPieces_mem, countPieces_mem]
  rfl
theorem pieceMoved_core (s : State) (core c reader : Nat) (rs ws : List Piece) (k : Nat) :
    (pieceMoved s core c reader rs ws).core k = s.core k := by
  refine (writePieces_core _ ws _ k).trans ?_
  rw [countPieces_core, countPieces_core, countPieces_core]
  rfl

section Piece
variable {s : State} {core reader : Nat} {j : Job} {off src dst n : Nat} {rs ws : List Piece}

theorem copyPiece_unowned {e : Byte} (hsrc : sourceCore s core j src = .error e) :
    copyPiece s core j off src dst n = (.fault e (.ofNat 64 src) off, 0) := by
  unfold copyPiece
  rw [hsrc]

variable (h4 : j.kind ≠ 4)
include h4

theorem copyPiece_unread {e : AccFault} (hsrc : sourceCore s core j src = .ok reader)
    (hr : engPieces s core .read (sectorsOf src n (n + 1)) = .error e) :
    copyPiece s core j off src dst n = (.fault e.1 e.2 off, 0) := by
  unfold copyPiece
  rw [hsrc, if_neg h4]
  dsimp only
  rw [hr]

variable (h5 : j.kind ≠ 5) (hsrc : sourceCore s core j src = .ok reader) (hr : engPieces s core .read (sectorsOf src n (n + 1)) = .ok rs)
  (hw : engPieces s core .write (sectorsOf dst n (n + 1)) = .ok ws)
include h5 hsrc hr hw

theorem copyPiece_access : copyPiece s core j off src dst n = (engAccess s core j.channel (rs ++ ws) (fun u =>
    .done (dropTags (writePieces (countPieces (countPieces (countPieces u reader false rs) core false []) core true ws)
      ws (readPieces s.mem rs)) ws)), 0) := by
  unfold copyPiece
  rw [hsrc, if_neg h4]
  dsimp only
  rw [hr]
  dsimp only
  rw [if_neg h5, hw]
  dsimp only
  rw [if_neg h4, if_neg h5]
theorem copyPiece_moves (hopen : heldAt s (copySender core j.channel) (piecesDecks s core (rs ++ ws)) = []) :
    copyPiece s core j off src dst n = (.done (pieceMoved s core j.channel reader rs ws), 0) := by
  rw [copyPiece_access h4 h5 hsrc hr hw, engAccess_open hopen]
  rfl
theorem copyPiece_held (hheld : heldAt s (copySender core j.channel) (piecesDecks s core (rs ++ ws)) ≠ []) :
    copyPiece s core j off src dst n = (.idle (noteHeld s (copySender core j.channel)
      (heldAt s (copySender core j.channel) (piecesDecks s core (rs ++ ws)))), 0) := by
  rw [copyPiece_access h4 h5 hsrc hr hw, engAccess_held hheld]

end Piece

section Run
variable {s : State} {core : Nat} {j : Job} {p : CopyPiece}

theorem copyPieces_nil (s : State) (core : Nat) (j : Job) (fl : Byte) : copyPieces s core j fl [] = (.done s, fl) := by rw [copyPieces]
theorem copyRun_fault {r : List CopyPiece} {c : Byte} {va : Word} {o : Nat}
    (h : copyPiece s core j p.off p.src p.dst p.n = (.fault c va o, 0)) :
    copyRun s core j (p :: r) = (.fault c va o, 0) := by
  have hp : copyPieces s core j 0 (p :: r) = (.fault c va o, 0) := by
    rw [copyPieces, h]
  unfold copyRun
  rw [hp]
theorem copyRun_done {s1 : State} (h : copyPiece s core j p.off p.src p.dst p.n = (.done s1, 0)) :
    copyRun s core j [p] = (.done (clearCovered s1 core [p]), 0) := by
  have hp : copyPieces s core j 0 [p] = (.done s1, 0) := by
    rw [copyPieces, h]
    exact copyPieces_nil ..
  unfold copyRun
  rw [hp]
theorem copyRun_held {ds : List Nat} (hds : ds ≠ []) (h : copyPiece s core j p.off p.src p.dst p.n =
    (.idle (noteHeld s (copySender core j.channel) ds), 0)) :
    copyRun s core j [p] = (.idle (noteHeld s (copySender core j.channel) ds), 0) := by
  have hp : copyPieces s core j 0 [p] = (.idle (noteHeld s (copySender core j.channel) ds), 0) := by
    rw [copyPieces, h]
  unfold copyRun
  rw [hp]
  dsimp only
  rw [find_noteHeld s _ hds]

end Run

/-! ## The count of a channel (R279, R280) -/

theorem advanceCount_mem (s : State) (core c n : Nat) : (advanceCount s core c n).mem = s.mem := by
  rw [advanceCount, mapStrands_spec]
  rfl
theorem mapStrands_core (s : State) (f : Strand → Strand) (l : List Nat) (k : Nat) : (mapStrands s f l).core k = s.core k := by
  rw [mapStrands_spec]
  rfl
theorem advanceCount_core (s : State) (core c n : Nat) : (advanceCount s core c n).core core =
    { s.core core with cpwp := Vector.upd (s.core core).cpwp c (Vector.nth (n := 3) (s.core core).cpwp c + .ofNat 64 n) } :=
  (mapStrands_core ..).trans (State.core_setCore ..)

/-- The bytes of a row of a gather; 1 for other jobs. -/
def jobRowb (j : Job) : Nat := match j.kind, j.block with | 2, some b => blkRowb b | _, _ => 1
/-- A job whose bytes have been delivered, past the rows of a gather that had arrived. -/
def jobLanded (j : Job) : Job :=
  if j.kind = 2 then
    let p := passRows (jobRowb j) j j.rows.length
    { p with rows := p.rows.filter (fun r => p.done ≤ r * jobRowb j) }
  else j

theorem deliver_eq (u : State) (core i : Nat) (j : Job) (fl : Byte) : deliver u core i j fl =
    if (u.core core).launch = some j.launch then
      advanceCount (setJob u core i { jobLanded j with flags := (jobLanded j).flags ||| fl, susp := none }) core j.channel
        ((jobLanded j).done - ((u.core core).jobs[i]?.map (fun x => x.done)).getD 0)
    else setJob u core i { jobLanded j with flags := (jobLanded j).flags ||| fl, susp := none } := rfl

/-- A delivery without flags leaves memory as it is and the job landed, and advances the count while the job's launch runs (R391). -/
theorem deliver_spec {u : State} {core : Nat} {j0 j j1 : Job} (hjobs : (u.core core).jobs = [j0]) (hl : jobLanded j = j1)
    (hsusp : j1.susp = none) :
    (deliver u core 0 j 0).mem = u.mem ∧ ((deliver u core 0 j 0).core core).jobs = [j1]
    ∧ ((u.core core).launch = some j.launch → ((deliver u core 0 j 0).core core).cpwp =
        Vector.upd (u.core core).cpwp j.channel (Vector.nth (n := 3) (u.core core).cpwp j.channel + .ofNat 64 (j1.done - j0.done))) := by
  have hold : ((u.core core).jobs[0]?.map (fun x => x.done)).getD 0 = j0.done := by rw [hjobs]; rfl
  have hj1 : { jobLanded j with flags := (jobLanded j).flags ||| 0, susp := none } = j1 := by
    rw [show (jobLanded j).flags ||| 0 = (jobLanded j).flags from BitVec.or_zero, hl, ← hsusp]
  rw [deliver_eq, hj1, hold, hl]
  split
  · refine ⟨advanceCount_mem .., ?_, fun _ => ?_⟩
    · rw [advanceCount_core]
      exact jobs_setJob hjobs _
    · rw [advanceCount_core, setJob, State.core_setCore]
  · exact ⟨rfl, jobs_setJob hjobs _, fun h => absurd h ‹_›⟩

end Sys2Proof.Proofs
end

section
/-!
PROOFS. Plain copies: the piece that comes next, and the events that read a block, start a job and transfer (R273, R276, R278, R419).
-/

namespace Sys2Proof.Proofs
open Sys2Proof Sys2Proof.Machine Sys2Proof.Claim

/-! ## Plain copies (R273, R278) -/

section Plain
variable {s : State} {core : Nat} {j : Job}

theorem blockPending_flat (h : j.kind = 0 ∨ j.kind = 4 ∨ j.kind = 5) : j.blockPending = false := by
  unfold Job.blockPending
  rcases h with h | h | h <;> rw [h] <;> rfl

/-- The piece of a plain copy that comes next: up to the end of a sector of its destination. -/
def plainPiece (j : Job) : CopyPiece :=
  { off := j.done, src := uv j.w1 + j.done, dst := uv j.w2 + j.done, n := min (uv j.w3 - j.done) (32 - (uv j.w2 + j.done) % 32) }

theorem runEnd_plain : runEnd j.done [plainPiece j] = j.done + (plainPiece j).n := Nat.max_eq_right (Nat.le_add_right ..)

variable (h0 : j.kind = 0)
include h0

theorem total_plain : j.total = uv j.w3 := by
  unfold Job.total
  rw [h0]
  rfl
theorem badIndex_plain (d : Nat) : badIndex j d = false := by
  unfold badIndex
  rw [h0]
  split <;> rfl
theorem arrived_plain (d : Nat) : j.arrived d = none := by
  unfold Job.arrived
  rw [h0]
  rfl
theorem piece_plain (d : Nat) : j.piece d = (uv j.w1 + d, uv j.w2 + d, min (uv j.w3 - d) (32 - (uv j.w2 + d) % 32)) := by
  unfold Job.piece
  rw [h0]
  rfl
theorem sourceCore_plain (src : Nat) : sourceCore s core j src = .ok core := if_neg (by omega)
theorem jobLanded_plain : jobLanded j = j := if_neg (by omega)

/-- The run of a plain copy is one piece: behind it the job or the sector ends. -/
theorem nextRun_plain (hd : j.done < uv j.w3) : j.nextRun j.done = [plainPiece j] := by
  have hstop (f : Nat) : j.run ((uv j.w2 + j.done) / 32) f (j.done + (plainPiece j).n) = [] := by
    cases f with
    | zero => rfl
    | succ f =>
      refine if_pos ?_
      rw [total_plain h0, piece_plain h0]
      by_cases hend : uv j.w3 ≤ j.done + (plainPiece j).n
      · simp [hend]
      · have hsector : (uv j.w2 + (j.done + (plainPiece j).n)) / 32 ≠ (uv j.w2 + j.done) / 32 := by
          simp only [plainPiece] at hend ⊢
          omega
        simp [hsector]
  unfold Job.nextRun
  rw [piece_plain h0, Job.run, piece_plain h0, arrived_plain h0, total_plain h0, badIndex_plain h0, if_neg (by simpa using hd)]
  exact congrArg (plainPiece j :: ·) (hstop 31)

variable (hd : j.done < uv j.w3)
include hd

theorem transferJob_plain_moved {i : Nat} {s1 : State} (h : copyRun s core j [plainPiece j] = (.done s1, 0)) :
    transferJob s core i j = deliver s1 core i { j with done := j.done + (plainPiece j).n } 0 := by
  unfold transferJob
  rw [badIndex_plain h0, if_neg Bool.false_ne_true, nextRun_plain h0 hd]
  dsimp only
  rw [h, ← runEnd_plain]
theorem transferJob_plain_held {i : Nat} {s1 : State} (h : copyRun s core j [plainPiece j] = (.idle s1, 0)) :
    transferJob s core i j = s1 := by
  unfold transferJob
  rw [badIndex_plain h0, if_neg Bool.false_ne_true, nextRun_plain h0 hd]
  dsimp only
  rw [h]
theorem transferJob_plain_unread {i : Nat} {e : AccFault} (hr : engPieces s core .read
    (sectorsOf (plainPiece j).src (plainPiece j).n ((plainPiece j).n + 1)) = .error e) :
    transferJob s core i j = jobFault s core i j e.1 e.2 j.done := by
  unfold transferJob
  rw [badIndex_plain h0, if_neg Bool.false_ne_true, nextRun_plain h0 hd]
  dsimp only
  rw [copyRun_fault (copyPiece_unread (by omega) (sourceCore_plain h0 _) hr)]
  rfl

end Plain

/-! ## The events of a channel -/

section Events
variable {s : State} {core : Nat} {ch : BitVec 2} {j : Job} (hjobs : (s.core core).jobs = [j]) (hch : j.channel = ch.toNat)
  (hsusp : j.susp = none)
include hjobs hch

theorem copyEvents_frozen (hf : coreFrozen s core = true) :
    ∀ e ∈ [Instr.parameterBlockRead core ch, .copyJobStart core ch, .copyTransfer core ch, .copyJobComplete core ch], exec e s = .next s
      := by
  intro e he
  simp only [List.mem_cons, List.not_mem_nil, or_false] at he
  rcases he with rfl | rfl | rfl | rfl
  all_goals exact onHead_frozen hjobs hch hf _

include hsusp
variable (hf : coreFrozen s core = false)
include hf

theorem exec_parameterBlockRead {ps : List Piece} (hk : 1 ≤ j.kind ∧ j.kind ≤ 3) (hb : j.block = none)
    (hr : engPieces s core .read (sectorsOf j.w3.toNat 64 3) = .ok ps)
    (hopen : heldAt s (copySender core ch.toNat) (piecesDecks s core ps) = [])
      (hgood : blockBad j (.ofNat 512 (readPieces s.mem ps)) = false) :
    ∃ t, exec (.parameterBlockRead core ch) s = .next t ∧ (t.core core).jobs = [{ j with block := some (.ofNat 512 (readPieces s.mem ps)) }]
      ∧ t.mem = s.mem := by
  have hp : j.blockPending = true := by simp [Job.blockPending, hk, hb]
  rw [← hch] at hopen
  have hexec : exec (.parameterBlockRead core ch) s = .next (setJob (countPieces (dropHeld s (copySender core j.channel)) core false ps)
    core 0
      { j with block := some (.ofNat 512 (readPieces s.mem ps)), susp := none }) := by
    refine (onHead_runs hjobs hch hsusp hf _).trans (congrArg _ ((if_pos hp).trans ?_))
    unfold readBlock
    rw [hr]
    dsimp only
    rw [engAccess_open hopen]
    dsimp only
    rw [hgood, if_neg Bool.false_ne_true]
  refine ⟨_, hexec, ?_, ?_⟩
  · rw [jobs_setJob (j := j) (by rw [countPieces_core]; exact hjobs), ← hsusp]
  · exact countPieces_mem ..

theorem exec_copyJobStart_flat (hk : j.kind = 0 ∨ j.kind = 4 ∨ j.kind = 5) (hs : j.started = false) :
    ∃ t, exec (.copyJobStart core ch) s = .next t ∧ (t.core core).jobs = [{ j with started := true, idx := [] }] ∧ t.mem = s.mem := by
  have hmay : mayStart s core 0 j = true := by simp [mayStart, hs, blockPending_flat hk]
  have hopen : heldAt s (copySender core j.channel) (piecesDecks s core []) = [] := rfl
  have hexec : exec (.copyJobStart core ch) s = .next (setJob (dropHeld s (copySender core j.channel)) core 0
      { j with started := true, idx := [], susp := none }) := by
    refine (onHead_runs hjobs hch hsusp hf _).trans (congrArg _ ((if_pos hmay).trans ?_))
    unfold startJob
    extract_lets n va
    have hn : n = 0 := by
      unfold n
      split
      · exact if_neg (by omega)
      · rfl
    clear_value n
    subst hn
    rw [show sectorsOf va (4 * 0) (4 * 0 + 1) = [] from rfl, engPieces]
    dsimp only
    rw [engAccess_open hopen]
    rfl
  refine ⟨_, hexec, ?_, rfl⟩
  rw [jobs_setJob (s := dropHeld s _) (j := j) hjobs, ← hsusp]

theorem exec_copyTransfer_started (hs : j.started = true) (hd : j.done < j.total) :
    exec (.copyTransfer core ch) s = .next (transferJob s core 0 j) := by
  refine (onHead_runs hjobs hch hsusp hf _).trans (congrArg _ (if_pos ?_))
  rw [hs, decide_eq_true hd]
  rfl

end Events

end Sys2Proof.Proofs
end

section
/-!
PROOFS. What a transfer of a plain copy leaves, its faults, and the completion of a job (R279, R280, R284, R286, R393).
-/

namespace Sys2Proof.Proofs
open Sys2Proof Sys2Proof.Machine Sys2Proof.Claim

/-- The state after a run of one piece that has moved. -/
def runMoved (s : State) (core reader : Nat) (j : Job) (p : CopyPiece) (rs ws : List Piece) : State :=
  clearCovered (pieceMoved s core j.channel reader rs ws) core [p]

theorem runMoved_mem (s : State) (core reader : Nat) (j : Job) (p : CopyPiece) (rs ws : List Piece) :
    (runMoved s core reader j p rs ws).mem = (writePieces s ws (readPieces s.mem rs)).mem := by
  obtain ⟨poison, h⟩ := clearCovered_spec (pieceMoved s core j.channel reader rs ws) core [p]
  rw [runMoved, h]
  exact pieceMoved_mem ..
theorem runMoved_core (s : State) (core reader : Nat) (j : Job) (p : CopyPiece) (rs ws : List Piece) (k : Nat) :
    (runMoved s core reader j p rs ws).core k = s.core k := by
  obtain ⟨poison, h⟩ := clearCovered_spec (pieceMoved s core j.channel reader rs ws) core [p]
  rw [runMoved, h]
  exact pieceMoved_core ..

/-- A count that advances is that of the channel alone. -/
theorem advanced_cpwp (v : Vector Word 4) (ch : BitVec 2) (a : Word) (c : Fin 4) :
    (Vector.upd v ch.toNat (Vector.nth (n := 3) v ch.toNat + a))[c] = if c.val = ch.toNat then v[c] + a else v[c] := by
  rw [getElem_upd]
  split
  · rename_i h
    have hnth : Vector.nth (n := 3) v ch.toNat = v[c] := by
      rw [← h]
      exact dif_pos c.isLt
    rw [hnth]
  · rfl

section Events
variable {s : State} {core : Nat} {ch : BitVec 2} {j : Job} (hjobs : (s.core core).jobs = [j]) (hch : j.channel = ch.toNat)
  (hsusp : j.susp = none) (hf : coreFrozen s core = false)
include hjobs hch hsusp hf

section Transfer
variable {rs ws : List Piece} (h0 : j.kind = 0) (hs : j.started = true) (hd : j.done < uv j.w3)
include h0 hs hd

theorem exec_copyTransfer_plain : exec (.copyTransfer core ch) s = .next (transferJob s core 0 j) :=
  exec_copyTransfer_started hjobs hch hsusp hf hs (by rwa [total_plain h0])

theorem copyTransfer_faults {c : Byte} {v : Word}
    (hr : engPieces s core .read (sectorsOf (plainPiece j).src (plainPiece j).n ((plainPiece j).n + 1)) = .error (c, v)) :
    (c.toNat / 32 = 4 → ∃ t x, exec (.copyTransfer core ch) s = .next t ∧ (t.core core).jobs = [{ j with susp := some x }] ∧ x.cause = c
      ∧ x.va = v ∧ x.since = s.reft.toNat ∧ t.mem = s.mem)
    ∧ (c.toNat / 32 ≠ 4 → exec (.copyTransfer core ch) s = .next (failJob s core 0 j c.toNat)) := by
  have hexec : exec (.copyTransfer core ch) s = .next (jobFault s core 0 j c v j.done) :=
    (exec_copyTransfer_plain hjobs hch hsusp hf h0 hs hd).trans (congrArg _ (transferJob_plain_unread h0 hd hr))
  refine ⟨fun hc => ?_, fun hc => hexec.trans (congrArg _ (jobFault_ends 0 hc))⟩
  obtain ⟨hjob, hmem⟩ := jobFault_suspends (va := v) (off := j.done) hjobs hc (since := s.reft.toNat) (by rw [hsusp])
  exact ⟨_, _, hexec, hjob, rfl, rfl, rfl, hmem⟩

variable (hr : engPieces s core .read (sectorsOf (plainPiece j).src (plainPiece j).n ((plainPiece j).n + 1)) = .ok rs)
  (hw : engPieces s core .write (sectorsOf (plainPiece j).dst (plainPiece j).n ((plainPiece j).n + 1)) = .ok ws)
include hr hw

theorem copyTransfer_held (hheld : heldAt s (copySender core ch.toNat) (piecesDecks s core (rs ++ ws)) ≠ []) :
    exec (.copyTransfer core ch) s =
      .next (noteHeld s (copySender core ch.toNat) (heldAt s (copySender core ch.toNat) (piecesDecks s core (rs ++ ws)))) := by
  rw [← hch] at hheld ⊢
  have hrun := copyRun_held hheld (copyPiece_held (off := j.done) (by omega) (by omega) (sourceCore_plain h0 _) hr hw hheld)
  exact (exec_copyTransfer_plain hjobs hch hsusp hf h0 hs hd).trans (congrArg _ (transferJob_plain_held h0 hd hrun))

theorem copyTransfer_moves (hopen : heldAt s (copySender core ch.toNat) (piecesDecks s core (rs ++ ws)) = []) :
    ∃ t, exec (.copyTransfer core ch) s = .next t ∧ t.mem = (writePieces s ws (readPieces s.mem rs)).mem
      ∧ (t.core core).jobs = [{ j with done := j.done + (plainPiece j).n }]
      ∧ ((s.core core).launch = some j.launch → ∀ c : Fin 4, (t.core core).cpwp[c] =
          if c.val = ch.toNat then (s.core core).cpwp[c] + .ofNat 64 (plainPiece j).n else (s.core core).cpwp[c]) := by
  rw [← hch] at hopen
  have hrun := copyRun_done (p := plainPiece j) (copyPiece_moves (off := j.done) (by omega) (by omega) (sourceCore_plain h0 _) hr hw hopen)
  have hcore := runMoved_core s core core j (plainPiece j) rs ws core
  obtain ⟨hmem, hjob, hcount⟩ := deliver_spec (u := runMoved s core core j (plainPiece j) rs ws) (core := core) (j0 := j)
    (j := { j with done := j.done + (plainPiece j).n }) (j1 := { j with done := j.done + (plainPiece j).n })
    (by rw [hcore]; exact hjobs) (jobLanded_plain h0) hsusp
  refine ⟨_, (exec_copyTransfer_plain hjobs hch hsusp hf h0 hs hd).trans (congrArg _ (transferJob_plain_moved h0 hd hrun)),
    hmem.trans (runMoved_mem ..), hjob, fun hl c => ?_⟩
  have hcount := hcount (by rw [hcore]; exact hl)
  rw [hcore, Nat.add_sub_cancel_left] at hcount
  have hchan : Job.channel { j with done := j.done + (plainPiece j).n } = ch.toNat := hch
  rw [hchan] at hcount
  exact (congrArg (fun v : Vector Word 4 => v[c]) hcount).trans (advanced_cpwp ..)

end Transfer

/-! ## Completion (R279) -/

theorem copyJobComplete_delivered (hs : j.started = true) (hd : j.total ≤ j.done) : ∃ t, exec (.copyJobComplete core ch) s = .next t
    ∧ (t.core core).jobs = [] ∧ t.mem = s.mem ∧ t.decrs = s.decrs ++ (if j.noctr then [] else [{ jobDecr core j with id := s.sent }]) := by
  have hgo : (j.started && decide (j.total ≤ j.done)) = true := by rw [hs, decide_eq_true hd]; rfl
  have hflags (k : Nat) (c : Bool) (u : State) (hu : u = if c then setFlags (dropJob s core 0) k j.flags else dropJob s core 0) :
      (u.core core).jobs = [] ∧ u.mem = s.mem ∧ u.decrs = s.decrs ∧ u.sent = s.sent := by
    subst hu
    cases c with
    | true => exact ⟨jobs_dropJob hjobs, rfl, rfl, rfl⟩
    | false => exact ⟨jobs_dropJob hjobs, rfl, rfl, rfl⟩
  refine ⟨_, (onHead_runs hjobs hch hsusp hf _).trans (congrArg _ (if_pos hgo)), ?_⟩
  obtain ⟨hjob, hmem, hdecrs, hsent⟩ := hflags _ _ _ rfl
  dsimp only
  split
  · exact ⟨hjob, hmem, by rw [hdecrs, List.append_nil]⟩
  · exact ⟨hjob, hmem, by rw [State.sendDecr, hdecrs, hsent]⟩

end Events

end Sys2Proof.Proofs
end

section
/-!
PROOFS. A row of a gather that arrives by itself (R261, R268, R284).
-/

namespace Sys2Proof.Proofs
open Sys2Proof Sys2Proof.Machine Sys2Proof.Claim

/-! ## A row of a gather (R261, R284) -/

/-- The first group of pieces begins with the first piece. -/
theorem bySector_cons (p : CopyPiece) (r : List CopyPiece) : ∃ g gs, bySector (p :: r) = (p :: g) :: gs := by
  unfold bySector
  split
  · split
    · exact ⟨_, _, rfl⟩
    · exact ⟨_, _, rfl⟩
  · exact ⟨_, _, rfl⟩

section Gather
variable {s : State} {core owner : Nat} {ch : BitVec 2} {j : Job} {b : V512} (hjobs : (s.core core).jobs = [j])

theorem arriveRuns_fault {i rb : Nat} {j : Job} {g : List CopyPiece} {gs : List (List CopyPiece)} {c : Byte} {va : Word} {off : Nat}
    (hjob : (s.core core).jobs[i]? = some j) (h : copyRun s core j g = (.fault c va off, 0)) :
    arriveRuns s core i rb (g :: gs) = jobFault s core i j c va off := by
  rw [arriveRuns, hjob]
  dsimp only
  rw [h]
theorem arriveRuns_held {i rb : Nat} {j : Job} {g : List CopyPiece} {gs : List (List CopyPiece)} {s1 : State}
    (hjob : (s.core core).jobs[i]? = some j) (h : copyRun s core j g = (.idle s1, 0)) : arriveRuns s core i rb (g :: gs) = s1 := by
  rw [arriveRuns, hjob]
  dsimp only
  rw [h]
/-- The last piece of a row brings the row in. -/
theorem arriveRuns_last {i rb : Nat} {j : Job} {p : CopyPiece} {s1 : State} (hjob : (s.core core).jobs[i]? = some j)
    (h : copyRun s core j [p] = (.done s1, 0)) (hlast : (p.off + p.n) % rb = 0) :
    arriveRuns s core i rb [[p]] = deliver s1 core i { j with rows := j.rows ++ [p.off / rb] } 0 := by
  rw [arriveRuns, hjob]
  dsimp only
  rw [h]
  dsimp only
  rw [List.filterMap_cons, if_pos hlast]
  exact arriveRuns.eq_1 ..

theorem sourceCore_gather (h2 : j.kind = 2) (src : Nat) : sourceCore s core j src = destCore s core src := if_pos h2
theorem ownerRows_first {rb : Nat} (hd : j.done = 0) (hrows : j.rows = []) (howner : rowOwner s core j 0 rb = owner) :
    ownerRows s core j owner rb 1 = [0] := by
  have h1 : List.range 1 = [0] := rfl
  simp [ownerRows, h1, howner, hrows, hd]
/-- One row arrives by its pieces, and no bad row comes behind it. -/
theorem arriveRows_first {rb : Nat} (hbad : badIndex j 0 = false) : arriveRows s core 0 j rb [0] =
    arriveRuns s core 0 rb (bySector (j.rowFrom 0 rb rb 0)) := by
  have hgood : [0].takeWhile (fun r => !(badIndex j (r * rb))) = [0] := by
    simp [hbad]
  unfold arriveRows
  rw [hgood]
  dsimp only
  rw [List.flatMap_cons, List.flatMap_nil, List.append_nil]
  split
  · exact if_neg (by simp)
  · rfl

theorem rowFrom_first {rb k : Nat} (hk : rb = k + 1) : j.rowFrom 0 rb rb 0 =
    { off := 0, src := (j.piece 0).1, dst := (j.piece 0).2.1, n := (j.piece 0).2.2 } :: j.rowFrom 0 rb k (j.piece 0).2.2 := by
  subst hk
  rw [Job.rowFrom, if_neg (by omega)]
  simp only [Nat.zero_mul, Nat.zero_add]

variable (h2 : j.kind = 2) (hb : j.block = some b) (hrow : 0 < blkRowb b)

include h2 hb hrow in
theorem piece_gather : j.piece 0 = (uv j.w1 + j.idx.getD 0 0 * blkRowb b, uv j.w2,
    min (blkRowb b) (min (32 - uv j.w2 % 32) (32 - (uv j.w1 + j.idx.getD 0 0 * blkRowb b) % 32))) := by
  have hmax : max 1 (blkRowb b) = blkRowb b := Nat.max_eq_right hrow
  unfold Job.piece
  rw [h2, hb]
  simp only [hmax, Nat.zero_div, Nat.zero_mod, Nat.zero_mul, Nat.add_zero, Nat.sub_zero]
  rfl

variable (hd : j.done = 0) (hrows : j.rows = []) (hbad : badIndex j 0 = false)

include hjobs h2 hb hd hrows hbad
theorem exec_gatherRowsArrive_first (hch : j.channel = ch.toNat) (hsusp : j.susp = none) (hf : coreFrozen s core = false)
    (hs : j.started = true) (hcount : blkCount b = 1) (howner : rowOwner s core j 0 (blkRowb b) = owner) :
    exec (.gatherRowsArrive core ch owner) s =
      .next (arriveRuns s core 0 (blkRowb b) (bySector (j.rowFrom 0 (blkRowb b) (blkRowb b) 0))) := by
  refine (onHead_runs hjobs hch hsusp hf _).trans (congrArg _ ?_)
  rw [h2, hb]
  refine (if_pos hs).trans ?_
  rw [hcount, ownerRows_first hd hrows howner, arriveRows_first hbad]

include hrow in
/-- A row whose owner is no core of the context faults in its first piece (R261). -/
theorem gatherRowsArrive_unowned (hch : j.channel = ch.toNat) (hsusp : j.susp = none) (hf : coreFrozen s core = false)
    (hs : j.started = true) (hcount : blkCount b = 1) {c : Byte} (hdest : destCore s core (j.piece 0).1 = .error c) :
    exec (.gatherRowsArrive core ch core) s = .next (jobFault s core 0 j c (.ofNat 64 (j.piece 0).1) 0) := by
  have howner : rowOwner s core j 0 (blkRowb b) = core := by
    rw [rowOwner, Nat.zero_mul, sourceCore_gather h2, hdest]
  refine (exec_gatherRowsArrive_first hjobs h2 hb hd hrows hbad hch hsusp hf hs hcount howner).trans (congrArg _ ?_)
  obtain ⟨k, hk⟩ := Nat.exists_eq_succ_of_ne_zero hrow.ne'
  obtain ⟨g, gs, hg⟩ := bySector_cons { off := 0, src := (j.piece 0).1, dst := (j.piece 0).2.1, n := (j.piece 0).2.2 }
    (j.rowFrom 0 (blkRowb b) k (j.piece 0).2.2)
  have hjob : (s.core core).jobs[0]? = some j := by rw [hjobs]; rfl
  rw [rowFrom_first hk, hg]
  exact arriveRuns_fault hjob (copyRun_fault (copyPiece_unowned (by rw [sourceCore_gather h2]; exact hdest)))

/-- A row that lies in one sector on both sides is one piece. -/
def rowPiece (j : Job) (b : V512) : CopyPiece :=
  { off := 0, src := uv j.w1 + j.idx.getD 0 0 * blkRowb b, dst := uv j.w2, n := blkRowb b }

omit hjobs hd hrows hbad in
include hrow in
theorem rowFrom_sector (hsrc : (rowPiece j b).src % 32 + blkRowb b ≤ 32) (hdst : (rowPiece j b).dst % 32 + blkRowb b ≤ 32) :
    j.rowFrom 0 (blkRowb b) (blkRowb b) 0 = [rowPiece j b] := by
  obtain ⟨k, hk⟩ := Nat.exists_eq_succ_of_ne_zero hrow.ne'
  have hn : min (blkRowb b) (min (32 - uv j.w2 % 32) (32 - (uv j.w1 + j.idx.getD 0 0 * blkRowb b) % 32)) = blkRowb b := by
    simp only [rowPiece] at hsrc hdst
    omega
  have hend : j.rowFrom 0 (blkRowb b) k (blkRowb b) = [] := by
    cases k with
    | zero => rfl
    | succ k => exact if_pos (Nat.le_refl _)
  rw [rowFrom_first hk, piece_gather h2 hb hrow, hn, hend]
  rfl

omit hjobs hbad in
/-- A row that has come in at its turn lands at once. -/
theorem jobLanded_row : jobLanded { j with rows := j.rows ++ [0] } = { j with done := blkRowb b } := by
  have hrowb : jobRowb { j with rows := j.rows ++ [0] } = blkRowb b := by
    unfold jobRowb
    rw [show Job.kind { j with rows := j.rows ++ [0] } = 2 from h2, show Job.block { j with rows := j.rows ++ [0] } = some b from hb]
    rfl
  unfold jobLanded
  rw [if_pos (show Job.kind { j with rows := j.rows ++ [0] } = 2 from h2), hrowb]
  simp [passRows, hrows, hd]

section Sector
variable (hch : j.channel = ch.toNat) (hsusp : j.susp = none) (hf : coreFrozen s core = false)
  (hs : j.started = true) (hcount : blkCount b = 1) (hsrc : (rowPiece j b).src % 32 + blkRowb b ≤ 32)
  (hdst : (rowPiece j b).dst % 32 + blkRowb b ≤ 32) (hdest : destCore s core (rowPiece j b).src = .ok owner) {rs ws : List Piece}
  (hr : engPieces s core .read [((rowPiece j b).src, blkRowb b)] = .ok rs)
    (hw : engPieces s core .write [((rowPiece j b).dst, blkRowb b)] = .ok ws)
include hch hsusp hf hs hcount hrow hsrc hdst hdest

theorem exec_gatherRowsArrive_sector : exec (.gatherRowsArrive core ch owner) s = .next
    (arriveRuns s core 0 (blkRowb b) [[rowPiece j b]]) := by
  have howner : rowOwner s core j 0 (blkRowb b) = owner := by
    rw [rowOwner, Nat.zero_mul, sourceCore_gather h2, piece_gather h2 hb hrow]
    dsimp only
    rw [show destCore s core (uv j.w1 + j.idx.getD 0 0 * blkRowb b) = .ok owner from hdest]
  rw [exec_gatherRowsArrive_first hjobs h2 hb hd hrows hbad hch hsusp hf hs hcount howner, rowFrom_sector h2 hb hrow hsrc hdst]
  rfl

include hr hw

theorem gatherRowsArrive_held (hheld : heldAt s (copySender core ch.toNat) (piecesDecks s core (rs ++ ws)) ≠ []) :
    exec (.gatherRowsArrive core ch owner) s =
      .next (noteHeld s (copySender core ch.toNat) (heldAt s (copySender core ch.toNat) (piecesDecks s core (rs ++ ws)))) := by
  rw [← sectorsOf_one hrow.ne' hsrc (blkRowb b)] at hr
  rw [← sectorsOf_one hrow.ne' hdst (blkRowb b)] at hw
  have hjob : (s.core core).jobs[0]? = some j := by rw [hjobs]; rfl
  refine (exec_gatherRowsArrive_sector hjobs h2 hb hrow hd hrows hbad hch hsusp hf hs hcount hsrc hdst hdest).trans (congrArg _ ?_)
  rw [← hch] at hheld ⊢
  exact arriveRuns_held hjob (copyRun_held hheld
    (copyPiece_held (off := 0) (by omega) (by omega) ((sourceCore_gather h2 _).trans hdest) hr hw hheld))

theorem gatherRowsArrive_moves (hopen : heldAt s (copySender core ch.toNat) (piecesDecks s core (rs ++ ws)) = []) :
    ∃ t, exec (.gatherRowsArrive core ch owner) s = .next t ∧ t.mem = (writePieces s ws (readPieces s.mem rs)).mem
      ∧ (t.core core).jobs = [{ j with done := blkRowb b }] := by
  rw [← sectorsOf_one hrow.ne' hsrc (blkRowb b)] at hr
  rw [← sectorsOf_one hrow.ne' hdst (blkRowb b)] at hw
  have hjob : (s.core core).jobs[0]? = some j := by rw [hjobs]; rfl
  rw [← hch] at hopen
  have hrun := copyRun_done (p := rowPiece j b)
    (copyPiece_moves (off := 0) (by omega) (by omega) ((sourceCore_gather h2 _).trans hdest) hr hw hopen)
  have hlast : ((rowPiece j b).off + (rowPiece j b).n) % blkRowb b = 0 := by simp [rowPiece]
  have hrow0 : (rowPiece j b).off / blkRowb b = 0 := Nat.zero_div _
  have harrive := arriveRuns_last hjob hrun hlast
  rw [hrow0] at harrive
  obtain ⟨hmem, hdone, -⟩ := deliver_spec (u := runMoved s core owner j (rowPiece j b) rs ws) (core := core) (j0 := j)
    (by rw [runMoved_core]; exact hjobs) (jobLanded_row h2 hb hd hrows) hsusp
  exact ⟨_, (exec_gatherRowsArrive_sector hjobs h2 hb hrow hd hrows hbad hch hsusp hf hs hcount hsrc hdst hdest).trans (congrArg _ harrive),
    hmem.trans (runMoved_mem ..), hdone⟩

end Sector
end Gather

end Sys2Proof.Proofs
end

section
/-!
PROOFS. Suspended accesses of copy jobs and of the reconstruction unit, and the statement of copy jobs (R311, R393, R415, R419).
-/

namespace Sys2Proof.Proofs
open Sys2Proof Sys2Proof.Machine Sys2Proof.Claim

/-! ## Suspended accesses (R393, R419) -/

/-- A try is due, in the numbers of R393. -/
theorem retryDue_iff {x : Susp} {now : Nat} : x.retryDue now = true ↔ x.due = true ∨ x.lastTry + 10 ^ 6 ≤ now := by
  rw [Susp.retryDue, Bool.or_eq_true, decide_eq_true_iff, retryTicks]
theorem expired_iff {x : Susp} {now : Nat} : x.expired now = true ↔ x.since + 10 ^ 9 ≤ now := by
  rw [Susp.expired, decide_eq_true_iff, expiryTicks]

section Suspended
variable {s : State} {core : Nat} {ch : BitVec 2} {j : Job} {x : Susp} (hjobs : (s.core core).jobs = [j]) (hch : j.channel = ch.toNat)
  (hx : j.susp = some x)
include hjobs hch hx

theorem exec_copyRetry : exec (.engineFaultRetry (.copy core ch)) s =
    .next (if x.retryDue s.reft.toNat && !(coreFrozen s core) then jobStep s core 0 j else s) := by
  refine congrArg Host.Outcome.next ?_
  unfold retryCopy
  rw [headJob_one hjobs hch]
  dsimp only
  rw [hx]

/-- Whether the last try of a job has met a fault at the address of the suspended access again. -/
def faultAgain (s s1 : State) (core : Nat) (x y : Susp) : Bool :=
  y.lastTry = s.reft.toNat && y.since = x.since && (s1.core core).jobs.length = (s.core core).jobs.length

theorem exec_copyExpiry : exec (.engineFaultExpiry (.copy core ch)) s =
    .next (if x.expired s.reft.toNat && !(coreFrozen s core) then
        match (((jobStep s core 0 j).core core).jobs[0]?).bind (fun j1 => j1.susp) with
        | some y => if faultAgain s (jobStep s core 0 j) core x y then failJob s core 0 j y.cause.toNat else jobStep s core 0 j
        | none => jobStep s core 0 j
      else s) := by
  refine congrArg Host.Outcome.next ?_
  unfold expireCopy
  rw [headJob_one hjobs hch]
  dsimp only
  rw [hx]
  rfl

theorem copyFaults_frozen (hf : coreFrozen s core = true) :
    ∀ e ∈ [Instr.engineFaultRetry (.copy core ch), .engineFaultExpiry (.copy core ch)], exec e s = .next s := by
  intro e he
  rcases List.mem_pair.mp he with rfl | rfl
  · rw [exec_copyRetry hjobs hch hx, hf, Bool.not_true, Bool.and_false, if_neg Bool.false_ne_true]
  · rw [exec_copyExpiry hjobs hch hx, hf, Bool.not_true, Bool.and_false, if_neg Bool.false_ne_true]

variable (hf : coreFrozen s core = false)
include hf

theorem copyRetry_due (hdue : x.due = true ∨ x.lastTry + 10 ^ 6 ≤ s.reft.toNat) :
    exec (.engineFaultRetry (.copy core ch)) s = .next (jobStep s core 0 j) := by
  rw [exec_copyRetry hjobs hch hx, hf, retryDue_iff.mpr hdue]
  rfl
omit hf in
theorem copyRetry_early (hdue : x.due = false) (hlast : s.reft.toNat < x.lastTry + 10 ^ 6) :
    exec (.engineFaultRetry (.copy core ch)) s = .next s := by
  have h : x.retryDue s.reft.toNat = false := Bool.eq_false_iff.mpr fun h => by
    rcases retryDue_iff.mp h with h | h
    · rw [hdue] at h
      exact nomatch h
    · omega
  rw [exec_copyRetry hjobs hch hx, h, Bool.false_and, if_neg Bool.false_ne_true]
omit hf in
theorem copyExpiry_early (hsince : s.reft.toNat < x.since + 10 ^ 9) : exec (.engineFaultExpiry (.copy core ch)) s = .next s := by
  have h : x.expired s.reft.toNat = false := Bool.eq_false_iff.mpr fun h => by
    have := expired_iff.mp h
    omega
  rw [exec_copyExpiry hjobs hch hx, h, Bool.false_and, if_neg Bool.false_ne_true]

variable (hexp : x.since + 10 ^ 9 ≤ s.reft.toNat)
include hexp

theorem exec_copyExpiry_expired : exec (.engineFaultExpiry (.copy core ch)) s =
    .next (match (((jobStep s core 0 j).core core).jobs[0]?).bind (fun j1 => j1.susp) with
      | some y => if faultAgain s (jobStep s core 0 j) core x y then failJob s core 0 j y.cause.toNat else jobStep s core 0 j
      | none => jobStep s core 0 j) := by
  rw [exec_copyExpiry hjobs hch hx, hf, expired_iff.mpr hexp]
  rfl
theorem copyExpiry_again {j1 : Job} {y : Susp} (hjobs1 : ((jobStep s core 0 j).core core).jobs = [j1]) (hy : j1.susp = some y)
    (hlast : y.lastTry = s.reft.toNat) (hsince : y.since = x.since) :
    exec (.engineFaultExpiry (.copy core ch)) s = .next (failJob s core 0 j y.cause.toNat) := by
  have hagain : faultAgain s (jobStep s core 0 j) core x y = true := by simp [faultAgain, hlast, hsince, hjobs1, hjobs]
  have hsome : (((jobStep s core 0 j).core core).jobs[0]?).bind (fun j1 => j1.susp) = some y := by rw [hjobs1]; exact hy
  rw [exec_copyExpiry_expired hjobs hch hx hf hexp, hsome]
  exact congrArg _ (if_pos hagain)
/-- A last try that lets the job go on, or that a boundary holds, decides. -/
theorem copyExpiry_over (hlen : ((jobStep s core 0 j).core core).jobs.length ≤ 1)
    (hover : ∀ j1 y, ((jobStep s core 0 j).core core).jobs = [j1] → j1.susp = some y → y.lastTry = s.reft.toNat → y.since ≠ x.since) :
    exec (.engineFaultExpiry (.copy core ch)) s = .next (jobStep s core 0 j) := by
  rw [exec_copyExpiry_expired hjobs hch hx hf hexp]
  refine congrArg _ ?_
  split
  · rename_i y hy
    obtain ⟨j1, hj1, hy⟩ := Option.bind_eq_some_iff.mp hy
    have hjobs1 : ((jobStep s core 0 j).core core).jobs = [j1] := by
      match h : ((jobStep s core 0 j).core core).jobs with
      | [] => rw [h] at hj1; exact nomatch hj1
      | [_] => rw [h] at hj1; exact congrArg (fun k => [k]) (Option.some.inj hj1)
      | _ :: _ :: _ => rw [h] at hlen; exact absurd hlen (by simp)
    refine if_neg fun h => ?_
    simp only [faultAgain, Bool.and_eq_true, decide_eq_true_eq] at h
    obtain ⟨⟨hlast, hsince⟩, -⟩ := h
    exact hover j1 y hjobs1 hy hlast hsince
  · rfl

end Suspended

/-- The step of a plain copy that has started is its transfer, suspended or not. -/
theorem jobStep_plain {s : State} {core i : Nat} {j : Job} (h0 : j.kind = 0) (hs : j.started = true) (hd : j.done < uv j.w3) :
    jobStep s core i j = transferJob s core i j := by
  unfold jobStep
  rw [blockPending_flat (.inl h0), if_neg Bool.false_ne_true, hs, if_neg (by decide)]
  split
  · dsimp only
    rw [h0]
    rfl
  · rw [total_plain h0, if_pos hd]

/-- The retry of a plain copy whose source faults again keeps the time of a fault at the same address, and starts that of another. -/
theorem copyRetry_faults {s : State} {core : Nat} {ch : BitVec 2} {j : Job} {x : Susp} (hjobs : (s.core core).jobs = [j])
    (hch : j.channel = ch.toNat) (hx : j.susp = some x) (hf : coreFrozen s core = false)
    (hdue : x.due = true ∨ x.lastTry + 10 ^ 6 ≤ s.reft.toNat) (h0 : j.kind = 0) (hs : j.started = true) (hd : j.done < uv j.w3)
    {e : Byte} {v : Word} (he : e.toNat / 32 = 4)
    (hr : engPieces s core .read (sectorsOf (plainPiece j).src (plainPiece j).n ((plainPiece j).n + 1)) = .error (e, v)) :
    ∃ t y, exec (.engineFaultRetry (.copy core ch)) s = .next t ∧ (t.core core).jobs = [{ j with susp := some y }] ∧ y.cause = e
      ∧ y.va = v ∧ y.lastTry = s.reft.toNat ∧ y.due = false ∧ y.since = (if v = x.va then x.since else s.reft.toNat) := by
  have hstep : jobStep s core 0 j = jobFault s core 0 j e v j.done := (jobStep_plain h0 hs hd).trans (transferJob_plain_unread h0 hd hr)
  obtain ⟨hjob, -⟩ := jobFault_suspends (va := v) (off := j.done) hjobs he (since := if v = x.va then x.since else s.reft.toNat)
    (by rw [hx])
  exact ⟨_, _, (copyRetry_due hjobs hch hx hf hdue).trans (congrArg _ hstep), hjob, rfl, rfl, rfl, rfl, rfl⟩

/-! ## The suspended access of the reconstruction unit (R311, R393) -/

section Recon
variable {s : State} {l st : Nat} {c : Cov} {x : Susp} (hlook : Tbl.look s.covs (stageKey l st) = some c) (hx : c.susp = some x)
include hlook hx

theorem reconRetry_due (hdue : x.due = true ∨ x.lastTry + 10 ^ 6 ≤ s.reft.toNat) :
    exec (.engineFaultRetry (.recon l st)) s = .next (reconStep s l st c) := by
  change execEngineFaultRetry (.recon l st) s = _
  unfold execEngineFaultRetry
  dsimp only
  rw [hlook]
  dsimp only
  rw [hx]
  exact congrArg _ (if_pos (retryDue_iff.mpr hdue))
theorem reconExpiry_again {e : Nat × Nat × Nat} {r : List (Nat × Nat × Nat)} {y : CellFault} (hdone : c.done = e :: r)
    (hexp : x.since + 10 ^ 9 ≤ s.reft.toNat) (hblock : reconBlock s ((s.coresOf l st).headD 0) c e = .error y) (hva : y.1.2 = x.va) :
    exec (.engineFaultExpiry (.recon l st)) s = .next (covFault s l st c y.1.1 y.2) := by
  change execEngineFaultExpiry (.recon l st) s = _
  unfold execEngineFaultExpiry
  dsimp only
  rw [hlook]
  dsimp only
  rw [hx, hdone]
  dsimp only
  rw [if_pos (expired_iff.mpr hexp), hblock]
  exact congrArg _ (if_pos hva)

end Recon

/-- A copy job's suspended access, and that of the reconstruction unit: not tried while frozen, tried when due, decided when expired. -/
theorem suspendedAccesses : SuspendedAccesses := by
  intro s core ch j x l st c
  refine ⟨fun hjobs hch hx hf => copyFaults_frozen hjobs hch hx hf, fun hjobs hch hx hf => ?_,
    fun hlook hx => ⟨fun hdue => reconRetry_due hlook hx hdue,
      fun e r y hdone hexp hblock hva => reconExpiry_again hlook hx hdone hexp hblock hva⟩⟩
  refine ⟨fun hdue => copyRetry_due hjobs hch hx hf hdue, fun hdue hlast => copyRetry_early hjobs hch hx hdue hlast, fun hexp => ⟨?_, ?_⟩,
    fun hsince => copyExpiry_early hjobs hch hx hsince,
    fun e v hdue h0 hs hd he hr => copyRetry_faults hjobs hch hx hf hdue h0 hs hd he hr, onHead_suspended hjobs hch hx _⟩
  · rintro _ ⟨j1, y, hjobs1, hy, hlast, hsince, rfl⟩
    exact copyExpiry_again hjobs hch hx hf hexp hjobs1 hy hlast hsince
  · intro hnot hlen
    exact copyExpiry_over hjobs hch hx hf hexp hlen fun j1 y hjobs1 hy hlast hsince => hnot y.cause ⟨j1, y, hjobs1, hy, hlast, hsince, rfl⟩

/-- A channel's job: its block, its start, its transfers and their faults, its completion, and a row of a gather. -/
theorem copyJobsMove : CopyJobsMove := by
  intro s core ch j hjobs hch hsusp jobs held
  refine ⟨fun hf => copyEvents_frozen hjobs hch hf, fun hf => ⟨?block, ?start, ?move, ?fault, ?complete, ?row, ?unowned⟩⟩
  case block => exact fun ps h1 h3 hb hr hopen hgood => exec_parameterBlockRead hjobs hch hsusp hf ⟨h1, h3⟩ hb hr hopen hgood
  case start => exact fun hk hs => exec_copyJobStart_flat hjobs hch hsusp hf hk hs
  case move =>
    intro rs ws h0 hs hd src dst n hr hw
    exact ⟨fun hheld => copyTransfer_held hjobs hch hsusp hf h0 hs hd hr hw hheld,
      fun hopen => copyTransfer_moves hjobs hch hsusp hf h0 hs hd hr hw hopen⟩
  case fault => exact fun c v h0 hs hd hr => copyTransfer_faults hjobs hch hsusp hf h0 hs hd hr
  case complete => exact fun hs hd => copyJobComplete_delivered hjobs hch hsusp hf hs hd
  case row =>
    intro b owner rs ws h2 hs hb hcount hrow hd hrows hbad src dst hsrc hdst hdest hr hw
    exact ⟨fun hheld => gatherRowsArrive_held hjobs h2 hb hrow hd hrows hbad hch hsusp hf hs hcount hsrc hdst hdest hr hw hheld,
      fun hopen => gatherRowsArrive_moves hjobs h2 hb hrow hd hrows hbad hch hsusp hf hs hcount hsrc hdst hdest hr hw hopen⟩
  case unowned =>
    exact fun b c h2 hs hb hcount hrow hd hrows hbad hdest => gatherRowsArrive_unowned hjobs h2 hb hrow hd hrows hbad hch hsusp hf hs
      hcount hdest

/-- Settles O32: the events of a channel with one job, and suspended accesses. -/
theorem copyJobsRun : Obligations.CopyJobsRun := ⟨copyJobsMove, suspendedAccesses⟩

end Sys2Proof.Proofs
end
